-- ==== Sys2Proof/Word.lean ====
section
/-! DEFINITION. The words of the DN9-256 and their plainest arithmetic (spec/00_scope.md, Numbers and bits). -/

namespace Sys2Proof

/-- An 8-byte word: an x register, a memory word, a system register. -/
abbrev Word := BitVec 64

/-- One byte. -/
abbrev Byte := BitVec 8

/-- A byte address of the 48-bit spaces: a PC, a virtual or a physical address (R42, R115). -/
abbrev Addr := BitVec 48

/-- A 16-bit format tag (R145). -/
abbrev Tag := BitVec 16

/-- The 512 data bits of a vector register, or the 64 bytes of a fetch line. -/
abbrev Vec := BitVec 512

end Sys2Proof
end

