-- ==== Sys2Proof/Config.lean ====
section
/-! DEFINITION. What the part fixes (R7, R9, R10) and the free values: constants without a body, which
nothing in Lean can evaluate, for the values that the spec leaves open (notes/assumptions/6.md). -/

namespace Sys2Proof.Config

/-- Logical cores of the panel (R9). -/
abbrev cores : Nat := 8192

/-- Dies of the panel (R7). -/
abbrev dies : Nat := 256

/-- Clusters of the panel (R9). -/
abbrev clusters : Nat := 1024

/-- Memory bridges, one stack each (R7). -/
abbrev memBridges : Nat := 24

/-- Source number of die agent `d` (R10). -/
def srcDie (d : Nat) : Nat := 8192 + d

/-- Source number of memory bridge `b` (R10). -/
def srcMem (b : Nat) : Nat := 8448 + b

/-- Source number of host bridge `b` (R10). -/
def srcHost (b : Nat) : Nat := 8480 + b

/-- Source number of optical bridge `b` (R10). -/
def srcOpt (b : Nat) : Nat := 8488 + b

/-- Source number of the PCTL (R10). -/
def srcPctl : Nat := 0xFFFF

/-- Whether a tie of binary8 with P = 1, whose codes have no trailing significand (R150), goes up, by the
value's numerator and denominator. A free value (notes/assumptions/12.md). -/
opaque freeTie : Nat → Nat → Bool

/-- The full/empty bit that CPROM reads of a word of HBM, which has none. -/
opaque freeFe : Nat → Bool

/-- Which of two allowed values an overlapping copy reads (R257): the old one when true. A free value. -/
opaque freeOverlap : Nat → Bool

/-- The order in which the elements of a segment of an overlapping copy move (R257): the place of element `n`. A free value. -/
opaque freeOrder : Nat → Nat → Nat

/-- The bytes that the parts of a checkpoint image take for which the spec gives no size (R391): by the records in the
slots, the entries of the deque, of the wait table and of the sequence table. A free value. -/
opaque freeImage : List Nat → Nat

/-- The CRC of a checkpoint image's body, whose bytes have no layout in the spec (Table 15.11), and what else stands in words
without one. A free value. -/
opaque freeCrc : Nat → BitVec 32

/-- A byte of a save block's core state or parked-message ring, which have no layout in the spec (Table 13.6): by its address and a
counter. A free value. -/
opaque freeSaved : Nat → Nat → Byte

/-- What a broadcast delivers whose root has withdrawn (R422), by the member words and the root: its lanes, and its tag. A free value. -/
opaque freeVec : List Word → Nat → Nat → BitVec 512

end Sys2Proof.Config
end

