-- ==== Sys2Proof/Machine/Fmap.lean ====
section
/-! DEFINITION. Sparse maps from numbers, held as lists of pairs: what most of the panel's tables are. A
key that the list does not name has the value that the reader gives as the default. -/

namespace Sys2Proof.Machine

/-- A finite map from numbers (core, die and source numbers, context identities). -/
abbrev Fmap (α : Type) := List (Nat × α)

/-- The value at `k`, or `d` when the map does not name `k`. -/
def Fmap.get {α : Type} (d : α) : Fmap α → Nat → α
  | [], _ => d
  | (k', v) :: t, k => if k' = k then v else Fmap.get d t k

/-- The map with `v` at `k`; the place of a key that is already named does not change. -/
def Fmap.set {α : Type} : Fmap α → Nat → α → Fmap α
  | [], k, v => [(k, v)]
  | (k', v') :: t, k, v => if k' = k then (k, v) :: t else (k', v') :: Fmap.set t k v

/-- The map without `k`. -/
def Fmap.del {α : Type} (m : Fmap α) (k : Nat) : Fmap α := m.filter fun e => e.1 != k

/-- Whether the map names `k`. -/
def Fmap.has {α : Type} (m : Fmap α) (k : Nat) : Bool := m.any fun e => e.1 == k

/-- A sorted list of numbers with `k` in it: what marks of words are held as. -/
def Marks.ins : List Nat → Nat → List Nat
  | [], k => [k]
  | a :: t, k => if k < a then k :: a :: t else if k = a then a :: t else a :: Marks.ins t k

/-- The marks without `k`. -/
def Marks.del (l : List Nat) (k : Nat) : List Nat := l.filter (· != k)

/-- The marks with `k` in them exactly when `b`. -/
def Marks.put (l : List Nat) (k : Nat) (b : Bool) : List Nat := if b then Marks.ins l k else Marks.del l k

end Sys2Proof.Machine
end

