-- ==== Sys2Proof/Syntax.lean ====
section
/-! DEFINITION. The syntax: one constructor of `Instr` for each row of spec/opcode_table.json. The first
176 constructors are instructions of the 96-bit slot encoding; the others are the steps of the panel's
other agents, which have no encoding and name the agent that takes them. -/

namespace Sys2Proof

/-- The header guard of a slot (R53): guard `g`, executed when it is false if `neg`. -/
structure Guard where
  g   : Fin 16
  neg : Bool
  deriving DecidableEq, Repr

/-- The operand in the S2 position: a register, or the immediate when I = 1 (R56). -/
inductive Src where
  | reg (r : Fin 32)
  | imm (v : BitVec 32)
  deriving DecidableEq, Repr

/-- A scalar operation of two operands (R78); `w` selects the 32-bit form. -/
structure Alu where
  gd  : Guard
  w   : Bool
  d   : Fin 32
  s1  : Fin 32
  src : Src
  deriving DecidableEq, Repr

/-- A scalar operation of one operand (R78). -/
structure Un where
  gd : Guard
  w  : Bool
  d  : Fin 32
  s1 : Fin 32
  deriving DecidableEq, Repr

/-- Conditions of CMP (R64). -/
inductive Cond where
  | eq | ne | lt | ge | ltu | geu
  deriving DecidableEq, Repr

/-- Operand fields of a load, a store or a synchronising access (R217): `r` is the destination or the
data register, `size` the log2 of the bytes. -/
structure MemForm where
  gd   : Guard
  size : Fin 4
  r    : Fin 32
  base : Fin 32
  off  : Src
  deriving DecidableEq, Repr

/-- Operations of AMO (R224). -/
inductive AmoOp where
  | swap | add | and | or | xor | min | max | minu | maxu | cas | fadd | fmin | fmax
  deriving DecidableEq, Repr

/-- Rounding modes (R150). -/
inductive RMode where
  | rne | rtz | rup | rdn | sr
  deriving DecidableEq, Repr

/-- The second source of a vector command: a vector register, a broadcast x register, or a broadcast
immediate (R66). -/
inductive VSrc where
  | v (r : Fin 16)
  | x (r : Fin 32)
  | imm (i : BitVec 32)
  deriving DecidableEq, Repr

/-- A vector command of two sources with a rounding mode (R174). -/
structure VBin where
  gd   : Guard
  d    : Fin 16
  s1   : Fin 16
  src  : VSrc
  mode : RMode
  deriving DecidableEq, Repr

/-- A vector command of one source with a rounding mode (R174). -/
structure VUn where
  gd   : Guard
  d    : Fin 16
  s1   : Fin 16
  mode : RMode
  deriving DecidableEq, Repr

/-- Conditions of VCMP (R177). -/
inductive VCond where
  | eq | ne | lt | le | gt | ge | un
  deriving DecidableEq, Repr

/-- Destination of VCMP: a mask register, or a guard that is the any or the all of the lanes (R177). -/
inductive VCmpDst where
  | mask (d : Fin 16)
  | any (g : Fin 16)
  | all (g : Fin 16)
  deriving DecidableEq, Repr

/-- Operations of VRED (R182). -/
inductive RedOp where
  | sum | max | min | amax | amin
  deriving DecidableEq, Repr

/-- Destination of VRED (R182). -/
inductive RedDst where
  | v (d : Fin 16)
  | x (d : Fin 32)
  deriving DecidableEq, Repr

/-- Options of the MMA forms (R291). -/
structure MmaOpts where
  nega   : Bool
  negb   : Bool
  accdis : Bool
  deriving DecidableEq, Repr

/-- Operations of MROWRED and the group reduction (R297, R420). -/
inductive Red3 where
  | sum | max | min
  deriving DecidableEq, Repr

/-- The steps of the panel: one constructor for each row of the opcode table. -/
inductive Instr where
  -- control and system (Table 3.11)
  | nop (gd : Guard)
  | j (gd : Guard) (off : BitVec 40)
  | jal (gd : Guard) (d : Fin 32) (off : BitVec 40)
  | jr (gd : Guard) (s1 : Fin 32)
  | jalr (gd : Guard) (d s1 : Fin 32)
  | br (gd : Guard) (g2 : Fin 16) (off : BitVec 40)
  | brF (gd : Guard) (g2 : Fin 16) (off : BitVec 40)
  | loop (gd : Guard) (lv : Fin 2) (s1 : Fin 32) (off : BitVec 40)
  | loopi (gd : Guard) (lv : Fin 2) (cnt : BitVec 24) (off : BitVec 40)
  | loopx (gd : Guard) (lv : Fin 2) (d s1 st : Fin 32) (off : BitVec 40)
  | trap (gd : Guard) (code : BitVec 16)
  | brk (gd : Guard) (code : BitVec 16)
  | supcall (gd : Guard) (code : BitVec 16)
  | rdsys (gd : Guard) (d : Fin 32) (n : BitVec 12)
  | wrsys (gd : Guard) (n : BitVec 12) (s1 : Fin 32)
  | rdtime (gd : Guard) (d : Fin 32)
  | sleepuntil (gd : Guard) (s1 s2 : Fin 32)
  -- scalar integer (Table 3.12)
  | add (a : Alu) | sub (a : Alu) | and (a : Alu) | or (a : Alu) | xor (a : Alu)
  | sll (a : Alu) | srl (a : Alu) | sra (a : Alu) | slt (a : Alu) | sltu (a : Alu)
  | mul (a : Alu) | mulh (a : Alu) | mulhm (a : Alu) | mulhu (a : Alu)
  | div (a : Alu) | divu (a : Alu) | rem (a : Alu) | remu (a : Alu)
  | min (a : Alu) | max (a : Alu) | minu (a : Alu) | maxu (a : Alu)
  | clz (a : Un) | ctz (a : Un) | cpop (a : Un)
  | li (gd : Guard) (d : Fin 32) (imm : Word)
  | addpc (gd : Guard) (d : Fin 32) (off : BitVec 32)
  -- compares and guards (Table 3.13)
  | cmp (gd : Guard) (w : Bool) (c : Cond) (d : Fin 16) (s1 : Fin 32) (src : Src)
  | tst (gd : Guard) (z : Bool) (d : Fin 16) (s1 : Fin 32) (src : Src)
  | glog (gd : Guard) (d a b : Fin 16) (tbl : BitVec 4)
  | grd (gd : Guard) (d : Fin 32)
  | gwr (gd : Guard) (s1 : Fin 32) (mask : BitVec 16)
  -- tasks (Table 3.14)
  | fork (gd : Guard) (s1 j : Fin 32) (dom : Fin 8) (pri : Fin 4) (off : BitVec 40)
  | spawn (gd : Guard) (s1 t j : Fin 32) (dom : Fin 8) (pri : Fin 4) (off : BitVec 40)
  | joindec (gd : Guard) (s1 : Fin 32)
  | suspend (gd : Guard)
  | suspendJ (gd : Guard) (s1 : Fin 32)
  | await (gd : Guard) (s1 : Fin 32)
  | yield (gd : Guard)
  | exit (gd : Guard)
  | stealdom (gd : Guard) (src : Src)
  | getid (gd : Guard) (d : Fin 32) (sel : Fin 9)
  | waitev (gd : Guard) (d : Fin 32) (src : Src) (watch : Option (Fin 32))
  | sigev (gd : Guard) (s1 s2 : Fin 32)
  -- memory (Table 3.14)
  | ld (a : MemForm) | ldu (a : MemForm) | st (a : MemForm) | ldAcq (a : MemForm) | stRel (a : MemForm)
  | ldw (a : MemForm) | ldt (a : MemForm) | stf (a : MemForm) | stw (a : MemForm)
  | lrq (a : MemForm) | scq (a : MemForm) | relq (a : MemForm)
  | amo (gd : Guard) (w : Bool) (op : AmoOp) (aq rl : Bool) (d s1 : Fin 32) (src : Src) (s3 : Fin 32)
  | fence (gd : Guard) | fenceEng (gd : Guard) | fenceI (gd : Guard)
  -- vector (Table 3.15)
  | vadd (a : VBin) | vsub (a : VBin) | vmul (a : VBin)
  | vfma (a : VBin) (s3 : Fin 16)
  | vmin (a : VBin) | vmax (a : VBin) | vabs (a : VUn) | vneg (a : VUn)
  | vand (gd : Guard) (d s1 : Fin 16) (src : VSrc)
  | vor (gd : Guard) (d s1 : Fin 16) (src : VSrc)
  | vxor (gd : Guard) (d s1 : Fin 16) (src : VSrc)
  | vshl (gd : Guard) (d s1 : Fin 16) (src : VSrc)
  | vshr (gd : Guard) (lgc : Bool) (d s1 : Fin 16) (src : VSrc)
  | vcmp (gd : Guard) (c : VCond) (d : VCmpDst) (s1 : Fin 16) (src : VSrc)
  | vsel (gd : Guard) (d s1 s2 s3 : Fin 16)
  | vperm (gd : Guard) (d s1 s2 : Fin 16)
  | vslide (gd : Guard) (d s1 : Fin 16) (src : Src)
  | vbcast (gd : Guard) (d : Fin 16) (src : Src) (mode : RMode)
  | vmovx (gd : Guard) (d : Fin 32) (s1 : Fin 16) (src : Src)
  | vins (gd : Guard) (d s1 : Fin 16) (src : Src) (s3 : Fin 32)
  | vred (gd : Guard) (op : RedOp) (mode : RMode) (d : RedDst) (s1 : Fin 16) (m : Option (Fin 16))
  | vsettag (gd : Guard) (d s1 : Fin 16) (src : Src)
  | vgettag (gd : Guard) (d : Fin 32) (s1 : Fin 16)
  | vcvt (gd : Guard) (mode : RMode) (part : Fin 4) (d s1 : Fin 16) (tag : Tag)
  | vqnt (gd : Guard) (mode : RMode) (d s1 : Fin 16) (s3 : Fin 32) (tag : Tag)
  | vdqnt (gd : Guard) (mode : RMode) (d s1 : Fin 16) (s2 : Fin 32) (tag : Tag)
  | vld (gd : Guard) (d : Fin 16) (s1 : Fin 32) (off : BitVec 32) (tag : Tag)
  | vst (gd : Guard) (s3 : Fin 16) (s1 : Fin 32) (off : BitVec 32)
  | vlds (gd : Guard) (d : Fin 16) (s1 s2 : Fin 32) (tag : Tag)
  | vsts (gd : Guard) (s3 : Fin 16) (s1 s2 : Fin 32)
  | vldx (gd : Guard) (d : Fin 16) (s1 : Fin 32) (s2 : Fin 16) (tag : Tag)
  | vstx (gd : Guard) (s3 : Fin 16) (s1 : Fin 32) (s2 : Fin 16)
  -- queues, custom opcodes, bounds and counters (Table 3.15)
  | qbind (gd : Guard) (d s1 s2 : Fin 32)
  | qfree (gd : Guard) (d : Fin 32)
  | qstat (gd : Guard) (d s1 : Fin 32)
  | vqpop (gd : Guard) (d : Fin 16) (s1 : Fin 32)
  | vqpush (gd : Guard) (s3 : Fin 16) (s1 : Fin 32)
  | vsend (gd : Guard) (s3 : Fin 16) (s1 : Fin 32) (wtag : Tag) (imm : BitVec 32)
  | amcall (gd : Guard) (s1 s2 : Fin 32) (kind : BitVec 8) (len : BitVec 9)
  | cxop (gd : Guard) (mode : RMode) (d s1 s2 s3 : Fin 16) (n : BitVec 8) (sc : Fin 32)
  | cxload (gd : Guard) (s1 : Fin 32)
  | cxdrop (gd : Guard) (s1 : Fin 32)
  | cxqry (gd : Guard) (d s1 : Fin 32)
  | cxtbl (gd : Guard) (s1 s2 : Fin 32)
  | bndset (gd : Guard) (k : Fin 16) (clr : Bool) (mode : BitVec 2) (s1 : Fin 32)
  | bndget (gd : Guard) (d : Fin 32) (k : Fin 16) (sel : Bool)
  | cntrd (gd : Guard) (d : Fin 32) (k h : Fin 4) (j : Fin 8)
  | cntclr (gd : Guard) (k h : Fin 4) (j : Fin 8)
  -- matrix, copy and publish (Table 3.16)
  | mshld (gd : Guard) (d : Fin 8) (s1 : Fin 32) (off : BitVec 32)
  | mma (gd : Guard) (d sa sb : Fin 8) (o : MmaOpts)
  | mmaSp (gd : Guard) (d sa sb : Fin 8) (o : MmaOpts) (s1 : Fin 32) (spn : Fin 3)
  | mmaGa (gd : Guard) (d sa sb : Fin 8) (o : MmaOpts) (s2 : Fin 16) (mg : Fin 4)
  | mmaSpga (gd : Guard) (d sa sb : Fin 8) (o : MmaOpts) (s1 : Fin 32) (spn : Fin 3) (s2 : Fin 16) (mg : Fin 4)
  | mzero (gd : Guard) (d : Fin 8) (tag : Tag)
  | mld (gd : Guard) (d sa : Fin 8) (tag : Tag)
  | mst (gd : Guard) (mode : RMode) (s3 sa : Fin 8)
  | mrowred (gd : Guard) (op : Red3) (mode : RMode) (part : Bool) (nc : BitVec 5) (d : Fin 16) (s1 : Fin 8)
  | mcnt (gd : Guard) (clr : Bool) (d : Fin 32) (s1 : Fin 8)
  | copy (gd : Guard) (d s1 : Fin 32)
  | copym (gd : Guard) (d s1 : Fin 32)
  | cprom (gd : Guard) (d s1 : Fin 32)
  | hcfg (gd : Guard) (s1 s2 : Fin 32)
  | publish (gd : Guard) (s1 : Fin 32)
  | publishF (gd : Guard) (s1 : Fin 32)
  | hsub (gd : Guard) (s1 s2 : Fin 32)
  | hunsub (gd : Guard) (s1 s2 : Fin 32)
  | hver (gd : Guard) (d s1 : Fin 32)
  | stopref (gd : Guard) (s1 : Fin 32)
  | stoprefAt (gd : Guard) (s1 s2 : Fin 32)
  | refchk (gd : Guard) (d : Fin 16) (s1 : Fin 32)
  | settle (gd : Guard) (s1 : Fin 32) (set nh : BitVec 8)
  | settlew (gd : Guard) (d s1 : Fin 32) (set nh : BitVec 8)
  -- die (Table 3.16)
  | launch (gd : Guard) (d s1 : Fin 32)
  | deal (gd : Guard) (d s1 : Fin 32)
  | ringget (gd : Guard) (d : Fin 32) (gm : Fin 16) (s1 : Fin 32)
  | ringput (gd : Guard) (s3 s1 : Fin 32)
  | govset (gd : Guard) (d s1 s2 : Fin 32)
  | preempt (gd : Guard) (d s1 : Fin 32)
  | resume (gd : Guard) (d s1 : Fin 32)
  | rdhmap (gd : Guard) (d s1 : Fin 32)
  | rdlpt (gd : Guard) (d s1 : Fin 32) (half : Bool)
  | quiesce (gd : Guard) (d : Fin 32)
  -- panel (Table 3.16)
  | barset (gd : Guard) (d : Fin 4) (s1 : Fin 32)
  | bararr (gd : Guard) (s1 : Fin 4)
  | barwait (gd : Guard) (d : Fin 16) (s1 : Fin 4) (cycles : BitVec 32)
  | barwaitF (gd : Guard) (s1 : Fin 4) (cycles : BitVec 32)
  | barwd (gd : Guard) (s1 : Fin 4)
  | chkpt (gd : Guard) (d s1 : Fin 32)
  | tlbinv (gd : Guard) (s1 s2 : Fin 32) (scope : Fin 4)
  | rmapsetRemap (gd : Guard) (d s1 s2 : Fin 32)
  | rmapsetMarkDead (gd : Guard) (d s1 s2 : Fin 32)
  | rmapsetClearDead (gd : Guard) (d s1 s2 : Fin 32)
  -- groups and fabric (Table 3.16)
  | grpjoin (gd : Guard) (d s1 s2 : Fin 32)
  | grpleave (gd : Guard) (s1 : Fin 32)
  | grpred (gd : Guard) (op : Red3) (d : Fin 16) (s1 : Fin 32) (s2 : Fin 16)
  | grpbc (gd : Guard) (d : Fin 16) (s1 : Fin 32) (s2 : Fin 16) (root : BitVec 8)
  | grpbar (gd : Guard) (s1 : Fin 32)
  | fremap (gd : Guard) (d s1 s2 : Fin 32)
  -- steps of the threads' hardware
  | sleepTimeReached (core slot : Nat)
  | lineFetch (core slot : Nat)
  | localPop (core slot : Nat)
  | recordLoad (core slot : Nat)
  | stealSearch (core : Nat)
  | stealRequest (core : Nat)
  | stealResponse (core : Nat)
  | stealRetryWait (core : Nat)
  | dequePush (core : Nat)
  | dequePushRetry (agent k : Nat)
  | responseReturn (core k : Nat)
  | postedCreditReturn (core : Nat)
  | postedRetryResend (core k : Nat)
  | parkedRingRetryResend (core k : Nat)
  -- built-in handlers
  | loadHandler (core : Nat)
  | storeHandler (core : Nat)
  | atomicHandler (core : Nat)
  | ldwHandler (core : Nat)
  | ldtHandler (core : Nat)
  | stfHandler (core : Nat)
  | stwHandler (core : Nat)
  | lrqHandler (core : Nat)
  | scqHandler (core : Nat)
  | relqHandler (core : Nat)
  | awaitRegistration (core : Nat)
  | joinArming (core : Nat)
  | joinDecrement (core : Nat)
  | armingEnd (core : Nat)
  | controlWordTransition (agent : Nat)
  | refire (agent : Nat)
  | eventSignal (core : Nat)
  | publishHome (core : Nat)
  | hsubHome (core : Nat)
  | hunsubHome (core : Nat)
  | hverHome (core : Nat)
  | stoprefHome (core : Nat)
  | refchkHome (core : Nat)
  | hcfgHome (core : Nat)
  | ringReservation (core : Nat)
  | ringPush (core : Nat)
  | ringCredit (core : Nat)
  | pageOwnerWrite (core : Nat)
  | debugWindowAccess (core : Nat)
  | dbgctlResume (core : Nat)
  | dbgctlSingleStep (core : Nat)
  | dbgctlRetire (core : Nat)
  | dbgctlReleaseSupcall (core : Nat)
  | dbgctlInvalidCommand (core : Nat)
  | rlcmdLoad (core : Nat)
  | rlcmdDrop (core : Nat)
  | registerWrite (agent : Nat)
  | controlSpaceAccess (agent : Nat)
  | programHandler (core : Nat)
  | faultPacketReceive (agent : Nat)
  -- engines
  | vectorCommandStart (core : Nat)
  | vectorResultWrite (core : Nat)
  | reedResult (core : Nat)
  | cxloadInstall (core : Nat)
  | matrixGrant (cluster : Nat)
  | matrixGrantEnd (cluster : Nat)
  | matrixCommandComplete (core : Nat)
  | matrixQueueHeadExecute (core : Nat)
  | cmuFailure (cluster : Nat)
  | copyCommandStart (core : Nat)
  | copySegmentEnd (core : Nat)
  | copyComplete (core : Nat)
  | combineRequest (core : Nat)
  | combineWindowClose (cluster k : Nat)
  | bankFailed (core bank : Nat)
  | hbmAccess (bridge : Nat)
  | hbmStackFailure (bridge : Nat) (channels : BitVec 32)
  -- translation
  | l2TlbLookup (core slot : Nat)
  | pageWalk (core slot : Nat)
  | tlbinvRequest (agent : Nat)
  -- sweeps, sets, dealing, stages
  | sweep
  | sweepResult
  | settleArm
  | cardAcceptance (die : Nat)
  | dealChunk (die : Nat)
  | dealRequest (die : Nat)
  | dealHome (die : Nat)
  | dealerSlotReread (die : Nat)
  | dealerSlotRotation (die k : Nat)
  | govsetApply (die : Nat)
  | governorTick (die : Nat)
  | ringputHome (core : Nat)
  -- pre-emption
  | preemptStop (die : Nat)
  | preemptComplete
  | messageDivert (core : Nat)
  | contextRestore
  -- links, routes and the mesh
  | flitReplay (die link : Nat)
  | linkRetrain (die link : Nat)
  | linkRetrainEnd (die link : Nat)
  | linkDown (die link : Nat)
  | remapFenceStart (agent : Nat)
  | remapFenceEnd
  | messageAccept (agent k : Nat)
  -- Causeway
  | causewaySignal (core ch : Nat)
  | causewayRelease (core ch : Nat)
  | causewayReleasePass (core ch : Nat)
  | barwaitTimeout (core slot : Nat)
  -- checkpoints and containment
  | commitNotice (core : Nat)
  | checkpointRequest (core : Nat)
  | checkpointRequestRepeat (core : Nat)
  | containmentTrigger (core : Nat)
  | containmentHold (core : Nat)
  | spareSubstitution (core : Nat)
  | containmentRestore (core : Nat)
  | containmentReplay (core : Nat)
  | containmentLive (core : Nat)
  | dieAgentFailure (die : Nat)
  -- resets and the environment
  | powerOnReset (bad : List Nat)
  | warmReset (bad : List Nat)
  | environmentSample (inlet flow volt die : Nat)
  | thermalHold
  | thermalResume
  -- fabric
  | welkinFlitReplay (port : Nat)
  | welkinPortDown (port : Nat)
  | fabricHoldTimeout (agent k : Nat)
  | timeExchange (port panel hops : Nat) (their delay : Word)
  | ingressLookup (bridge k : Nat)
  | fabricFenceStart (agent : Nat)
  | fabricFenceEnd
  | groupMembershipRequest (core : Nat)
  | groupPartialArrival (core : Nat)
  | collectiveBoundary (core : Nat)
  | collectiveRelease (core : Nat)
  -- the host
  | rdmaWrite (qpn : Nat) (rkey : BitVec 32) (va : Word) (data : List Byte)
  | rdmaRead (qpn : Nat) (rkey : BitVec 32) (va : Word) (len : Nat)
  | rdmaSend (qpn : Nat) (data : List Byte)
  | rdmaUnsupported (qpn : Nat)
  | frameDrop (port : Nat)
  | managementFrame (data : List Byte)
  | ethernetLinkLoss (port : Nat)
  | hostBridgeFailure (bridge : Nat)
  | coreLogicCheck (core slot : Nat)
  | neighbourLinkWord (core : Nat)
  | neighbourLinkCredit (core : Nat)
  | checkpointTransfer (core : Nat)
  | welkinPortRetrain (port : Nat)
  | welkinRetrainEnd (port : Nat)
  | gtbSlew
  deriving DecidableEq, Repr

end Sys2Proof
end

