-- ==== Sys2Proof/Machine/State.lean ====
section
/-! DEFINITION. The state of the panel: every piece of state that the spec names, as plain data
(INVENTORY.md, State). Tables of agents are sparse: an agent that a table does not list is as it is after
reset. -/

namespace Sys2Proof.Machine

/-! ## Threads -/

/-- Counts of arithmetic events (R167): saturations, NaNs, bound-set overflows, bound hits. -/
structure Counts where
  sat : Nat := 0
  nan : Nat := 0
  bso : Nat := 0
  bnd : Nat := 0
  deriving DecidableEq, Repr

/-- Worker slot states (Table 2.1). -/
inductive SState where
  | idle | running | parked | frozen | saved
  deriving DecidableEq, Repr

/-- Park conditions (Table 2.9). -/
inductive Park where
  | none | marker | guard | qEmpty | qFull | home | events | sleep | reqSlot | engQueue | supcall
  | response | fence | barrier | group | quiesce | chkpt | cxSlot | posted | heldPublish
  deriving DecidableEq, Repr

/-- The queue that produces a variable-latency result (R51). -/
inductive Producer where
  | vector | matrix | copy | path
  deriving DecidableEq, Repr

/-- The pending mark of a register: how many results are on their way, and from where; none when `n` is 0. -/
structure Pend where
  prod : Producer := .path
  n    : Nat := 0
  deriving DecidableEq, Repr

/-- A loop level (R91): `idx` is the index register of a LOOPX level. -/
structure Loop where
  active : Bool := false
  count  : BitVec 32 := 0
  init   : BitVec 32 := 0
  start  : Addr := 0
  endpc  : Addr := 0
  idx    : Option (Fin 32) := none
  step   : Word := 0
  deriving DecidableEq, Repr

/-- A queue endpoint (Table 5.6); `ringC` and `ringP` name the descriptor by its physical address. -/
inductive Endpoint where
  | link (side : Fin 4)
  | pqF (q : Fin 4)
  | pqR (q : Fin 4)
  | ringC (desc : Nat)
  | ringP (desc : Nat)
  deriving DecidableEq, Repr

/-- A binding of one of x24-x31 (R189); `rsv` counts the reserved ring slots a producer holds. -/
structure Bind where
  ep   : Endpoint
  push : Bool
  pf   : Bool
  tag  : Tag
  rsv  : Nat
  deriving DecidableEq, Repr

/-- What a fault carries: cause, extra information, fault address (R240). -/
structure Cause where
  cause : Nat
  info  : Word := 0
  faddr : Word := 0
  deriving DecidableEq, Repr

/-- How the issue of an instruction ended; the model's own bookkeeping (log 1): go on in sequence; go on
at a target; park with the instruction to be issued again when the condition clears; park until an answer
comes; stop running; a precise fault. -/
inductive Ctl where
  | seq
  | jump (pc : Addr)
  | retry (p : Park)
  | wait (p : Park)
  /-- not issued until the line of a transfer's target has been read (R45) -/
  | line (pc : Addr)
  | stop
  | fault (c : Cause)
  deriving DecidableEq, Repr

/-- The issue in progress or parked (log 1): the slot that executes, the first slot of the pair, the last
one, whether a switch marker ends it. -/
structure Issue where
  b     : Addr := 0
  first : Addr := 0
  last  : Addr := 0
  swm   : Bool := false
  /-- the target of a transfer in the second slot of a pair whose first slot waits -/
  taken : Option Addr := none
  /-- where sequential flow goes on behind the body that a loop instruction of count 0 skips -/
  next  : Option Addr := none
  deriving DecidableEq, Repr

/-- Atomic read-modify-write, synchronising and plain accesses as they apply at a home (R218, R221, R224). -/
inductive MemOp where
  | load (n : Nat)
  | store (data : List Byte)
  | amo (w : Bool) (op : AmoOp) (b c : Word)
  | ldw | ldt | lrq | relq
  | stf (v : Word) | stw (v : Word) | scq (v : Word)
  /-- the full/empty bit, read by SLEEPUNTIL, which then waits on the word; by CPROM, as a plain load -/
  | readFe
  | peekFe
  /-- a line: 64 bytes, with the cause of every word that is no good -/
  | fetch
  deriving DecidableEq, Repr

/-- How a suspension writes its record back (R99). -/
inductive Susp where
  | suspend | suspendJ (jw : Nat) | await (wa : Nat) | yield | exit
  deriving DecidableEq, Repr

/-- Operations on a handle at its home (Table 11.8). -/
inductive HandleOp where
  | hcfg (r0 r1 : Word)
  | publish (final : Bool)
  | hsub (va : Word)
  | hunsub (va : Word)
  | hver (x4 : Word)
  | stopref (at_ : Option (BitVec 32)) (x4 : Word)
  | refchk
  deriving DecidableEq, Repr

/-- Transitions of a record's control word at its home (Table 2.5). -/
inductive CtlOp where
  /-- a worker slot of core `lcn` loads the record -/
  | load (lcn slot : Nat)
  /-- a wake by a fill or a join release; the push goes to core `lcn` -/
  | wake (lcn : Nat)
  /-- a publish re-fire with version and FINAL; `lcn` is the handle's home -/
  | refire (v : BitVec 32) (final : Bool) (lcn : Nat)
  /-- the write-back of a suspension: PC, FP, A0-A3 and the new state; `armed` says that a wait was registered -/
  | back (pc : Addr) (regs : List Word) (k : Susp) (armed : Bool)
  /-- a retire through the debug window -/
  | retire
  deriving DecidableEq, Repr

/-- Which collective a member issues (R422, R423): a reduction with its operation and tag, a broadcast with its
root, a barrier. -/
inductive CollOp where
  | red (op : Red3) (tag : Tag)
  | bc (root : Nat)
  | bar
  deriving DecidableEq, Repr

/-- Requests to a group's anchor (R420-R422): joins with the area's slice offset, leaves, collectives; `who` is the
issuing core's context and packed CCN, as context * 2^16 + CCN. -/
inductive GroupOp where
  | join (who : Nat) (area : Word)
  | leave (who : Nat)
  | coll (who : Nat)
  deriving DecidableEq, Repr

/-- A partial result, or a result on its way down, of the collective of a group (R422): the group's panel and physical
address, the member words of the generation, the sender's and the receiver's index, the collective, whether
every issue below agreed on it, the tag and the lanes (none where a lane is empty); `wd` when every member below has
withdrawn. -/
structure GPart where
  key  : Nat
  tab  : List Word
  from_ : Nat
  to_  : Nat
  op   : CollOp
  ok   : Bool
  wd   : Bool
  tag  : Tag
  vals : List (Option Nat)
  deriving DecidableEq, Repr

/-- What the answer to a request does at the core that sent it. -/
inductive Cont where
  /-- a datum for x[d], `n` bytes of it, sign-extended or not; whether the access is an acquire -/
  | load (d : Fin 32) (n : Nat) (signed acq : Bool)
  /-- nothing but that the access is performed -/
  | done
  | amo (d : Fin 32) (w acq : Bool)
  /-- LDW, LDT, STW: x[d] if named; the parked thread goes on -/
  | sync (d : Option (Fin 32))
  | lrq (d : Fin 32)
  /-- the completion word of SLEEPUNTIL filled; `hit` says that the miss count met its threshold -/
  | sleep (hit : Bool) (a : Word)
  | settled (d : Fin 32)
  /-- FORK and SPAWN: the record is written; then pushed to `dest` -/
  | forked (ra : Word) (dest : Nat) (ctrl : Word)
  | pushed
  /-- the JOIN field of a record that exits -/
  | exitJoin
  /-- JOINDEC or the decrement of EXIT -/
  | joinDec (exit : Bool)
  /-- arming or registration of a suspension answered; the record is written back next -/
  | armed (k : Susp)
  /-- the write-back was performed -/
  | backed (k : Susp) (armed : Bool)
  | armEnded
  /-- a stolen record, a dealt record -/
  | stolen
  | dealt
  | recordLoaded (slot : Nat) (ra : Word)
  | line (va : Word)
  /-- a sector of a graph load on another panel -/
  | graph (va : Nat)
  /-- a vector memory element or block of the command at the queue's head -/
  | velem (i : Nat)
  | ringReserved (d : Fin 32) (b : Bind)
  | hcfgRead (name : Nat)
  | handle (d : Option (Fin 32)) (g : Option (Fin 16))
  | amcall (dest : Nat) (kind : Nat) (len : Nat)
  | copyRec (d : Fin 32) (multi : Bool) (ra : Word)
  /-- data of a copy's segment from another panel; the publish on completion of a copy -/
  | copyData
  /-- the record of a restored copy read again (R302); data of a combined fetch at the node of a cluster (R262) -/
  | copyAgain (ra : Word)
  | combData (cl : Nat)
  | copyPub
  /-- the record that the matrix command of this number loads -/
  | mshld (no : Nat)
  | cprom (d : Fin 32) (a : Word)
  | card (d : Fin 32) (ra : Word)
  | value (d : Fin 32)
  /-- a value for x[d] for which the thread parks -/
  | valueWait (d : Fin 32)
  | settleArm (w : Option (Fin 32)) (swa : Nat)
  | stage (d : Fin 32) (s : Nat)
  | stageGet (d : Fin 32) (gm : Fin 16)
  | wait
  | group (d : Option (Fin 32))
  | collective (d : Option (Fin 16))
  | chkptDesc (d : Fin 32)
  /-- the last message of a checkpoint's transfer was answered -/
  | chkptDone (d : Fin 32)
  deriving DecidableEq, Repr

/-- What an access of a thread needs of its page (R214). -/
inductive Perm where
  | r | w | rw | x
  deriving DecidableEq, Repr

/-- What an access in a thread's memory path does once its address is translated. -/
inductive PathOp where
  | mem (op : MemOp)
  | ctl (op : CtlOp)
  | joinDec
  | joinArm (rec : Word)
  | awaitReg (rec : Word)
  | handle (op : HandleOp)
  /-- a reservation of `n` slots; none for a consumer's binding -/
  | ringReserve (n : Nat) (tag : Tag)
  | stagePut (v : Word)
  | stageGet
  | group (op : GroupOp)
  deriving DecidableEq, Repr

/-- Where an access stands in its thread's memory path (R214): waiting for its translation (in the L1 TLB, at
the L2 TLB, at a walker), translated and waiting to be sent, or failed. -/
inductive PathSt where
  | queued | l2 | walk
  | ready (panel pa : Nat)
  | failed
  deriving DecidableEq, Repr

/-- A register or guard that awaits a result. -/
inductive Dst where
  | x (d : Fin 32)
  | v (d : Fin 16)
  | g (d : Fin 16)
  deriving DecidableEq, Repr

/-- An access in a thread's memory path. -/
structure Acc where
  va    : Word
  bytes : Nat
  perm  : Perm
  op    : PathOp
  apc   : Addr
  st    : PathSt := .queued
  cont  : Cont
  posted : Bool := false
  deriving DecidableEq, Repr

/-- An access of a thread that was sent and is not known to be performed (R216): its home, its channel
(4 for a local access) and the number of its request or posted write. -/
structure Out where
  home : Nat
  vc   : Nat
  id   : Nat
  deriving DecidableEq, Repr

/-- Registers of a slot (Table 2.2). -/
structure Regs where
  x    : Vector Word 32 := Vector.replicate 32 0
  v    : Vector Vec 16 := Vector.replicate 16 0
  vtag : Vector Tag 16 := Vector.replicate 16 0
  g    : Vector Bool 16 := Vector.replicate 16 false
  xp   : Vector Pend 32 := Vector.replicate 32 {}
  vp   : Vector Pend 16 := Vector.replicate 16 {}
  gp   : Vector Pend 16 := Vector.replicate 16 {}
  deriving DecidableEq, Repr

/-- An entry of a deque: a record's virtual address, its priority and its stealing domain. -/
structure DqEnt where
  record : Word
  pri : Nat
  dom : Nat
  deriving DecidableEq, Repr

/-- A worker slot, or the message thread as slot 15 (Table 2.2, Table 5.11). -/
structure Slot where
  state  : SState := .idle
  park   : Park := .none
  /-- the parked instruction is issued again when the condition clears -/
  again  : Bool := false
  pc     : Addr := 0
  regs   : Regs := {}
  loops  : Vector Loop 2 := Vector.replicate 2 {}
  ev     : BitVec 16 := 0
  /-- the mask of the WAITEV at which the thread is parked -/
  evMask : BitVec 16 := 0
  watch  : Option Nat := none
  binds  : Vector (Option Bind) 8 := Vector.replicate 8 none
  /-- the reservation held: panel and physical address of its word (R221) -/
  held   : Option Word := none
  /-- the barrier register of the BARWAIT at which the thread is parked, and its guard (none for BARWAIT.F) -/
  barw   : Option (Fin 4 × Option (Fin 16)) := none
  ctr    : Counts := {}
  lfsr   : BitVec 32 := 0
  /-- the running record's virtual address -/
  record : Option Word := none
  /-- the slot for which a parity error has sent its line to be read again (R44) -/
  reread : Option Addr := none
  /-- the target, on no line at hand, that the transfer at the PC tests before it executes (R45) -/
  want   : Option Addr := none
  /-- a target whose line could not be read: the transfer executes, and the thread faults at the target (R61) -/
  lost   : Option Addr := none
  /-- a record with RES = 0 was loaded and has not issued: the BTM test of R27 is still to be made -/
  fresh  : Bool := false
  pri    : Fin 4 := 0
  lastIssue : Option Nat := none
  /-- the GTB for which SLEEPUNTIL waits -/
  until_ : Word := 0
  /-- the time at which the BARWAIT at which the thread is parked times out -/
  barAt  : Option Nat := none
  /-- while SLEEPUNTIL waits for its time: the completion word that it reads then, if any -/
  nap    : Option (Option Word) := none
  path   : List Acc := []
  outst  : List Out := []
  acq    : Nat := 0
  engOut : Nat := 0
  ctl    : Ctl := .seq
  iss    : Issue := {}
  /-- registers whose deferred access was refused at a home (R241) -/
  refused : List Dst := []
  /-- results that returned to a push-bound register while its endpoint had no room (R191) -/
  late : List (Fin 32 × Word) := []
  /-- the payload that an AMCALL has read so far -/
  buf    : List Byte := []
  /-- the number of the first engine command for which a CNTRD or CNTCLR does not wait (R211) -/
  mark   : Option Nat := none
  /-- the record that the slot is to load: popped, stolen, or to be loaded again under R40 -/
  load   : Option DqEnt := none
  deriving DecidableEq, Repr

/-! ## Messages -/

/-- The answer to a request: cause 0 when it was served. -/
structure Resp where
  cause : Nat := 0
  info  : Word := 0
  w     : Word := 0
  data  : List Byte := []
  tag   : Tag := 0
  cnt   : Counts := {}
  /-- a NACK with a retry indication, or a containment indication -/
  retry : Bool := false
  /-- a victim or a dealer has nothing to give -/
  none_ : Bool := false
  deriving DecidableEq, Repr

/-- A fault packet (Table 8.8). -/
structure Packet where
  priv  : Nat
  ctx   : Nat
  lcn   : Nat
  eng   : Nat
  deff  : Bool
  frz   : Bool
  slot  : Nat
  cause : Nat
  pc    : Addr
  apc   : Addr
  faddr : Word
  info  : Word
  gtb   : Word
  src   : Nat
  fcnt  : Nat
  record : Word
  deriving DecidableEq, Repr

/-- Where an answer goes: the peer, its sequence number and channel; for one of another panel, the optical bridge at which the request
entered (R412). -/
structure Reply where
  panel : Nat
  src   : Nat
  seq   : Nat
  vc    : Nat
  ctx   : Nat
  via   : Option Nat
  deriving DecidableEq, Repr

/-- A job card at one die's dealer (R335-R341): its address and words, its context, the die's position, the
undealt range, the chunk count, the number of present cores, the launch it belongs to. -/
structure Card where
  va     : Word
  words  : List Word
  ctx    : Nat
  pos    : Nat
  lo     : Nat
  hi     : Nat
  c      : Nat := 0
  nd     : Nat
  launch : Nat
  order  : Nat := 0
  waved  : Bool := false
  wave   : List Nat := []
  since  : Nat := 0
  /-- the time at which a record slot that is still in use is read again (R337) -/
  reread : Option Nat := none
  /-- the core for which a chunk is being dealt, and whom to answer when it asked for it -/
  target : Option Nat := none
  asked  : Option Reply := none
  deriving DecidableEq, Repr

/-- What a sequence table holds of one peer (R380): next numbers expected and to send on VC 0 and VC 2, and those of the
searches for work, which have a count of their own. -/
structure SeqEnt where
  rx0 : Nat := 0
  rx2 : Nat := 0
  rxs : Nat := 0
  tx0 : Nat := 0
  tx2 : Nat := 0
  txs : Nat := 0
  deriving DecidableEq, Repr

/-- The payload of a message: what its KIND asks for. -/
inductive Body where
  /-- an access; `slot` and `apc` are the instruction's, which a refusal of a posted write names again -/
  | mem (pa : Nat) (op : MemOp) (slot : Nat) (apc : Addr)
  | ctl (pa : Nat) (va : Word) (op : CtlOp)
  | joinDec (pa : Nat)
  | joinArm (pa : Nat) (rec : Word)
  | awaitReg (pa : Nat) (rec : Word)
  | armEnd (pa : Nat) (rec : Word)
  | push (rec : Word) (pri dom : Nat)
  | steal (level : Nat)
  | sigev (slot : Nat) (mask : BitVec 16)
  /-- event 15 for the record that the slot was loading or running when a publish re-fired it (R272) -/
  | refired (slot : Nat) (va : Word)
  | handle (h : Nat) (op : HandleOp)
  | ringReserve (pa : Nat) (n : Nat) (tag : Tag) (slot : Nat)
  /-- a push from a producer binding (slot and register): words as they are, or the elements of a VSEND -/
  | ringPush (pa : Nat) (words : List Word) (wtag mtag : Tag) (raw : List Byte) (slot reg : Nat) (apc : Addr)
  /-- credits for popped words, from the home of the ring whose descriptor it names -/
  | ringCredit (desc slot reg : Nat) (n : Nat)
  | ringReturn (pa : Nat) (n : Nat)
  | linkWord (side : Fin 4) (w : Word)
  | linkCredit (side : Fin 4)
  | pageOwner (k : Nat) (v : Word)
  /-- a VSEND to a buffer: the addresses of its words, the index of its first element in its block -/
  | vsend (pas : List Nat) (wtag mtag : Tag) (data : List Byte) (skip : Nat) (slot : Nat) (apc : Addr)
  | ctlRead (pa : Nat)
  | ctlWrite (pa : Nat) (v : Word)
  | program (data : List Byte)
  | packet (p : Packet)
  | dealReq
  | deal (card : Word)
  /-- a LAUNCH at the issuer's die; a die's share of it (R336) -/
  | launch (va : Word) (words : List Word)
  | range (c : Card)
  | rdhmap
  | rdlpt (half : Bool)
  | govset (s : Nat) (en : Bool) (words : List Word)
  | stageGet (pa : Nat)
  | stagePut (pa : Nat) (v : Word)
  | settleArm (set nh : Nat) (swa : Nat)
  | quiesce
  | preempt (ctx : Nat)
  | resume (ctx : Nat)
  | tlbinv (a b : Word) (scope : Nat)
  | rmapset (op : Nat) (a b : Word)
  | fremap (p : Nat) (mask : BitVec 48)
  | group (pa : Nat) (op : GroupOp)
  /-- a partial result to a parent; the root's report to the anchor; a result to a child -/
  | groupPart (p : GPart)
  | groupReport (pa : Nat) (p : GPart)
  | groupDown (p : GPart)
  /-- core `lcn` has committed: what its sequence table holds of the peer, and the channels and numbers of its messages to the
  peer that are still open, as vc * 2^22 + number -/
  | commit (lcn : Nat) (e : SeqEnt) (open_ : List Nat)
  | checkpoint
  /-- a step of the checkpoint of a core: 0 the header made invalid, 1 the body, 2 the header -/
  | transfer (step lcn : Nat)
  /-- the answer to a request sent on channel `vc` (4: a local access) -/
  | resp (vc : Nat) (r : Resp)
  | credit
  /-- a refused posted write: 0 sent again after 256 cycles, 1 held under containment, 2 sent again after 4,096, 3 accepted but not
  applied: sent again under a new number after 256 cycles -/
  | credNack (why : Nat)
  /-- a payload that no agent of the panel formed, of a message from outside -/
  | raw (data : List Byte)
  deriving DecidableEq, Repr

/-- A message (Table 5.8). -/
structure Msg where
  dpanel : Nat := 0
  dest   : Nat
  spanel : Nat := 0
  src    : Nat
  vc     : Nat
  kind   : Nat
  wtag   : Tag := 0
  mtag   : Tag := 0
  len    : Nat := 0
  seq    : Nat := 0
  ctx    : Nat := 0
  /-- the receiver's mark: a posted write whose credit leaves when it applies (R117, R215) -/
  late   : Bool := false
  /-- the optical bridge at which a message of another panel entered (R412) -/
  via    : Option Nat := none
  body   : Body
  deriving DecidableEq, Repr

/-- A request that awaits its answer (R215): the thread or unit it belongs to, where it was sent. Local
accesses are held here too; they take no request slot. Unit 16 is the steal search, 17 the vector engine. -/
structure Req where
  id   : Nat
  slot : Nat
  apc  : Addr
  va   : Word := 0
  msg  : Msg
  cont : Cont
  /-- the time at which it is sent again, when a full parked-message ring refused it (R352) -/
  resend : Option Nat := none
  deriving DecidableEq, Repr

/-- A posted write whose credit has not returned (R358). -/
structure Posted where
  id   : Nat
  slot : Nat
  msg  : Msg
  /-- the time at which it is sent again, when it was NACKed; whether a full parked-message ring did -/
  resend : Option Nat := none
  ring : Bool := false
  /-- accepted, but not applied: it goes again under a new number -/
  again : Bool := false
  /-- a push whose first refusal was reported (R33) -/
  told : Bool := false
  deriving DecidableEq, Repr

/-- Still-water counters of one context (Table 13.3); STOUT is counted from the stores outstanding. -/
structure Still where
  sent : Word := 0
  rcvd : Word := 0
  iss  : Word := 0
  cmpl : Word := 0
  deriving DecidableEq, Repr

/-- A network interface (R131, R379, R380): accepted messages in order of acceptance, the sequence table
by peer, the answers it keeps, the messages it holds back. -/
structure Ni where
  inq    : List Msg := []
  seqs   : Fmap SeqEnt := []
  resps  : List Msg := []
  held   : List Msg := []
  /-- logical cores and panels toward which it injects nothing (R377, R417) -/
  fenced : List Nat := []
  fpanel : Option Nat := none
  /-- copies of posted writes whose credit has not returned (R358); the number of the next access -/
  posted : List Posted := []
  nextId : Nat := 0
  /-- still-water counts of a bridge by context (R343) -/
  sw     : Fmap Still := []
  deriving DecidableEq, Repr

/-- The memory of the panel (R115, R118, R384): bytes by physical address, and by word address the full
marks, the poison marks and the words whose check bits show a single or a double error (log 8). -/
structure Mem where
  bytes  : List Host.Cell := []
  fe     : List Nat := []
  psn    : List Nat := []
  single : List Nat := []
  double : List Nat := []
  deriving DecidableEq, Repr

/-! ## Cores -/

/-- A spilled entry (R125): the slice offset at which its word stands, which holds the record's address and its priority, and the
record's stealing domain, which the word does not hold (log 8). -/
structure SpillEnt where
  off : Nat
  dom : Nat
  deriving DecidableEq, Repr

/-- A deque (R32): hardware entries and spilled entries, newest first. -/
structure Deque where
  hw    : List DqEnt := []
  spill : List SpillEnt := []
  deriving DecidableEq, Repr

/-- A push that a full deque refused, sent again at a time (R33). -/
structure HeldPush where
  dest : Nat
  ent  : DqEnt
  at_  : Nat
  deriving DecidableEq, Repr

/-- The steal search of a core (R35, R36): `level` 1-4 while it runs, `asked` the victims asked at the
level, `wait` the time at which it begins again. -/
structure Steal where
  active : Bool := false
  dealt  : Bool := false
  level  : Nat := 1
  asked  : Nat := 0
  ptrs   : Vector Nat 5 := Vector.replicate 5 0
  wait   : Option Nat := none
  busy   : Bool := false
  /-- a record obtained for the first Idle slot -/
  got    : Option DqEnt := none
  deriving DecidableEq, Repr

/-- A handle table entry (Table 5.4, Table 10.2). -/
structure Handle where
  v       : Bool := false
  stop    : Bool := false
  final   : Bool := false
  pubb    : Bool := false
  offa    : BitVec 20 := 0
  offb    : BitVec 20 := 0
  size    : Nat := 0
  version : BitVec 32 := 0
  stopat  : BitVec 32 := 0
  ctx     : Nat := 0
  subs    : List (BitVec 42) := []
  pace    : Bool := false
  ssv     : Bool := false
  sset    : Nat := 0
  ack     : BitVec 8 := 0
  deriving DecidableEq, Repr

/-- What waits in a wait table (R123). -/
inductive WaitKind where
  | ldw (r : Reply)
  | ldt (r : Reply)
  | stw (r : Reply) (v : Word)
  | lrq (r : Reply) (lcn slot : Nat)
  | await (rec : Word) (ctx lcn : Nat) (arming : Bool) (fired : Bool)
  | holder (lcn slot : Nat)
  | handle (m : Msg)
  | stagePut (r : Reply) (v : Word)
  /-- a join word whose continuation is being written back; a release that came meanwhile waits for its end -/
  | arm (rec : Word) (held : Option Reply)
  /-- a collective's request whose core's join is staged -/
  | group (m : Msg)
  deriving DecidableEq, Repr

/-- A waiter: the physical address of its word, or the number of its handle. -/
structure Waiter where
  at_  : Nat
  kind : WaitKind
  deriving DecidableEq, Repr

/-- A word in a hardware FIFO, with the NI's mark of an unconverted word (R132). -/
structure QWord where
  w    : Word
  mark : Bool := false
  deriving DecidableEq, Repr

/-- A TLB entry (R133, R382): context, virtual page number (va / 64 KiB), whether the page is one of
128 MiB, the PTE, and the table page that held it. -/
structure TlbEnt where
  ctx   : Nat
  vpn   : Nat
  big   : Bool
  pte   : Word
  table : Nat
  deriving DecidableEq, Repr

/-- A line snapshot (R46). -/
structure Line where
  va   : Nat
  data : Vec
  /-- the causes with which its eight words were read, 8 bits each, 0 for a good word (R61) -/
  bad  : Nat := 0
  deriving DecidableEq, Repr

/-- The guard of an engine command (R55): its value, or the guard register whose pending result gives it,
with the sense of GN. -/
inductive CmdGuard where
  | known (b : Bool)
  | pend (g : Fin 16) (neg : Bool)
  deriving DecidableEq, Repr

/-- The result of a started vector command, waiting for its place in queue order (R170): the registers it writes,
the events it counts, the fault that it ends in instead of writing. -/
structure VResult where
  vds  : List (Fin 16 × Vec × Tag) := []
  xd   : Option (Fin 32 × Word) := none
  gd   : Option (Fin 16 × Bool) := none
  cnt  : Counts := {}
  flt  : Option Cause := none
  deriving DecidableEq, Repr

/-- An access of a vector memory command (R187, R194): its lane, its translated address, its bytes. -/
structure VElem where
  lane  : Nat
  va    : Word
  panel : Nat
  pa    : Nat
  len   : Nat
  deriving DecidableEq, Repr

/-- A command of the vector queue (R170): the instruction, the scalar operands captured at issue, the LFSR
at issue, the accesses of a memory command, the data it has gathered. -/
structure VCmd where
  slot : Nat
  /-- its number among the engine commands of its core -/
  no   : Nat := 0
  apc  : Addr
  gd   : CmdGuard
  op   : Instr
  xs   : List (Option Word) := []
  lfsr : BitVec 32 := 0
  cxslot : Nat := 0
  started : Bool := false
  /-- the accesses of a memory command that have not been sent, and whether one is out -/
  elems : List VElem := []
  data : List Byte := []
  busy : Bool := false
  res  : Option VResult := none
  flt  : Bool := false
  /-- after its fault the command is tried again at a resume, not discarded (R206) -/
  keep : Bool := false
  /-- a fault of its bound registers, found while its guard was pending (R55, R191) -/
  bad  : Option Cause := none
  deriving DecidableEq, Repr

/-- A graph of the Reed array (R196-R198). -/
structure Graph where
  opn    : Nat
  hdr    : Vector Word 8
  nin    : Nat
  tin    : Vector Tag 3
  tsc    : Tag
  tout   : Tag
  lat    : Nat
  width  : Nat
  cells  : Vector (BitVec 32) 32
  routes : Vector (BitVec 32) 32
  consts : Vector (BitVec 32) 16
  luts   : List (List (BitVec 16))
  deriving DecidableEq, Repr

/-- A graph slot (R204): what is installed; the opcode that it will hold once the queued commands have executed and
the graph that this will be; its age (0 newest); whether a load is pending, and of an image whose bytes are on another panel. -/
structure GSlot where
  graph : Option Graph := none
  proj  : Option Nat := none
  head  : Option Graph := none
  age   : Nat := 0
  load  : Bool := false
  away  : Bool := false
  deriving DecidableEq, Repr

/-- A tile (R245). -/
structure Tile where
  e    : Vector (BitVec 32) 1024 := Vector.replicate 1024 0
  tag  : Tag := 0
  ctr  : Counts := {}
  tnt  : Bool := false
  pend : Nat := 0
  deriving DecidableEq, Repr

/-- A command of a member's matrix queue (R243): the instruction, the snapshots of its shape records, the
metadata address, the index vector, the LFSR at issue, the number of grants done, the words it reads, the
windows that it named (core and handle), the translated pages (virtual page, physical base). -/
structure MCmd where
  slot  : Nat
  no    : Nat := 0
  apc   : Addr
  gd    : CmdGuard
  op    : Instr
  sa    : BitVec 256 := 0
  sb    : BitVec 256 := 0
  x1    : Word := 0
  idx   : Vec := 0
  lfsr  : BitVec 32 := 0
  k     : Nat := 0
  started : Bool := false
  done  : Bool := false
  reads : List Nat := []
  wins  : List Nat := []
  pages : List (Nat × Nat) := []
  data  : Option (BitVec 256) := none
  /-- memory as it stood at the start, which holds of the read words keep as it is (R252) -/
  latch : Option Mem := none
  /-- read words found poisoned or uncorrectable at the start (R255); whether grants before a pre-emption have read one -/
  bad   : List Nat := []
  tnt   : Bool := false
  /-- the hit of the bound check that ended the last grant, in trap mode (R166) -/
  trap  : Option Nat := none
  /-- the events of the grants done so far -/
  cnt   : Counts := {}
  deriving DecidableEq, Repr

/-- A write held at a bank under a gather (R117): its address, its length and the access, which is served again
when the gather has read its operands. -/
structure HeldWrite where
  pa  : Nat
  len : Nat
  msg : Msg
  deriving DecidableEq, Repr

/-- A command of the copy queue (R257): the record's address and words, the progress in bytes, the promise. -/
structure CCmd where
  slot  : Nat
  apc   : Addr
  multi : Bool
  ra    : Word
  words : List Word
  prog  : Nat := 0
  /-- where the segment that it moves begins (R258) -/
  seg   : Nat := 0
  p     : Word := 0
  started : Bool := false
  /-- numbers of the thread's accesses that AFTER waits for -/
  after : List Nat := []
  /-- its way through the combining node (R262): 0 not there yet, 1 in an open window, 2 left -/
  comb  : Nat := 0
  /-- the source's bytes as the combined fetch read them -/
  fetched : Option (List Byte) := none
  /-- what requests to other panels have brought for the segment; whether one is out -/
  got   : List Byte := []
  busy  : Bool := false
  /-- the publish on completion (R260): 0 not sent, 1 sent, 2 applied -/
  pub   : Nat := 0
  /-- memory as it stood at the command's start, where its source and its destination overlap (R257) -/
  before : Option Mem := none
  /-- restored after a pre-emption: the record is read again (R302) -/
  restored : Bool := false
  flt   : Bool := false
  deriving DecidableEq, Repr

/-- A bound set (R163). -/
structure Bound where
  v    : Bool := false
  mode : BitVec 2 := 0
  lo   : BitVec 32 := 0
  hi   : BitVec 32 := 0
  deriving DecidableEq, Repr

/-- A barrier register and the channel of its router (R386, R389, Table 15.1): the router's release count,
what it has received from the east and from the south (sense and rectangle), the release on its way. -/
structure Bar where
  brect : BitVec 32 := 0
  ls    : Bool := false
  wd    : Bool := false
  v     : Bool := false
  g     : Bool := false
  memb  : Bool := false
  ph    : BitVec 32 := 0
  cu    : BitVec 32 := 0
  arc   : Bool := false
  rc    : BitVec 32 := 0
  east  : Option (Bool × BitVec 32) := none
  south : Option (Bool × BitVec 32) := none
  rel   : Option Bool := none
  deriving DecidableEq, Repr

/-- The handler in progress on the message thread (R130): its message, its issues. -/
structure Handler where
  msg : Msg
  iss : Nat := 0
  deriving DecidableEq, Repr

/-- Containment states of a logical core (Table 15.9). -/
inductive Contain where
  | live | isolated | held | substituting | restoring | replaying
  deriving DecidableEq, Repr

/-- A CHKPT in progress (R391): the issuing slot, the destination register, the descriptor. -/
structure Chk where
  slot : Nat
  d    : Fin 32
  desc : List Word
  deriving DecidableEq, Repr

/-- Queue endpoints of a core (Table 5.6). -/
structure Links where
  fifo   : Vector (List QWord) 4 := Vector.replicate 4 []
  credit : Vector Nat 4 := Vector.replicate 4 32
  pqF    : Vector (List QWord) 4 := Vector.replicate 4 []
  pqR    : Vector (List QWord) 4 := Vector.replicate 4 []
  /-- addresses of ring words that the NI stored unconverted -/
  marks  : List Nat := []
  /-- by descriptor address, the producers (peer, slot, register) of the words in each ring, oldest first -/
  rings  : Fmap (List (Nat × Nat × Nat)) := []
  /-- reservation requests that wait for free slots (R189) -/
  ringWait : List Msg := []
  deriving DecidableEq, Repr

/-- The vector engine and the Reed array (R170, R204). -/
structure VEng where
  q      : List VCmd := []
  gs     : Vector GSlot 4 := Vector.ofFn fun k => { age := k.val }
  rlstat : Word := 0
  /-- an RLCMD that waits: its opcode, and whether it is a load -/
  rlcmd  : Option (Nat × Bool) := none
  /-- sectors of a graph load that another panel has answered, by their address -/
  far    : Fmap Resp := []
  /-- graph slots that a restore has still to load, with their opcodes (R208) -/
  reload : List (Fin 4 × Nat) := []
  deriving DecidableEq, Repr

/-- What a core holds of its cluster's matrix unit (R243): its queue, shape records with their pending
counts, tiles. -/
structure MEng where
  q      : List MCmd := []
  sh     : Vector (BitVec 256) 8 := Vector.replicate 8 0
  shp    : Vector Nat 8 := Vector.replicate 8 0
  tiles  : Vector Tile 8 := Vector.replicate 8 {}
  holds  : List HeldWrite := []
  deriving DecidableEq, Repr

/-- A collective of this core's group engine (R422): the group's panel and physical address, its thread (16 for a
withdrawn member's relay, 17 when the thread was retired), the collective, its destination, what it contributes; once the anchor has admitted it,
the member words and its index; whether its own part has been sent. -/
structure Coll where
  key  : Nat
  slot : Nat
  op   : CollOp
  d    : Option (Fin 16)
  tag  : Tag
  vals : List (Option Nat)
  tab  : List Word := []
  idx  : Option Nat := none
  sent : Bool := false
  deriving DecidableEq, Repr

/-- The fault state of a core (R137, R237, R240). -/
structure CoreFault where
  frozen : Bool := false
  disc   : Bool := false
  last   : Option Packet := none
  fcnt   : Nat := 0
  ctlslot : Nat := 0
  ctlcmd  : Nat := 0
  /-- the slot that a single-step lets issue once -/
  step    : Option (Fin 16) := none
  deriving DecidableEq, Repr

/-- Reliability state of a core: failed banks, sectors found uncorrectable with their times (R120),
containment (Table 15.9), a trigger not yet acted on, the router's ISO mark (Table 15.1), sweeps missed (R393). -/
structure CoreHealth where
  badBanks : List Nat := []
  uncorr   : List (Nat × Nat) := []
  contain  : Contain := .live
  trigger  : Bool := false
  iso      : Bool := false
  missed   : Nat := 0
  deriving DecidableEq, Repr

/-- Checkpoint state of a core: a CHKPT in progress, the send log, the broken chain (R391, R392), the time at
which a full log asks again for a checkpoint. -/
structure CoreCkpt where
  chk    : Option Chk := none
  slog   : List Msg := []
  broken : Bool := false
  /-- the peers that must commit again before the broken chain is whole -/
  peers  : List Nat := []
  ask    : Option Nat := none
  deriving DecidableEq, Repr

/-- A logical core. -/
structure Core where
  slots   : Vector Slot 16 := Vector.replicate 16 {}
  /-- the slot that last issued on the worker port, and the time of that issue (R18) -/
  lastW   : Nat := 14
  portAt  : Option Nat := none
  dq      : Deque := {}
  pushes  : List HeldPush := []
  steal   : Steal := {}
  sysr    : Vector Word 72 := (Vector.replicate 72 0).set 3 4
  handles : Vector Handle 64 := Vector.replicate 64 {}
  waits   : List Waiter := []
  links   : Links := {}
  tlb     : List TlbEnt := []
  lines   : List Line := []
  veng    : VEng := {}
  meng    : MEng := {}
  cq      : List CCmd := []
  /-- the number of the next command of the vector or the matrix queue -/
  cmdNo   : Nat := 0
  bs      : Vector Bound 16 := Vector.replicate 16 {}
  bars    : Vector Bar 4 := Vector.replicate 4 {}
  sw      : Fmap Still := []
  mt      : Option Handler := none
  reqs    : List Req := []
  colls   : List Coll := []
  /-- partial results in the core's group areas whose collective it has not issued yet -/
  gparts  : List GPart := []
  flt     : CoreFault := {}
  health  : CoreHealth := {}
  ckpt    : CoreCkpt := {}
  /-- the message thread has stopped for pre-emption, and the NI diverts (R352) -/
  diverted : Bool := false
  /-- every engine has acknowledged the stop: answers are diverted too (R351) -/
  acked    : Bool := false
  /-- the context that the collector stops on this core -/
  stopping : Option Nat := none
  deriving DecidableEq, Repr

/-! ## Clusters, dies, the PCTL, the fabric -/

/-- A combining window (R262): the opening time, the matching key, the cores that joined, first the one that opened it; once it has
closed, the opener's record and what the fetch has brought. -/
structure Window where
  at_  : Nat
  ctx  : Nat
  key  : List Word
  mem  : List Nat
  closed : Bool := false
  words : List Word := []
  got  : List Byte := []
  busy : Bool := false
  deriving DecidableEq, Repr

/-- A cluster: its matrix unit's control block and arbiter (Table 9.3, R249), the grant in progress (member and
end), its combining node. -/
structure Cluster where
  cmuwt  : BitVec 32 := 0
  mabs   : Bool := false
  cmboff : Bool := false
  /-- PRES, once it has been written; none while it is as the LPT gives it -/
  pres   : Option (BitVec 8) := none
  p      : Nat := 0
  c      : Vector Nat 8 := Vector.replicate 8 1
  grant  : Option Nat := none
  wins   : List Window := []
  deriving DecidableEq, Repr

/-- A stage entry as the governor holds it (Table 13.4). -/
structure Stage where
  en    : Bool := false
  ring  : Word := 0
  ringPa : Nat := 0
  entry : Addr := 0
  lo    : Nat := 0
  hi    : Nat := 0
  cores : BitVec 32 := 0
  unit_ : Bool := false
  min   : Nat := 0
  deriving DecidableEq, Repr

/-- A die-to-die link (Table 13.1, R357): counts, mark, the end of a retrain, the retrains in a row, the
replays of the window and its start. -/
structure Link where
  replays  : Nat := 0
  retrains : Nat := 0
  down     : Bool := false
  training : Option Nat := none
  row      : Nat := 0
  window   : Nat := 0
  winAt    : Nat := 0
  clean    : Nat := 0
  deriving DecidableEq, Repr

/-- A compute die and its agent. -/
structure Die where
  hmap   : BitVec 36 := BitVec.allOnes 36
  lpt    : Vector (BitVec 4) 32 := Vector.ofFn fun i => BitVec.ofNat 4 (i.val % 8)
  /-- physical column that serves each member of the die's four clusters (CMUMAP) -/
  cmumap : Vector (BitVec 4) 32 := Vector.ofFn fun i => BitVec.ofNat 4 (i.val / 8 % 2 * 4 + i.val % 4)
  cards  : List Card := []
  waitq  : List Card := []
  aside  : List Card := []
  nextCard : Nat := 0
  stages : Vector Stage 8 := Vector.replicate 8 {}
  gctx   : Option Nat := none
  govAt  : Nat := 0
  links  : Vector Link 26 := Vector.replicate 26 {}
  l2     : List TlbEnt := []
  poison : List Nat := []
  failed : Bool := false
  deriving DecidableEq, Repr

/-- A placement entry (Table 15.2). -/
structure Rect where
  nr   : Nat
  nc   : Nat
  lrow : Nat
  lcol : Nat
  crow : Nat
  ccol : Nat
  deriving DecidableEq, Repr

/-- A settle-set entry (Table 10.4), with the sums of the previous sweep at which its conditions held. -/
structure SetEnt where
  arm  : Bool := false
  nh   : Nat := 0
  swa  : Nat := 0
  prev : Option (List Nat) := none
  deriving DecidableEq, Repr

/-- A launch whose end has not come (R345): its number, card words, participating dies, who waits for its
acceptance. -/
structure Launch where
  id    : Nat
  words : List Word
  va    : Word
  cwa   : Nat
  dies  : List Nat
  left  : List Nat
  reply : Option Reply
  /-- the packed CCN of the core that issued it -/
  who   : Nat := 0
  deriving DecidableEq, Repr

/-- A QUIESCE that waits (R346): whom to answer, and the time after which the sweep must start. -/
structure Quiesce where
  reply : Reply
  at_   : Nat
  deriving DecidableEq, Repr

/-- How a context stands (R350). -/
inductive CtxSt where
  | absent | running | stopping | saved
  deriving DecidableEq, Repr

/-- An entry of the PCTL's context table (R135, R376, R381, R390). -/
structure Ctx where
  place : List Rect := []
  sup   : Nat := 0
  loader : Nat := 0
  root  : Nat := 0
  ckpt  : Bool := false
  /-- the base of its save area (R353) -/
  area  : Nat := 0
  st    : CtxSt := .absent
  sets  : Vector SetEnt 16 := Vector.replicate 16 {}
  launches : List Launch := []
  quiet : Option (List Nat) := none
  quiesce : List Quiesce := []
  /-- the core that asked for a pre-emption or a restore in progress -/
  waiter : Option Reply := none
  deriving DecidableEq, Repr

/-- A sweep of the still-water tree that has started (R344): its start, the snapshots of the cores in context
order as sums per context, the launches whose dies had all dealt their share by then (R345). -/
structure Sweep where
  at_  : Nat
  sums : Fmap (List Nat)
  dealt : List Nat
  deriving DecidableEq, Repr

/-- A fence in progress (R377, R417): what it fences, what it writes at its end, who is answered. -/
inductive FenceOp where
  | remap (lcn col : Nat)
  | markDead (p : Nat)
  | clearDead (p : Nat)
  | fabric (p : Nat) (mask : BitVec 48)
  | substitute (lcn col : Nat)
  deriving DecidableEq, Repr

/-- A fence in progress: its change, the logical cores or panels it fences, the agents still to acknowledge. -/
structure Fence where
  op    : FenceOp
  set   : List Nat
  left  : List Nat
  reply : Option Reply
  deriving DecidableEq, Repr

/-- The save block of one core (Table 13.6): its place in memory, which holds the image of its pages; the core's state, what its worker
slots were in, its pages' full and poison marks, its parked-message ring. -/
structure Save where
  base : Nat := 0
  core : Core := {}
  was  : List SState := []
  fe   : List Nat := []
  psn  : List Nat := []
  ring : List Msg := []
  lcn  : Nat := 0
  /-- copies of posted writes that a full parked-message ring has refused -/
  posted : List Posted := []
  /-- the HBM page of the ring is uncorrectable (R359) -/
  bad  : Bool := false
  deriving DecidableEq, Repr

/-- A peat store image (R391, Table 15.11): the core and context it is of, its count, the saved core, the
bytes and full marks of its ranges, the backing entries. -/
structure Peat where
  vld  : Bool := false
  ctx  : Nat := 0
  e    : BitVec 32 := 0
  lcn  : Nat := 0
  core : Core := {}
  mem  : List Host.Cell := []
  fe   : List Nat := []
  ni   : Ni := {}
  back : List (Nat × Nat × Word) := []
  deriving DecidableEq, Repr

/-- A TLBINV in progress (R395): its operands and scope, who is answered, the agents that have still to finish, and of
those that have begun the accesses and engine commands that they wait for. -/
structure Inv where
  a     : Word
  b     : Word
  scope : Nat
  core  : Nat
  reply : Reply
  left  : List Nat
  pend  : Fmap (List Nat × Nat) := []
  deriving DecidableEq, Repr

/-- What the attestation report holds that the model forms (Table 15.10): its GTB, whether the panel was locked and the
flagged events with their GTB and source, per die HMAP, LPT0 and LPT1, the clusters that passed, per die its links that are
down, per stack its word. -/
structure Report where
  gtb    : Word := 0
  locked : Bool := true
  flags  : List (Nat × Nat) := []
  dies   : List Word := []
  pass   : List Nat := []
  links  : List Nat := []
  stackChans : List Word := []
  deriving DecidableEq, Repr

/-- The PCTL. -/
structure Pctl where
  ctxs   : Fmap Ctx := []
  sweep  : Option Sweep := none
  fences : List Fence := []
  invs   : List Inv := []
  packets : List Packet := []
  saves  : Fmap Save := []
  /-- cards and stages of saved contexts: (context, die position, card) -/
  savedCards : List (Nat × Card) := []
  savedStages : List (Nat × Nat × Vector Stage 8) := []
  nextLaunch : Nat := 0
  /-- the last samples of inlet °C, flow L/min, input V and hottest die °C, and since when they are bad or good -/
  env    : Option (Nat × Nat × Nat × Nat) := none
  badAt  : Option Nat := none
  goodAt : Option Nat := none
  hold   : Bool := false
  held   : List Nat := []
  flags  : List (Nat × Nat) := []
  report : Option Report := none
  deriving DecidableEq, Repr

/-- A channel table entry (Table 17.1). -/
structure ChanEnt where
  v   : Bool := false
  frz : Bool := false
  spanel : Nat := 0
  sctx : Nat := 0
  lctx : Nat := 0
  deriving DecidableEq, Repr

/-- A Welkin port (R409, R416). -/
structure Port where
  down : Bool := false
  row  : Nat := 0
  replays : Nat := 0
  training : Option Nat := none
  /-- the time from which its traffic is clean -/
  clean : Nat := 0
  q    : List Msg := []
  peer : Option Nat := none
  hops : Nat := 64
  deriving DecidableEq, Repr

/-- A message held for a far panel (R416) since a time. -/
structure FabHeld where
  src : Nat
  msg : Msg
  at_ : Nat
  deriving DecidableEq, Repr

/-- A queue-pair entry (Table 17.5). -/
structure Qp where
  v    : Bool := false
  frz  : Bool := false
  port : Nat := 0
  pmtu : Nat := 0
  ctx  : Nat := 0
  dqpn : Nat := 0
  ring : Word := 0
  rsv  : Nat := 0
  deriving DecidableEq, Repr

/-- A key entry (Table 17.6). -/
structure Key where
  v    : Bool := false
  r    : Bool := false
  w    : Bool := false
  ctx  : Nat := 0
  ktag : BitVec 19 := 0
  base : Nat := 0
  len  : Nat := 0
  deriving DecidableEq, Repr

/-- What a host bridge answers (R425-R428). -/
inductive HostAnswer where
  | ack (qpn : Nat)
  | data (qpn : Nat) (bs : List Byte)
  | nakInvalid (qpn : Nat)
  | nakAccess (qpn : Nat)
  | rnr (qpn : Nat)
  deriving DecidableEq, Repr

/-- A host's operation whose accesses to another panel are under way (R427): what a READ has gathered, and the accesses that
are not performed, each with its place. -/
structure HostOp where
  qpn   : Nat
  va    : Nat
  write : Bool
  got   : List (List Byte)
  wait  : List (Nat × Msg)
  deriving DecidableEq, Repr

/-- The fabric and the host side (17). -/
structure Fabric where
  pmap   : Vector (BitVec 48) 64 := Vector.replicate 64 0
  chans  : Fmap ChanEnt := []
  ports  : Vector Port 48 := Vector.replicate 48 {}
  held   : List FabHeld := []
  /-- the offset from the reference in ticks, with its sign, and whether it is locked (R414) -/
  offset : Int := 0
  locked : Bool := true
  refPort : Option Nat := none
  slewAt : Nat := 0
  /-- ticks that GTB holds -/
  skip   : Nat := 0
  qps    : Fmap Qp := []
  keys   : Fmap Key := []
  eth    : Vector Bool 8 := Vector.replicate 8 true
  hostBad : Vector Bool 4 := Vector.replicate 4 false
  hostOps : List HostOp := []
  answers : List HostAnswer := []
  mgmt   : List (List Byte) := []
  dropped : Nat := 0
  deriving DecidableEq, Repr

/-- A memory bridge (R384, R385): failed channels, the poison record of sectors. -/
structure MemBridge where
  failed : BitVec 32 := 0
  poison : List Nat := []
  deriving DecidableEq, Repr

/-! ## The panel -/

/-- The thread whose instruction executes: a core and one of its slots (log 1). -/
structure Cur where
  lcn  : Nat := 0
  slot : Fin 16 := 0
  deriving DecidableEq, Repr

/-- What system software asks of the PCTL outside the instruction set: to place a context, to contain a core, to write the
channel, queue-pair and key tables (R135, R393, R412, R425); that a port's link is up again; what the PCTL does as a system-level
master: bytes written to memory, a core's level, a message sent (R397, R444). -/
inductive SysReq where
  | place (id : Nat) (c : Ctx)
  | contain (lcn : Nat)
  | chan (i : Nat) (e : ChanEnt)
  | qp (i : Nat) (e : Qp)
  | key (i : Nat) (e : Key)
  | ethUp (port : Nat)
  | write (pa : Nat) (bs : List Byte)
  | level (lcn lvl : Nat)
  | send (m : Msg)
  deriving DecidableEq, Repr

/-- A move of the panel (log 1): a port issues; an agent takes a step; time passes; another panel's message arrives at
a Welkin port, or one leaves by it; a word of memory is disturbed, or the page of a core's parked-message ring
(R359); something is asked of the PCTL. -/
inductive Move where
  | issue (lcn : Nat) (mt : Bool)
  | ev (i : Instr)
  | tick (n : Nat)
  | inject (port : Nat) (m : Msg)
  | egress (port : Nat)
  | upset (pa : Nat) (double : Bool)
  | ringUpset (ctx lcn : Nat)
  | sys (r : SysReq)
  deriving DecidableEq, Repr

/-- The panel. -/
structure State where
  /-- cycles of the time base since reset, without wrap: GTB is this count modulo 2^64 (R3; log 120) -/
  time     : Nat := 0
  panelId  : Nat := 0
  mem      : Mem := {}
  cores    : Fmap Core := []
  clusters : Fmap Cluster := []
  dies     : Fmap Die := []
  bridges  : Fmap MemBridge := []
  nis      : Fmap Ni := []
  /-- remap entries that differ from those built at boot from the LPTs with every core good (R374) -/
  rmap     : Fmap Nat := []
  /-- physical cores whose router is dead, and whose Causeway relay failed (Table 15.1) -/
  dead     : List Nat := []
  rlyf     : List Nat := []
  pctl     : Pctl := {}
  peats    : Fmap Peat := []
  fab      : Fabric := {}
  net      : List Msg := []
  stopped  : Bool := false
  /-- the model's own: the order of moves, the turn of the default order, the counter of free values (log 1, log 6) -/
  agenda   : List Move := []
  turn     : Nat := 0
  freeCtr  : Nat := 0
  cur      : Cur := {}
  deriving DecidableEq, Repr

/-- Reasons for which a run of the panel stops. -/
inductive Fault where
  /-- Raised by `step` on a panel that an emergency stop has stopped (R398), for every move but a power-on
  reset. Safe: the clocks stand. -/
  | emergencyStopped
  deriving DecidableEq, Repr

/-- Reasons for which the model gives no meaning. -/
inductive Refusal where
  /-- Raised by a dispatch arm without a meaning. Safe: nothing is claimed of it. -/
  | notModelled (mnemonic : String)
  deriving DecidableEq, Repr

/-- The canonical form of memory: addresses strictly rising, no byte listed that reads as an unlisted one. -/
def cellsWf : List Host.Cell → Bool
  | [] => true
  | (_, b) :: [] => b != 0
  | (a, b) :: (a', b') :: t => b != 0 && a < a' && cellsWf ((a', b') :: t)

/-- Marks strictly rise. -/
def marksWf : List Nat → Bool
  | a :: b :: t => a < b && marksWf (b :: t)
  | _ => true

/-- The form that every memory operation keeps. -/
def Mem.wf (m : Mem) : Bool :=
  cellsWf m.bytes && marksWf m.fe && marksWf m.psn && marksWf m.single && marksWf m.double

/-- A core as it stands after reset (R17, R22, R118, R134). -/
def Core.reset : Core := {}

/-- The panel right after a power-on reset whose self-test found every core good (R118, R134, R245, R330,
R397; log 3, 4, 9). -/
def State.reset : State := {}

end Sys2Proof.Machine
end

