-- ==== Sys2Proof/Machine/Access.lean ====
section
/-! DEFINITION. Accessors and updates of the state, identities and coordinates (R9, R10, R330, R374, R376),
and the bit-field helpers of the machine. -/

namespace Sys2Proof.Machine

/-! ## Accessors -/

/-- The global time base (R3): a 64-bit count, which wraps. -/
def State.gtb (s : State) : Word := BitVec.ofNat 64 s.time

/-- Logical core `l`. -/
def State.core (s : State) (l : Nat) : Core := Fmap.get Core.reset s.cores l

def State.setCore (s : State) (l : Nat) (c : Core) : State := { s with cores := Fmap.set s.cores l c }

def State.modCore (s : State) (l : Nat) (f : Core → Core) : State := s.setCore l (f (s.core l))

/-- Slot `k` of a core; 15 is the message thread. -/
def Core.slot (c : Core) (k : Fin 16) : Slot := c.slots[k]

def Core.setSlot (c : Core) (k : Fin 16) (t : Slot) : Core := { c with slots := c.slots.set k t }

def Core.modSlot (c : Core) (k : Fin 16) (f : Slot → Slot) : Core := c.setSlot k (f (c.slot k))

def State.slot (s : State) (l : Nat) (k : Fin 16) : Slot := (s.core l).slot k

def State.modSlot (s : State) (l : Nat) (k : Fin 16) (f : Slot → Slot) : State :=
  s.modCore l fun c => c.modSlot k f

/-- The core of the thread that executes. -/
def State.me (s : State) : Core := s.core s.cur.lcn

def State.modMe (s : State) (f : Core → Core) : State := s.modCore s.cur.lcn f

/-- The thread that executes. -/
def State.thr (s : State) : Slot := s.slot s.cur.lcn s.cur.slot

def State.modThr (s : State) (f : Slot → Slot) : State := s.modSlot s.cur.lcn s.cur.slot f

/-- The state in which slot `k` of core `l` is the thread that executes. -/
def State.onSlot (s : State) (l : Nat) (k : Fin 16) : State := { s with cur := ⟨l, k⟩ }

def State.cluster (s : State) (n : Nat) : Cluster := Fmap.get {} s.clusters n

def State.modCluster (s : State) (n : Nat) (f : Cluster → Cluster) : State :=
  { s with clusters := Fmap.set s.clusters n (f (s.cluster n)) }

def State.die (s : State) (d : Nat) : Die := Fmap.get {} s.dies d

def State.modDie (s : State) (d : Nat) (f : Die → Die) : State :=
  { s with dies := Fmap.set s.dies d (f (s.die d)) }

def State.bridge (s : State) (b : Nat) : MemBridge := Fmap.get {} s.bridges b

def State.modBridge (s : State) (b : Nat) (f : MemBridge → MemBridge) : State :=
  { s with bridges := Fmap.set s.bridges b (f (s.bridge b)) }

/-- The NI of the agent with source number `a`. -/
def State.ni (s : State) (a : Nat) : Ni := Fmap.get {} s.nis a

def State.modNi (s : State) (a : Nat) (f : Ni → Ni) : State :=
  { s with nis := Fmap.set s.nis a (f (s.ni a)) }

/-- The PCTL's entry of context `c`. -/
def State.ctx (s : State) (c : Nat) : Ctx := Fmap.get {} s.pctl.ctxs c

def State.modPctl (s : State) (f : Pctl → Pctl) : State := { s with pctl := f s.pctl }

def State.modCtx (s : State) (c : Nat) (f : Ctx → Ctx) : State :=
  s.modPctl fun p => { p with ctxs := Fmap.set p.ctxs c (f (s.ctx c)) }

def State.modFab (s : State) (f : Fabric → Fabric) : State := { s with fab := f s.fab }

def State.modMem (s : State) (f : Mem → Mem) : State := { s with mem := f s.mem }

def State.send (s : State) (m : Msg) : State := { s with net := s.net ++ [m] }

/-- A fresh argument for a free value (log 6). -/
def State.tickFree (s : State) : State := { s with freeCtr := s.freeCtr + 1 }

/-! ## System registers by number (Table 5.9) -/

def Core.sys (c : Core) (n : Nat) : Word := c.sysr[n]?.getD 0

def Core.setSys (c : Core) (n : Nat) (w : Word) : Core := { c with sysr := c.sysr.setIfInBounds n w }

/-- CTXID. -/
def Core.ctxid (c : Core) : Nat := (c.sys 0).toNat % 4096

/-- CORELVL: 0 user, 1 supervisor, 2 system. -/
def Core.level (c : Core) : Nat := (c.sys 0x12).toNat % 4

/-! ## Identities (Table 1.2) -/

def lcnRow (l : Nat) : Nat := l / 128
def lcnCol (l : Nat) : Nat := l % 128
def mkLcn (row col : Nat) : Nat := row * 128 + col
def dieOf (l : Nat) : Nat := lcnRow l / 4 * 16 + lcnCol l / 8
def clusterOf (l : Nat) : Nat := dieOf l * 4 + (lcnRow l % 4 / 2 * 2 + lcnCol l % 8 / 4)
def memberOf (l : Nat) : Nat := lcnRow l % 2 * 4 + lcnCol l % 4
/-- The index of a logical core in its die's LPT (R332). -/
def lptIdx (l : Nat) : Fin 32 := Fin.ofNat 32 (lcnRow l % 4 * 8 + lcnCol l % 8)
/-- The logical core at an LPT index of a die. -/
def lcnAt (die i : Nat) : Nat := mkLcn (die / 16 * 4 + i / 8) (die % 16 * 8 + i % 8)
/-- Logical cores of a die, ascending. -/
def dieCores (d : Nat) : List Nat := (List.range 32).map (lcnAt d)
/-- The logical core that is member `m` of cluster `n`. -/
def memberLcn (n m : Nat) : Nat :=
  let d := n / 4
  let q := n % 4
  mkLcn (d / 16 * 4 + q / 2 * 2 + m / 4) (d % 16 * 8 + q % 2 * 4 + m % 4)
/-- The die quad of a die (02, Stealing). -/
def quadOf (d : Nat) : Nat := d / 16 / 2 * 8 + d % 16 / 2

/-- The physical column within the die that serves a logical core; 15 when it is absent (R330). -/
def State.pcol (s : State) (l : Nat) : Nat := ((s.die (dieOf l)).lpt[lptIdx l]).toNat

/-- Whether a logical core is present (R330, R331). -/
def State.present (s : State) (l : Nat) : Bool := l < 8192 && s.pcol l != 15

/-- The physical core number (Table 1.2). -/
def State.physOf (s : State) (l : Nat) : Nat := dieOf l * 36 + lcnRow l % 4 * 9 + s.pcol l

/-- The remap entry of a logical core: the global physical column, 255 when it is absent (R374). -/
def State.rmapOf (s : State) (l : Nat) : Nat :=
  Fmap.get (if s.pcol l = 15 then 255 else lcnCol l / 8 * 9 + s.pcol l) s.rmap l

/-- The source number of the memory channel's bridge that serves an HBM address (R384). -/
def bridgeOf (pa : Nat) : Nat := pa % 2 ^ 44 / 0xC00000000

/-- The channel of an HBM address (R384). -/
def channelOf (pa : Nat) : Nat := pa % 2 ^ 44 / 256 % 32

/-! ## Placement (R376) -/

/-- Whether a rectangle's entry contains the CCN (row, column). -/
def Rect.has (r : Rect) (row col : Nat) : Bool :=
  r.crow ≤ row && row ≤ r.crow + r.nr && r.ccol ≤ col && col ≤ r.ccol + r.nc

/-- The logical core of a packed CCN in a context. -/
def Ctx.lcnOf (c : Ctx) (ccn : Nat) : Option Nat :=
  (c.place.find? fun r => r.has (ccn / 256) (ccn % 256)).map fun r =>
    mkLcn (r.lrow + ccn / 256 - r.crow) (r.lcol + ccn % 256 - r.ccol)

/-- The packed CCN of a logical core in a context. -/
def Ctx.ccnOf (c : Ctx) (l : Nat) : Option Nat :=
  (c.place.find? fun r => r.lrow ≤ lcnRow l && lcnRow l ≤ r.lrow + r.nr && r.lcol ≤ lcnCol l &&
    lcnCol l ≤ r.lcol + r.nc).map fun r => (r.crow + lcnRow l - r.lrow) * 256 + (r.ccol + lcnCol l - r.lcol)

/-- The logical cores of a context's rectangles, in order of the entries. -/
def Ctx.cores (c : Ctx) : List Nat :=
  c.place.flatMap fun r => (List.range (r.nr + 1)).flatMap fun i =>
    (List.range (r.nc + 1)).map fun j => mkLcn (r.lrow + i) (r.lcol + j)

/-- A number put into an ascending list. -/
def insNat (a : Nat) : List Nat → List Nat
  | [] => [a]
  | b :: t => if a ≤ b then a :: b :: t else b :: insNat a t

/-- Numbers in ascending order. -/
def sortNat (l : List Nat) : List Nat := l.foldr insNat []

/-- The logical cores of a context that are present, ascending. -/
def State.ctxCores (s : State) (c : Nat) : List Nat := sortNat ((s.ctx c).cores.filter s.present)

/-- The core that a packed CCN of a context names, if it is present: bits [63:16] are zero. -/
def State.target (s : State) (c : Nat) (w : Word) : Option Nat :=
  if w.toNat ≥ 65536 then none
  else match (s.ctx c).lcnOf w.toNat with
    | some l => if s.present l then some l else none
    | none => none

/-! ## Slots and PCs (R42) -/

/-- Slot index of a PC. -/
def lin (pc : Nat) : Nat := pc / 64 * 5 + pc % 64 / 12

/-- PC of a slot index. -/
def slotpc (n : Nat) : Nat := n / 5 * 64 + n % 5 * 12

/-- Whether a value is the address of a slot: below 2^48 and 0, 12, 24, 36 or 48 in its line. -/
def isSlot (w : Word) : Bool := w.toNat < 2 ^ 48 && w.toNat % 64 % 12 == 0 && w.toNat % 64 < 60

/-- The target at a signed slot offset, as an integer that may lie outside the address space. -/
def target (b : Addr) (off : BitVec 40) : Int :=
  let n : Int := lin b.toNat + off.toInt
  n / 5 * 64 + n % 5 * 12

/-- The slot after `b`, in linear order. -/
def nextSlot (b : Addr) : Addr := BitVec.ofNat 48 (slotpc (lin b.toNat + 1))

/-- Whether sequential flow would pass the end of the address space after `b`. -/
def lastSlot (b : Addr) : Bool := slotpc (lin b.toNat + 1) ≥ 2 ^ 48

/-! ## Bits -/

/-- Bits [hi:lo] of a word, as a number. -/
def bits (w : Word) (hi lo : Nat) : Nat := w.toNat / 2 ^ lo % 2 ^ (hi + 1 - lo)

/-- Bit `n` of a word. -/
def bit (w : Word) (n : Nat) : Bool := w.getLsbD n

/-- A word from a number. -/
def word (n : Nat) : Word := BitVec.ofNat 64 n

/-- The 32-bit immediate, sign-extended. -/
def sext32 (i : BitVec 32) : Word := i.signExtend 64

/-- A number saturated at 2^32 - 1. -/
def sat32 (n : Nat) : Nat := min n 0xFFFFFFFF

/-- Little-endian bytes of a number. -/
def toBytes : Nat → Nat → List Byte
  | 0, _ => []
  | k + 1, n => BitVec.ofNat 8 n :: toBytes k (n / 256)

/-- The number of little-endian bytes. -/
def ofBytes : List Byte → Nat
  | [] => 0
  | b :: t => b.toNat + 256 * ofBytes t

/-- Words of 8 bytes. -/
def wordsOf : Nat → List Byte → List Word
  | 0, _ => []
  | k + 1, l => word (ofBytes (l.take 8)) :: wordsOf k (l.drop 8)

/-- Bytes of words. -/
def bytesOf (ws : List Word) : List Byte := ws.flatMap fun w => toBytes 8 w.toNat

/-- The number of one bits of a value of at most `n` bits. -/
def ones : Nat → Nat → Nat
  | 0, _ => 0
  | k + 1, v => v % 2 + ones k (v / 2)

/-- The element at `i` of a list, or a default. -/
def nth {α : Type} (d : α) (l : List α) (i : Nat) : α := l[i]?.getD d

end Sys2Proof.Machine
end

