-- ==== Sys2Proof/Machine/Numbers.lean ====
section
/-! DEFINITION. Numbers (06: R138-R169): exact values, element formats and tags, rounding, conversion, block
scales, bound sets, the stochastic-rounding generator, exact arithmetic. -/

namespace Sys2Proof.Machine

/-- An exact value: not a number, an infinity, or a sign with a rational magnitude, zeros signed. -/
inductive Val where
  | nan
  | inf (neg : Bool)
  | fin (neg : Bool) (num den : Nat)
  deriving DecidableEq, Repr

/-! ## Tags (R145, R146) -/

def Tag.cls (t : Tag) : Nat := t.toNat % 16
def Tag.prec (t : Tag) : Nat := t.toNat / 16 % 8
def Tag.unsigned (t : Tag) : Bool := t.getLsbD 7
def Tag.infs (t : Tag) : Bool := t.getLsbD 8
def Tag.scm (t : Tag) : Nat := t.toNat / 512 % 4
def Tag.sat (t : Tag) : Bool := t.getLsbD 11
def Tag.bs (t : Tag) : Nat := t.toNat / 4096

/-- Element width in bits; an untagged register has lanes of 64 raw bits (R139, R171). -/
def Tag.width (t : Tag) : Nat :=
  match Tag.cls t with
  | 1 | 4 => 32
  | 2 | 3 | 5 => 16
  | 6 | 7 | 8 => 8
  | _ => 64

/-- Lanes of a vector register with the tag. -/
def Tag.lanes (t : Tag) : Nat := 512 / Tag.width t

/-- The floating kind (R171). -/
def Tag.isFloat (t : Tag) : Bool := [1, 2, 3, 8].contains (Tag.cls t)

/-- The integer kind (R171). -/
def Tag.isInt (t : Tag) : Bool := [4, 5, 6, 7].contains (Tag.cls t)

/-- Elements per block of a scaled format (R147). -/
def Tag.block (t : Tag) : Nat := if Tag.scm t = 2 then 16 else 32

/-- The tag of FP32, of INT32. -/
def tagFp32 : Tag := 0x0001
def tagInt32 : Tag := 0x0004

/-! ## Formats (R138, R141, R142) -/

/-- A floating format: precision with the implicit one, least normal exponent, signed, infinities, bits. -/
structure Fmt where
  p     : Nat
  emin  : Int
  sgn   : Bool
  infs  : Bool
  width : Nat
  b8    : Bool
  deriving DecidableEq, Repr

/-- The floating format of a tag. -/
def Tag.fmt (t : Tag) : Fmt :=
  match Tag.cls t with
  | 1 => ⟨24, -126, true, true, 32, false⟩
  | 2 => ⟨11, -14, true, true, 16, false⟩
  | 3 => ⟨8, -126, true, true, 16, false⟩
  | _ =>
    let p := Tag.prec t
    if Tag.unsigned t then ⟨p, 1 - ((2 ^ (8 - p) : Nat) : Int), false, Tag.infs t, 8, true⟩
    else ⟨p, 1 - ((2 ^ (7 - p) : Nat) : Int), true, Tag.infs t, 8, true⟩

/-- `num / den` times a power of two. -/
def scale2 (num den : Nat) (k : Int) : Nat × Nat :=
  if 0 ≤ k then (num * 2 ^ k.toNat, den) else (num, den * 2 ^ (-k).toNat)

/-- The greatest `e` with 2^e at most the positive magnitude `num / den`. -/
def floorLog2 (num den : Nat) : Int :=
  let e : Int := (Nat.log2 num : Int) - Nat.log2 den
  let (n, d) := scale2 num den (-e)
  if d ≤ n then e else e - 1

/-- The magnitude of an encoded code without sign: subnormal or normal (R141). -/
def Fmt.mag (f : Fmt) (code : Nat) : Nat × Nat :=
  let t := f.p - 1
  let e := code / 2 ^ t
  let m := code % 2 ^ t
  if e = 0 then scale2 m 1 (f.emin - t) else scale2 (2 ^ t + m) 1 (f.emin + (e : Int) - 1 - t)

/-- The code of the largest finite magnitude. -/
def Fmt.maxCode (f : Fmt) : Nat :=
  if f.b8 then (if f.sgn then (if f.infs then 0x7E else 0x7F) else (if f.infs then 0xFD else 0xFE))
  else (2 ^ (f.width - f.p) - 1) * 2 ^ (f.p - 1) - 1

/-- The largest finite magnitude. -/
def Fmt.maxf (f : Fmt) : Nat × Nat := f.mag f.maxCode

/-- The canonical NaN (R140, R141, R142). -/
def Fmt.nanCode (f : Fmt) : Nat :=
  if f.b8 then (if f.sgn then 0x80 else 0xFF)
  else (2 ^ (f.width - f.p) - 1) * 2 ^ (f.p - 1) + 2 ^ (f.p - 2)

/-- The code of an infinity. -/
def Fmt.infCode (f : Fmt) (neg : Bool) : Nat :=
  if f.b8 then (if f.sgn then (if neg then 0xFF else 0x7F) else 0xFE)
  else (2 ^ (f.width - f.p) - 1) * 2 ^ (f.p - 1) + if neg then 2 ^ (f.width - 1) else 0

/-- The value of a code. -/
def Fmt.decode (f : Fmt) (code : Nat) : Val :=
  if f.b8 then
    if f.sgn then
      if code = 0x80 then .nan
      else if f.infs && code % 128 = 0x7F then .inf (code ≥ 128)
      else let (n, d) := f.mag (code % 128); .fin (code ≥ 128) n d
    else
      if code = 0xFF then .nan
      else if f.infs && code = 0xFE then .inf false
      else let (n, d) := f.mag code; .fin false n d
  else
    let neg := code ≥ 2 ^ (f.width - 1)
    let c := code % 2 ^ (f.width - 1)
    let top := (2 ^ (f.width - f.p) - 1) * 2 ^ (f.p - 1)
    if c = top then .inf neg
    else if c > top then .nan
    else let (n, d) := f.mag c; .fin neg n d

/-- The code of a magnitude that lies on the format's grid; binary8 has one zero. -/
def Fmt.encode (f : Fmt) (neg : Bool) (num den : Nat) : Nat :=
  let t := f.p - 1
  if num = 0 then (if f.b8 || !neg then 0 else 2 ^ (f.width - 1))
  else
    let e := floorLog2 num den
    let c :=
      if e < f.emin then let (n, d) := scale2 num den (t - f.emin); n / d
      else let (n, d) := scale2 num den (t - e); (e - f.emin + 1).toNat * 2 ^ t + (n / d - 2 ^ t)
    if neg && f.sgn then c + 2 ^ (f.width - 1) else c

/-- Limits of an integer class. -/
def Tag.intLo (t : Tag) : Int :=
  match Tag.cls t with
  | 4 => -(2 ^ 31)
  | 5 => -32768
  | 6 => -128
  | _ => 0

def Tag.intHi (t : Tag) : Int :=
  match Tag.cls t with
  | 4 => 2 ^ 31 - 1
  | 5 => 32767
  | 6 => 127
  | _ => 255

/-- The value of an element's code under a tag, without scale. -/
def decodeElem (t : Tag) (code : Nat) : Val :=
  if Tag.isFloat t then (Tag.fmt t).decode code
  else
    let w := Tag.width t
    if Tag.cls t != 7 && code ≥ 2 ^ (w - 1) then .fin true (2 ^ w - code) 1 else .fin false code 1

/-! ## Rounding (R150, R151) -/

/-- The integer that a magnitude n + r / d rounds to. -/
def roundMag (neg : Bool) (n r d : Nat) (odd : Bool) (mode : RMode) (rnd : Nat) : Nat :=
  if r = 0 then n
  else match mode with
    | .rne => if 2 * r > d || (2 * r == d && odd) then n + 1 else n
    | .rtz => n
    | .rup => if neg then n else n + 1
    | .rdn => if neg then n + 1 else n
    | .sr => if r * 65536 + rnd * d ≥ d * 65536 then n + 1 else n

/-- A magnitude rounded to the precision and subnormal grid of a format, with no upper exponent limit. -/
def Fmt.round (f : Fmt) (neg : Bool) (num den : Nat) (mode : RMode) (rnd : Nat) : Nat × Nat :=
  if num = 0 then (0, 1)
  else
    let e := max (floorLog2 num den) f.emin
    let u : Int := e - (f.p - 1 : Nat)
    let (n, d) := scale2 num den (-u)
    let odd := if f.p = 1 then Config.freeTie num den else n / d % 2 == 1
    scale2 (roundMag neg (n / d) (n % d) d odd mode rnd) 1 u

/-- Comparison of magnitudes. -/
def ltMag (a b : Nat × Nat) : Bool := a.1 * b.2 < b.1 * a.2

/-- A value as an order key on the extended rationals: less than, NaN never. -/
def Val.lt : Val → Val → Bool
  | .nan, _ => false
  | _, .nan => false
  | .inf true, .inf true => false
  | .inf true, _ => true
  | .inf false, _ => false
  | .fin _ _ _, .inf neg => !neg
  | .fin n1 a1 b1, .fin n2 a2 b2 =>
    let x : Int := (if n1 then -1 else 1) * ((a1 * b2 : Nat) : Int)
    let y : Int := (if n2 then -1 else 1) * ((a2 * b1 : Nat) : Int)
    x < y

def Val.isNan : Val → Bool
  | .nan => true
  | _ => false

def Val.isZero : Val → Bool
  | .fin _ 0 _ => true
  | _ => false

def Val.neg? : Val → Bool
  | .nan => false
  | .inf n => n
  | .fin n _ _ => n

/-- Equality as values: zeros of either sign are equal. -/
def Val.eqv (a b : Val) : Bool := !a.isNan && !b.isNan && !a.lt b && !b.lt a

/-! ## Conversion (R154, R157, R158) -/

def Counts.add (a b : Counts) : Counts :=
  ⟨sat32 (a.sat + b.sat), sat32 (a.nan + b.nan), sat32 (a.bso + b.bso), sat32 (a.bnd + b.bnd)⟩

def oneSat : Counts := { sat := 1 }
def oneNan : Counts := { nan := 1 }
def oneBso : Counts := { bso := 1 }

/-- An integer as the code of an integer class: its low bits. -/
def intCode (t : Tag) (n : Int) : Nat := (n % (2 ^ Tag.width t : Nat)).toNat

/-- toint (R158). -/
def toint (v : Val) (t : Tag) (mode : RMode) (rnd : Nat) : Nat × Counts :=
  let lo := Tag.intLo t
  let hi := Tag.intHi t
  match v with
  | .nan => (0, oneNan)
  | .inf neg => (intCode t (if Tag.sat t then (if neg then lo else hi) else lo), oneSat)
  | .fin neg num den =>
    let m := roundMag neg (num / den) (num % den) den (num / den % 2 == 1) mode rnd
    let n : Int := if neg then -(m : Int) else m
    if lo ≤ n && n ≤ hi then (intCode t n, {})
    else if Tag.sat t then (intCode t (if n < lo then lo else hi), oneSat)
    else (intCode t n, oneSat)

/-- overflow (R157). -/
def overflow (f : Fmt) (sat neg : Bool) (mode : RMode) : Nat × Counts :=
  let mx := f.encode neg f.maxf.1 f.maxf.2
  if sat then (mx, oneSat)
  else if !f.infs then (f.nanCode, oneNan)
  else match mode with
    | .rne | .sr => (f.infCode neg, oneSat)
    | .rtz => (mx, oneSat)
    | .rup => (if neg then mx else f.infCode false, oneSat)
    | .rdn => (if neg then f.infCode true else mx, oneSat)

/-- A negative result in an unsigned format (R154). -/
def negUnsigned (f : Fmt) (sat : Bool) : Nat × Counts := if sat then (0, oneSat) else (f.nanCode, oneNan)

/-- conv of an exact value into an unscaled tag (R154; for a negative value that rounds to zero in an unsigned
format see log 11). -/
def conv (v : Val) (t : Tag) (mode : RMode) (rnd : Nat) : Nat × Counts :=
  if Tag.isInt t then toint v t mode rnd
  else
    let f := Tag.fmt t
    match v with
    | .nan => (f.nanCode, {})
    | .inf neg =>
      if neg && !f.sgn then negUnsigned f (Tag.sat t)
      else if f.infs then (f.infCode neg, {}) else overflow f (Tag.sat t) neg mode
    | .fin neg num den =>
      let r := f.round neg num den mode rnd
      if r.1 = 0 then (f.encode neg 0 1, {})
      else if neg && !f.sgn then negUnsigned f (Tag.sat t)
      else if ltMag f.maxf r then overflow f (Tag.sat t) neg mode
      else (f.encode neg r.1 r.2, {})

/-! ## Exact arithmetic (R159) -/

/-- The rational a / b + c / d with signs, as a value; `down` gives the sign of an exact zero sum. -/
def addFin (n1 : Bool) (a b : Nat) (n2 : Bool) (c d : Nat) (down : Bool) : Val :=
  let den := if b % d = 0 then b else if d % b = 0 then d else b * d
  let x : Int := (a * (den / b) : Nat)
  let y : Int := (c * (den / d) : Nat)
  let z := (if n1 then -x else x) + (if n2 then -y else y)
  if z = 0 then .fin (if n1 = n2 then n1 else down) 0 1 else .fin (z < 0) z.natAbs den

/-- The exact sum and whether it is a NaN produced by it. -/
def vAdd (a b : Val) (mode : RMode) : Val × Bool :=
  match a, b with
  | .nan, _ => (.nan, false)
  | _, .nan => (.nan, false)
  | .inf m, .inf n => if m = n then (.inf m, false) else (.nan, true)
  | .inf m, _ => (.inf m, false)
  | _, .inf n => (.inf n, false)
  | .fin n1 x1 d1, .fin n2 x2 d2 => (addFin n1 x1 d1 n2 x2 d2 (mode == .rdn), false)

def vNeg : Val → Val
  | .nan => .nan
  | .inf n => .inf !n
  | .fin n a b => .fin (!n) a b

def vAbs : Val → Val
  | .nan => .nan
  | .inf _ => .inf false
  | .fin _ a b => .fin false a b

/-- The exact product and whether it is a NaN produced by it. -/
def vMul (a b : Val) : Val × Bool :=
  match a, b with
  | .nan, _ => (.nan, false)
  | _, .nan => (.nan, false)
  | .inf m, .inf n => (.inf (m != n), false)
  | .inf m, .fin n x _ => if x = 0 then (.nan, true) else (.inf (m != n), false)
  | .fin m x _, .inf n => if x = 0 then (.nan, true) else (.inf (m != n), false)
  | .fin n1 x1 d1, .fin n2 x2 d2 => (.fin (n1 != n2) (x1 * x2) (d1 * d2), false)

/-- The smaller value: NaN if either is NaN, -0 below +0 (R174). -/
def vMin (a b : Val) : Val :=
  if a.isNan || b.isNan then .nan
  else if a.lt b then a else if b.lt a then b else if a.neg? then a else b

def vMax (a b : Val) : Val :=
  if a.isNan || b.isNan then .nan
  else if b.lt a then a else if a.lt b then b else if a.neg? then b else a

/-- A result formed exactly and converted once (R159): a NaN that the operation produced is counted. -/
def finish (r : Val × Bool) (t : Tag) (mode : RMode) (rnd : Nat) : Nat × Counts :=
  let (c, k) := conv r.1 t mode rnd
  (c, if r.2 && Tag.isFloat t then k.add oneNan else k)

/-! ## Block scales (R147-R149) -/

/-- The format of an F-scale: unsigned binary8 with P = 4 and no infinities. -/
def fscale : Fmt := ⟨4, -15, false, false, 8, true⟩

/-- The value of a scale code of a scale mode. -/
def scaleVal (scm code : Nat) : Val :=
  if code = 0xFF then .nan
  else if scm = 2 then fscale.decode code
  else let (n, d) := scale2 1 1 ((code : Int) - 127); .fin false n d

/-- The value of an element of a scaled block (R148). -/
def scaledVal (v s : Val) : Val :=
  match s with
  | .nan => .nan
  | s => if s.isZero then (match v with | .fin _ _ _ => .fin false 0 1 | _ => .nan) else (vMul v s).1

/-- Whether the use of a scale counts a block-scale event: an F-scale of code 0 (R148). -/
def scaleEvent (scm code : Nat) : Counts := if scm = 2 && code = 0 then oneBso else {}

/-- The largest magnitude of the finite values. -/
def amax : List Val → Nat × Nat
  | [] => (0, 1)
  | .fin _ n d :: t => let r := amax t; if ltMag r (n, d) then (n, d) else r
  | _ :: t => amax t

/-- The scale code of a block for a scaled tag, and whether it counts (R149). -/
def scaleCode (t : Tag) (vs : List Val) : Nat × Counts :=
  let a := amax vs
  let m := (Tag.fmt t).maxf
  let n := a.1 * m.2
  let d := a.2 * m.1
  if a.1 = 0 then (if Tag.scm t = 2 then 0x80 else 0x7F, {})
  else if Tag.scm t = 2 then
    let r := fscale.round false n d .rup 0
    if ltMag fscale.maxf r then (0xFE, oneBso) else (fscale.encode false r.1 r.2, {})
  else
    let e := floorLog2 n d
    let (n', d') := scale2 n d (-e)
    let c := (if n' = d' then e else e + 1) + 127
    if c < 0 then (0, {}) else if c > 0xFE then (0xFE, oneBso) else (c.toNat, {})

/-- x / scale, exact; infinities and NaNs as unscaled values (R149). -/
def unscale (v s : Val) : Val :=
  match v, s with
  | .fin neg n d, .fin _ sn sd => if sn = 0 then v else .fin neg (n * sd) (d * sn)
  | v, _ => v

/-! ## The generator of stochastic rounding (R152, R153) -/

def lfsrStep (s : BitVec 32) : BitVec 32 := if s.getLsbD 0 then (s >>> 1) ^^^ 0x80200003#32 else s >>> 1

def lfsrSteps : Nat → BitVec 32 → BitVec 32
  | 0, s => s
  | n + 1, s => lfsrSteps n (lfsrStep s)

/-- RND of element `j`. -/
def rndOf (s : BitVec 32) (j : Nat) : Nat := (lfsrSteps (j + 1) s).toNat / 65536

/-- The seed (R152). -/
def lfsrSeed (srseed ra : Word) (pc : Addr) : BitVec 32 :=
  let w : Word := pc.zeroExtend 64
  let h := srseed.extractLsb' 0 32 ^^^ srseed.extractLsb' 32 32 ^^^ ra.extractLsb' 0 32 ^^^
    (ra.extractLsb' 32 16).zeroExtend 32 ^^^ (w.extractLsb' 0 16 ++ w.extractLsb' 16 16) ^^^
    (w.extractLsb' 32 16).zeroExtend 32
  if h = 0 then 1 else h

/-! ## Bound sets (R163-R166) -/

def fp32 (b : BitVec 32) : Val := (Tag.fmt tagFp32).decode b.toNat

/-- Whether a bound set is valid (R164). -/
def Bound.ok (b : Bound) : Bool :=
  b.v && b.mode != 3 && !(fp32 b.lo).isNan && !(fp32 b.hi).isNan && !(fp32 b.hi).lt (fp32 b.lo)

/-- The value of an element with its scale. -/
def elemVal (t : Tag) (scale : Option Nat) (code : Nat) : Val :=
  match scale with
  | none => decodeElem t code
  | some c => scaledVal (decodeElem t code) (scaleVal (Tag.scm t) c)

/-- Whether an element hits a bound set. -/
def Bound.hit (b : Bound) (v : Val) : Bool := v.isNan || v.lt (fp32 b.lo) || (fp32 b.hi).lt v

/-- The code of the least (`up`) value of the format at or above a limit, or the greatest at or below it; when
there is none, the end of the format (Table 6.9). -/
def clampCode (t : Tag) (scale : Option Nat) (lim : Val) (up : Bool) : Nat :=
  let lim := match scale with
    | none => lim
    | some c => unscale lim (scaleVal (Tag.scm t) c)
  if Tag.isInt t then
    let lo := Tag.intLo t
    let hi := Tag.intHi t
    match lim with
    | .nan => 0
    | .inf neg => intCode t (if neg then lo else hi)
    | .fin neg num den =>
      let m := roundMag neg (num / den) (num % den) den false (if up then .rup else .rdn) 0
      let n : Int := if neg then -(m : Int) else m
      intCode t (if n < lo then lo else if hi < n then hi else n)
  else
    let f := Tag.fmt t
    let least := if f.sgn then f.encode true f.maxf.1 f.maxf.2 else 0
    let most := f.encode false f.maxf.1 f.maxf.2
    match lim with
    | .nan => f.nanCode
    | .inf neg => if neg then least else most
    | .fin neg num den =>
      let r := f.round neg num den (if up then .rup else .rdn) 0
      if r.1 = 0 then f.encode neg 0 1
      else if neg then (if !f.sgn || ltMag f.maxf r then least else f.encode true r.1 r.2)
      else if ltMag f.maxf r then most else f.encode false r.1 r.2

/-- The result of a bound check on one element: the code written, and whether it hits. -/
def boundElem (b : Bound) (t : Tag) (scale : Option Nat) (code : Nat) : Nat × Bool :=
  let v := elemVal t scale code
  if !b.hit v then (code, false)
  else if b.mode != 1 || v.isNan then (code, true)
  else if v.lt (fp32 b.lo) then (clampCode t scale (fp32 b.lo) true, true)
  else (clampCode t scale (fp32 b.hi) false, true)

/-- The first index at which a list of marks is set. -/
def firstHit : List Bool → Nat → Option Nat
  | [], _ => none
  | b :: t, i => if b then some i else firstHit t (i + 1)

/-- The bound check of a write-back of codes with their scales (R166): the codes to write, the hits counted, the
first hit when the set traps. -/
def boundAll (bs : Vector Bound 16) (t : Tag) (codes : List (Nat × Option Nat)) : List Nat × Counts × Option Nat :=
  let b := bs[Tag.bs t]?.getD {}
  if Tag.bs t = 0 || Tag.cls t = 0 then (codes.map (·.1), {}, none)
  else
    let rs := codes.map fun c => boundElem b t c.2 c.1
    let hits := (rs.filter (·.2)).length
    (rs.map (·.1), { bnd := hits }, if b.mode == 2 then firstHit (rs.map (·.2)) 0 else none)

/-- The reason of Table 6.5 for which a tag is invalid; `need` says that a format is required. -/
def tagReason (bs : Vector Bound 16) (t : Tag) (need : Bool) : Option Nat :=
  let c := Tag.cls t
  if c ≥ 9 then some 1
  else if c = 8 && Tag.prec t = 0 then some 2
  else if Tag.scm t = 3 then some 3
  else if Tag.scm t ≠ 0 && c ≠ 8 then some 4
  else if c ≠ 0 && Tag.bs t ≠ 0 && !(bs[Tag.bs t]?.getD {}).ok then some 5
  else if need && c = 0 then some 6
  else none

/-! ## Lanes (R139) -/

/-- Lane `i` of width `w`. -/
def lane (v : Vec) (w i : Nat) : Nat := v.toNat / 2 ^ (w * i) % 2 ^ w

/-- The lanes of a register. -/
def lanesOf (v : Vec) (w : Nat) : List Nat := (List.range (512 / w)).map (lane v w)

/-- A register of the lanes. -/
def ofLanes (w : Nat) : List Nat → Nat
  | [] => 0
  | x :: t => x % 2 ^ w + 2 ^ w * ofLanes w t

def vecOf (w : Nat) (l : List Nat) : Vec := BitVec.ofNat 512 (ofLanes w l)

end Sys2Proof.Machine
end

