-- ==== Sys2Proof/WellFormed.lean ====
section
/-! DEFINITION. Which terms of `Instr` are instructions that the encoding can hold: the conditions that the
types of Syntax.lean leave open (R53, R68 and the field rules of each instruction). -/

namespace Sys2Proof

/-- GD 0 with GN 1 is no guard (R53). -/
def Guard.wf (g : Guard) : Bool := !(g.g == 0 && g.neg)

/-- Whether the operand is an immediate. -/
def Src.isImm : Src → Bool
  | .reg _ => false
  | .imm _ => true

/-- An immediate of at most 16 bits (R104, R183). -/
def Src.wf16 : Src → Bool
  | .reg _ => true
  | .imm v => v.toNat < 65536

/-- ALU instructions with a 32-bit form (Table 3.12). -/
def Alu.wfW (a : Alu) : Bool := a.gd.wf

/-- ALU instructions without a 32-bit form (Table 3.12). -/
def Alu.wfD (a : Alu) : Bool := a.gd.wf && !a.w

/-- Shifts: an immediate amount lies below the width (R80). -/
def Alu.wfShift (a : Alu) : Bool :=
  a.gd.wf && match a.src with
    | .reg _ => true
    | .imm v => v.toNat < (if a.w then 32 else 64)

/-- LD, ST and their forms take any size of 0 to 3 (R65). -/
def MemForm.wfAny (a : MemForm) : Bool := a.gd.wf

/-- LDU takes sizes 0 to 2 (R65). -/
def MemForm.wfU (a : MemForm) : Bool := a.gd.wf && a.size < 3

/-- The synchronising family takes size 3 (R65). -/
def MemForm.wfSync (a : MemForm) : Bool := a.gd.wf && a.size == 3

/-- RELQ names no data register (Table 8.2). -/
def MemForm.wfRelq (a : MemForm) : Bool := a.wfSync && a.r == 0

/-- Operations of AMO on FP32 take a 32-bit datum; only CAS names S3 (R224, R225). -/
def AmoOp.isFloat : AmoOp → Bool
  | .fadd | .fmin | .fmax => true
  | _ => false

/-- The second source of VFMA is never an immediate (Table 3.15). -/
def VSrc.noImm : VSrc → Bool
  | .imm _ => false
  | _ => true

/-- AMAX and AMIN deliver to an x register (R182). -/
def RedOp.wf (op : RedOp) (d : RedDst) : Bool :=
  match op, d with
  | .amax, .v _ => false
  | .amin, .v _ => false
  | _, _ => true

/-- What the encoding can hold. The steps of other agents have no encoding and are not well formed. -/
def Instr.wf : Instr → Bool
  | .nop gd => gd.wf
  | .j gd _ | .jal gd _ _ | .jr gd _ | .jalr gd _ _ | .br gd _ _ | .brF gd _ _ => gd.wf
  | .loop gd _ _ _ | .loopi gd _ _ _ | .loopx gd _ _ _ _ _ => gd.wf
  | .trap gd _ | .brk gd _ | .supcall gd _ => gd.wf
  | .rdsys gd _ _ | .wrsys gd _ _ | .rdtime gd _ | .sleepuntil gd _ _ => gd.wf
  | .add a | .sub a | .mul a | .div a | .divu a | .rem a | .remu a => a.wfW
  | .sll a | .srl a | .sra a => a.wfShift
  | .and a | .or a | .xor a | .slt a | .sltu a | .mulh a | .mulhm a | .mulhu a
  | .min a | .max a | .minu a | .maxu a => a.wfD
  | .clz a | .ctz a | .cpop a => a.gd.wf
  | .li gd _ _ | .addpc gd _ _ => gd.wf
  | .cmp gd _ _ _ _ _ | .tst gd _ _ _ _ | .glog gd _ _ _ _ | .grd gd _ => gd.wf
  | .gwr gd _ mask => gd.wf && mask.toNat % 2 == 0
  | .fork gd _ _ _ _ _ | .spawn gd _ _ _ _ _ _ => gd.wf
  | .joindec gd _ | .suspend gd | .suspendJ gd _ | .await gd _ | .yield gd | .exit gd => gd.wf
  | .stealdom gd _ | .getid gd _ _ | .sigev gd _ _ => gd.wf
  | .waitev gd _ src _ => gd.wf && src.wf16
  | .ld a | .st a | .ldAcq a | .stRel a => a.wfAny
  | .ldu a => a.wfU
  | .ldw a | .ldt a | .lrq a | .stf a | .stw a | .scq a => a.wfSync
  | .relq a => a.wfRelq
  | .amo gd w op _ _ _ _ _ s3 => gd.wf && (!op.isFloat || w) && (op == .cas || s3 == 0)
  | .fence gd | .fenceEng gd | .fenceI gd => gd.wf
  | .vadd a | .vsub a | .vmul a | .vmin a | .vmax a => a.gd.wf
  | .vfma a _ => a.gd.wf && a.src.noImm
  | .vabs a | .vneg a => a.gd.wf
  | .vand gd _ _ _ | .vor gd _ _ _ | .vxor gd _ _ _ | .vshl gd _ _ _ | .vshr gd _ _ _ _ => gd.wf
  | .vcmp gd _ _ _ _ | .vsel gd _ _ _ _ | .vperm gd _ _ _ | .vslide gd _ _ _ => gd.wf
  | .vbcast gd _ _ _ | .vmovx gd _ _ _ | .vins gd _ _ _ _ => gd.wf
  | .vred gd op _ d _ _ => gd.wf && op.wf d
  | .vsettag gd _ _ src => gd.wf && src.wf16
  | .vgettag gd _ _ | .vcvt gd _ _ _ _ _ | .vqnt gd _ _ _ _ _ | .vdqnt gd _ _ _ _ _ => gd.wf
  | .vld gd _ _ _ _ | .vst gd _ _ _ | .vlds gd _ _ _ _ | .vsts gd _ _ _ => gd.wf
  | .vldx gd _ _ _ _ | .vstx gd _ _ _ => gd.wf
  | .qbind gd _ _ _ | .qfree gd _ | .qstat gd _ _ | .vqpop gd _ _ | .vqpush gd _ _ => gd.wf
  | .vsend gd _ _ _ imm => gd.wf && imm.toNat < 65536
  | .amcall gd _ s2 kind len =>
      gd.wf && kind.toNat ≥ 64 && len.toNat ≤ 256 && (s2 != 0 || len.toNat ≤ 32)
  | .cxop gd _ _ _ _ _ _ _ | .cxload gd _ | .cxdrop gd _ | .cxqry gd _ _ | .cxtbl gd _ _ => gd.wf
  | .bndset gd k clr _ s1 => gd.wf && k != 0 && (!clr || s1 == 0)
  | .bndget gd _ k _ => gd.wf && k != 0
  | .cntrd gd _ _ h t => gd.wf && (h == 2 || t == 0)
  | .cntclr gd _ h t => gd.wf && (h == 2 || t == 0)
  | .mshld gd _ _ _ | .mma gd _ _ _ _ => gd.wf
  | .mmaSp gd _ _ _ _ _ _ | .mmaGa gd _ _ _ _ _ _ | .mmaSpga gd _ _ _ _ _ _ _ _ => gd.wf
  | .mzero gd _ _ | .mld gd _ _ _ | .mst gd _ _ _ | .mrowred gd _ _ _ _ _ _ | .mcnt gd _ _ _ => gd.wf
  | .copy gd _ _ | .copym gd _ _ | .cprom gd _ _ => gd.wf
  | .hcfg gd _ _ | .publish gd _ | .publishF gd _ | .hsub gd _ _ | .hunsub gd _ _ | .hver gd _ _ => gd.wf
  | .stopref gd _ | .stoprefAt gd _ _ | .refchk gd _ _ | .settle gd _ _ _ | .settlew gd _ _ _ _ => gd.wf
  | .launch gd _ _ | .deal gd _ _ | .ringget gd _ _ _ | .ringput gd _ _ | .govset gd _ _ _ => gd.wf
  | .preempt gd _ _ | .resume gd _ _ | .rdhmap gd _ _ | .rdlpt gd _ _ _ | .quiesce gd _ => gd.wf
  | .barset gd _ _ | .bararr gd _ | .barwait gd _ _ _ | .barwaitF gd _ _ | .barwd gd _ => gd.wf
  | .chkpt gd _ _ => gd.wf
  | .tlbinv gd _ _ _ => gd.wf
  | .rmapsetRemap gd _ _ _ | .rmapsetMarkDead gd _ _ _ | .rmapsetClearDead gd _ _ _ => gd.wf
  | .grpjoin gd _ _ _ | .grpleave gd _ | .grpred gd _ _ _ _ | .grpbc gd _ _ _ _ | .grpbar gd _ => gd.wf
  | .fremap gd _ _ _ => gd.wf
  | .sleepTimeReached .. | .lineFetch .. | .localPop .. | .recordLoad .. | .stealSearch .. => false
  | .stealRequest .. | .stealResponse .. | .stealRetryWait .. | .dequePush .. | .dequePushRetry .. => false
  | .responseReturn .. | .postedCreditReturn .. | .postedRetryResend .. => false
  | .parkedRingRetryResend .. | .loadHandler .. | .storeHandler .. | .atomicHandler .. => false
  | .ldwHandler .. | .ldtHandler .. | .stfHandler .. | .stwHandler .. | .lrqHandler .. => false
  | .scqHandler .. | .relqHandler .. | .awaitRegistration .. | .joinArming .. | .joinDecrement .. => false
  | .armingEnd .. | .controlWordTransition .. | .refire .. | .eventSignal .. | .publishHome .. => false
  | .hsubHome .. | .hunsubHome .. | .hverHome .. | .stoprefHome .. | .refchkHome .. => false
  | .hcfgHome .. | .ringReservation .. | .ringPush .. | .ringCredit .. | .pageOwnerWrite .. => false
  | .debugWindowAccess .. | .dbgctlResume .. | .dbgctlSingleStep .. | .dbgctlRetire .. => false
  | .dbgctlReleaseSupcall .. | .dbgctlInvalidCommand .. | .rlcmdLoad .. | .rlcmdDrop .. => false
  | .registerWrite .. | .controlSpaceAccess .. | .programHandler .. | .faultPacketReceive .. => false
  | .vectorCommandStart .. | .vectorResultWrite .. | .reedResult .. | .cxloadInstall .. => false
  | .matrixGrant .. | .matrixGrantEnd .. | .matrixCommandComplete .. | .matrixQueueHeadExecute .. => false
  | .cmuFailure .. | .copyCommandStart .. | .copySegmentEnd .. | .copyComplete .. => false
  | .combineRequest .. | .combineWindowClose .. | .bankFailed .. | .hbmAccess .. => false
  | .hbmStackFailure .. | .l2TlbLookup .. | .pageWalk .. | .tlbinvRequest .. => false
  | .sweep | .sweepResult | .settleArm => false
  | .cardAcceptance .. | .dealChunk .. | .dealRequest .. | .dealHome .. | .dealerSlotReread .. => false
  | .dealerSlotRotation .. | .govsetApply .. | .governorTick .. | .ringputHome .. => false
  | .preemptStop .. | .preemptComplete | .messageDivert .. | .contextRestore => false
  | .flitReplay .. | .linkRetrain .. | .linkRetrainEnd .. | .linkDown .. | .remapFenceStart .. => false
  | .remapFenceEnd | .messageAccept .. | .causewaySignal .. | .causewayRelease .. => false
  | .causewayReleasePass .. | .barwaitTimeout .. | .commitNotice .. | .checkpointRequest .. => false
  | .checkpointRequestRepeat .. | .containmentTrigger .. | .containmentHold .. => false
  | .spareSubstitution .. | .containmentRestore .. | .containmentReplay .. | .containmentLive .. => false
  | .dieAgentFailure .. | .powerOnReset .. | .warmReset .. | .environmentSample .. => false
  | .thermalHold | .thermalResume | .welkinFlitReplay .. | .welkinPortDown .. => false
  | .fabricHoldTimeout .. | .timeExchange .. | .ingressLookup .. | .fabricFenceStart .. => false
  | .fabricFenceEnd | .groupMembershipRequest .. | .groupPartialArrival .. => false
  | .collectiveBoundary .. | .collectiveRelease .. | .rdmaWrite .. | .rdmaRead .. | .rdmaSend .. => false
  | .rdmaUnsupported .. | .frameDrop .. | .managementFrame .. | .ethernetLinkLoss .. => false
  | .hostBridgeFailure .. | .coreLogicCheck .. | .neighbourLinkWord .. | .neighbourLinkCredit .. => false
  | .checkpointTransfer .. | .welkinPortRetrain .. | .welkinRetrainEnd .. | .gtbSlew => false

end Sys2Proof
end

