-- ==== Sys2Proof/Decode.lean ====
section
/-! DEFINITION. Decoding of a 96-bit slot (03: R53-R68) and the encoder written from the same tables. A slot
that is not an instruction is rejected with the lowest reason of Table 3.17. -/

namespace Sys2Proof

/-- Why a slot is not an instruction, in the order of Table 3.17: the reason numbers are 1 to 7. -/
inductive Reject where
  | reservedOp | undefinedVar | registerField | unusedField | zeroField | function10 | guardField
  deriving DecidableEq, Repr

/-- The reason number of Table 3.10. -/
def Reject.reason : Reject → Nat
  | .reservedOp => 1
  | .undefinedVar => 2
  | .registerField => 3
  | .unusedField => 4
  | .zeroField => 5
  | .function10 => 6
  | .guardField => 7

/-! ## Fields (Tables 3.5 to 3.9) -/

/-- The header of a slot. -/
structure Hdr where
  op  : BitVec 8
  gd  : BitVec 4
  gn  : BitVec 1
  var : BitVec 3
  deriving DecidableEq, Repr

/-- Format A. -/
structure FA where
  d   : BitVec 6
  s1  : BitVec 6
  s2  : BitVec 6
  s3  : BitVec 6
  m8  : BitVec 8
  z   : BitVec 16
  imm : BitVec 32
  deriving DecidableEq, Repr

/-- Format I. -/
structure FI where
  d   : BitVec 6
  fn  : BitVec 10
  imm : BitVec 64
  deriving DecidableEq, Repr

/-- Format C. -/
structure FC where
  d   : BitVec 6
  s1  : BitVec 6
  g2  : BitVec 4
  fn  : BitVec 24
  off : BitVec 40
  deriving DecidableEq, Repr

/-- Format E. -/
structure FE where
  d   : BitVec 6
  s1  : BitVec 6
  s2  : BitVec 6
  s3  : BitVec 6
  sa  : BitVec 4
  sb  : BitVec 4
  mod : BitVec 16
  imm : BitVec 32
  deriving DecidableEq, Repr

def Hdr.ofBits (w : BitVec 96) : Hdr :=
  ⟨w.extractLsb' 88 8, w.extractLsb' 84 4, w.extractLsb' 83 1, w.extractLsb' 80 3⟩

def FA.ofBits (w : BitVec 96) : FA :=
  ⟨w.extractLsb' 74 6, w.extractLsb' 68 6, w.extractLsb' 62 6, w.extractLsb' 56 6, w.extractLsb' 48 8,
    w.extractLsb' 32 16, w.extractLsb' 0 32⟩

def FI.ofBits (w : BitVec 96) : FI := ⟨w.extractLsb' 74 6, w.extractLsb' 64 10, w.extractLsb' 0 64⟩

def FC.ofBits (w : BitVec 96) : FC :=
  ⟨w.extractLsb' 74 6, w.extractLsb' 68 6, w.extractLsb' 64 4, w.extractLsb' 40 24, w.extractLsb' 0 40⟩

def FE.ofBits (w : BitVec 96) : FE :=
  ⟨w.extractLsb' 74 6, w.extractLsb' 68 6, w.extractLsb' 62 6, w.extractLsb' 56 6, w.extractLsb' 52 4,
    w.extractLsb' 48 4, w.extractLsb' 32 16, w.extractLsb' 0 32⟩

def Hdr.bits (h : Hdr) : BitVec 16 := h.op ++ h.gd ++ h.gn ++ h.var
def FA.bits (f : FA) : BitVec 80 := f.d ++ f.s1 ++ f.s2 ++ f.s3 ++ f.m8 ++ f.z ++ f.imm
def FI.bits (f : FI) : BitVec 80 := f.d ++ f.fn ++ f.imm
def FC.bits (f : FC) : BitVec 80 := f.d ++ f.s1 ++ f.g2 ++ f.fn ++ f.off
def FE.bits (f : FE) : BitVec 80 := f.d ++ f.s1 ++ f.s2 ++ f.s3 ++ f.sa ++ f.sb ++ f.mod ++ f.imm

/-! ## Register fields and codes (R60, R64, R66, R150) -/

/-- Whether a field lies within a file of `n` registers. -/
def inFile (n : Nat) (f : BitVec 6) : Bool := f.toNat < n

/-- The register of a file of `n + 1` that a field names. -/
def reg (n : Nat) (f : BitVec 6) : Fin (n + 1) := Fin.ofNat (n + 1) f.toNat

/-- The field that names register `r`. -/
def fld {n : Nat} (r : Fin n) : BitVec 6 := BitVec.ofNat 6 r.val

def RMode.ofCode (c : Nat) : RMode :=
  match c with
  | 1 => .rtz
  | 2 => .rup
  | 3 => .rdn
  | 4 => .sr
  | _ => .rne

def RMode.code : RMode → Nat
  | .rne => 0
  | .rtz => 1
  | .rup => 2
  | .rdn => 3
  | .sr => 4

def Cond.ofCode (c : Nat) : Cond :=
  match c with
  | 1 => .ne
  | 2 => .lt
  | 3 => .ge
  | 4 => .ltu
  | 5 => .geu
  | _ => .eq

def Cond.code : Cond → Nat
  | .eq => 0
  | .ne => 1
  | .lt => 2
  | .ge => 3
  | .ltu => 4
  | .geu => 5

def VCond.ofCode (c : Nat) : VCond :=
  match c with
  | 1 => .ne
  | 2 => .lt
  | 3 => .le
  | 4 => .gt
  | 5 => .ge
  | 6 => .un
  | _ => .eq

def VCond.code : VCond → Nat
  | .eq => 0
  | .ne => 1
  | .lt => 2
  | .le => 3
  | .gt => 4
  | .ge => 5
  | .un => 6

def AmoOp.ofCode (c : Nat) : AmoOp :=
  match c with
  | 1 => .add
  | 2 => .and
  | 3 => .or
  | 4 => .xor
  | 5 => .min
  | 6 => .max
  | 7 => .minu
  | 8 => .maxu
  | 9 => .cas
  | 10 => .fadd
  | 11 => .fmin
  | 12 => .fmax
  | _ => .swap

def AmoOp.code : AmoOp → Nat
  | .swap => 0
  | .add => 1
  | .and => 2
  | .or => 3
  | .xor => 4
  | .min => 5
  | .max => 6
  | .minu => 7
  | .maxu => 8
  | .cas => 9
  | .fadd => 10
  | .fmin => 11
  | .fmax => 12

def RedOp.ofCode (c : Nat) : RedOp :=
  match c with
  | 1 => .max
  | 2 => .min
  | 3 => .amax
  | 4 => .amin
  | _ => .sum

def RedOp.code : RedOp → Nat
  | .sum => 0
  | .max => 1
  | .min => 2
  | .amax => 3
  | .amin => 4

def Red3.ofCode (c : Nat) : Red3 :=
  match c with
  | 1 => .max
  | 2 => .min
  | _ => .sum

def Red3.code : Red3 → Nat
  | .sum => 0
  | .max => 1
  | .min => 2

/-! ## Decoding -/

/-- What the fields of a slot give: a reserved OP, an undefined VAR, or an instruction with the fates that
its fields meet: a register beyond its file, a field that must be zero or an undefined value, bits [47:32] of
format A, FN10. -/
inductive Parsed where
  | reserved
  | badVar
  | ok (file value zero fn : Bool) (i : Instr)
  deriving DecidableEq, Repr

/-- The guard of a header. -/
def Hdr.guard (h : Hdr) : Guard := ⟨⟨h.gd.toNat, h.gd.isLt⟩, h.gn == 1⟩

/-- A parse of format A. -/
def FA.ok (f : FA) (file value : Bool) (i : Instr) : Parsed := .ok file value (f.z != 0) false i

/-- The operand in the S2 position (R56): with I = 1 S2 is zero, with I = 0 IMM32 is. -/
def FA.src (f : FA) (imm : Bool) : Src := if imm then .imm f.imm else .reg (reg 31 f.s2)

def FA.srcFile (f : FA) (imm : Bool) : Bool := !imm && !inFile 32 f.s2

def FA.srcValue (f : FA) (imm : Bool) : Bool := if imm then f.s2 != 0 else f.imm != 0

/-- Whether an immediate form is meant. -/
def Hdr.i (h : Hdr) : Bool := h.var.getLsbD 2

def Hdr.size (h : Hdr) : Nat := h.var.toNat % 4

/-- Scalar operations of two operands (R78); `narrow` says that VAR 2 and 6 are defined, `shift` that the
immediate is a shift amount (R80). -/
def parseAlu (mk : Alu → Instr) (narrow shift : Bool) (h : Hdr) (f : FA) : Parsed :=
  if h.size < 2 || (h.size == 2 && !narrow) then .badVar
  else f.ok (!inFile 32 f.d || !inFile 32 f.s1 || f.srcFile h.i)
    (f.srcValue h.i || f.s3 != 0 || f.m8 != 0 ||
      (shift && h.i && f.imm.toNat ≥ (if h.size == 2 then 32 else 64)))
    (mk ⟨h.guard, h.size == 2, reg 31 f.d, reg 31 f.s1, f.src h.i⟩)

/-- Scalar operations of one operand (R78). -/
def parseUn (mk : Un → Instr) (h : Hdr) (f : FA) : Parsed :=
  if h.var != 2 && h.var != 3 then .badVar
  else f.ok (!inFile 32 f.d || !inFile 32 f.s1) (f.s2 != 0 || f.imm != 0 || f.s3 != 0 || f.m8 != 0)
    (mk ⟨h.guard, h.var == 2, reg 31 f.d, reg 31 f.s1⟩)

/-- Loads (R217); `sizes` gives the sizes that VAR may name. -/
def parseLoad (mk : MemForm → Instr) (sizes : Nat → Bool) (h : Hdr) (f : FA) : Parsed :=
  if !sizes h.size then .badVar
  else f.ok (!inFile 32 f.d || !inFile 32 f.s1 || f.srcFile h.i) (f.srcValue h.i || f.s3 != 0 || f.m8 != 0)
    (mk ⟨h.guard, Fin.ofNat 4 h.size, reg 31 f.d, reg 31 f.s1, f.src h.i⟩)

/-- Stores (R217): the data register stands in S3. -/
def parseStore (mk : MemForm → Instr) (sizes : Nat → Bool) (h : Hdr) (f : FA) : Parsed :=
  if !sizes h.size then .badVar
  else f.ok (!inFile 32 f.s3 || !inFile 32 f.s1 || f.srcFile h.i) (f.srcValue h.i || f.d != 0 || f.m8 != 0)
    (mk ⟨h.guard, Fin.ofNat 4 h.size, reg 31 f.s3, reg 31 f.s1, f.src h.i⟩)

/-- Format A with one x register in D, one in S1 and one in S2, those that are used; the others and M8 and
IMM32 are zero. -/
def parseX (d s1 s2 : Bool) (h : Hdr) (f : FA) (i : Instr) : Parsed :=
  if h.var != 0 then .badVar
  else f.ok ((d && !inFile 32 f.d) || (s1 && !inFile 32 f.s1) || (s2 && !inFile 32 f.s2))
    ((!d && f.d != 0) || (!s1 && f.s1 != 0) || (!s2 && f.s2 != 0) || f.s3 != 0 || f.m8 != 0 || f.imm != 0) i

/-- As `parseX` for an opcode whose variants are told apart before. -/
def parseXv (d s1 s2 : Bool) (f : FA) (i : Instr) : Parsed :=
  f.ok ((d && !inFile 32 f.d) || (s1 && !inFile 32 f.s1) || (s2 && !inFile 32 f.s2))
    ((!d && f.d != 0) || (!s1 && f.s1 != 0) || (!s2 && f.s2 != 0) || f.s3 != 0 || f.m8 != 0 || f.imm != 0) i

/-- A parse of format C. -/
def FC.ok (_ : FC) (file value : Bool) (i : Instr) : Parsed := .ok file value false false i

/-- The shape record that SA or SB names. -/
def shr (f : BitVec 4) : Fin 8 := Fin.ofNat 8 f.toNat

/-- Whether SA or SB lies beyond sh7 (Table 3.17). -/
def badSh (f : BitVec 4) : Bool := f.toNat ≥ 8

/-- A parse of format E: SA and SB are zero unless the instruction names them (R59). -/
def FE.ok (f : FE) (file value : Bool) (i : Instr) : Parsed :=
  .ok (file || badSh f.sa || badSh f.sb) (value || f.sa != 0 || f.sb != 0) false false i

/-- The rounding mode in MOD16[2:0] with the rest of MOD16 zero. -/
def FE.modeOnly (f : FE) : Bool := f.mod.toNat ≥ 5

def FE.mode (f : FE) : RMode := RMode.ofCode (f.mod.toNat % 8)

/-- Whether MOD16[2:0] is no mode. -/
def FE.badMode (f : FE) : Bool := f.mod.toNat % 8 ≥ 5

/-- The second source of a vector command (R66). -/
def FE.vsrc (h : Hdr) (f : FE) : VSrc :=
  if h.var == 0 then .v (reg 15 f.s2) else if h.var == 1 then .x (reg 31 f.s2) else .imm f.imm

def FE.vsrcFile (h : Hdr) (f : FE) : Bool :=
  if h.var == 0 then !inFile 16 f.s2 else if h.var == 1 then !inFile 32 f.s2 else false

def FE.vsrcValue (h : Hdr) (f : FE) : Bool := if h.var == 4 then f.s2 != 0 else f.imm != 0

/-- The scalar source of a vector command with VAR 1 or 4. -/
def FE.xsrc (h : Hdr) (f : FE) : Src := if h.var == 1 then .reg (reg 31 f.s2) else .imm f.imm

def Hdr.vvar (h : Hdr) : Bool := h.var == 0 || h.var == 1 || h.var == 4

def Hdr.xvar (h : Hdr) : Bool := h.var == 1 || h.var == 4

/-- Vector commands of two sources with a mode (R174). -/
def parseVBin (mk : VBin → Instr) (h : Hdr) (f : FE) : Parsed :=
  if !h.vvar then .badVar
  else f.ok (!inFile 16 f.d || !inFile 16 f.s1 || f.vsrcFile h) (f.vsrcValue h || f.s3 != 0 || f.modeOnly)
    (mk ⟨h.guard, reg 15 f.d, reg 15 f.s1, f.vsrc h, f.mode⟩)

/-- Vector commands of one source with a mode (R174). -/
def parseVUn (mk : VUn → Instr) (h : Hdr) (f : FE) : Parsed :=
  if h.var != 0 then .badVar
  else f.ok (!inFile 16 f.d || !inFile 16 f.s1) (f.s2 != 0 || f.s3 != 0 || f.imm != 0 || f.modeOnly)
    (mk ⟨h.guard, reg 15 f.d, reg 15 f.s1, f.mode⟩)

/-- Vector logic and VSHL (R175, R176): MOD16 is zero. -/
def parseVLogic (mk : Guard → Fin 16 → Fin 16 → VSrc → Instr) (h : Hdr) (f : FE) : Parsed :=
  if !h.vvar then .badVar
  else f.ok (!inFile 16 f.d || !inFile 16 f.s1 || f.vsrcFile h) (f.vsrcValue h || f.s3 != 0 || f.mod != 0)
    (mk h.guard (reg 15 f.d) (reg 15 f.s1) (f.vsrc h))

/-- The mask of the values that FN24 of FORK and SPAWN leaves zero (Table 4.5). -/
def forkZero (fn : BitVec 24) (spawn : Bool) : Bool :=
  fn.extractLsb' 18 6 != 0 || fn.getLsbD 11 || (!spawn && fn.extractLsb' 12 6 != 0)

/-- The options of the MMA forms (R291). -/
def mmaOpts (m : BitVec 16) : MmaOpts := ⟨m.getLsbD 3, m.getLsbD 4, m.getLsbD 5⟩


/-- Opcodes 0x01-0x7F (R62-R65). -/
def parseLow (w : BitVec 96) : Parsed :=
  let h := Hdr.ofBits w
  let g := h.guard
  let a := FA.ofBits w
  let c := FC.ofBits w
  match h.op.toNat with
  | 0x01 => parseX false false false h a (.nop g)
  | 0x02 =>
    if h.var != 0 then .badVar else c.ok false (c.d != 0 || c.s1 != 0 || c.g2 != 0 || c.fn != 0) (.j g c.off)
  | 0x03 =>
    if h.var != 0 then .badVar else c.ok (!inFile 32 c.d) (c.s1 != 0 || c.g2 != 0 || c.fn != 0) (.jal g (reg 31 c.d) c.off)
  | 0x04 =>
    if h.var != 0 then .badVar else c.ok (!inFile 32 c.s1) (c.d != 0 || c.g2 != 0 || c.fn != 0 || c.off != 0) (.jr g (reg 31 c.s1))
  | 0x05 =>
    if h.var != 0 then .badVar else c.ok (!inFile 32 c.d || !inFile 32 c.s1) (c.g2 != 0 || c.fn != 0 || c.off != 0)
      (.jalr g (reg 31 c.d) (reg 31 c.s1))
  | 0x06 =>
    let bad := c.d != 0 || c.s1 != 0 || c.fn != 0
    let g2 : Fin 16 := ⟨c.g2.toNat, c.g2.isLt⟩
    if h.var == 0 then c.ok false bad (.br g g2 c.off)
    else if h.var == 1 then c.ok false bad (.brF g g2 c.off) else .badVar
  | 0x07 =>
    if h.var.toNat ≥ 2 then .badVar else c.ok (!inFile 32 c.s1) (c.d != 0 || c.g2 != 0 || c.fn != 0)
      (.loop g (Fin.ofNat 2 h.var.toNat) (reg 31 c.s1) c.off)
  | 0x08 =>
    if h.var.toNat ≥ 2 then .badVar else c.ok false (c.d != 0 || c.s1 != 0 || c.g2 != 0) (.loopi g (Fin.ofNat 2 h.var.toNat) c.fn c.off)
  | 0x09 =>
    if h.var.toNat ≥ 2 then .badVar
    else c.ok (!inFile 32 c.d || !inFile 32 c.s1 || !inFile 32 (c.fn.extractLsb' 0 6))
      (c.g2 != 0 || c.fn.extractLsb' 6 18 != 0)
      (.loopx g (Fin.ofNat 2 h.var.toNat) (reg 31 c.d) (reg 31 c.s1) (reg 31 (c.fn.extractLsb' 0 6)) c.off)
  | 0x0A =>
    if h.var != 0 then .badVar
    else a.ok false (a.d != 0 || a.s1 != 0 || a.s2 != 0 || a.s3 != 0 || a.m8 != 0 || a.imm.toNat ≥ 65536)
      (.trap g (a.imm.extractLsb' 0 16))
  | 0x0B =>
    if h.var != 0 then .badVar
    else a.ok false (a.d != 0 || a.s1 != 0 || a.s2 != 0 || a.s3 != 0 || a.m8 != 0 || a.imm.toNat ≥ 65536)
      (.brk g (a.imm.extractLsb' 0 16))
  | 0x0C =>
    if h.var != 0 then .badVar
    else a.ok false (a.d != 0 || a.s1 != 0 || a.s2 != 0 || a.s3 != 0 || a.m8 != 0 || a.imm.toNat ≥ 65536)
      (.supcall g (a.imm.extractLsb' 0 16))
  | 0x0D =>
    let bad := a.s2 != 0 || a.s3 != 0 || a.m8 != 0 || a.imm.toNat ≥ 4096
    if h.var == 0 then a.ok (!inFile 32 a.d) (bad || a.s1 != 0) (.rdsys g (reg 31 a.d) (a.imm.extractLsb' 0 12))
    else if h.var == 1 then a.ok (!inFile 32 a.s1) (bad || a.d != 0) (.wrsys g (a.imm.extractLsb' 0 12) (reg 31 a.s1))
    else .badVar
  | 0x0E => parseX true false false h a (.rdtime g (reg 31 a.d))
  | 0x0F => parseX false true true h a (.sleepuntil g (reg 31 a.s1) (reg 31 a.s2))
  | 0x10 => parseAlu .add true false h a
  | 0x11 => parseAlu .sub true false h a
  | 0x12 => parseAlu .and false false h a
  | 0x13 => parseAlu .or false false h a
  | 0x14 => parseAlu .xor false false h a
  | 0x15 => parseAlu .sll true true h a
  | 0x16 => parseAlu .srl true true h a
  | 0x17 => parseAlu .sra true true h a
  | 0x18 => parseAlu .slt false false h a
  | 0x19 => parseAlu .sltu false false h a
  | 0x1A => parseAlu .mul true false h a
  | 0x1B => parseAlu .mulh false false h a
  | 0x1C => parseAlu .mulhm false false h a
  | 0x1D => parseAlu .mulhu false false h a
  | 0x1E => parseAlu .div true false h a
  | 0x1F => parseAlu .divu true false h a
  | 0x20 => parseAlu .rem true false h a
  | 0x21 => parseAlu .remu true false h a
  | 0x22 =>
    let f := FI.ofBits w
    if h.var != 0 then .badVar else .ok (!inFile 32 f.d) false false (f.fn != 0) (.li g (reg 31 f.d) f.imm)
  | 0x23 =>
    if h.var != 7 then .badVar
    else a.ok (!inFile 32 a.d) (a.s1 != 0 || a.s2 != 0 || a.s3 != 0 || a.m8 != 0) (.addpc g (reg 31 a.d) a.imm)
  | 0x24 => parseAlu .min false false h a
  | 0x25 => parseAlu .max false false h a
  | 0x26 => parseAlu .minu false false h a
  | 0x27 => parseAlu .maxu false false h a
  | 0x28 => parseUn .clz h a
  | 0x29 => parseUn .ctz h a
  | 0x2A => parseUn .cpop h a
  | 0x40 =>
    if h.size < 2 then .badVar
    else a.ok (!inFile 16 a.d || !inFile 32 a.s1 || a.srcFile h.i) (a.srcValue h.i || a.s3 != 0 || a.m8.toNat ≥ 6)
      (.cmp g (h.size == 2) (Cond.ofCode a.m8.toNat) (reg 15 a.d) (reg 31 a.s1) (a.src h.i))
  | 0x41 =>
    if h.size != 3 then .badVar
    else a.ok (!inFile 16 a.d || !inFile 32 a.s1 || a.srcFile h.i) (a.srcValue h.i || a.s3 != 0 || a.m8.toNat ≥ 2)
      (.tst g (a.m8 == 1) (reg 15 a.d) (reg 31 a.s1) (a.src h.i))
  | 0x42 =>
    if h.var != 0 then .badVar
    else a.ok (!inFile 16 a.d || !inFile 16 a.s1 || !inFile 16 a.s2) (a.s3 != 0 || a.m8.toNat ≥ 16 || a.imm != 0)
      (.glog g (reg 15 a.d) (reg 15 a.s1) (reg 15 a.s2) (a.m8.extractLsb' 0 4))
  | 0x43 => parseX true false false h a (.grd g (reg 31 a.d))
  | 0x44 =>
    if h.var != 0 then .badVar
    else a.ok (!inFile 32 a.s1)
      (a.d != 0 || a.s2 != 0 || a.s3 != 0 || a.m8 != 0 || a.imm.toNat ≥ 65536 || a.imm.getLsbD 0)
      (.gwr g (reg 31 a.s1) (a.imm.extractLsb' 0 16))
  | 0x50 =>
    if h.var != 0 then .badVar
    else c.ok (!inFile 32 c.s1 || !inFile 32 (c.fn.extractLsb' 0 6)) (c.d != 0 || c.g2 != 0 || forkZero c.fn false)
      (.fork g (reg 31 c.s1) (reg 31 (c.fn.extractLsb' 0 6)) (Fin.ofNat 8 (c.fn.extractLsb' 8 3).toNat) (Fin.ofNat 4 (c.fn.extractLsb' 6 2).toNat) c.off)
  | 0x51 =>
    if h.var != 0 then .badVar
    else c.ok (!inFile 32 c.s1 || !inFile 32 (c.fn.extractLsb' 0 6) || !inFile 32 (c.fn.extractLsb' 12 6))
      (c.d != 0 || c.g2 != 0 || forkZero c.fn true)
      (.spawn g (reg 31 c.s1) (reg 31 (c.fn.extractLsb' 12 6)) (reg 31 (c.fn.extractLsb' 0 6)) (Fin.ofNat 8 (c.fn.extractLsb' 8 3).toNat) (Fin.ofNat 4 (c.fn.extractLsb' 6 2).toNat) c.off)
  | 0x52 => parseX false true false h a (.joindec g (reg 31 a.s1))
  | 0x53 =>
    if h.var == 0 then parseXv false false false a (.suspend g)
    else if h.var == 1 then parseXv false true false a (.suspendJ g (reg 31 a.s1)) else .badVar
  | 0x54 => parseX false true false h a (.await g (reg 31 a.s1))
  | 0x55 => parseX false false false h a (.yield g)
  | 0x56 => parseX false false false h a (.exit g)
  | 0x57 =>
    if h.var != 0 && h.var != 4 then .badVar
    else a.ok (a.srcFile h.i) (a.d != 0 || a.s1 != 0 || a.srcValue h.i || a.s3 != 0 || a.m8 != 0)
      (.stealdom g (a.src h.i))
  | 0x58 =>
    if h.var != 0 then .badVar
    else a.ok (!inFile 32 a.d) (a.s1 != 0 || a.s2 != 0 || a.s3 != 0 || a.imm != 0 || a.m8.toNat ≥ 9)
      (.getid g (reg 31 a.d) (Fin.ofNat 9 a.m8.toNat))
  | 0x59 =>
    if h.var != 0 && h.var != 4 then .badVar
    else a.ok (!inFile 32 a.d || a.srcFile h.i || (a.m8 == 1 && !inFile 32 a.s3))
      (a.s1 != 0 || a.srcValue h.i || (h.i && a.imm.toNat ≥ 65536) || a.m8.toNat ≥ 2 || (a.m8 != 1 && a.s3 != 0))
      (.waitev g (reg 31 a.d) (a.src h.i) (if a.m8 == 1 then some (reg 31 a.s3) else none))
  | 0x5A => parseX false true true h a (.sigev g (reg 31 a.s1) (reg 31 a.s2))
  | 0x60 => parseLoad .ld (fun _ => true) h a
  | 0x61 => parseLoad .ldu (· < 3) h a
  | 0x62 => parseStore .st (fun _ => true) h a
  | 0x63 => parseLoad .ldAcq (fun _ => true) h a
  | 0x64 => parseStore .stRel (fun _ => true) h a
  | 0x65 => parseLoad .ldw (· == 3) h a
  | 0x66 => parseLoad .ldt (· == 3) h a
  | 0x67 => parseStore .stf (· == 3) h a
  | 0x68 => parseStore .stw (· == 3) h a
  | 0x69 => parseLoad .lrq (· == 3) h a
  | 0x6A => parseStore .scq (· == 3) h a
  | 0x6B =>
    if h.size != 3 then .badVar
    else a.ok (!inFile 32 a.s1 || a.srcFile h.i) (a.srcValue h.i || a.d != 0 || a.s3 != 0 || a.m8 != 0)
      (.relq ⟨g, 3, 0, reg 31 a.s1, a.src h.i⟩)
  | 0x6C =>
    let n := a.m8.toNat % 16
    if h.size < 2 then .badVar
    else a.ok (!inFile 32 a.d || !inFile 32 a.s1 || a.srcFile h.i || (n == 9 && !inFile 32 a.s3))
      (a.srcValue h.i || (n != 9 && a.s3 != 0) || a.m8.extractLsb' 4 2 != 0 || n ≥ 13 || (n ≥ 10 && h.size == 3))
      (.amo g (h.size == 2) (AmoOp.ofCode n) (a.m8.getLsbD 7) (a.m8.getLsbD 6) (reg 31 a.d) (reg 31 a.s1)
        (a.src h.i) (if n == 9 then reg 31 a.s3 else 0))
  | 0x6D =>
    if h.var == 0 then parseXv false false false a (.fence g)
    else if h.var == 1 then parseXv false false false a (.fenceEng g)
    else if h.var == 2 then parseXv false false false a (.fenceI g) else .badVar
  | _ => .reserved

/-- Opcodes 0x80-0xBF (R66). -/
def parseVec (w : BitVec 96) : Parsed :=
  let h := Hdr.ofBits w
  let g := h.guard
  let a := FA.ofBits w
  let e := FE.ofBits w
  match h.op.toNat with
  | 0x80 => parseVBin .vadd h e
  | 0x81 => parseVBin .vsub h e
  | 0x82 => parseVBin .vmul h e
  | 0x83 =>
    if h.var != 0 && h.var != 1 then .badVar
    else e.ok (!inFile 16 e.d || !inFile 16 e.s1 || e.vsrcFile h || !inFile 16 e.s3) (e.imm != 0 || e.modeOnly)
      (.vfma ⟨g, reg 15 e.d, reg 15 e.s1, e.vsrc h, e.mode⟩ (reg 15 e.s3))
  | 0x84 => parseVBin .vmin h e
  | 0x85 => parseVBin .vmax h e
  | 0x86 => parseVUn .vabs h e
  | 0x87 => parseVUn .vneg h e
  | 0x88 => parseVLogic .vand h e
  | 0x89 => parseVLogic .vor h e
  | 0x8A => parseVLogic .vxor h e
  | 0x8B => parseVLogic .vshl h e
  | 0x8C =>
    if !h.vvar then .badVar
    else e.ok (!inFile 16 e.d || !inFile 16 e.s1 || e.vsrcFile h)
      (e.vsrcValue h || e.s3 != 0 || (e.mod != 0 && e.mod != 0x100))
      (.vshr g (e.mod == 0x100) (reg 15 e.d) (reg 15 e.s1) (e.vsrc h))
  | 0x90 =>
    let kind := (e.mod.extractLsb' 8 2).toNat
    let cond := (e.mod.extractLsb' 4 3).toNat
    if !h.vvar then .badVar
    else e.ok (!inFile 16 e.d || !inFile 16 e.s1 || e.vsrcFile h)
      (e.vsrcValue h || e.s3 != 0 || cond == 7 || kind == 3 || e.mod.extractLsb' 0 4 != 0 || e.mod.getLsbD 7 ||
        e.mod.extractLsb' 10 6 != 0)
      (.vcmp g (VCond.ofCode cond)
        (if kind == 0 then .mask (reg 15 e.d) else if kind == 1 then .any (reg 15 e.d) else .all (reg 15 e.d))
        (reg 15 e.s1) (e.vsrc h))
  | 0x91 =>
    if h.var != 0 then .badVar
    else e.ok (!inFile 16 e.d || !inFile 16 e.s1 || !inFile 16 e.s2 || !inFile 16 e.s3) (e.mod != 0 || e.imm != 0)
      (.vsel g (reg 15 e.d) (reg 15 e.s1) (reg 15 e.s2) (reg 15 e.s3))
  | 0x92 =>
    if h.var != 0 then .badVar
    else e.ok (!inFile 16 e.d || !inFile 16 e.s1 || !inFile 16 e.s2) (e.s3 != 0 || e.mod != 0 || e.imm != 0)
      (.vperm g (reg 15 e.d) (reg 15 e.s1) (reg 15 e.s2))
  | 0x93 =>
    if !h.xvar then .badVar
    else e.ok (!inFile 16 e.d || e.vsrcFile h) (e.s1 != 0 || e.vsrcValue h || e.s3 != 0 || e.modeOnly)
      (.vbcast g (reg 15 e.d) (e.xsrc h) e.mode)
  | 0x94 =>
    if !h.xvar then .badVar
    else e.ok (!inFile 16 e.d || !inFile 16 e.s1 || e.vsrcFile h) (e.vsrcValue h || e.s3 != 0 || e.mod != 0)
      (.vslide g (reg 15 e.d) (reg 15 e.s1) (e.xsrc h))
  | 0x95 =>
    let op := (e.mod.extractLsb' 4 3).toNat
    let x := e.mod.getLsbD 8
    let m := e.mod.getLsbD 9
    if h.var != 0 then .badVar
    else e.ok (!inFile (if x then 32 else 16) e.d || !inFile 16 e.s1 || (m && !inFile 16 e.s2))
      ((!m && e.s2 != 0) || e.s3 != 0 || e.imm != 0 || e.badMode || op ≥ 5 || (op ≥ 3 && !x) || e.mod.getLsbD 3 ||
        e.mod.getLsbD 7 || e.mod.extractLsb' 10 6 != 0)
      (.vred g (RedOp.ofCode op) e.mode (if x then .x (reg 31 e.d) else .v (reg 15 e.d)) (reg 15 e.s1)
        (if m then some (reg 15 e.s2) else none))
  | 0x96 =>
    if h.var != 0 then .badVar
    else e.ok (!inFile 16 e.d || !inFile 16 e.s1)
      (e.s2 != 0 || e.s3 != 0 || e.imm.toNat ≥ 65536 || e.badMode || e.mod.extractLsb' 3 5 != 0 ||
        e.mod.extractLsb' 10 6 != 0)
      (.vcvt g e.mode (Fin.ofNat 4 (e.mod.extractLsb' 8 2).toNat) (reg 15 e.d) (reg 15 e.s1) (e.imm.extractLsb' 0 16))
  | 0x97 =>
    if h.var != 0 then .badVar
    else e.ok (!inFile 16 e.d || !inFile 16 e.s1 || !inFile 32 e.s3) (e.s2 != 0 || e.imm.toNat ≥ 65536 || e.modeOnly)
      (.vqnt g e.mode (reg 15 e.d) (reg 15 e.s1) (reg 31 e.s3) (e.imm.extractLsb' 0 16))
  | 0x98 =>
    if h.var != 0 then .badVar
    else e.ok (!inFile 16 e.d || !inFile 16 e.s1 || !inFile 32 e.s2) (e.s3 != 0 || e.imm.toNat ≥ 65536 || e.modeOnly)
      (.vdqnt g e.mode (reg 15 e.d) (reg 15 e.s1) (reg 31 e.s2) (e.imm.extractLsb' 0 16))
  | 0x99 =>
    if !h.xvar then .badVar
    else e.ok (!inFile 16 e.d || !inFile 16 e.s1 || e.vsrcFile h)
      (e.vsrcValue h || (h.var == 4 && e.imm.toNat ≥ 65536) || e.s3 != 0 || e.mod != 0)
      (.vsettag g (reg 15 e.d) (reg 15 e.s1) (e.xsrc h))
  | 0x9A =>
    if h.var != 0 then .badVar
    else e.ok (!inFile 32 e.d || !inFile 16 e.s1) (e.s2 != 0 || e.s3 != 0 || e.mod != 0 || e.imm != 0)
      (.vgettag g (reg 31 e.d) (reg 15 e.s1))
  | 0x9B =>
    if !h.xvar then .badVar
    else e.ok (!inFile 32 e.d || !inFile 16 e.s1 || e.vsrcFile h) (e.vsrcValue h || e.s3 != 0 || e.mod != 0)
      (.vmovx g (reg 31 e.d) (reg 15 e.s1) (e.xsrc h))
  | 0x9C =>
    if !h.xvar then .badVar
    else e.ok (!inFile 16 e.d || !inFile 16 e.s1 || e.vsrcFile h || !inFile 32 e.s3) (e.vsrcValue h || e.mod != 0)
      (.vins g (reg 15 e.d) (reg 15 e.s1) (e.xsrc h) (reg 31 e.s3))
  | 0xA0 =>
    if h.var != 0 then .badVar
    else e.ok (!inFile 16 e.d || !inFile 32 e.s1) (e.s2 != 0 || e.s3 != 0) (.vld g (reg 15 e.d) (reg 31 e.s1) e.imm e.mod)
  | 0xA1 =>
    if h.var != 0 then .badVar
    else e.ok (!inFile 16 e.s3 || !inFile 32 e.s1) (e.s2 != 0 || e.d != 0 || e.mod != 0)
      (.vst g (reg 15 e.s3) (reg 31 e.s1) e.imm)
  | 0xA2 =>
    if h.var != 0 then .badVar
    else e.ok (!inFile 16 e.d || !inFile 32 e.s1 || !inFile 32 e.s2) (e.s3 != 0 || e.imm != 0)
      (.vlds g (reg 15 e.d) (reg 31 e.s1) (reg 31 e.s2) e.mod)
  | 0xA3 =>
    if h.var != 0 then .badVar
    else e.ok (!inFile 16 e.s3 || !inFile 32 e.s1 || !inFile 32 e.s2) (e.d != 0 || e.imm != 0 || e.mod != 0)
      (.vsts g (reg 15 e.s3) (reg 31 e.s1) (reg 31 e.s2))
  | 0xA4 =>
    if h.var != 0 then .badVar
    else e.ok (!inFile 16 e.d || !inFile 32 e.s1 || !inFile 16 e.s2) (e.s3 != 0 || e.imm != 0)
      (.vldx g (reg 15 e.d) (reg 31 e.s1) (reg 15 e.s2) e.mod)
  | 0xA5 =>
    if h.var != 0 then .badVar
    else e.ok (!inFile 16 e.s3 || !inFile 32 e.s1 || !inFile 16 e.s2) (e.d != 0 || e.imm != 0 || e.mod != 0)
      (.vstx g (reg 15 e.s3) (reg 31 e.s1) (reg 15 e.s2))
  | 0xB0 => parseX true true true h a (.qbind g (reg 31 a.d) (reg 31 a.s1) (reg 31 a.s2))
  | 0xB1 => parseX true false false h a (.qfree g (reg 31 a.d))
  | 0xB2 => parseX true true false h a (.qstat g (reg 31 a.d) (reg 31 a.s1))
  | 0xB3 =>
    if h.var != 0 then .badVar
    else e.ok (!inFile 16 e.s3 || !inFile 32 e.s1) (e.d != 0 || e.s2 != 0 || e.imm.toNat ≥ 65536)
      (.vsend g (reg 15 e.s3) (reg 31 e.s1) e.mod e.imm)
  | 0xB4 =>
    if h.var != 0 then .badVar
    else e.ok (!inFile 16 e.d || !inFile 32 e.s1) (e.s2 != 0 || e.s3 != 0 || e.mod != 0 || e.imm != 0)
      (.vqpop g (reg 15 e.d) (reg 31 e.s1))
  | 0xB5 =>
    if h.var != 0 then .badVar
    else e.ok (!inFile 16 e.s3 || !inFile 32 e.s1) (e.d != 0 || e.s2 != 0 || e.mod != 0 || e.imm != 0)
      (.vqpush g (reg 15 e.s3) (reg 31 e.s1))
  | 0xB6 =>
    let kind := a.imm.extractLsb' 0 8
    let len := a.imm.extractLsb' 8 9
    if h.var != 0 then .badVar
    else a.ok (!inFile 32 a.s1 || !inFile 32 a.s2)
      (a.d != 0 || a.s3 != 0 || a.m8 != 0 || a.imm.extractLsb' 17 15 != 0 || kind.toNat < 64 || len.toNat > 256 ||
        (a.s2 == 0 && len.toNat > 32))
      (.amcall g (reg 31 a.s1) (reg 31 a.s2) kind len)
  | 0xB8 =>
    if h.var != 0 then .badVar
    else e.ok (!inFile 16 e.d || !inFile 16 e.s1 || !inFile 16 e.s2 || !inFile 16 e.s3 ||
        !inFile 32 (e.imm.extractLsb' 8 6))
      (e.modeOnly || e.imm.extractLsb' 14 18 != 0)
      (.cxop g e.mode (reg 15 e.d) (reg 15 e.s1) (reg 15 e.s2) (reg 15 e.s3) (e.imm.extractLsb' 0 8)
        (reg 31 (e.imm.extractLsb' 8 6)))
  | 0xB9 => parseX false true false h a (.cxload g (reg 31 a.s1))
  | 0xBA => parseX false true false h a (.cxdrop g (reg 31 a.s1))
  | 0xBB => parseX true true false h a (.cxqry g (reg 31 a.d) (reg 31 a.s1))
  | 0xBC => parseX false true true h a (.cxtbl g (reg 31 a.s1) (reg 31 a.s2))
  | 0xBD =>
    let clr := a.m8.getLsbD 7
    if h.var != 0 then .badVar
    else a.ok (!clr && !inFile 32 a.s1)
      (a.d != 0 || (clr && a.s1 != 0) || a.s2 != 0 || a.s3 != 0 || a.imm.toNat ≥ 16 || a.imm == 0 ||
        a.m8.extractLsb' 2 5 != 0)
      (.bndset g (Fin.ofNat 16 a.imm.toNat) clr (a.m8.extractLsb' 0 2) (if clr then 0 else reg 31 a.s1))
  | 0xBE =>
    if h.var != 0 then .badVar
    else a.ok (!inFile 32 a.d)
      (a.s1 != 0 || a.s2 != 0 || a.s3 != 0 || a.imm.toNat ≥ 16 || a.imm == 0 || a.m8.toNat ≥ 2)
      (.bndget g (reg 31 a.d) (Fin.ofNat 16 a.imm.toNat) (a.m8 == 1))
  | 0xBF =>
    let k := Fin.ofNat 4 (a.m8.toNat % 4)
    let hd := Fin.ofNat 4 (a.m8.toNat / 4)
    let bad := a.s1 != 0 || a.s2 != 0 || a.s3 != 0 || a.m8.toNat ≥ 16 || a.imm.toNat ≥ 8 || (hd != 2 && a.imm != 0)
    if h.var == 0 then a.ok (!inFile 32 a.d) bad (.cntrd g (reg 31 a.d) k hd (Fin.ofNat 8 a.imm.toNat))
    else if h.var == 1 then a.ok false (bad || a.d != 0) (.cntclr g k hd (Fin.ofNat 8 a.imm.toNat)) else .badVar
  | _ => .reserved

/-- Opcodes 0xC0-0xFF (R67). -/
def parseHigh (w : BitVec 96) : Parsed :=
  let h := Hdr.ofBits w
  let g := h.guard
  let a := FA.ofBits w
  let e := FE.ofBits w
  match h.op.toNat with
  | 0xC0 =>
    if h.var != 0 then .badVar
    else e.ok (!inFile 8 e.d || !inFile 32 e.s1) (e.s2 != 0 || e.s3 != 0 || e.mod != 0) (.mshld g (reg 7 e.d) (reg 31 e.s1) e.imm)
  | 0xC1 =>
    let sp := h.var == 1 || h.var == 3
    let ga := h.var == 2 || h.var == 3
    let file := !inFile 8 e.d || (sp && !inFile 32 e.s1) || (ga && !inFile 16 e.s2) || badSh e.sa || badSh e.sb
    let value := (!sp && e.s1 != 0) || (!ga && e.s2 != 0) || e.s3 != 0 || e.imm != 0 || e.mod.extractLsb' 0 3 != 0 ||
      e.mod.extractLsb' 10 6 != 0 || (if sp then e.mod.extractLsb' 6 2 == 3 else e.mod.extractLsb' 6 2 != 0) ||
      (!ga && e.mod.extractLsb' 8 2 != 0)
    let o := mmaOpts e.mod
    let spn := Fin.ofNat 3 (e.mod.extractLsb' 6 2).toNat
    let mg := Fin.ofNat 4 (e.mod.extractLsb' 8 2).toNat
    let i : Option Instr :=
      if h.var == 0 then some (.mma g (reg 7 e.d) (shr e.sa) (shr e.sb) o)
      else if h.var == 1 then some (.mmaSp g (reg 7 e.d) (shr e.sa) (shr e.sb) o (reg 31 e.s1) spn)
      else if h.var == 2 then some (.mmaGa g (reg 7 e.d) (shr e.sa) (shr e.sb) o (reg 15 e.s2) mg)
      else if h.var == 3 then
        some (.mmaSpga g (reg 7 e.d) (shr e.sa) (shr e.sb) o (reg 31 e.s1) spn (reg 15 e.s2) mg)
      else none
    match i with
    | none => .badVar
    | some i => .ok file value false false i
  | 0xC2 =>
    if h.var != 0 then .badVar
    else e.ok (!inFile 8 e.d) (e.s1 != 0 || e.s2 != 0 || e.s3 != 0 || e.mod != 0 || e.imm.toNat ≥ 65536)
      (.mzero g (reg 7 e.d) (e.imm.extractLsb' 0 16))
  | 0xC3 =>
    if h.var != 0 then .badVar
    else .ok (!inFile 8 e.d || badSh e.sa || badSh e.sb) (e.s1 != 0 || e.s2 != 0 || e.s3 != 0 || e.sb != 0 || e.mod != 0 || e.imm.toNat ≥ 65536) false false
      (.mld g (reg 7 e.d) (shr e.sa) (e.imm.extractLsb' 0 16))
  | 0xC4 =>
    if h.var != 0 then .badVar
    else .ok (!inFile 8 e.s3 || badSh e.sa || badSh e.sb)
      (e.d != 0 || e.s1 != 0 || e.s2 != 0 || e.sb != 0 || e.modeOnly || e.imm != 0) false false
      (.mst g e.mode (reg 7 e.s3) (shr e.sa))
  | 0xC5 =>
    let op := (e.mod.extractLsb' 4 2).toNat
    if h.var != 0 then .badVar
    else e.ok (!inFile 16 e.d || !inFile 8 e.s1)
      (e.s2 != 0 || e.s3 != 0 || e.imm != 0 || e.badMode || e.mod.getLsbD 3 || op == 3 ||
        e.mod.extractLsb' 12 4 != 0)
      (.mrowred g (Red3.ofCode op) e.mode (e.mod.getLsbD 6) (e.mod.extractLsb' 7 5) (reg 15 e.d) (reg 7 e.s1))
  | 0xC6 =>
    if h.var != 0 then .badVar
    else e.ok (!inFile 32 e.d || !inFile 8 e.s1) (e.s2 != 0 || e.s3 != 0 || e.imm != 0 || e.mod.toNat ≥ 2)
      (.mcnt g (e.mod == 1) (reg 31 e.d) (reg 7 e.s1))
  | 0xD0 =>
    if h.var != 0 then .badVar
    else e.ok (!inFile 32 e.d || !inFile 32 e.s1) (e.s2 != 0 || e.s3 != 0 || e.mod != 0 || e.imm != 0)
      (.copy g (reg 31 e.d) (reg 31 e.s1))
  | 0xD1 =>
    if h.var != 0 then .badVar
    else e.ok (!inFile 32 e.d || !inFile 32 e.s1) (e.s2 != 0 || e.s3 != 0 || e.mod != 0 || e.imm != 0)
      (.copym g (reg 31 e.d) (reg 31 e.s1))
  | 0xD2 => parseX true true false h a (.cprom g (reg 31 a.d) (reg 31 a.s1))
  | 0xD8 => parseX false true true h a (.hcfg g (reg 31 a.s1) (reg 31 a.s2))
  | 0xD9 =>
    if h.var == 0 then parseXv false true false a (.publish g (reg 31 a.s1))
    else if h.var == 1 then parseXv false true false a (.publishF g (reg 31 a.s1)) else .badVar
  | 0xDA => parseX false true true h a (.hsub g (reg 31 a.s1) (reg 31 a.s2))
  | 0xDB => parseX false true true h a (.hunsub g (reg 31 a.s1) (reg 31 a.s2))
  | 0xDC => parseX true true false h a (.hver g (reg 31 a.d) (reg 31 a.s1))
  | 0xDD =>
    if h.var == 0 then parseXv false true false a (.stopref g (reg 31 a.s1))
    else if h.var == 1 then parseXv false true true a (.stoprefAt g (reg 31 a.s1) (reg 31 a.s2)) else .badVar
  | 0xDE =>
    if h.var != 0 then .badVar
    else a.ok (!inFile 16 a.d || !inFile 32 a.s1) (a.s2 != 0 || a.s3 != 0 || a.m8 != 0 || a.imm != 0)
      (.refchk g (reg 15 a.d) (reg 31 a.s1))
  | 0xDF =>
    let bad := a.s2 != 0 || a.s3 != 0 || a.m8 != 0 || a.imm.toNat ≥ 65536
    let set := a.imm.extractLsb' 0 8
    let nh := a.imm.extractLsb' 8 8
    if h.var == 0 then a.ok (!inFile 32 a.s1) (bad || a.d != 0) (.settle g (reg 31 a.s1) set nh)
    else if h.var == 1 then a.ok (!inFile 32 a.d || !inFile 32 a.s1) bad (.settlew g (reg 31 a.d) (reg 31 a.s1) set nh)
    else .badVar
  | 0xE0 => parseX true true false h a (.launch g (reg 31 a.d) (reg 31 a.s1))
  | 0xE1 => parseX true true false h a (.deal g (reg 31 a.d) (reg 31 a.s1))
  | 0xE2 =>
    if h.var == 0 then
      a.ok (!inFile 32 a.d || !inFile 32 a.s1) (a.s2 != 0 || a.s3 != 0 || a.m8.toNat ≥ 16 || a.imm != 0)
        (.ringget g (reg 31 a.d) (Fin.ofNat 16 a.m8.toNat) (reg 31 a.s1))
    else if h.var == 1 then
      a.ok (!inFile 32 a.s3 || !inFile 32 a.s1) (a.d != 0 || a.s2 != 0 || a.m8 != 0 || a.imm != 0)
        (.ringput g (reg 31 a.s3) (reg 31 a.s1))
    else .badVar
  | 0xE3 => parseX true true true h a (.govset g (reg 31 a.d) (reg 31 a.s1) (reg 31 a.s2))
  | 0xE4 =>
    if h.var == 0 then parseXv true true false a (.preempt g (reg 31 a.d) (reg 31 a.s1))
    else if h.var == 1 then parseXv true true false a (.resume g (reg 31 a.d) (reg 31 a.s1)) else .badVar
  | 0xE5 =>
    if h.var == 0 then parseXv true true false a (.rdhmap g (reg 31 a.d) (reg 31 a.s1))
    else if h.var == 1 then
      a.ok (!inFile 32 a.d || !inFile 32 a.s1) (a.s2 != 0 || a.s3 != 0 || a.m8 != 0 || a.imm.toNat ≥ 2)
        (.rdlpt g (reg 31 a.d) (reg 31 a.s1) (a.imm == 1))
    else .badVar
  | 0xE6 => parseX true false false h a (.quiesce g (reg 31 a.d))
  | 0xE8 =>
    if h.var != 0 then .badVar
    else a.ok (!inFile 4 a.d || !inFile 32 a.s1) (a.s2 != 0 || a.s3 != 0 || a.m8 != 0 || a.imm != 0)
      (.barset g (reg 3 a.d) (reg 31 a.s1))
  | 0xE9 =>
    if h.var != 0 then .badVar
    else a.ok (!inFile 4 a.s1) (a.d != 0 || a.s2 != 0 || a.s3 != 0 || a.m8 != 0 || a.imm != 0) (.bararr g (reg 3 a.s1))
  | 0xEA =>
    let bad := a.s2 != 0 || a.s3 != 0 || a.m8 != 0
    if h.var == 0 then a.ok (!inFile 16 a.d || !inFile 4 a.s1) bad (.barwait g (reg 15 a.d) (reg 3 a.s1) a.imm)
    else if h.var == 1 then a.ok (!inFile 4 a.s1) (bad || a.d != 0) (.barwaitF g (reg 3 a.s1) a.imm) else .badVar
  | 0xEB =>
    if h.var != 0 then .badVar
    else a.ok (!inFile 4 a.s1) (a.d != 0 || a.s2 != 0 || a.s3 != 0 || a.m8 != 0 || a.imm != 0) (.barwd g (reg 3 a.s1))
  | 0xEC => parseX true true false h a (.chkpt g (reg 31 a.d) (reg 31 a.s1))
  | 0xED =>
    if h.var != 0 then .badVar
    else a.ok (!inFile 32 a.s1 || !inFile 32 a.s2) (a.d != 0 || a.s3 != 0 || a.m8.toNat ≥ 4 || a.imm != 0)
      (.tlbinv g (reg 31 a.s1) (reg 31 a.s2) (Fin.ofNat 4 a.m8.toNat))
  | 0xEE =>
    let op := a.m8.toNat
    if h.var != 0 then .badVar
    else a.ok (!inFile 32 a.d || !inFile 32 a.s1 || !inFile 32 a.s2) (a.s3 != 0 || op ≥ 3 || a.imm != 0)
      (if op == 0 then .rmapsetRemap g (reg 31 a.d) (reg 31 a.s1) (reg 31 a.s2)
       else if op == 1 then .rmapsetMarkDead g (reg 31 a.d) (reg 31 a.s1) (reg 31 a.s2)
       else .rmapsetClearDead g (reg 31 a.d) (reg 31 a.s1) (reg 31 a.s2))
  | 0xF0 => parseX true true true h a (.grpjoin g (reg 31 a.d) (reg 31 a.s1) (reg 31 a.s2))
  | 0xF1 => parseX false true false h a (.grpleave g (reg 31 a.s1))
  | 0xF2 =>
    if h.var != 0 then .badVar
    else a.ok (!inFile 16 a.d || !inFile 32 a.s1 || !inFile 16 a.s2) (a.s3 != 0 || a.m8.toNat ≥ 3 || a.imm != 0)
      (.grpred g (Red3.ofCode a.m8.toNat) (reg 15 a.d) (reg 31 a.s1) (reg 15 a.s2))
  | 0xF3 =>
    if h.var != 0 then .badVar
    else a.ok (!inFile 16 a.d || !inFile 32 a.s1 || !inFile 16 a.s2) (a.s3 != 0 || a.m8 != 0 || a.imm.toNat ≥ 256)
      (.grpbc g (reg 15 a.d) (reg 31 a.s1) (reg 15 a.s2) (a.imm.extractLsb' 0 8))
  | 0xF4 => parseX false true false h a (.grpbar g (reg 31 a.s1))
  | 0xF5 => parseX true true true h a (.fremap g (reg 31 a.d) (reg 31 a.s1) (reg 31 a.s2))
  | _ => .reserved

/-- The fields of a slot read by the opcode map. -/
def parse (w : BitVec 96) : Parsed :=
  let op := (Hdr.ofBits w).op.toNat
  if op < 0x80 then parseLow w else if op < 0xC0 then parseVec w else parseHigh w

/-- The instruction of a slot, or the lowest reason for which it is none (R68). -/
def decode (w : BitVec 96) : Except Reject Instr :=
  match parse w with
  | .reserved => .error .reservedOp
  | .badVar => .error .undefinedVar
  | .ok file value zero fn i =>
    if file then .error .registerField
    else if value then .error .unusedField
    else if zero then .error .zeroField
    else if fn then .error .function10
    else if !(Hdr.ofBits w).guard.wf then .error .guardField
    else .ok i

/-- The instruction that the decoder reads from a slot given as a number (slots have 96 bits, so the table's
numbering is that of R41). -/
def decodeTableWord (_nbits w : Nat) : Option Instr :=
  match decode (BitVec.ofNat 96 w) with
  | .ok i => some i
  | .error _ => none

/-! ## Encoding -/

/-- A header. -/
def hdr (op var : Nat) (g : Guard) : BitVec 16 :=
  Hdr.bits ⟨BitVec.ofNat 8 op, BitVec.ofNat 4 g.g.val, BitVec.ofBool g.neg, BitVec.ofNat 3 var⟩

/-- Format A. -/
def encA (op var : Nat) (g : Guard) (d s1 s2 s3 : BitVec 6) (m8 : Nat) (imm : BitVec 32) : BitVec 96 :=
  hdr op var g ++ FA.bits ⟨d, s1, s2, s3, BitVec.ofNat 8 m8, 0, imm⟩

/-- Format C. -/
def encC (op var : Nat) (g : Guard) (d s1 : BitVec 6) (g2 : Nat) (fn : BitVec 24) (off : BitVec 40) : BitVec 96 :=
  hdr op var g ++ FC.bits ⟨d, s1, BitVec.ofNat 4 g2, fn, off⟩

/-- Format E. -/
def encE (op var : Nat) (g : Guard) (d s1 s2 s3 : BitVec 6) (sa sb mod : Nat) (imm : BitVec 32) : BitVec 96 :=
  hdr op var g ++ FE.bits ⟨d, s1, s2, s3, BitVec.ofNat 4 sa, BitVec.ofNat 4 sb, BitVec.ofNat 16 mod, imm⟩

/-- S2 of a source operand. -/
def Src.s2 : Src → BitVec 6
  | .reg r => fld r
  | .imm _ => 0

/-- IMM32 of a source operand. -/
def Src.imm32 : Src → BitVec 32
  | .reg _ => 0
  | .imm v => v

/-- VAR[2] of a source operand. -/
def Src.i : Src → Nat
  | .reg _ => 0
  | .imm _ => 4

/-- VAR of a scalar command of format E (R66). -/
def Src.xvar : Src → Nat
  | .reg _ => 1
  | .imm _ => 4

def VSrc.s2 : VSrc → BitVec 6
  | .v r => fld r
  | .x r => fld r
  | .imm _ => 0

def VSrc.imm32 : VSrc → BitVec 32
  | .imm i => i
  | _ => 0

def VSrc.var : VSrc → Nat
  | .v _ => 0
  | .x _ => 1
  | .imm _ => 4

def encAlu (op : Nat) (a : Alu) : BitVec 96 :=
  encA op (a.src.i + if a.w then 2 else 3) a.gd (fld a.d) (fld a.s1) a.src.s2 0 0 a.src.imm32

def encUn (op : Nat) (a : Un) : BitVec 96 := encA op (if a.w then 2 else 3) a.gd (fld a.d) (fld a.s1) 0 0 0 0

def encLoad (op : Nat) (a : MemForm) : BitVec 96 :=
  encA op (a.off.i + a.size.val) a.gd (fld a.r) (fld a.base) a.off.s2 0 0 a.off.imm32

def encStore (op : Nat) (a : MemForm) : BitVec 96 :=
  encA op (a.off.i + a.size.val) a.gd 0 (fld a.base) a.off.s2 (fld a.r) 0 a.off.imm32

def encX (op var : Nat) (g : Guard) (d s1 s2 : BitVec 6) : BitVec 96 := encA op var g d s1 s2 0 0 0

def encVBin (op : Nat) (a : VBin) (s3 : BitVec 6) : BitVec 96 :=
  encE op a.src.var a.gd (fld a.d) (fld a.s1) a.src.s2 s3 0 0 a.mode.code a.src.imm32

def encVUn (op : Nat) (a : VUn) : BitVec 96 := encE op 0 a.gd (fld a.d) (fld a.s1) 0 0 0 0 a.mode.code 0

def encVLogic (op mod : Nat) (g : Guard) (d s1 : Fin 16) (src : VSrc) : BitVec 96 :=
  encE op src.var g (fld d) (fld s1) src.s2 0 0 0 mod src.imm32

/-- FN24 of FORK and SPAWN (Table 4.5). -/
def forkFn (t j : BitVec 6) (dom : Fin 8) (pri : Fin 4) : BitVec 24 :=
  (0 : BitVec 6) ++ t ++ (0 : BitVec 1) ++ BitVec.ofNat 3 dom.val ++ BitVec.ofNat 2 pri.val ++ j

def VCmpDst.kind : VCmpDst → Nat
  | .mask _ => 0
  | .any _ => 1
  | .all _ => 2

def VCmpDst.reg : VCmpDst → BitVec 6
  | .mask d => fld d
  | .any g => fld g
  | .all g => fld g

/-- MOD16 of the MMA forms (Table 11.3). -/
def MmaOpts.mod (o : MmaOpts) (spn mg : Nat) : Nat :=
  (if o.nega then 8 else 0) + (if o.negb then 16 else 0) + (if o.accdis then 32 else 0) + 64 * spn + 256 * mg

/-- A 16-bit value as IMM32. -/
def imm16 (v : BitVec 16) : BitVec 32 := v.zeroExtend 32

/-- The word of a well-formed instruction, written from the same tables as the decoder; the steps of other
agents have none. -/
def encode (i : Instr) : BitVec 96 :=
  match i with
  | .nop gd => encX 0x01 0 gd 0 0 0
  | .j gd off => encC 0x02 0 gd 0 0 0 0 off
  | .jal gd d off => encC 0x03 0 gd (fld d) 0 0 0 off
  | .jr gd s1 => encC 0x04 0 gd 0 (fld s1) 0 0 0
  | .jalr gd d s1 => encC 0x05 0 gd (fld d) (fld s1) 0 0 0
  | .br gd g2 off => encC 0x06 0 gd 0 0 g2.val 0 off
  | .brF gd g2 off => encC 0x06 1 gd 0 0 g2.val 0 off
  | .loop gd lv s1 off => encC 0x07 lv.val gd 0 (fld s1) 0 0 off
  | .loopi gd lv cnt off => encC 0x08 lv.val gd 0 0 0 cnt off
  | .loopx gd lv d s1 st off => encC 0x09 lv.val gd (fld d) (fld s1) 0 ((0 : BitVec 18) ++ fld st) off
  | .trap gd code => encA 0x0A 0 gd 0 0 0 0 0 (imm16 code)
  | .brk gd code => encA 0x0B 0 gd 0 0 0 0 0 (imm16 code)
  | .supcall gd code => encA 0x0C 0 gd 0 0 0 0 0 (imm16 code)
  | .rdsys gd d n => encA 0x0D 0 gd (fld d) 0 0 0 0 (n.zeroExtend 32)
  | .wrsys gd n s1 => encA 0x0D 1 gd 0 (fld s1) 0 0 0 (n.zeroExtend 32)
  | .rdtime gd d => encX 0x0E 0 gd (fld d) 0 0
  | .sleepuntil gd s1 s2 => encX 0x0F 0 gd 0 (fld s1) (fld s2)
  | .add a => encAlu 0x10 a
  | .sub a => encAlu 0x11 a
  | .and a => encAlu 0x12 a
  | .or a => encAlu 0x13 a
  | .xor a => encAlu 0x14 a
  | .sll a => encAlu 0x15 a
  | .srl a => encAlu 0x16 a
  | .sra a => encAlu 0x17 a
  | .slt a => encAlu 0x18 a
  | .sltu a => encAlu 0x19 a
  | .mul a => encAlu 0x1A a
  | .mulh a => encAlu 0x1B a
  | .mulhm a => encAlu 0x1C a
  | .mulhu a => encAlu 0x1D a
  | .div a => encAlu 0x1E a
  | .divu a => encAlu 0x1F a
  | .rem a => encAlu 0x20 a
  | .remu a => encAlu 0x21 a
  | .min a => encAlu 0x24 a
  | .max a => encAlu 0x25 a
  | .minu a => encAlu 0x26 a
  | .maxu a => encAlu 0x27 a
  | .clz a => encUn 0x28 a
  | .ctz a => encUn 0x29 a
  | .cpop a => encUn 0x2A a
  | .li gd d imm => hdr 0x22 0 gd ++ FI.bits ⟨fld d, 0, imm⟩
  | .addpc gd d off => encA 0x23 7 gd (fld d) 0 0 0 0 off
  | .cmp gd w c d s1 src => encA 0x40 (src.i + if w then 2 else 3) gd (fld d) (fld s1) src.s2 0 c.code src.imm32
  | .tst gd z d s1 src => encA 0x41 (src.i + 3) gd (fld d) (fld s1) src.s2 0 (if z then 1 else 0) src.imm32
  | .glog gd d a b tbl => encA 0x42 0 gd (fld d) (fld a) (fld b) 0 tbl.toNat 0
  | .grd gd d => encX 0x43 0 gd (fld d) 0 0
  | .gwr gd s1 mask => encA 0x44 0 gd 0 (fld s1) 0 0 0 (imm16 mask)
  | .fork gd s1 jr dom pri off => encC 0x50 0 gd 0 (fld s1) 0 (forkFn 0 (fld jr) dom pri) off
  | .spawn gd s1 t jr dom pri off => encC 0x51 0 gd 0 (fld s1) 0 (forkFn (fld t) (fld jr) dom pri) off
  | .joindec gd s1 => encX 0x52 0 gd 0 (fld s1) 0
  | .suspend gd => encX 0x53 0 gd 0 0 0
  | .suspendJ gd s1 => encX 0x53 1 gd 0 (fld s1) 0
  | .await gd s1 => encX 0x54 0 gd 0 (fld s1) 0
  | .yield gd => encX 0x55 0 gd 0 0 0
  | .exit gd => encX 0x56 0 gd 0 0 0
  | .stealdom gd src => encA 0x57 src.i gd 0 0 src.s2 0 0 src.imm32
  | .getid gd d sel => encA 0x58 0 gd (fld d) 0 0 0 sel.val 0
  | .waitev gd d src watch => match watch with
    | some r => encA 0x59 src.i gd (fld d) 0 src.s2 (fld r) 1 src.imm32
    | none => encA 0x59 src.i gd (fld d) 0 src.s2 0 0 src.imm32
  | .sigev gd s1 s2 => encX 0x5A 0 gd 0 (fld s1) (fld s2)
  | .ld a => encLoad 0x60 a
  | .ldu a => encLoad 0x61 a
  | .ldAcq a => encLoad 0x63 a
  | .ldw a => encLoad 0x65 a
  | .ldt a => encLoad 0x66 a
  | .lrq a => encLoad 0x69 a
  | .st a => encStore 0x62 a
  | .stRel a => encStore 0x64 a
  | .stf a => encStore 0x67 a
  | .stw a => encStore 0x68 a
  | .scq a => encStore 0x6A a
  | .relq a => encStore 0x6B a
  | .amo gd w op aq rl d s1 src s3 =>
    encA 0x6C (src.i + if w then 2 else 3) gd (fld d) (fld s1) src.s2 (fld s3)
      ((if aq then 128 else 0) + (if rl then 64 else 0) + op.code) src.imm32
  | .fence gd => encX 0x6D 0 gd 0 0 0
  | .fenceEng gd => encX 0x6D 1 gd 0 0 0
  | .fenceI gd => encX 0x6D 2 gd 0 0 0
  | .vadd a => encVBin 0x80 a 0
  | .vsub a => encVBin 0x81 a 0
  | .vmul a => encVBin 0x82 a 0
  | .vmin a => encVBin 0x84 a 0
  | .vmax a => encVBin 0x85 a 0
  | .vfma a s3 => encVBin 0x83 a (fld s3)
  | .vabs a => encVUn 0x86 a
  | .vneg a => encVUn 0x87 a
  | .vand gd d s1 src => encVLogic 0x88 0 gd d s1 src
  | .vor gd d s1 src => encVLogic 0x89 0 gd d s1 src
  | .vxor gd d s1 src => encVLogic 0x8A 0 gd d s1 src
  | .vshl gd d s1 src => encVLogic 0x8B 0 gd d s1 src
  | .vshr gd lgc d s1 src => encVLogic 0x8C (if lgc then 256 else 0) gd d s1 src
  | .vcmp gd c d s1 src => encE 0x90 src.var gd d.reg (fld s1) src.s2 0 0 0 (16 * c.code + 256 * d.kind) src.imm32
  | .vsel gd d s1 s2 s3 => encE 0x91 0 gd (fld d) (fld s1) (fld s2) (fld s3) 0 0 0 0
  | .vperm gd d s1 s2 => encE 0x92 0 gd (fld d) (fld s1) (fld s2) 0 0 0 0 0
  | .vslide gd d s1 src => encE 0x94 src.xvar gd (fld d) (fld s1) src.s2 0 0 0 0 src.imm32
  | .vbcast gd d src mode => encE 0x93 src.xvar gd (fld d) 0 src.s2 0 0 0 mode.code src.imm32
  | .vmovx gd d s1 src => encE 0x9B src.xvar gd (fld d) (fld s1) src.s2 0 0 0 0 src.imm32
  | .vins gd d s1 src s3 => encE 0x9C src.xvar gd (fld d) (fld s1) src.s2 (fld s3) 0 0 0 src.imm32
  | .vred gd op mode d s1 m =>
    encE 0x95 0 gd (match d with | .v r => fld r | .x r => fld r) (fld s1)
      (match m with | some r => fld r | none => 0) 0 0 0
      (mode.code + 16 * op.code + (match d with | .v _ => 0 | .x _ => 256) +
        (match m with | some _ => 512 | none => 0)) 0
  | .vsettag gd d s1 src => encE 0x99 src.xvar gd (fld d) (fld s1) src.s2 0 0 0 0 src.imm32
  | .vgettag gd d s1 => encE 0x9A 0 gd (fld d) (fld s1) 0 0 0 0 0 0
  | .vcvt gd mode part d s1 tag => encE 0x96 0 gd (fld d) (fld s1) 0 0 0 0 (mode.code + 256 * part.val) (imm16 tag)
  | .vqnt gd mode d s1 s3 tag => encE 0x97 0 gd (fld d) (fld s1) 0 (fld s3) 0 0 mode.code (imm16 tag)
  | .vdqnt gd mode d s1 s2 tag => encE 0x98 0 gd (fld d) (fld s1) (fld s2) 0 0 0 mode.code (imm16 tag)
  | .vld gd d s1 off tag => encE 0xA0 0 gd (fld d) (fld s1) 0 0 0 0 tag.toNat off
  | .vst gd s3 s1 off => encE 0xA1 0 gd 0 (fld s1) 0 (fld s3) 0 0 0 off
  | .vlds gd d s1 s2 tag => encE 0xA2 0 gd (fld d) (fld s1) (fld s2) 0 0 0 tag.toNat 0
  | .vsts gd s3 s1 s2 => encE 0xA3 0 gd 0 (fld s1) (fld s2) (fld s3) 0 0 0 0
  | .vldx gd d s1 s2 tag => encE 0xA4 0 gd (fld d) (fld s1) (fld s2) 0 0 0 tag.toNat 0
  | .vstx gd s3 s1 s2 => encE 0xA5 0 gd 0 (fld s1) (fld s2) (fld s3) 0 0 0 0
  | .qbind gd d s1 s2 => encX 0xB0 0 gd (fld d) (fld s1) (fld s2)
  | .qfree gd d => encX 0xB1 0 gd (fld d) 0 0
  | .qstat gd d s1 => encX 0xB2 0 gd (fld d) (fld s1) 0
  | .vqpop gd d s1 => encE 0xB4 0 gd (fld d) (fld s1) 0 0 0 0 0 0
  | .vqpush gd s3 s1 => encE 0xB5 0 gd 0 (fld s1) 0 (fld s3) 0 0 0 0
  | .vsend gd s3 s1 wtag imm => encE 0xB3 0 gd 0 (fld s1) 0 (fld s3) 0 0 wtag.toNat imm
  | .amcall gd s1 s2 kind len => encA 0xB6 0 gd 0 (fld s1) (fld s2) 0 0 ((0 : BitVec 15) ++ len ++ kind)
  | .cxop gd mode d s1 s2 s3 n sc =>
    encE 0xB8 0 gd (fld d) (fld s1) (fld s2) (fld s3) 0 0 mode.code
      ((0 : BitVec 18) ++ fld sc ++ n)
  | .cxload gd s1 => encX 0xB9 0 gd 0 (fld s1) 0
  | .cxdrop gd s1 => encX 0xBA 0 gd 0 (fld s1) 0
  | .cxqry gd d s1 => encX 0xBB 0 gd (fld d) (fld s1) 0
  | .cxtbl gd s1 s2 => encX 0xBC 0 gd 0 (fld s1) (fld s2)
  | .bndset gd k clr mode s1 => encA 0xBD 0 gd 0 (fld s1) 0 0 ((if clr then 128 else 0) + mode.toNat) (BitVec.ofNat 32 k.val)
  | .bndget gd d k sel => encA 0xBE 0 gd (fld d) 0 0 0 (if sel then 1 else 0) (BitVec.ofNat 32 k.val)
  | .cntrd gd d k hd t => encA 0xBF 0 gd (fld d) 0 0 0 (k.val + 4 * hd.val) (BitVec.ofNat 32 t.val)
  | .cntclr gd k hd t => encA 0xBF 1 gd 0 0 0 0 (k.val + 4 * hd.val) (BitVec.ofNat 32 t.val)
  | .mshld gd d s1 off => encE 0xC0 0 gd (fld d) (fld s1) 0 0 0 0 0 off
  | .mma gd d sa sb o => encE 0xC1 0 gd (fld d) 0 0 0 sa.val sb.val (o.mod 0 0) 0
  | .mmaSp gd d sa sb o s1 spn => encE 0xC1 1 gd (fld d) (fld s1) 0 0 sa.val sb.val (o.mod spn.val 0) 0
  | .mmaGa gd d sa sb o s2 mg => encE 0xC1 2 gd (fld d) 0 (fld s2) 0 sa.val sb.val (o.mod 0 mg.val) 0
  | .mmaSpga gd d sa sb o s1 spn s2 mg => encE 0xC1 3 gd (fld d) (fld s1) (fld s2) 0 sa.val sb.val (o.mod spn.val mg.val) 0
  | .mzero gd d tag => encE 0xC2 0 gd (fld d) 0 0 0 0 0 0 (imm16 tag)
  | .mld gd d sa tag => encE 0xC3 0 gd (fld d) 0 0 0 sa.val 0 0 (imm16 tag)
  | .mst gd mode s3 sa => encE 0xC4 0 gd 0 0 0 (fld s3) sa.val 0 mode.code 0
  | .mrowred gd op mode part nc d s1 =>
    encE 0xC5 0 gd (fld d) (fld s1) 0 0 0 0
      (mode.code + 16 * op.code + (if part then 64 else 0) + 128 * nc.toNat) 0
  | .mcnt gd clr d s1 => encE 0xC6 0 gd (fld d) (fld s1) 0 0 0 0 (if clr then 1 else 0) 0
  | .copy gd d s1 => encE 0xD0 0 gd (fld d) (fld s1) 0 0 0 0 0 0
  | .copym gd d s1 => encE 0xD1 0 gd (fld d) (fld s1) 0 0 0 0 0 0
  | .cprom gd d s1 => encX 0xD2 0 gd (fld d) (fld s1) 0
  | .hcfg gd s1 s2 => encX 0xD8 0 gd 0 (fld s1) (fld s2)
  | .publish gd s1 => encX 0xD9 0 gd 0 (fld s1) 0
  | .publishF gd s1 => encX 0xD9 1 gd 0 (fld s1) 0
  | .hsub gd s1 s2 => encX 0xDA 0 gd 0 (fld s1) (fld s2)
  | .hunsub gd s1 s2 => encX 0xDB 0 gd 0 (fld s1) (fld s2)
  | .hver gd d s1 => encX 0xDC 0 gd (fld d) (fld s1) 0
  | .stopref gd s1 => encX 0xDD 0 gd 0 (fld s1) 0
  | .stoprefAt gd s1 s2 => encX 0xDD 1 gd 0 (fld s1) (fld s2)
  | .refchk gd d s1 => encX 0xDE 0 gd (fld d) (fld s1) 0
  | .settle gd s1 set nh => encA 0xDF 0 gd 0 (fld s1) 0 0 0 ((0 : BitVec 16) ++ nh ++ set)
  | .settlew gd d s1 set nh => encA 0xDF 1 gd (fld d) (fld s1) 0 0 0 ((0 : BitVec 16) ++ nh ++ set)
  | .launch gd d s1 => encX 0xE0 0 gd (fld d) (fld s1) 0
  | .deal gd d s1 => encX 0xE1 0 gd (fld d) (fld s1) 0
  | .ringget gd d gm s1 => encA 0xE2 0 gd (fld d) (fld s1) 0 0 gm.val 0
  | .ringput gd s3 s1 => encA 0xE2 1 gd 0 (fld s1) 0 (fld s3) 0 0
  | .govset gd d s1 s2 => encX 0xE3 0 gd (fld d) (fld s1) (fld s2)
  | .preempt gd d s1 => encX 0xE4 0 gd (fld d) (fld s1) 0
  | .resume gd d s1 => encX 0xE4 1 gd (fld d) (fld s1) 0
  | .rdhmap gd d s1 => encX 0xE5 0 gd (fld d) (fld s1) 0
  | .rdlpt gd d s1 half => encA 0xE5 1 gd (fld d) (fld s1) 0 0 0 (if half then 1 else 0)
  | .quiesce gd d => encX 0xE6 0 gd (fld d) 0 0
  | .barset gd d s1 => encX 0xE8 0 gd (fld d) (fld s1) 0
  | .bararr gd s1 => encX 0xE9 0 gd 0 (fld s1) 0
  | .barwait gd d s1 cycles => encA 0xEA 0 gd (fld d) (fld s1) 0 0 0 cycles
  | .barwaitF gd s1 cycles => encA 0xEA 1 gd 0 (fld s1) 0 0 0 cycles
  | .barwd gd s1 => encX 0xEB 0 gd 0 (fld s1) 0
  | .chkpt gd d s1 => encX 0xEC 0 gd (fld d) (fld s1) 0
  | .tlbinv gd s1 s2 scope => encA 0xED 0 gd 0 (fld s1) (fld s2) 0 scope.val 0
  | .rmapsetRemap gd d s1 s2 => encA 0xEE 0 gd (fld d) (fld s1) (fld s2) 0 0 0
  | .rmapsetMarkDead gd d s1 s2 => encA 0xEE 0 gd (fld d) (fld s1) (fld s2) 0 1 0
  | .rmapsetClearDead gd d s1 s2 => encA 0xEE 0 gd (fld d) (fld s1) (fld s2) 0 2 0
  | .grpjoin gd d s1 s2 => encX 0xF0 0 gd (fld d) (fld s1) (fld s2)
  | .grpleave gd s1 => encX 0xF1 0 gd 0 (fld s1) 0
  | .grpred gd op d s1 s2 => encA 0xF2 0 gd (fld d) (fld s1) (fld s2) 0 op.code 0
  | .grpbc gd d s1 s2 root => encA 0xF3 0 gd (fld d) (fld s1) (fld s2) 0 0 (root.zeroExtend 32)
  | .grpbar gd s1 => encX 0xF4 0 gd 0 (fld s1) 0
  | .fremap gd d s1 s2 => encX 0xF5 0 gd (fld d) (fld s1) (fld s2)
  | _ => 0

end Sys2Proof
end

