-- ==== Sys2Proof/Machine/Free.lean ====
section
/-! DEFINITION. Free values over the state's own types (log 6): what the spec leaves open of the debug window. Each is a
constant without a body. -/

namespace Sys2Proof.Config

open Sys2Proof.Machine

/-- The word that the debug window shows where the spec names the content but no layout (R136: loop levels, bindings,
wait-table entries, endpoint state): by a code of the place, the offset in it and the numbers that it holds. -/
opaque freeView : Nat → Nat → List Nat → Word

/-- A byte of the overflow region of a wait table whose list holds entries (R123): by its offset and the waiters. -/
opaque freeOverflow : Nat → List Waiter → Byte

/-- A loop level after a write of a word at an offset of its 32 bytes. -/
opaque freeLoop : Nat → Loop → Word → Option Loop

/-- The bindings of a slot after a write of their word. -/
opaque freeBinds : List (Option Bind) → Word → List (Option Bind)

/-- The wait table after a write of a word at an offset of its block. -/
opaque freeWaits : Nat → List Waiter → Word → List Waiter

/-- The endpoint state after a write of a word at an offset of its block. -/
opaque freeLinks : Nat → Links → Word → Option Links

/-- The stealing domain of a deque entry written through the window, which shows an address and a priority only. -/
opaque freeEntry : Word → Nat

end Sys2Proof.Config
end

