-- ==== Sys2Proof/Machine/Memory.lean ====
section
/-! DEFINITION. The bytes and marks of memory (R118, R119, R384): reads and writes that keep the canonical
form of the cells. -/

namespace Sys2Proof.Machine

/-- What a byte that is not listed reads as: 0, the slice's contents after self-test (R118); for HBM the model's
choice (log 3). -/
def Cells.blank : Byte := 0

/-- The byte at an address. -/
def Cells.read : List Host.Cell → Nat → Byte
  | [], _ => Cells.blank
  | (a', b) :: t, a => if a' = a then b else Cells.read t a

/-- The cells with byte `b` at `a`, in canonical form. -/
def Cells.write : List Host.Cell → Nat → Byte → List Host.Cell
  | [], a, b => if b = Cells.blank then [] else [(a, b)]
  | (a', b') :: t, a, b =>
    if a < a' then (if b = Cells.blank then (a', b') :: t else (a, b) :: (a', b') :: t)
    else if a' = a then (if b = Cells.blank then t else (a, b) :: t)
    else (a', b') :: Cells.write t a b

/-- The cells with the bytes `bs` from `a` on. -/
def Cells.writes : List Host.Cell → Nat → List Byte → List Host.Cell
  | m, _, [] => m
  | m, a, b :: bs => Cells.writes (Cells.write m a b) (a + 1) bs

/-- The `n` bytes from `a` on. -/
def Cells.reads (m : List Host.Cell) (a : Nat) : Nat → List Byte
  | 0 => []
  | n + 1 => Cells.read m a :: Cells.reads m (a + 1) n

/-- One byte of memory. -/
def Mem.byte (m : Mem) (a : Nat) : Byte := Cells.read m.bytes a

def Mem.read (m : Mem) (a n : Nat) : List Byte := Cells.reads m.bytes a n

def Mem.write (m : Mem) (a : Nat) (bs : List Byte) : Mem := { m with bytes := Cells.writes m.bytes a bs }

/-- Memory whose bytes at the addresses that `inside` names are those listed, and 0 where none is. -/
def Mem.fill (m : Mem) (inside : Nat → Bool) (cells : List Host.Cell) : Mem :=
  { m with bytes := cells.foldl (fun b x => Cells.write b x.1 x.2) (m.bytes.filter fun x => !inside x.1) }

/-- The 8-byte word at an address. -/
def Mem.read64 (m : Mem) (a : Nat) : Word := word (ofBytes (m.read a 8))

def Mem.write64 (m : Mem) (a : Nat) (w : Word) : Mem := m.write a (toBytes 8 w.toNat)

/-- The address of the word that holds a byte. -/
def wordAt (a : Nat) : Nat := a / 8 * 8

/-- The word addresses that `n` bytes from `a` touch. -/
def wordsIn (a n : Nat) : List Nat :=
  (List.range ((a + n + 7) / 8 - a / 8)).map fun i => (a / 8 + i) * 8

/-- The full/empty bit of a word. -/
def Mem.full (m : Mem) (a : Nat) : Bool := m.fe.contains (wordAt a)

def Mem.setFull (m : Mem) (a : Nat) (b : Bool) : Mem := { m with fe := Marks.put m.fe (wordAt a) b }

/-- The poison bit of a word. -/
def Mem.poisoned (m : Mem) (a : Nat) : Bool := m.psn.contains (wordAt a)

def Mem.setPoison (m : Mem) (a : Nat) (b : Bool) : Mem := { m with psn := Marks.put m.psn (wordAt a) b }

/-- A word re-encoded: its check bits match again. -/
def Mem.encodeWord (m : Mem) (a : Nat) : Mem :=
  { m with single := Marks.del m.single (wordAt a), double := Marks.del m.double (wordAt a) }

/-- The 64-byte sector of an address, written back with every single-bit error repaired (R119). -/
def Mem.scrub (m : Mem) (a : Nat) : Mem :=
  { m with single := m.single.filter fun w => w / 64 != a / 64 }

end Sys2Proof.Machine
end

