-- ==== Sys2Proof/Machine/Mesh.lean ====
section
/-! DEFINITION. The mesh (15: R373-R380): where agents stand, drawn routes, their cost, and the sending of
messages by the NIs with sequence numbers, fences and send logs. -/

namespace Sys2Proof.Machine

/-! ## Positions and routes (R373, R375, Table 15.6) -/

/-- The physical core at a global row and column (R373). -/
def physAt (row col : Nat) : Nat := row / 4 * 576 + col / 9 * 36 + row % 4 * 9 + col % 9

/-- The first column, or row, of memory bridge `b` on its edge (Table 15.6). -/
def memBase (b : Nat) : Nat :=
  if b < 16 then nth 0 [1, 20, 34, 53, 67, 86, 100, 119] (b % 8) else nth 0 [0, 18, 32, 50] (b % 4)

/-- The edge router of port `p` of memory bridge `b`. -/
def memPort (b p : Nat) : Nat × Nat :=
  if b < 8 then (0, memBase b + p) else if b < 16 then (63, memBase b + p)
  else if b < 20 then (memBase b + p, 0) else (memBase b + p, 143)

/-- The edge router of port `j` of optical bridge `b`. -/
def optPort (b j : Nat) : Nat × Nat :=
  if b < 4 then (0, nth 0 [15, 48, 81, 114] b + j) else if b < 8 then (63, nth 0 [15, 48, 81, 114] (b % 4) + j)
  else if b < 10 then (nth 0 [14, 46] (b % 2) + j, 0) else (nth 0 [14, 46] (b % 2) + j, 143)

/-- The global row and column of the router at which an agent stands; `ch` is the HBM channel when it is a
memory bridge. The PCTL has no place on the mesh in the spec. -/
def State.pos (s : State) (src ch : Nat) : Option (Nat × Nat) :=
  if src < 8192 then
    (if s.rmapOf src = 255 then none else some (lcnRow src, s.rmapOf src))
  else if src < 8448 then some ((src - 8192) / 16 * 4, (src - 8192) % 16 * 9)
  else if src < 8472 then some (memPort (src - 8448) (ch % 14))
  else if 8480 ≤ src && src < 8484 then some (nth (0, 0) [(0, 0), (0, 143), (63, 0), (63, 143)] (src - 8480))
  else if 8488 ≤ src && src < 8500 then some (optPort (src - 8488) 0)
  else none

/-- Numbers from `a` to `b` in steps of one, `b` included. -/
def span (a b : Nat) : List Nat :=
  if a ≤ b then (List.range (b - a + 1)).map (a + ·) else (List.range (a - b + 1)).map (a - ·)

/-- The routers of the drawn route: along the row, then along the column. -/
def drawn (p q : Nat × Nat) : List (Nat × Nat) :=
  ((span p.2 q.2).map fun c => (p.1, c)) ++ ((span p.1 q.1).drop 1).map fun r => (r, q.2)

/-- Whether the link between two adjacent routers crosses a die edge. -/
def crosses (p q : Nat × Nat) : Bool := p.1 / 4 != q.1 / 4 || p.2 / 9 != q.2 / 9

/-- The number of the link of die edge `e` (0 N, 1 E, 2 S, 3 W) at a router (Table 13.9). -/
def linkNo (e : Nat) (p : Nat × Nat) : Nat :=
  if e = 0 then p.2 % 9 else if e = 1 then 9 + p.1 % 4 else if e = 2 then 13 + p.2 % 9 else 22 + p.1 % 4

/-- The die of a router. -/
def dieAt (p : Nat × Nat) : Nat := p.1 / 4 * 16 + p.2 / 9

/-- Whether link `k` of die `d` is down. -/
def State.linkDown (s : State) (d k : Nat) : Bool := (s.die d).links[k]?.any Link.down

/-- Whether the link between two adjacent routers is down. -/
def State.hopDown (s : State) (p q : Nat × Nat) : Bool :=
  crosses p q &&
    let e := if p.1 > q.1 then 0 else if p.2 < q.2 then 1 else if p.1 < q.1 then 2 else 3
    s.linkDown (dieAt p) (linkNo e p) || s.linkDown (dieAt q) (linkNo ((e + 2) % 4) q)

/-- Adjacent pairs of a route. -/
def hops (l : List (Nat × Nat)) : List ((Nat × Nat) × (Nat × Nat)) := l.zip (l.drop 1)

/-- Detours that a drawn route needs: its dead routers and its links that are down (R375, R357). -/
def State.detours (s : State) (l : List (Nat × Nat)) : Nat :=
  (l.filter fun p => s.dead.contains (physAt p.1 p.2)).length +
    ((hops l).filter fun h => s.hopDown h.1 h.2).length

/-- The global row and column of a physical core's router (R373). -/
def routerAt (p : Nat) : Nat × Nat := (p / 576 * 4 + p % 36 / 9, p % 576 / 36 * 9 + p % 9)

/-- The hops between two routers. -/
def hopsApart (p q : Nat × Nat) : Nat := (p.1 - q.1) + (q.1 - p.1) + (p.2 - q.2) + (q.2 - p.2)

/-- Whether a dead router has another one within two hops, so that no route passes it (R375). -/
def crowded (dead : List Nat) (p : Nat) : Bool := dead.any fun d => d != p && hopsApart (routerAt d) (routerAt p) ≤ 2

/-- Whether a message of `src` finds a route to `dest` (R375): at most one detour, the route's ends alive, no dead router on
it that lies within two hops of another. -/
def State.routed (s : State) (src dest ch : Nat) : Bool :=
  match s.pos src ch, s.pos dest ch with
  | some p, some q =>
    let l := drawn p q
    s.detours l = 0 || (s.detours l = 1 && !([p, q].any fun r => s.dead.contains (physAt r.1 r.2)) &&
      !(l.any fun r => s.dead.contains (physAt r.1 r.2) && crowded s.dead (physAt r.1 r.2)))
  | _, _ => true

/-- The one-way time of an unloaded message (R378). -/
def State.oneWay (s : State) (src dest ch : Nat) : Nat :=
  match s.pos src ch, s.pos dest ch with
  | some p, some q =>
    let l := drawn p q
    let bridge := (if dest ≥ 8448 then 1 else 0) + (if src ≥ 8448 && src < 9000 then 1 else 0)
    5 + 2 * ((hops l).length + bridge) + 4 * (((hops l).filter fun h => crosses h.1 h.2).length + bridge) +
      (if s.detours l = 0 then 0 else 8)
  | _, _ => 5

/-! ## Sending -/

/-- The key of a peer in a sequence table. -/
def peerKey (panel src : Nat) : Nat := panel * 65536 + src

/-- Still-water counts of a core or a bridge for a context (R343); those of a saved core are in its save block (R353). -/
def State.modStill (s : State) (l c : Nat) (f : Still → Still) : State :=
  if l < 8192 && (s.ctx c).st == .saved then
    s.modPctl fun p => { p with saves := p.saves.map fun e =>
      if e.1 / 65536 = c && e.2.lcn = l then
        (e.1, { e.2 with core := { e.2.core with sw := Fmap.set e.2.core.sw c (f (Fmap.get {} e.2.core.sw c)) } })
      else e }
  else if l < 8192 then s.modCore l fun k => { k with sw := Fmap.set k.sw c (f (Fmap.get {} k.sw c)) }
  else s.modNi l fun n => { n with sw := Fmap.set n.sw c (f (Fmap.get {} n.sw c)) }

/-- Whether a message is a request for work: a steal request or a deal request. -/
def Msg.seeks (m : Msg) : Bool :=
  match m.body with
  | .steal _ | .dealReq => true
  | _ => false

/-- Whether a message is a read of a line (R46). It changes nothing at its home, and a core restored from an image reads its lines anew, so its
number is none of the count in order, it is served whenever it comes, and neither it nor its answer is logged (log 142). -/
def Msg.isLine (m : Msg) : Bool :=
  match m.body with
  | .mem _ .fetch _ _ => true
  | _ => false

/-- Whether a message has a number of the count that requests for work and reads of lines have for themselves. -/
def Msg.apart (m : Msg) : Bool := m.seeks || m.isLine

/-- The number at which the numbers of reads of lines begin: 2^22; those of requests for work begin at 2^21. -/
def Msg.numBase (m : Msg) : Nat := if m.isLine then 2 ^ 22 else 2 ^ 21

/-- Whether a message is a read of a line or the answer to one. -/
def Msg.ofLine (m : Msg) : Bool := m.isLine || m.vc == 1 && 2 ^ 22 ≤ m.seq

/-- Whether a message is the answer "none" to a request for work. -/
def Msg.finds (m : Msg) : Bool :=
  match m.body with
  | .resp 0 r => r.none_
  | _ => false

/-- Whether a message is a core's search for work, which is no message of the context (R343, log 14): a steal request, a
deal request, or the answer "none" to one. -/
def Msg.search (m : Msg) : Bool := m.seeks || m.finds

/-- The bytes that a message takes in a send log (R392). -/
def Msg.logged (m : Msg) : Nat := 16 + (m.len + 15) / 16 * 16

/-- The bytes in use in the send log of a core. -/
def Core.slogUse (c : Core) : Nat := c.ckpt.slog.foldl (fun n m => n + m.logged) 0

/-- Whether the messages of core `l` for context `ctx` are logged. -/
def State.logs (s : State) (l ctx : Nat) : Bool := l < 8192 && (s.ctx ctx).ckpt

/-- The send log with a message of a core, or the chain broken when there is no room or no log (R392). -/
def State.logMsg (s : State) (m : Msg) : State :=
  if s.logs m.src m.ctx && m.vc < 3 && !m.finds && !m.ofLine then
    s.modCore m.src fun c =>
      if bit (c.sys 0xF) 0 && c.slogUse + m.logged ≤ 32768 then
        { c with ckpt := { c.ckpt with slog := c.ckpt.slog ++ [m] } }
      else { c with ckpt := { c.ckpt with broken := true, peers := (s.ni m.src).seqs.map Prod.fst } }
  else s

/-- Whether the NI of `src` holds back what it would send to the destination: a fence in progress, or a
message held earlier for it (R228, R377, R417). -/
def State.holdsBack (s : State) (m : Msg) : Bool :=
  let n := s.ni m.src
  (m.vc == 0 || m.vc == 2) &&
    ((m.dpanel == s.panelId && n.fenced.contains m.dest) ||
      (m.dpanel != s.panelId && n.fpanel == some m.dpanel) ||
      n.held.any fun h => h.dpanel == m.dpanel && h.dest == m.dest)

/-- The ports that a panel map entry names, ascending. -/
def maskPorts (m : BitVec 48) : List Nat := (List.range 48).filter fun k => m.getLsbD k

/-- The port that carries a message to another panel (R411). -/
def State.portOf (s : State) (m : Msg) : Option Nat :=
  let ps := maskPorts (s.fab.pmap[m.dpanel]?.getD 0)
  if ps.isEmpty then none else ps[(m.src + m.dest) % ps.length]?

/-- A message that leaves by a Welkin port joins the port's queue (R411). One for a port that is down is held at its source; an
answer is lost (R416). -/
def State.toPort (s : State) (m : Msg) : State :=
  match s.portOf m with
  | some k => s.modFab fun f =>
      match f.ports[k]? with
      | some p =>
        if p.down then (if m.vc = 1 then f else { f with held := f.held ++ [⟨m.src, m, s.time⟩] })
        else { f with ports := f.ports.setIfInBounds k { p with q := p.q ++ [m] } }
      | none => f
  | none => s

/-- A message put on its way, or held back. -/
def State.inject (s : State) (m : Msg) : State :=
  if s.holdsBack m then s.modNi m.src fun n => { n with held := n.held ++ [m] }
  else if m.dpanel = s.panelId then s.send m else s.toPort m

/-- A message with the sequence number that its NI gives it (R380); a request for work and a read of a line have numbers of another
count, told by bits 21 and 22. -/
def State.numbered (s : State) (m : Msg) : Msg :=
  if m.apart then { m with seq := m.numBase + (Fmap.get {} (s.ni m.src).seqs (peerKey m.dpanel m.dest)).txs }
  else if m.vc = 0 then { m with seq := (Fmap.get {} (s.ni m.src).seqs (peerKey m.dpanel m.dest)).tx0 }
  else if m.vc = 2 then { m with seq := (Fmap.get {} (s.ni m.src).seqs (peerKey m.dpanel m.dest)).tx2 }
  else m

/-- The sequence table after a message was numbered. -/
def State.counted (s : State) (m : Msg) : State :=
  if m.apart then
    s.modNi m.src fun n =>
      let e := Fmap.get {} n.seqs (peerKey m.dpanel m.dest)
      { n with seqs := Fmap.set n.seqs (peerKey m.dpanel m.dest) { e with txs := (e.txs + 1) % 2 ^ 21 } }
  else if m.vc = 0 then
    s.modNi m.src fun n =>
      let e := Fmap.get {} n.seqs (peerKey m.dpanel m.dest)
      { n with seqs := Fmap.set n.seqs (peerKey m.dpanel m.dest) { e with tx0 := (e.tx0 + 1) % 2 ^ 21 } }
  else if m.vc = 2 then
    s.modNi m.src fun n =>
      let e := Fmap.get {} n.seqs (peerKey m.dpanel m.dest)
      { n with seqs := Fmap.set n.seqs (peerKey m.dpanel m.dest) { e with tx2 := (e.tx2 + 1) % 2 ^ 21 } }
  else s

/-- A message sent by the NI of its source: numbered, logged, counted, injected. -/
def State.post (s : State) (m : Msg) : State :=
  let m' := s.numbered m
  let s := (s.counted m).logMsg m'
  let s := if m.vc < 3 && !m.search then s.modStill m.src m.ctx fun w => { w with sent := w.sent + 1 } else s
  s.inject m'

/-- A message on the system channel, between agents. -/
def State.system (s : State) (src dest kind ctx : Nat) (b : Body) : State :=
  s.post { dpanel := s.panelId, spanel := s.panelId, dest, src, vc := 3, kind, ctx, body := b }

/-! ## Answers -/

/-- An ownership refusal of a channel's access (R412): the ingress bridge freezes the channel and reports 0x37, reason 4, to
the PCTL. -/
def State.freezeChan (s : State) (panel lctx bridge : Nat) : State :=
  let mine (e : ChanEnt) : Bool := e.v && !e.frz && e.spanel == panel && e.lctx == lctx
  if s.fab.chans.any fun e => mine e.2 then
    let s := s.modFab fun f => { f with chans := f.chans.map fun e => if mine e.2 then (e.1, { e.2 with frz := true }) else e }
    let src := Config.srcOpt bridge
    s.system src Config.srcPctl 0xFF lctx (.packet
      { priv := 0, ctx := lctx, lcn := 0, eng := 7, deff := true, frz := false, slot := 0, cause := 0x37, pc := 0, apc := 0,
        faddr := 0, info := 4, gtb := s.gtb, src := peerKey s.panelId src, fcnt := 0, record := 0 })
  else s

/-- What the bridge at which an access of another panel entered does about an ownership refusal. -/
def State.farRefusal (s : State) (panel lctx : Nat) (via : Option Nat) : State :=
  match via with
  | some b => s.freezeChan panel lctx b
  | none => s

/-- The answers an NI keeps: the last 64 (R380). -/
def keepResp (l : List Msg) (m : Msg) : List Msg := (l ++ [m]).drop (l.length + 1 - 64)

/-- The answer to a request, sent on VC 1 by the agent that served it; a local access (channel 4) is answered
by the core to itself. The credit of a posted write is its answer (R215). -/
def State.answer (s : State) (agent : Nat) (r : Reply) (resp : Resp) : State :=
  let s := if resp.cause = 0x0D then s.farRefusal r.panel r.ctx r.via else s
  let b : Body := if r.vc = 2 then (if resp.retry then .credNack 3 else .credit) else .resp r.vc resp
  let m : Msg := { dpanel := r.panel, dest := r.src, spanel := s.panelId, src := agent, vc := 1, kind := 0,
                   len := resp.data.length, seq := r.seq, ctx := r.ctx, body := b }
  if r.vc = 4 then s.send m
  else
    let s := if r.vc = 0 then s.modNi agent fun n => { n with resps := keepResp n.resps m } else s
    s.post m

/-- The reply address of a message. -/
def Msg.reply (m : Msg) : Reply := ⟨m.spanel, m.src, m.seq, m.vc, m.ctx, m.via⟩

end Sys2Proof.Machine
end

