-- ==== Sys2Proof/Machine/Bank.lean ====
section
/-! DEFINITION. Banks and bridges (R115-R122, R384, R385): page ownership, check bits, poison, failed banks and
channels, as every agent's read or write meets them. -/

namespace Sys2Proof.Machine

/-! ## Addresses (Table 5.1, R384) -/

/-- The space of a physical address. -/
def spaceOf (pa : Nat) : Nat := pa / 2 ^ 44

/-- The physical address of a slice offset of a core. -/
def slicePa (l off : Nat) : Nat := 2 ^ 44 + l * 2 ^ 20 + off

/-- The core and the offset of a slice address. -/
def sliceLcn (pa : Nat) : Nat := pa % 2 ^ 44 / 2 ^ 20
def sliceOff (pa : Nat) : Nat := pa % 2 ^ 20

/-- The core, the handle and the offset of a handle-window address. -/
def winLcn (pa : Nat) : Nat := pa / 2 ^ 22 % 2 ^ 13
def winHandle (pa : Nat) : Nat := pa / 2 ^ 16 % 64
def winOff (pa : Nat) : Nat := pa % 2 ^ 16

/-- The agent that serves a control-space address (Table 5.12), if a block holds it. -/
def ctlAgent (pa : Nat) : Option Nat :=
  let o := pa % 2 ^ 44
  if o < 8192 * 0x10000 then some (o / 0x10000)
  else if 0x10_0000_0000 ≤ o && o < 0x10_0000_0000 + 1024 * 0x100 then some (8192 + (o - 0x10_0000_0000) / 0x100 / 4)
  else if 0x20_0000_0000 ≤ o && o < 0x20_0000_0000 + 256 * 0x1000 then some (8192 + (o - 0x20_0000_0000) / 0x1000)
  else if 0x30_0000_0000 ≤ o && o < 0x30_0000_0000 + 9216 * 0x4000 then
    some (8192 + (o - 0x30_0000_0000) / 0x4000 / 36)
  else none

/-- Source number of the agent at which an access to a physical address applies. -/
def homeOf (pa : Nat) : Nat :=
  match spaceOf pa with
  | 1 => sliceLcn pa
  | 2 => 8448 + bridgeOf pa
  | 3 => winLcn pa
  | _ => (ctlAgent pa).getD 0

/-- The home of a word as a number (R227): a core, or a channel of a bridge. -/
def homeKey (panel pa : Nat) : Nat :=
  panel * 2 ^ 32 + if spaceOf pa = 2 then 2 ^ 20 + bridgeOf pa * 32 + channelOf pa else homeOf pa

/-! ## Slices -/

/-- Whether every page that `n` bytes at an offset touch may be accessed (R121). -/
def Core.owns (c : Core) (off n ctx lvl : Nat) : Bool :=
  lvl == 2 || (List.range ((off + n - 1) / 65536 - off / 65536 + 1)).all fun i =>
    let w := c.sys (0x20 + (off / 65536 + i) % 16)
    bit w 12 && bits w 11 0 == ctx

/-- Whether a waiter takes an entry of the wait table (R123): the mark of a join word whose continuation is being written back is
none of its waiters (log 125). -/
def Waiter.inTable (w : Waiter) : Bool :=
  match w.kind with
  | .arm _ _ => false
  | _ => true

/-- The entries of the wait table, hardware entries before overflow entries (R123). -/
def Core.table (c : Core) : List Waiter := c.waits.filter Waiter.inTable

/-- Whether an access falls into the overflow region while the wait table's overflow list holds entries (R123). -/
def Core.inOverflow (c : Core) (off n : Nat) : Bool :=
  c.table.length > 128 && (off / 65536 == bits (c.sys 5) 19 16 || (off + n - 1) / 65536 == bits (c.sys 5) 19 16)

/-- A read of the check bits of one slice word (R119, R120): the cause, 0 when the word can be used. -/
def State.chkSlice (s : State) (l a : Nat) : State × Nat :=
  if (s.core l).health.badBanks.contains (a / 65536 % 16) then (s, 0x30)
  else if s.mem.poisoned a then (s, 0x31)
  else if s.mem.double.contains a then
    ((s.modMem fun m => m.setPoison a true).modCore l fun c =>
      let c := c.setSys 0xD (word (sat32 ((c.sys 0xD).toNat + 1)))
      { c with health := { c.health with uncorr := c.health.uncorr ++ [(a / 64, s.time)] } }, 0x30)
  else if s.mem.single.contains a then
    ((s.modMem fun m => m.scrub a).modCore l fun c => c.setSys 0xC (word (sat32 ((c.sys 0xC).toNat + 1))), 0)
  else (s, 0)

/-- Checks of several words in order, up to the first that fails. -/
def State.chkAll (chk : State → Nat → State × Nat) : State → List Nat → State × Nat
  | s, [] => (s, 0)
  | s, a :: t =>
    let r := chk s a
    if r.2 = 0 then State.chkAll chk r.1 t else r

/-- The 64 bytes of a line with the causes of its words, 8 bits each: each word is checked for itself (R61). -/
def State.readLineWords (chk : State → Nat → State × Nat) (s : State) (pa : Nat) : State × List Byte × Nat :=
  let r := (wordsIn pa 64).zipIdx.foldl (fun (acc : State × Nat) w =>
    let q := chk acc.1 w.1
    (q.1, acc.2 + q.2 * 2 ^ (8 * w.2))) (s, 0)
  (r.1, r.1.mem.read pa 64, r.2)

/-- The words that a write of `n` bytes at `a` covers in part. -/
def partWords (a n : Nat) : List Nat := (wordsIn a n).filter fun w => w < a || a + n < w + 8

/-- Bytes written and the check bits of every touched word made anew. Words written whole lose their poison
(R119). -/
def Mem.store (m : Mem) (a : Nat) (bs : List Byte) : Mem :=
  let ws := wordsIn a bs.length
  let full := ws.filter (fun w => a ≤ w && w + 8 ≤ a + bs.length)
  let m := m.write a bs
  let m := if m.single.isEmpty && m.double.isEmpty then m else ws.foldl Mem.encodeWord m
  if m.psn.isEmpty then m else full.foldl (fun m w => m.setPoison w false) m

/-- The bytes of a slice as a read finds them: those of memory, or the raw contents of a wait table's overflow list (R123). -/
def State.sliceBytes (s : State) (l pa n : Nat) : List Byte :=
  let c := s.core l
  if c.inOverflow (sliceOff pa) n then
    (List.range n).map fun i => if (sliceOff pa + i) / 65536 = bits (c.sys 5) 19 16 then Config.freeOverflow (sliceOff pa + i) c.table
      else s.mem.byte (pa + i)
  else s.mem.read pa n

/-- A read of `n` bytes of a slice, after its checks. -/
def State.readSlice (s : State) (l pa n : Nat) : State × Nat × List Byte :=
  let r := s.chkAll (fun s a => s.chkSlice l a) (wordsIn pa n)
  (r.1, r.2, if r.2 = 0 then r.1.sliceBytes l pa n else [])

/-- Slots that watch a word of a core see a write of another agent (R104). -/
def State.watched (s : State) (l pa n : Nat) (who : Option Nat) : State :=
  let ws := wordsIn pa n
  let hit (k : Nat) (t : Slot) : Bool := some k != who && t.watch.any (fun a => ws.contains a)
  let c := s.core l
  if (List.range 16).any (fun k => hit k (c.slot (Fin.ofNat 16 k))) then
    let mark (k : Fin 16) : Slot :=
      let t := c.slot k
      if hit k.val t then { t with ev := t.ev ||| 0x4000 } else t
    s.setCore l { c with slots := Vector.ofFn mark }
  else s

/-- A write of bytes to a slice, after its checks: a write of part of a word reads the word first (R119). -/
def State.writeSlice (s : State) (l pa : Nat) (bs : List Byte) (who : Option Nat) : State × Nat :=
  let bank := pa / 65536 % 16
  if (s.core l).health.badBanks.contains bank then (s, 0x30)
  else
    let r := s.chkAll (fun s a => s.chkSlice l a) (partWords pa bs.length)
    if r.2 ≠ 0 then r
    else ((r.1.modMem fun m => m.store pa bs).watched l pa bs.length who, 0)

/-- Whether a write falls on words that a started matrix command of a core's cluster reads (R117, R252). -/
def State.gathered (s : State) (l pa n : Nat) : Bool :=
  (List.range 8).any fun m =>
    (s.core (memberLcn (clusterOf l) m)).meng.q.any fun c => c.latch.isSome && !c.done && (wordsIn pa n).any fun w => c.reads.contains w

/-- A write of message `m` held at the bank of core `l` until the gather has read its operands (R117). -/
def State.hold (s : State) (l pa n : Nat) (m : Msg) : State :=
  s.modCore l fun c => { c with meng := { c.meng with holds := c.meng.holds ++ [⟨pa, n, m⟩] } }

/-! ## Memory bridges -/

/-- A read of one word of HBM (R385). -/
def State.chkHbm (s : State) (a : Nat) : State × Nat :=
  let b := bridgeOf a
  if s.mem.double.contains a then
    (s.modBridge b fun m => if m.poison.length < 1024 then { m with poison := m.poison ++ [a / 64] } else m, 0x30)
  else if s.mem.single.contains a then (s.modMem fun m => m.scrub a, 0)
  else (s, 0)

/-- The cause with which a bridge refuses an access before it reads: an address beyond the stacks, a failed
channel, a recorded sector (R384, R385). -/
def State.hbmRefuses (s : State) (a n : Nat) (write : Bool) : Nat :=
  let o := a % 2 ^ 44
  let m := s.bridge (bridgeOf a)
  if o + n > 0x120_0000_0000 then 0x07
  else if m.failed.getLsbD (channelOf a) then 0x33
  else if (m.poison.contains (a / 64) || m.poison.contains ((a + n - 1) / 64)) && !(write && n = 64 && a % 64 = 0) then
    0x31
  else 0

/-- What `n` bytes of HBM read as: as they stand, but for the parts of save blocks that have no layout (R353). -/
def State.shown (s : State) (a : Nat) (bs : List Byte) : List Byte :=
  let inside (x : Nat) : Bool := s.pctl.saves.any fun e => e.2.base + 0x100000 ≤ x && x < e.2.base + 0x180000
  if s.pctl.saves.isEmpty then bs
  else bs.zipIdx.map fun p => if inside (a + p.2) then Config.freeSaved (a + p.2) s.freeCtr else p.1

/-- A read of `n` bytes of HBM. -/
def State.readHbm (s : State) (a n : Nat) : State × Nat × List Byte :=
  let c := s.hbmRefuses a n false
  if c ≠ 0 then (s, c, [])
  else
    let r := s.chkAll (fun s w => s.chkHbm w) (wordsIn a n)
    (r.1, r.2, if r.2 = 0 then r.1.shown a (r.1.mem.read a n) else [])

/-- A write of bytes to HBM; a write of all 64 bytes of a sector clears its record. -/
def State.writeHbm (s : State) (a : Nat) (bs : List Byte) : State × Nat :=
  let c := s.hbmRefuses a bs.length true
  if c ≠ 0 then (s, c)
  else
    let r := s.chkAll (fun s w => s.chkHbm w) (partWords a bs.length)
    if r.2 ≠ 0 then r
    else
      let s := r.1.modMem fun m => m.store a bs
      let b := bridgeOf a
      (if (s.bridge b).poison.contains (a / 64) && bs.length = 64 then
        s.modBridge b fun m => { m with poison := m.poison.filter (· != a / 64) }
      else s, 0)

/-! ## Either -/

/-- A read at the home of a slice or HBM address, without the check of ownership. -/
def State.readAt (s : State) (pa n : Nat) : State × Nat × List Byte :=
  if spaceOf pa = 1 then s.readSlice (sliceLcn pa) pa n else s.readHbm pa n

/-- A write at the home of a slice or HBM address, without the check of ownership. -/
def State.writeAt (s : State) (pa : Nat) (bs : List Byte) (who : Option Nat) : State × Nat :=
  if spaceOf pa = 1 then s.writeSlice (sliceLcn pa) pa bs who else s.writeHbm pa bs

/-- The cause with which a slice refuses an access for ownership, or 0 (R121, R123). HBM has no owners. -/
def State.ownCause (s : State) (pa n ctx lvl : Nat) (write : Bool) : Nat :=
  if spaceOf pa = 1 then
    let c := s.core (sliceLcn pa)
    if !c.owns (sliceOff pa) n ctx lvl then 0x0D
    else if write && c.inOverflow (sliceOff pa) n then 0x0D else 0
  else 0

/-- A read with the check of ownership. -/
def State.readOwned (s : State) (pa n ctx lvl : Nat) : State × Nat × List Byte :=
  let c := s.ownCause pa n ctx lvl false
  if c ≠ 0 then (s, c, []) else s.readAt pa n

/-- A read of words that the access then writes, with the check of ownership. -/
def State.readToWrite (s : State) (pa n ctx lvl : Nat) : State × Nat × List Byte :=
  let c := s.ownCause pa n ctx lvl true
  if c ≠ 0 then (s, c, []) else s.readAt pa n

/-- A write with the check of ownership. -/
def State.writeOwned (s : State) (pa : Nat) (bs : List Byte) (ctx lvl : Nat) (who : Option Nat) : State × Nat :=
  let c := s.ownCause pa bs.length ctx lvl true
  if c ≠ 0 then (s, c) else s.writeAt pa bs who

end Sys2Proof.Machine
end

