-- ==== Sys2Proof/Machine/Translate.lean ====
section
/-! DEFINITION. Translation (R133, R214 Table 8.1, R381-R383, R410): page-table entries, walks, the TLBs, the source
checks that need the entry alone. -/

namespace Sys2Proof.Machine

/-! ## Page-table entries (Table 15.5) -/

def Pte.v (w : Word) : Bool := bit w 63
def Pte.r (w : Word) : Bool := bit w 62
def Pte.w (w : Word) : Bool := bit w 61
def Pte.x (w : Word) : Bool := bit w 60
def Pte.sh (w : Word) : Bool := bit w 59
def Pte.hw (w : Word) : Bool := bit w 58
def Pte.leaf (w : Word) : Bool := bit w 57
def Pte.panel (w : Word) : Nat := bits w 55 50
def Pte.kind (w : Word) : Nat := bits w 49 48
/-- The address bits [47:14], in place. -/
def Pte.addr (w : Word) : Nat := bits w 47 14 * 2 ^ 14

/-- The space that a KIND names. -/
def kindSpace (k : Nat) : Nat := nth 0 [1, 2, 3, 15] k

/-- Whether an entry read at a level is malformed (R381, R410); `own` is the panel's own identity. -/
def Pte.bad (w : Word) (level own : Nat) : Bool :=
  bit w 56 || bits w 13 0 != 0 ||
  (if Pte.leaf w then
    level == 1 || bits w 15 14 != 0 || (level == 2 && (Pte.kind w != 1 || bits w 26 16 != 0)) ||
      (Pte.sh w && Pte.kind w != 1) || (Pte.panel w != own && Pte.kind w == 3)
  else level == 3 || Pte.kind w != 1 || Pte.panel w != own || Pte.sh w) ||
  kindSpace (Pte.kind w) != bits w 47 44 || Pte.hw w != (Pte.kind w == 2)

/-! ## Walks (R381, R383) -/

/-- What a translation comes to: the panel and the physical address, or a cause with its reason. -/
inductive Tr where
  | ok (panel pa : Nat)
  | bad (cause reason : Nat)
  deriving DecidableEq, Repr

/-- One word of a table page, read by a walker of die `d`: the poison list first (R383). -/
def State.readTable (s : State) (d page idx : Nat) : State × Nat × Word :=
  if (s.die d).poison.contains page then (s, 0x0C, 0)
  else
    let r := s.readHbm (page + 8 * idx) 8
    if r.2.1 = 0 then (r.1, 0, word (ofBytes r.2.2))
    else if r.2.1 = 0x30 || r.2.1 = 0x31 then
      (r.1.modDie d fun k => if k.poison.length < 16 then { k with poison := k.poison ++ [page] } else k, 0x0C, 0)
    else (r.1, r.2.1, 0)

/-- A walk of die `d` for a context: the entry for the TLBs, or the cause and reason with which it fails. -/
def State.walk (s : State) (d ctx va : Nat) : State × (TlbEnt ⊕ (Nat × Nat)) :=
  let root := (s.ctx ctx).root
  let r1 := s.readTable d root (va / 2 ^ 38 % 1024)
  let e1 := r1.2.2
  if r1.2.1 ≠ 0 then (r1.1, .inr (r1.2.1, 0))
  else if !Pte.v e1 then (r1.1, .inr (0x09, 2))
  else if Pte.bad e1 1 s.panelId then (r1.1, .inr (0x0B, 0))
  else
    let r2 := r1.1.readTable d (Pte.addr e1) (va / 2 ^ 27 % 2048)
    let e2 := r2.2.2
    if r2.2.1 ≠ 0 then (r2.1, .inr (r2.2.1, 0))
    else if !Pte.v e2 then (r2.1, .inr (0x09, 2))
    else if Pte.bad e2 2 s.panelId then (r2.1, .inr (0x0B, 0))
    else if Pte.leaf e2 then (r2.1, .inl ⟨ctx, va / 65536, true, e2, Pte.addr e1⟩)
    else
      let r3 := r2.1.readTable d (Pte.addr e2) (va / 65536 % 2048)
      let e3 := r3.2.2
      if r3.2.1 ≠ 0 then (r3.1, .inr (r3.2.1, 0))
      else if !Pte.v e3 then (r3.1, .inr (0x09, 2))
      else if Pte.bad e3 3 s.panelId then (r3.1, .inr (0x0B, 0))
      else (r3.1, .inl ⟨ctx, va / 65536, false, e3, Pte.addr e2⟩)

/-! ## TLBs (R133, R382) -/

/-- Whether an entry covers a page of a context. -/
def TlbEnt.covers (e : TlbEnt) (vpn : Nat) : Bool := if e.big then e.vpn / 2048 == vpn / 2048 else e.vpn == vpn

/-- The address that an entry gives. -/
def TlbEnt.pa (e : TlbEnt) (va : Nat) : Nat :=
  if e.big then bits e.pte 47 27 * 2 ^ 27 + va % 2 ^ 27 else bits e.pte 47 16 * 65536 + va % 65536

/-- An entry put first, within a number of entries: the least recently used falls out. -/
def tlbPut (n : Nat) (l : List TlbEnt) (e : TlbEnt) : List TlbEnt := (e :: l.filter (· != e)).take n

/-- The L1 entry of a core for a page of a context. -/
def Core.l1 (c : Core) (ctx va : Nat) : Option TlbEnt :=
  c.tlb.find? fun e => e.ctx == ctx && e.covers (va / 65536)

/-- The table page that a context's walk reaches for a page, as its upper levels stand (R381, SH). -/
def State.tableOf (s : State) (ctx va : Nat) : Option Nat :=
  let e1 := s.mem.read64 ((s.ctx ctx).root + 8 * (va / 2 ^ 38 % 1024))
  if !Pte.v e1 || Pte.bad e1 1 s.panelId then none
  else
    let e2 := s.mem.read64 (Pte.addr e1 + 8 * (va / 2 ^ 27 % 2048))
    if !Pte.v e2 then none else if Pte.leaf e2 then some (Pte.addr e1) else some (Pte.addr e2)

/-- The L2 entry of a die for a page of a context; a shared entry serves every context whose walk reaches its
table page. -/
def State.l2 (s : State) (d ctx va : Nat) : Option TlbEnt :=
  (s.die d).l2.find? fun e => e.covers (va / 65536) &&
    (e.ctx == ctx || (Pte.sh e.pte && s.tableOf ctx va == some e.table))

/-- The L2 set of an entry: 512 sets of 8 ways (R382; the choice of the set, log 13). -/
def l2Set (e : TlbEnt) : Nat := (if e.big then e.vpn / 2048 else e.vpn) % 512

/-- An entry put into its set of the L2. -/
def l2Put (l : List TlbEnt) (e : TlbEnt) : List TlbEnt :=
  let same := (l.filter (· != e)).filter fun x => l2Set x == l2Set e
  let keep := same.take 7
  e :: l.filter fun x => x != e && (l2Set x != l2Set e || keep.contains x)

/-- A translation brought into the L1 of a core, through the L2 of its die and a walk when it must (R133). -/
def State.fill (s : State) (l ctx va : Nat) : State × (TlbEnt ⊕ (Nat × Nat)) :=
  match (s.core l).l1 ctx va with
  | some e => (s.modCore l fun c => { c with tlb := tlbPut 96 c.tlb e }, .inl e)
  | none =>
    match s.l2 (dieOf l) ctx va with
    | some e =>
      let e' := { e with ctx := ctx, vpn := va / 65536 }
      (s.modCore l fun c => { c with tlb := tlbPut 96 c.tlb e' }, .inl e')
    | none =>
      let r := s.walk (dieOf l) ctx va
      match r.2 with
      | .inl e =>
        let s := r.1.modDie (dieOf l) fun d => { d with l2 := l2Put d.l2 e }
        (s.modCore l fun c => { c with tlb := tlbPut 96 c.tlb e }, .inl e)
      | .inr f => (r.1, .inr f)

/-! ## Source checks (Table 8.1) -/

/-- Whether an entry gives a permission. -/
def Perm.ok (p : Perm) (w : Word) : Bool :=
  match p with
  | .r => Pte.r w
  | .w => Pte.w w
  | .rw => Pte.r w && Pte.w w
  | .x => Pte.x w

/-- Which spaces an access supports (Table 8.3), and the reason when its space is none of them. -/
inductive Sup where
  /-- slice, HBM, handle window, control space with size 3 only -/
  | plain (size : Nat)
  /-- slice, HBM, handle window -/
  | vec
  /-- slice only -/
  | sync
  /-- slice and HBM -/
  | amo
  /-- slice and HBM, for records: reason 1 (R39) -/
  | record
  deriving DecidableEq, Repr

/-- Checks 5 and 6 of Table 8.1 on a physical address: the cause and the reason, or none. -/
def spaceCheck (sup : Sup) (pa : Nat) : Option (Nat × Nat) :=
  let sp := spaceOf pa
  if (sp != 1 && sp != 2 && sp != 3 && sp != 15) || (sp == 1 && pa / 2 ^ 33 % 2 ^ 11 != 0) ||
      (sp == 15 && (ctlAgent pa).isNone) then some (0x07, 0)
  else match sup with
    | .plain n => if sp == 15 && n != 8 then some (0x0F, 4) else none
    | .vec => if sp == 15 then some (0x0F, 4) else none
    | .sync => if sp != 1 then some (0x0F, 1) else none
    | .amo => if sp == 3 || sp == 15 then some (0x0F, 4) else none
    | .record => if sp == 3 || sp == 15 then some (0x0F, 1) else none

/-- The source checks on an entry: permission, space, operation. -/
def TlbEnt.check (e : TlbEnt) (perm : Perm) (sup : Sup) (va own : Nat) : Tr :=
  if !perm.ok e.pte then .bad 0x0A 0
  else
    match (if Pte.panel e.pte = own then spaceCheck sup (e.pa va)
           else match spaceCheck sup (e.pa va) with
             | some (0x0F, r) => some (0x0F, r)
             | _ => none) with
    | some (c, r) => .bad c r
    | none => .ok (Pte.panel e.pte) (e.pa va)

/-- A translation with its source checks, in one go, by an agent at core `l`. -/
def State.tr (s : State) (l ctx va : Nat) (perm : Perm) (sup : Sup) : State × Tr :=
  if va ≥ 2 ^ 48 then (s, .bad 0x09 1)
  else
    let r := s.fill l ctx va
    match r.2 with
    | .inr (c, k) => (r.1, .bad c k)
    | .inl e => (r.1, e.check perm sup va s.panelId)

end Sys2Proof.Machine
end

