-- ==== Sys2Proof/Machine/Queues.lean ====
section
/-! DEFINITION. Queue endpoints (R126-R128, R190, R191): neighbour links, thread-pair queues, remote rings; posted
writes and their copies (R215, R358). -/

namespace Sys2Proof.Machine

/-! ## Posted writes -/

/-- The capacity of an NI's buffer of posted writes (R358). -/
def postedMax : Nat := 64

/-- A fresh number for an access of agent `a`. -/
def State.freshId (s : State) (a : Nat) : State × Nat :=
  (s.modNi a fun n => { n with nextId := n.nextId + 1 }, (s.ni a).nextId)

/-- A posted write: its NI keeps a copy until the credit returns, and the thread that sent it counts it as not
yet performed (R215, R358). Slot 16 is no thread. -/
def State.postedWrite (s : State) (slot : Nat) (key : Nat) (m : Msg) : State :=
  let f := s.freshId m.src
  let m' := f.1.numbered m
  let s := f.1.modNi m.src fun n => { n with posted := n.posted ++ [{ id := f.2, slot, msg := m' }] }
  let s := if m.src < 8192 && slot < 16 then
      s.modSlot m.src (Fin.ofNat 16 slot) fun t => { t with outst := t.outst ++ [⟨key, 2, f.2⟩] }
    else s
  s.post m

/-- A posted message between agents of the panel. -/
def State.posted (s : State) (src slot dest kind ctx : Nat) (len : Nat) (b : Body) : State :=
  s.postedWrite slot dest
    { dpanel := s.panelId, spanel := s.panelId, dest, src, vc := 2, kind, len, ctx, body := b }

/-! ## Neighbours (R126) -/

/-- The side across. -/
def opposite (side : Fin 4) : Fin 4 := side + 2

/-- The core one step away in context coordinates, within the same allocation rectangle. -/
def State.neighbour (s : State) (l : Nat) (side : Fin 4) : Option Nat :=
  let row := lcnRow l
  let col := lcnCol l
  let c := s.ctx (s.core l).ctxid
  match c.place.find? fun r => r.lrow ≤ row && row ≤ r.lrow + r.nr && r.lcol ≤ col && col ≤ r.lcol + r.nc with
  | none => none
  | some r =>
    let n :=
      if side = 0 then (if r.lrow < row then some (l - 128) else none)
      else if side = 1 then (if col < r.lcol + r.nc then some (l + 1) else none)
      else if side = 2 then (if row < r.lrow + r.nr then some (l + 128) else none)
      else (if r.lcol < col then some (l - 1) else none)
    match n with
    | some k => if s.present k then some k else none
    | none => none

/-- A word or a credit on a neighbour link: it takes no virtual channel (channel 5). DESIGN CHOICE: what goes toward a side without a
neighbour is lost (log 137). -/
def State.linkSend (s : State) (l : Nat) (side : Fin 4) (b : Body) : State :=
  match s.neighbour l side with
  | some n => s.send { dpanel := s.panelId, spanel := s.panelId, dest := n, src := l, vc := 5, kind := 0,
                       ctx := (s.core l).ctxid, body := b }
  | none => s

/-! ## Rings (R128, R190) -/

def State.ringBase (s : State) (d : Nat) : Nat := bits (s.mem.read64 d) 19 0
def State.ringSize (s : State) (d : Nat) : Nat := (s.mem.read64 (d + 8)).toNat
def State.ringHead (s : State) (d : Nat) : Word := s.mem.read64 (d + 0x10)
def State.ringTail (s : State) (d : Nat) : Word := s.mem.read64 (d + 0x18)
def State.ringResv (s : State) (d : Nat) : Nat := (s.mem.read64 (d + 0x20)).toNat
def State.ringTag (s : State) (d : Nat) : Tag := (s.mem.read64 (d + 0x28)).extractLsb' 0 16
/-- Words in a ring. -/
def State.ringCount (s : State) (d : Nat) : Nat := (s.ringTail d - s.ringHead d).toNat
/-- The slice address of the ring word with a running number. -/
def State.ringAt (s : State) (d : Nat) (n : Word) : Nat :=
  slicePa (sliceLcn d) ((s.ringBase d + 8 * (n.toNat % s.ringSize d)) % 2 ^ 20)

/-- Whether a descriptor is one (R190). DESIGN CHOICE: the zero fields of Table 7.7 are not looked at (log 134). -/
def State.ringValid (s : State) (d : Nat) : Bool :=
  let n := s.ringSize d
  64 ≤ n && n ≤ 65536 && 2 ^ Nat.log2 n == n && (s.mem.read64 d).toNat < 2 ^ 20 && s.ringBase d % 8 == 0

/-- A word of a ring's descriptor rewritten by the home. -/
def State.ringSet (s : State) (d off : Nat) (w : Word) : State := s.modMem fun m => m.store (d + off) (toBytes 8 w.toNat)

/-- Credits for `n` popped words of one producer, at its core (R128): to the binding if it is still there, else the
reservation goes back. -/
def State.takeCredit (s : State) (l slot reg n : Nat) (desc : Nat) : State :=
  let k := Fin.ofNat 16 slot
  let t := s.slot l k
  match t.binds[reg - 24]?.join with
  | some b =>
    if b.ep = .ringP desc then
      s.modSlot l k fun t => { t with binds := t.binds.setIfInBounds (reg - 24) (some { b with rsv := b.rsv + n }) }
    else s.posted l 16 (sliceLcn desc) 0x18 (s.core l).ctxid 8 (.ringReturn desc n)
  | none => s.posted l 16 (sliceLcn desc) 0x18 (s.core l).ctxid 8 (.ringReturn desc n)

/-- The slice addresses of `n` words of a ring from a running number on. -/
def State.ringWords (s : State) (d : Nat) (from_ : Word) (n : Nat) : List Nat := (List.range n).map fun i => s.ringAt d (from_ + word i)

/-- The checks that the home makes on a ring before a pop or a push of some of its words (R119-R121, R123): its pages are owned, its
words can be read, its banks work. -/
def State.ringCheck (s : State) (d ctx lvl : Nat) (push : Bool) (ws : List Nat) : State × Nat :=
  let l := sliceLcn d
  if s.ownCause d 64 ctx lvl true ≠ 0 || ws.any (fun a => s.ownCause a 8 ctx lvl push != 0) then (s, 0x0D)
  else if push && ws.any (fun a => (s.core l).health.badBanks.contains (a / 65536 % 16)) then (s, 0x30)
  else s.chkAll (fun s a => s.chkSlice l a) (wordsIn d 64 ++ if push then [] else ws)

/-- Whether a pop or a push would write words of a ring that a gather reads (R117). -/
def State.ringGathered (s : State) (d : Nat) (ws : List Nat) : Bool :=
  s.gathered (sliceLcn d) d 64 || ws.any fun a => s.gathered (sliceLcn d) a 8

/-- The oldest `n` words of a ring taken by its consumer at the home: HEAD, and the credits to their producers; an item that
a RINGPUT pushed (slot 16) has none, and a host bridge's (slot 16, the queue pair's number) goes back to its reservation. -/
def State.ringTake (s : State) (d : Nat) : Nat → State
  | 0 => s
  | n + 1 =>
    let l := sliceLcn d
    let a := s.ringAt d (s.ringHead d)
    let ps := Fmap.get [] (s.core l).links.rings d
    let s := s.ringSet d 0x10 (s.ringHead d + 1)
    let s := s.modCore l fun c =>
      { c with links := { c.links with marks := c.links.marks.filter (· != a), rings := Fmap.set c.links.rings d (ps.drop 1) } }
    let s := match ps with
      | (p, slot, reg) :: _ =>
        if slot ≥ 16 && reg = 0 then s
        else
        let s := s.ringSet d 0x20 (word (s.ringResv d + 1))
        if slot ≥ 16 then s
        else if p = peerKey s.panelId l then s.takeCredit l slot reg 1 d
        else s.postedWrite 16 p
          { dpanel := p / 65536, spanel := s.panelId, dest := p % 65536, src := l, vc := 2, kind := 0x19, len := 8,
            ctx := (s.core l).ctxid, body := .ringCredit d slot reg 1 }
      | [] => s
    State.ringTake s d n

/-- Words pushed into a ring at its home, with the mark of unconverted words: TAIL, RESV, the producers. -/
def State.ringPut (s : State) (d : Nat) (who : Nat × Nat × Nat) (mark : Bool) : List Word → State
  | [] => s
  | w :: ws =>
    let l := sliceLcn d
    let a := s.ringAt d (s.ringTail d)
    let s := (s.modMem fun m => m.store a (toBytes 8 w.toNat)).watched l a 8 none
    let s := s.ringSet d 0x18 (s.ringTail d + 1)
    let s := s.ringSet d 0x20 (word (s.ringResv d - 1))
    let s := s.modCore l fun c =>
      { c with links := { c.links with
          marks := if mark then c.links.marks ++ [a] else c.links.marks,
          rings := Fmap.set c.links.rings d (Fmap.get [] c.links.rings d ++ [who]) } }
    State.ringPut s d who mark ws

/-! ## Endpoints of a slot -/

/-- What a pop endpoint holds: its words in order. -/
def State.epWords (s : State) (l : Nat) : Endpoint → List QWord
  | .link d => (s.core l).links.fifo[d]
  | .pqF q => (s.core l).links.pqF[q]
  | .pqR q => (s.core l).links.pqR[q]
  | .ringC d =>
    (List.range (s.ringCount d)).map fun i =>
      let a := s.ringAt d (s.ringHead d + word i)
      ⟨s.mem.read64 a, (s.core l).links.marks.contains a⟩
  | .ringP _ => []

/-- How many words are there to pop. -/
def State.epCount (s : State) (l : Nat) : Endpoint → Nat
  | .link d => (s.core l).links.fifo[d].length
  | .pqF q => (s.core l).links.pqF[q].length
  | .pqR q => (s.core l).links.pqR[q].length
  | .ringC d => s.ringCount d
  | .ringP _ => 0

/-- The word at the head of a pop endpoint. -/
def State.epHead (s : State) (l : Nat) : Endpoint → Option QWord
  | .ringC d =>
    if s.ringCount d = 0 then none
    else
      let a := s.ringAt d (s.ringHead d)
      some ⟨s.mem.read64 a, (s.core l).links.marks.contains a⟩
  | e => (s.epWords l e).head?

/-- How many words a push endpoint can take now: credits, free places or reserved slots. -/
def State.epRoom (s : State) (l : Nat) (b : Bind) : Nat :=
  match b.ep with
  | .link d => (s.core l).links.credit[d]
  | .pqF q => 32 - (s.core l).links.pqF[q].length
  | .pqR q => 32 - (s.core l).links.pqR[q].length
  | .ringP _ => b.rsv
  | .ringC _ => 0

/-- Whether a push of `n` words of slot `k` to a ring has to wait: at another core, while an earlier access of the thread to that core
went on VC 0 and is not performed, or has not left its memory path (R228); at its own, while a gather reads what it writes (R117). -/
def State.ringBlocked (s : State) (l : Nat) (k : Fin 16) (b : Bind) (n : Nat := 1) : Bool :=
  match b.ep with
  | .ringP d =>
    if sliceLcn d = l then s.ringGathered d (s.ringWords d (s.ringTail d) n)
    else ((s.slot l k).outst.any fun o => o.vc != 2 && o.home == homeKey s.panelId d) || (s.slot l k).path.any fun a => !a.posted
  | _ => false

/-- The checks of a pop of `n` words of slot `k`, or of a push to a ring of its own core: the state after them and the cause. -/
def State.epCheck (s : State) (l : Nat) (b : Bind) (n : Nat := 1) : State × Nat :=
  let c := s.core l
  match b.ep with
  | .ringC d => s.ringCheck d c.ctxid c.level false (s.ringWords d (s.ringHead d) n)
  | .ringP d => if sliceLcn d = l then s.ringCheck d c.ctxid c.level true (s.ringWords d (s.ringTail d) n) else (s, 0)
  | _ => (s, 0)

/-- One word pushed to an endpoint that has room. `k` is the slot, `r` the register that is bound. -/
def State.epPush (s : State) (l : Nat) (k : Fin 16) (r : Nat) (b : Bind) (q : QWord) : State :=
  match b.ep with
  | .link d =>
    let s := s.modCore l fun c => { c with links := { c.links with credit := c.links.credit.set d (c.links.credit[d] - 1) } }
    s.linkSend l d (.linkWord (opposite d) q.w)
  | .pqF n => s.modCore l fun c => { c with links := { c.links with pqF := c.links.pqF.set n (c.links.pqF[n] ++ [q]) } }
  | .pqR n => s.modCore l fun c => { c with links := { c.links with pqR := c.links.pqR.set n (c.links.pqR[n] ++ [q]) } }
  | .ringP d =>
    let s := s.modSlot l k fun t =>
      { t with binds := t.binds.setIfInBounds (r - 24) (some { b with rsv := b.rsv - 1 }) }
    if sliceLcn d = l then (s.epCheck l b).1.ringPut d (peerKey s.panelId l, k.val, r) false [q.w]
    else s.posted l k.val (sliceLcn d) 0x18 (s.core l).ctxid 8 (.ringPush d [q.w] 0 0 [] k.val r (s.slot l k).iss.b)
  | .ringC _ => s

/-- Whether a pop of one word can happen: a word is there, no gather reads the ring's descriptor (R117), and with pop-and-forward the
opposite side holds a credit (R127). -/
def State.canPop (s : State) (l : Nat) (b : Bind) : Bool :=
  0 < s.epCount l b.ep && (match b.ep with
      | .ringC d => !s.ringGathered d []
      | _ => true) &&
    (!b.pf || match b.ep with
      | .link d => 0 < (s.core l).links.credit[opposite d]
      | _ => true)

/-- The word at the head taken from a pop endpoint; with pop-and-forward it leaves by the opposite side too. -/
def State.epPop (s : State) (l : Nat) (k : Fin 16) (b : Bind) : State :=
  match b.ep with
  | .link d =>
    let w := (s.core l).links.fifo[d].head?
    let s := s.modCore l fun c => { c with links := { c.links with fifo := c.links.fifo.set d (c.links.fifo[d].drop 1) } }
    let s := s.linkSend l d (.linkCredit (opposite d))
    match w with
    | some q => if b.pf then s.epPush l k 24 { b with ep := .link (opposite d), push := true } q else s
    | none => s
  | .pqF n => s.modCore l fun c => { c with links := { c.links with pqF := c.links.pqF.set n (c.links.pqF[n].drop 1) } }
  | .pqR n => s.modCore l fun c => { c with links := { c.links with pqR := c.links.pqR.set n (c.links.pqR[n].drop 1) } }
  | .ringC d => (s.epCheck l b).1.ringTake d 1
  | .ringP _ => s

end Sys2Proof.Machine
end

