-- ==== Sys2Proof/Machine/Operands.lean ====
section
/-! DEFINITION. What each instruction names (R48, R52, R191), who may use it (R4), and the reading of operands.
Every operand form of the instruction set passes through these definitions. -/

namespace Sys2Proof.Machine

/-! ## System registers (Table 5.9) -/

/-- The level that a read of system register `n` needs; none when the number is unassigned. -/
def sysReadLevel (n : Nat) : Option Nat :=
  if [0x000, 0x001, 0x002, 0x003, 0x008, 0x00B, 0x011, 0x012].contains n then some 0
  else if n < 0x013 then some 1
  else if 0x020 ≤ n && n < 0x030 then some 1
  else if 0x040 ≤ n && n < 0x044 then some 1
  else if 0x044 ≤ n && n < 0x048 then some 0
  else none

/-- The level that a write needs; none when the number is unassigned or the register cannot be written. -/
def sysWriteLevel (n : Nat) : Option Nat :=
  if n = 0x001 || n = 0x00B then none
  else if [0x000, 0x00E, 0x00F, 0x011, 0x012].contains n then some 2
  else if n < 0x013 then some 1
  else if 0x020 ≤ n && n < 0x030 then some 2
  else if 0x040 ≤ n && n < 0x048 then some 1
  else none

/-! ## What an instruction names -/

/-- The guard, the level and the registers of an instruction. `eng` is the engine queue that it goes to;
`fixed` says that its results have fixed latency (R51); `named` are the x registers that it names without
reading or writing them. -/
structure Uses where
  gd    : Guard
  lvl   : Nat := 0
  eng   : Option Producer := none
  fixed : Bool := true
  rx    : List (Fin 32) := []
  wx    : List (Fin 32) := []
  rv    : List (Fin 16) := []
  wv    : List (Fin 16) := []
  rg    : List (Fin 16) := []
  wg    : List (Fin 16) := []
  named : List (Fin 32) := []
  deriving DecidableEq, Repr

end Sys2Proof.Machine

namespace Sys2Proof

open Machine

/-- Registers of a second operand. -/
def Src.regs : Src → List (Fin 32)
  | .reg r => [r]
  | .imm _ => []

def VSrc.xregs : VSrc → List (Fin 32)
  | .x r => [r]
  | _ => []

def VSrc.vregs : VSrc → List (Fin 16)
  | .v r => [r]
  | _ => []

def Alu.uses (a : Alu) : Uses := { gd := a.gd, rx := a.s1 :: a.src.regs, wx := [a.d] }
def Un.uses (a : Un) : Uses := { gd := a.gd, rx := [a.s1], wx := [a.d] }
/-- A load, or a synchronising access with a destination. -/
def MemForm.loads (a : MemForm) : Uses := { gd := a.gd, fixed := false, rx := a.base :: a.off.regs, wx := [a.r] }
/-- A store, or a synchronising access with a datum. -/
def MemForm.stores (a : MemForm) : Uses := { gd := a.gd, fixed := false, rx := a.r :: a.base :: a.off.regs }
def VBin.uses (a : VBin) : Uses :=
  { gd := a.gd, eng := some .vector, fixed := false, rx := a.src.xregs, rv := a.s1 :: a.src.vregs, wv := [a.d] }
def VUn.uses (a : VUn) : Uses :=
  { gd := a.gd, eng := some .vector, fixed := false, rv := [a.s1], wv := [a.d] }

/-- A vector command with sources and one vector destination. -/
def vecUses (gd : Guard) (d : List (Fin 16)) (rv : List (Fin 16)) (rx : List (Fin 32)) : Uses :=
  { gd, eng := some .vector, fixed := false, rx, rv, wv := d }

/-- An instruction of the memory path. -/
def pathUses (gd : Guard) (wx rx : List (Fin 32)) (lvl : Nat := 0) : Uses := { gd, lvl, fixed := false, rx, wx }

/-- A command of the matrix queue. -/
def matUses (gd : Guard) (rx : List (Fin 32) := []) (rv : List (Fin 16) := []) : Uses :=
  { gd, eng := some .matrix, fixed := false, rx, rv }

/-- Guards of a mask. -/
def maskGuards (m : BitVec 16) : List (Fin 16) := (List.finRange 16).filter fun k => k != 0 && m.getLsbD k.val

/-- The register group of 64 elements of a format: four registers of FP32, two of a 16-bit class, when aligned (R185). -/
def vecGroup (tag : Tag) (d : Fin 16) : List (Fin 16) :=
  let n := if tag.toNat % 16 = 1 then 4 else if tag.toNat % 16 = 2 || tag.toNat % 16 = 3 then 2 else 1
  if d.val % n = 0 then (List.range n).map fun i => Fin.ofNat 16 (d.val + i) else [d]

/-- What an instruction names. -/
def Instr.uses : Instr → Uses
  | .nop gd => { gd }
  | .j gd _ => { gd }
  | .jal gd d _ => { gd, wx := [d] }
  | .jr gd s1 => { gd, rx := [s1] }
  | .jalr gd d s1 => { gd, rx := [s1], wx := [d] }
  | .br gd g2 _ | .brF gd g2 _ => { gd, rg := [g2] }
  | .loop gd _ s1 _ => { gd, rx := [s1] }
  | .loopi gd _ _ _ => { gd }
  | .loopx gd _ d s1 sr _ => { gd, rx := [s1, sr], named := [d] }
  | .trap gd _ | .brk gd _ | .supcall gd _ => { gd }
  | .rdsys gd d n => { gd, lvl := (sysReadLevel n.toNat).getD 0, wx := [d] }
  | .wrsys gd n s1 => { gd, lvl := (sysWriteLevel n.toNat).getD 0, rx := [s1] }
  | .rdtime gd d => { gd, wx := [d] }
  | .sleepuntil gd s1 s2 => { gd, fixed := false, rx := [s1, s2] }
  | .add a | .sub a | .and a | .or a | .xor a | .sll a | .srl a | .sra a | .slt a | .sltu a
  | .mul a | .mulh a | .mulhm a | .mulhu a | .div a | .divu a | .rem a | .remu a
  | .min a | .max a | .minu a | .maxu a => a.uses
  | .clz a | .ctz a | .cpop a => a.uses
  | .li gd d _ => { gd, wx := [d] }
  | .addpc gd d _ => { gd, wx := [d] }
  | .cmp gd _ _ d s1 src => { gd, rx := s1 :: src.regs, wg := [d] }
  | .tst gd _ d s1 src => { gd, rx := s1 :: src.regs, wg := [d] }
  | .glog gd d a b _ => { gd, rg := [a, b], wg := [d] }
  | .grd gd d => { gd, rg := List.finRange 16, wx := [d] }
  | .gwr gd s1 mask => { gd, rx := [s1], wg := maskGuards mask }
  | .fork gd s1 jn _ _ _ => { gd, fixed := false, rx := [s1, jn, 8, 10, 11, 12, 13] }
  | .spawn gd s1 t jn _ _ _ => { gd, fixed := false, rx := [s1, t, jn, 8, 10, 11, 12, 13] }
  | .joindec gd s1 => pathUses gd [] [s1]
  | .suspend gd | .yield gd | .exit gd => { gd, fixed := false }
  | .suspendJ gd s1 | .await gd s1 => { gd, fixed := false, rx := [s1] }
  | .stealdom gd src => { gd, rx := src.regs }
  | .getid gd d _ => { gd, wx := [d] }
  | .waitev gd d src w => { gd, rx := src.regs ++ w.toList, wx := [d] }
  | .sigev gd s1 s2 => pathUses gd [] [s1, s2]
  | .ld a | .ldu a | .ldAcq a | .ldw a | .ldt a | .lrq a => a.loads
  | .st a | .stRel a | .stf a | .stw a | .scq a => a.stores
  | .relq a => { gd := a.gd, fixed := false, rx := a.base :: a.off.regs }
  | .amo gd _ op _ _ d s1 src s3 => pathUses gd [d] (s1 :: src.regs ++ if op == .cas then [s3] else [])
  | .fence gd | .fenceEng gd | .fenceI gd => { gd, fixed := false }
  | .vadd a | .vsub a | .vmul a | .vmin a | .vmax a => a.uses
  | .vfma a s3 => { VBin.uses a with rv := s3 :: (VBin.uses a).rv }
  | .vabs a | .vneg a => a.uses
  | .vand gd d s1 src | .vor gd d s1 src | .vxor gd d s1 src | .vshl gd d s1 src | .vshr gd _ d s1 src =>
    vecUses gd [d] (s1 :: src.vregs) src.xregs
  | .vcmp gd _ d s1 src =>
    match d with
    | .mask d => vecUses gd [d] (s1 :: src.vregs) src.xregs
    | .any g | .all g => { vecUses gd [] (s1 :: src.vregs) src.xregs with wg := [g] }
  | .vsel gd d s1 s2 s3 => vecUses gd [d] [s1, s2, s3] []
  | .vperm gd d s1 s2 => vecUses gd [d] [s1, s2] []
  | .vslide gd d s1 src => vecUses gd [d] [s1] src.regs
  | .vbcast gd d src _ => vecUses gd [d] [d] src.regs
  | .vmovx gd d s1 src => { vecUses gd [] [s1] src.regs with wx := [d] }
  | .vins gd d s1 src s3 => vecUses gd [d] [s1] (s3 :: src.regs)
  | .vred gd _ _ d s1 m =>
    match d with
    | .v d => vecUses gd [d] (s1 :: m.toList) []
    | .x d => { vecUses gd [] (s1 :: m.toList) [] with wx := [d] }
  | .vsettag gd d s1 src => vecUses gd [d] [s1] src.regs
  | .vgettag gd d s1 => { vecUses gd [] [s1] [] with wx := [d] }
  | .vcvt gd _ _ d s1 _ => vecUses gd [d] [s1] []
  | .vqnt gd _ d s1 s3 _ => { vecUses gd [d] [s1] [] with wx := [s3] }
  | .vdqnt gd _ d s1 s2 tag => vecUses gd (vecGroup tag d) [s1] [s2]
  | .vld gd d s1 _ _ => vecUses gd [d] [] [s1]
  | .vst gd s3 s1 _ => vecUses gd [] [s3] [s1]
  | .vlds gd d s1 s2 _ => vecUses gd [d] [] [s1, s2]
  | .vsts gd s3 s1 s2 => vecUses gd [] [s3] [s1, s2]
  | .vldx gd d s1 s2 _ => vecUses gd [d] [s2] [s1]
  | .vstx gd s3 s1 s2 => vecUses gd [] [s3, s2] [s1]
  | .qbind gd d s1 s2 => { pathUses gd [] [s1, s2] with named := [d] }
  | .qfree gd d => { pathUses gd [] [] with named := [d] }
  | .qstat gd d s1 => { pathUses gd [d] [] with named := [s1] }
  | .vqpop gd d s1 => { vecUses gd [d] [] [] with named := [s1] }
  | .vqpush gd s3 s1 => { vecUses gd [] [s3] [] with named := [s1] }
  | .vsend gd s3 s1 _ _ => vecUses gd [] [s3] [s1]
  | .amcall gd s1 s2 _ _ => pathUses gd [] (s1 :: if s2 = 0 then [10, 11, 12, 13] else [s2])
  | .cxop gd _ d s1 s2 s3 _ sc => vecUses gd [d] [s1, s2, s3] [sc]
  | .cxload gd s1 | .cxdrop gd s1 => pathUses gd [] [s1]
  | .cxqry gd d s1 => pathUses gd [d] [s1]
  | .cxtbl gd s1 s2 => pathUses gd [] [s1, s2] 1
  | .bndset gd _ clr _ s1 => { gd, lvl := 1, eng := some .vector, fixed := false, rx := if clr then [] else [s1] }
  | .bndget gd d _ _ => pathUses gd [d] []
  | .cntrd gd d _ _ _ => pathUses gd [d] []
  | .cntclr gd _ h _ => pathUses gd [] [] (if h = 1 || h = 3 then 1 else 0)
  | .mshld gd _ s1 _ => matUses gd [s1]
  | .mma gd _ _ _ _ => matUses gd
  | .mmaSp gd _ _ _ _ s1 _ => matUses gd [s1]
  | .mmaGa gd _ _ _ _ s2 _ => matUses gd [] [s2]
  | .mmaSpga gd _ _ _ _ s1 _ s2 _ => matUses gd [s1] [s2]
  | .mzero gd _ _ | .mld gd _ _ _ | .mst gd _ _ _ => matUses gd
  | .mrowred gd _ _ _ _ d _ => { matUses gd with wv := [d] }
  | .mcnt gd _ d _ => { matUses gd with wx := [d] }
  | .copy gd d s1 | .copym gd d s1 => { gd, eng := some .copy, fixed := false, rx := [s1], wx := [d] }
  | .cprom gd d s1 => pathUses gd [d] [s1]
  | .hcfg gd s1 s2 | .hsub gd s1 s2 | .hunsub gd s1 s2 => pathUses gd [] [s1, s2]
  | .publish gd s1 | .publishF gd s1 | .stopref gd s1 => { pathUses gd [] [s1] with rx := [s1] }
  | .hver gd d s1 => pathUses gd [d] [s1]
  | .stoprefAt gd s1 s2 => pathUses gd [] [s1, s2]
  | .refchk gd d s1 => { pathUses gd [] [s1] with wg := [d] }
  | .settle gd s1 _ _ => pathUses gd [] [s1]
  | .settlew gd d s1 _ _ => pathUses gd [d] [s1]
  | .launch gd d s1 | .deal gd d s1 => pathUses gd [d] [s1]
  | .ringget gd d gm s1 => { pathUses gd [d] [s1] with wg := [gm] }
  | .ringput gd s3 s1 => pathUses gd [] [s3, s1]
  | .govset gd d s1 s2 => pathUses gd [d] [s1, s2] 1
  | .preempt gd d s1 | .resume gd d s1 => pathUses gd [d] [s1] 2
  | .rdhmap gd d s1 | .rdlpt gd d s1 _ => pathUses gd [d] [s1] 1
  | .quiesce gd d => pathUses gd [d] [] 1
  | .barset gd _ s1 => pathUses gd [] [s1]
  | .bararr gd _ | .barwaitF gd _ _ | .barwd gd _ => pathUses gd [] []
  | .barwait gd d _ _ => { pathUses gd [] [] with wg := [d] }
  | .chkpt gd d s1 => pathUses gd [d] [s1]
  | .tlbinv gd s1 s2 _ => pathUses gd [] [s1, s2] 2
  | .rmapsetRemap gd d s1 s2 | .rmapsetMarkDead gd d s1 s2 | .rmapsetClearDead gd d s1 s2 =>
    pathUses gd [d] [s1, s2] 2
  | .grpjoin gd d s1 s2 => pathUses gd [d] [s1, s2]
  | .grpleave gd s1 | .grpbar gd s1 => pathUses gd [] [s1]
  | .grpred gd _ d s1 s2 | .grpbc gd d s1 s2 _ => { pathUses gd [] [s1] with rv := [s2], wv := [d] }
  | .fremap gd d s1 s2 => pathUses gd [d] [s1, s2] 2
  | _ => { gd := ⟨0, false⟩ }

/-- The major opcode of an instruction. -/
def Instr.opByte (i : Instr) : Nat := (encode i).toNat / 2 ^ 88

/-- Vector commands that access memory or an endpoint, which a later access of the thread waits for (R188). -/
def Instr.vecMem : Instr → Bool
  | .vld .. | .vst .. | .vlds .. | .vsts .. | .vldx .. | .vstx .. | .vsend .. | .vqpush .. => true
  | _ => false

end Sys2Proof

namespace Sys2Proof.Machine

/-- The graph slot whose projected opcode is `n` (R204). -/
def Core.cxAt (c : Core) (n : Nat) : Option (Fin 4) := (List.finRange 4).find? fun k => c.veng.gs[k].proj == some n

/-- The binding of an x register in a slot. -/
def Slot.bind (t : Slot) (r : Fin 32) : Option Bind := if r.val < 24 then none else t.binds[r.val - 24]?.join

/-! ## Tags as they will stand (R153) -/

/-- The tag that VCMP gives a mask of width `w` (R177). -/
def maskTag (w : Nat) : Tag := if w = 32 then 4 else if w = 16 then 5 else 6

/-- The tags of a thread's vector registers after one more command: `pop` is the tag of a popped endpoint, `x` the captured
scalar of VSETTAG, `cx` the output tag of a graph. -/
def tagsAfter (tags : Vector Tag 16) (i : Instr) (pop : Tag) (x : Word) (cx : Tag) : Vector Tag 16 :=
  match i with
  | .vadd a | .vsub a | .vmul a | .vmin a | .vmax a | .vfma a _ => tags.set a.d tags[a.s1]
  | .vabs a | .vneg a => tags.set a.d tags[a.s1]
  | .vand _ d s1 _ | .vor _ d s1 _ | .vxor _ d s1 _ | .vshl _ d s1 _ | .vshr _ _ d s1 _ => tags.set d tags[s1]
  | .vcmp _ _ d s1 _ =>
    match d with
    | .mask d => tags.set d (maskTag (Tag.width tags[s1]))
    | _ => tags
  | .vsel _ d s1 _ _ | .vperm _ d s1 _ | .vslide _ d s1 _ | .vins _ d s1 _ _ => tags.set d tags[s1]
  | .vred _ _ _ d s1 _ =>
    match d with
    | .v d => tags.set d tags[s1]
    | .x _ => tags
  | .vsettag _ d _ src =>
    tags.set d (match src with
      | .imm v => v.setWidth 16
      | .reg _ => x.setWidth 16)
  | .vcvt _ _ _ d _ t | .vqnt _ _ d _ _ t => tags.set d t
  | .vdqnt _ _ d _ _ t => (vecGroup t d).foldl (fun ts (r : Fin 16) => ts.set r.val t r.isLt) tags
  | .vld _ d _ _ t | .vlds _ d _ _ t | .vldx _ d _ _ t => tags.set d t
  | .vqpop _ d _ => tags.set d pop
  | .cxop _ _ d _ _ _ _ _ => tags.set d cx
  | _ => tags

/-- The tag of the endpoint that an instruction pops. -/
def Slot.popTag (t : Slot) (i : Instr) : Tag :=
  match i with
  | .vqpop _ _ r => ((t.bind r).map Bind.tag).getD 0
  | _ => 0

/-- The captured scalar at the head of a command's list. -/
def VCmd.x0 (c : VCmd) : Word := (nth none c.xs 0).getD 0

/-- The tags of slot `k`'s vector registers behind every command that it has in the queue and that is not known to be discarded. -/
def Core.tagsAhead (c : Core) (k : Nat) : Vector Tag 16 :=
  (c.veng.q.filter fun q => q.slot == k && q.gd != .known false).foldl
    (fun ts q => tagsAfter ts q.op ((c.slot (Fin.ofNat 16 k)).popTag q.op) q.x0
      ((c.veng.gs[q.cxslot]?.bind GSlot.graph).elim 0 Graph.tout))
    (c.slot (Fin.ofNat 16 k)).regs.vtag

/-- What an instruction names as slot `k` of a core issues it: a VQNT the group that the tag of its first source makes (R185); a VSEND
its address, unless its register is bound as a ring's producer (R194). -/
def Core.names (c : Core) (k : Fin 16) (i : Instr) : Uses :=
  match i with
  | .vqnt _ _ _ s1 _ _ => { i.uses with rv := vecGroup (c.tagsAhead k.val)[s1] s1 }
  | .vsend _ _ s1 _ _ =>
    match (c.slot k).bind s1 with
    | some { ep := .ringP _, .. } => { i.uses with rx := [], named := [s1] }
    | _ => i.uses
  | i => i.uses

/-- What an instruction names on a core: of a CXOP the inputs and the scalar that its graph has (R206). -/
def Core.usesOf (c : Core) (k : Fin 16) (i : Instr) : Uses :=
  match i with
  | .cxop _ _ _ s1 s2 s3 n sc =>
    match (c.cxAt n.toNat).bind fun k => c.veng.gs[k].head with
    | some g => { i.uses with rv := [s1, s2, s3].take g.nin, rx := if g.tsc = 0 then [] else [sc] }
    | none => { i.uses with rv := [], rx := [] }
  | i => c.names k i

/-- What an instruction of the executing thread names. -/
def State.usesOf (s : State) (i : Instr) : Uses := s.me.usesOf s.cur.slot i

/-! ## Reading operands -/

/-- The value of an x register, x0 reading 0, without regard to bindings. -/
def Slot.rx (t : Slot) (r : Fin 32) : Word := if r = 0 then 0 else t.regs.x[r]

/-- The value of a guard, g0 being true, without regard to its pending mark. -/
def Slot.rg (t : Slot) (g : Fin 16) : Bool := g == 0 || t.regs.g[g]

/-- The value that an instruction reads from an x register: the word at the head of a pop endpoint, if it is bound
to one (R191). -/
def State.rx (s : State) (r : Fin 32) : Word :=
  match s.thr.bind r with
  | some b => if b.push then s.thr.rx r else ((s.epHead s.cur.lcn b.ep).getD ⟨0, false⟩).w
  | none => s.thr.rx r

/-- The second operand of a scalar instruction (R56). -/
def State.src (s : State) : Src → Word
  | .reg r => s.rx r
  | .imm i => sext32 i

/-! ## Tests before execution (R4, R52, R54, R61, R191) -/

/-- A guard's value, none while it is pending. -/
def Slot.guard (t : Slot) (g : Fin 16) : Option Bool :=
  if g = 0 then some true else if t.regs.gp[g].n = 0 then some t.regs.g[g] else none

/-- Whether a header guard lets its instruction execute, none while the guard is pending. -/
def Slot.gate (t : Slot) (gd : Guard) : Option Bool := (t.guard gd.g).map fun b => b != gd.neg

/-- Whether a pending result is one that the instruction's own queue will deliver (R52). -/
def Pend.foreign (p : Pend) (q : Option Producer) : Bool := p.n != 0 && q != some p.prod

/-- The extra information of fault 0x05. -/
def unsyncInfo (file n : Nat) : Word := word (file + n * 256)

/-- The pending registers that an instruction may not touch (R52), the first of them as the information of 0x05:
x and v registers that it reads or writes, guards that it writes. -/
def Slot.unsync (t : Slot) (u : Uses) : Option Word :=
  match (u.rx ++ u.wx).find? fun (r : Fin 32) => r != 0 && t.regs.xp[r].foreign u.eng with
  | some r => some (unsyncInfo 0 r.val)
  | none =>
    match (u.rv ++ u.wv).find? fun r => t.regs.vp[r].foreign u.eng with
    | some r => some (unsyncInfo 1 r.val)
    | none =>
      match u.wg.find? fun g => g != 0 && t.regs.gp[g].n != 0 with
      | some g => some (unsyncInfo 2 g.val)
      | none => none

/-- Whether a slot has a vector memory command, a VSEND or a VQPUSH in the vector queue of its core. -/
def Core.vecMemQueued (c : Core) (slot : Nat) : Bool := c.veng.q.any fun q => q.slot == slot && q.op.vecMem

/-- How the bound registers that an instruction names stop it (R188, R191): a vector memory command of the thread that is still
queued, one of the wrong direction, a ring that its home cannot read, a marked word, an empty or a full endpoint. -/
def State.bindStop (s : State) (u : Uses) : Option Ctl :=
  let t := s.thr
  let l := s.cur.lcn
  let stopR (r : Fin 32) : Option Ctl :=
    match t.bind r with
    | none => none
    | some b =>
      if b.push then some (.fault ⟨0x27, 10, 0⟩)
      else if s.me.vecMemQueued s.cur.slot.val then some (.retry .fence)
      else if s.epCount l b.ep = 0 then some (.retry .qEmpty)
      else if (s.epCheck l b).2 ≠ 0 then some (.fault ⟨(s.epCheck l b).2, 0, 0⟩)
      else if ((s.epHead l b.ep).getD ⟨0, false⟩).mark then some (.fault ⟨0x21, 4, 0⟩)
      else if !s.canPop l b then some (.retry .qFull) else none
  let stopW (r : Fin 32) : Option Ctl :=
    match t.bind r with
    | none => none
    | some b =>
      if !b.push then some (.fault ⟨0x27, 10, 0⟩)
      else if s.me.vecMemQueued s.cur.slot.val then some (.retry .fence)
      else if u.fixed && (s.epRoom l b = 0 || s.ringBlocked l s.cur.slot b) then some (.retry .qFull)
      else if u.fixed && (s.epCheck l b).2 ≠ 0 then some (.fault ⟨(s.epCheck l b).2, 0, 0⟩) else none
  (u.rx.findSome? stopR).orElse fun _ => u.wx.findSome? stopW

/-- What the tests before execution come to. -/
inductive Gate where
  | go
  /-- the guard is false -/
  | skip
  | stop (c : Ctl)
  deriving DecidableEq, Repr

/-- The tests of an instruction that goes to no engine queue: privilege, guard, pending registers, pending source
guards, bound registers. -/
def State.gate (s : State) (u : Uses) : Gate :=
  if s.me.level < u.lvl then .stop (.fault ⟨0x04, 0, 0⟩)
  else match s.thr.gate u.gd with
    | none => .stop (.retry .guard)
    | some false => .skip
    | some true =>
      match s.thr.unsync u with
      | some i => .stop (.fault ⟨0x05, i, 0⟩)
      | none =>
        if u.rg.any fun g => (s.thr.guard g).isNone then .stop (.retry .guard)
        else match s.bindStop u with
          | some c => .stop c
          | none => .go

/-- The tests of an engine command: its guard goes with it (R55), and it is tested whatever its guard (R52). A bound register of
the wrong direction or a marked word is no fault while the guard is pending: the command takes it with it. -/
def State.gateEng (s : State) (u : Uses) : Gate :=
  if s.me.level < u.lvl then .stop (.fault ⟨0x04, 0, 0⟩)
  else match s.thr.unsync u with
    | some i => .stop (.fault ⟨0x05, i, 0⟩)
    | none =>
      match s.thr.gate u.gd, s.bindStop u with
      | some false, _ => .skip
      | none, some (.fault _) => .go
      | _, some c => .stop c
      | _, none => .go

/-- The fault of its bound registers that a command with a pending guard takes into its queue: it is raised when the guard turns out
true (R55). -/
def State.laterStop (s : State) (u : Uses) : Option Cause :=
  match s.thr.gate u.gd, s.bindStop u with
  | none, some (.fault c) => some c
  | _, _ => none

/-- The guard that a command takes into its queue (R55). -/
def State.cmdGuard (s : State) (gd : Guard) : CmdGuard :=
  match s.thr.gate gd with
  | some b => .known b
  | none => .pend gd.g gd.neg

/-! ## Pairs (R47, R48) -/

/-- The pair classes of Table 3.4. -/
inductive PairClass where
  | s | x | m | e | n
  deriving DecidableEq, Repr

/-- The class of a major opcode. -/
def pairClass (op : Nat) : PairClass :=
  if op = 0x01 || op = 0x0E || (0x10 ≤ op && op ≤ 0x4F) || op = 0x58 then .s
  else if 0x02 ≤ op && op ≤ 0x09 then .x
  else if (0x60 ≤ op && op ≤ 0x7F) || (0xA0 ≤ op && op ≤ 0xAF) || (0xB0 ≤ op && op ≤ 0xB7) then .m
  else if (0x80 ≤ op && op ≤ 0x9F) || (0xB8 ≤ op && op ≤ 0xBF) || (0xC0 ≤ op && op ≤ 0xD7) then .e
  else .n

/-- Whether an instruction counts as one of class M: by its opcode, or because it names a bound register. -/
def Slot.countsM (t : Slot) (i : Instr) : Bool :=
  pairClass i.opByte == .m || (i.uses.rx ++ i.uses.wx ++ i.uses.named).any fun r => (t.bind r).isSome

/-- Whether two instructions of slot `k` form a legal pair (R48); the writes that x0 and g0 discard are no writes. -/
def Core.pairOk (c : Core) (k : Fin 16) (i j : Instr) : Bool :=
  let t := c.slot k
  let a := c.names k i
  let b := c.names k j
  let ci := pairClass i.opByte
  let cj := pairClass j.opByte
  ci != .n && cj != .n && ci != .x && !(t.countsM i && t.countsM j) && !(ci == .e && cj == .e) &&
  !(a.wx.any fun r => r != 0 && (b.rx.contains r || b.wx.contains r)) &&
  !(a.wv.any fun r => b.rv.contains r || b.wv.contains r) &&
  !(a.wg.any fun g => g != 0 && (b.rg.contains g || b.wg.contains g || b.gd.g == g))

end Sys2Proof.Machine
end

