-- ==== Sys2Proof/Machine/Ops.lean ====
section
/-! DEFINITION. The shared operations of threads: taking an exception (R236-R240) and the return from one (R241),
parking, results into registers (R50, R51, R191), the end of an instruction with its hardware loops (R42, R93). -/

namespace Sys2Proof.Machine

/-! ## Fault packets (R240, Table 8.8) -/

/-- Whether the message thread of a core has stopped. -/
def Core.mtStopped (c : Core) : Bool := (c.slot 15).state == .frozen

/-- Where a fault packet of core `l` goes: the loader for 0x1C, else the supervisor, the PCTL for those two's own
faults and when the receiver is absent, isolated or stopped. -/
def State.receiver (s : State) (l cause : Nat) : Nat :=
  let c := s.ctx (s.core l).ctxid
  let sup := c.lcnOf c.sup
  let ld := c.lcnOf c.loader
  let dest := if cause = 0x1C && ld != some l then ld else if sup = some l then none else sup
  match dest with
  | some d => if s.present d && !(s.core d).mtStopped && !(s.core d).health.iso then d else Config.srcPctl
  | none => Config.srcPctl

/-- What tells a packet of core `l`: slot, detector, whether deferred, whether the core is frozen, the PCs. -/
def State.packet (s : State) (l slot eng : Nat) (deff frz : Bool) (pc apc : Addr) (c : Cause) : Packet :=
  let k := s.core l
  { priv := k.level, ctx := k.ctxid, lcn := l, eng, deff, frz, slot, cause := c.cause, pc, apc, faddr := c.faddr,
    info := c.info ||| word (apc.toNat % 64 / 12 * 2 ^ 19), gtb := s.gtb, src := peerKey s.panelId l,
    fcnt := k.flt.fcnt, record := ((k.slot (Fin.ofNat 16 slot)).record).getD 0 }

/-- A packet sent to an agent: a message of KIND 0xFF on the system channel. -/
def State.sendPacket (s : State) (dest : Nat) (p : Packet) : State :=
  s.post { dpanel := s.panelId, spanel := s.panelId, dest, src := p.src % 65536, vc := 3, kind := 0xFF, len := 64,
           ctx := p.ctx, body := .packet p }

/-- A packet of core `l` for one of its own faults: FCNT counts it, and the debug window shows it (R237). -/
def State.faultPacket (s : State) (l slot eng : Nat) (deff frz : Bool) (pc apc : Addr) (c : Cause) : State :=
  let s := s.modCore l fun k => { k with flt := { k.flt with fcnt := min 0xFFFF (k.flt.fcnt + 1) } }
  let p := s.packet l slot eng deff frz pc apc c
  let s := s.modCore l fun k => { k with flt := { k.flt with last := some p } }
  s.sendPacket (s.receiver l c.cause) p

/-- A report to the PCTL, or to another agent, that freezes nothing. -/
def State.report (s : State) (l dest eng : Nat) (c : Cause) : State :=
  s.sendPacket dest (s.packet l 0 eng true false 0 0 c)

/-- A packet about a context from an agent that is no core, or about a record that a wake cannot reach (R359,
R445): DEF 1, FRZ 0, to the context's supervisor. -/
def State.agentPacket (s : State) (src ctx eng : Nat) (c : Cause) : State :=
  let k := s.ctx ctx
  let dest := match k.lcnOf k.sup with
    | some d => if s.present d && !(s.core d).mtStopped && !(s.core d).health.iso then d else Config.srcPctl
    | none => Config.srcPctl
  s.sendPacket dest
    { priv := 0, ctx, lcn := if src < 8192 then src else 0, eng, deff := true, frz := false, slot := 0, cause := c.cause,
      pc := 0, apc := 0, faddr := c.faddr, info := c.info, gtb := s.gtb, src := peerKey s.panelId src, fcnt := 0, record := 0 }

/-! ## Freezing (R236-R239) -/

/-- A slot stopped by a fault on its core: a Running slot is Frozen, a Parked one stays parked. -/
def Slot.stop (t : Slot) : Slot := if t.state = .running then { t with state := .frozen } else t

/-- A core that stops leaves the combining windows in which its copies wait: they go on alone (R262). -/
def Core.leaveWindow (c : Core) : Core := { c with cq := c.cq.map fun q => if q.comb = 1 then { q with comb := 2 } else q }

/-- A core frozen: every worker slot stops at its issue boundary, the steal search stops (R237). -/
def Core.freeze (c : Core) : Core :=
  { c.leaveWindow with
           slots := Vector.ofFn fun k => if k.val < 15 then (c.slot k).stop else c.slot k,
           steal := { c.steal with active := false },
           flt := { c.flt with frozen := true, step := none } }

/-- Causes that stop the message thread only (Table 8.9). -/
def mtOnly (cause : Nat) : Bool := cause == 0x1A || cause == 0x1F

/-- THE TAKING OF A PRECISE FAULT (R236, R237): the slot stops with its PC at the instruction, or at the first slot of
its pair; its core freezes, or only the message thread stops; the packet leaves. Nothing of the instruction has
taken effect. `home` marks a fault that a home has decided on while the thread stands at its instruction (R242): its packet
shows it as deferred. -/
def State.takeFaultAt (s : State) (l : Nat) (k : Fin 16) (c : Cause) (home : Bool := false) : State :=
  let t := s.slot l k
  let s := s.modSlot l k fun t =>
    { t with state := .frozen, park := .none, again := false, pc := t.iss.first, ctl := .fault c }
  let only := k == 15 && mtOnly c.cause
  let s := if only then s else s.modCore l Core.freeze
  let apc := t.iss.first
  let info := c.info ||| word (t.iss.b.toNat % 64 / 12 * 2 ^ 19)
  let s := s.modCore l fun k => { k with flt := { k.flt with fcnt := min 0xFFFF (k.flt.fcnt + 1) } }
  let p := { s.packet l k.val (if home then 5 else 0) home (s.core l).flt.frozen apc apc c with info := info }
  let s := s.modCore l fun k => { k with flt := { k.flt with last := some p } }
  s.sendPacket (s.receiver l c.cause) p

/-- A precise fault of the executing thread. -/
def State.takeFault (s : State) (c : Cause) : State := s.takeFaultAt s.cur.lcn s.cur.slot c

/-- A path fault or an engine fault met in passing: the fault with the information that its cause defines. -/
def mkCause (cause info : Nat) (faddr : Word) : Cause := ⟨cause, word info, faddr⟩

/-- Causes that a home decides on and Table 8.9 marks as deferred; the others that an answer brings are precise (R40, R242). -/
def homeCause (cause : Nat) : Bool := !([0x10, 0x11, 0x12, 0x15, 0x27, 0x2E, 0x2F, 0x38].contains cause)

/-- A fault that the operands of the executing thread's instruction meet at issue; that of a ring is its home's. -/
def State.stopFault (s : State) (c : Cause) : State :=
  s.takeFaultAt s.cur.lcn s.cur.slot c (c.cause == 0x0D || c.cause == 0x30 || c.cause == 0x31)

/-- A deferred fault of slot `k` (R236): the core freezes, or the message thread alone stops; the packet names the
instruction in APC, and what the thread has issued since stands. -/
def State.deferFault (s : State) (l : Nat) (k : Fin 16) (eng : Nat) (apc : Addr) (c : Cause) : State :=
  let s := if k = 15 && mtOnly c.cause then s else s.modCore l Core.freeze
  let s := if k = 15 then s.modSlot l 15 Slot.stop else s
  s.faultPacket l k.val eng true (s.core l).flt.frozen (s.slot l k).pc apc c

/-! ## Parking -/

/-- A slot parked at its instruction, which issues again when the condition clears. -/
def Slot.parkRetry (t : Slot) (p : Park) : Slot :=
  { t with state := .parked, park := p, again := true, pc := t.iss.first, ctl := .retry p }

/-- A slot parked at its instruction until an answer comes. -/
def Slot.parkWait (t : Slot) (p : Park) : Slot :=
  { t with state := .parked, park := p, again := false, pc := t.iss.first, ctl := .wait p }

/-- A parked slot whose condition has cleared; on a frozen core it issues only after the resume. -/
def Slot.unpark (t : Slot) (frozen : Bool) : Slot :=
  if t.state = .parked then { t with state := if frozen then .frozen else .running, park := .none, again := false } else t

def State.unpark (s : State) (l : Nat) (k : Fin 16) : State :=
  s.modSlot l k fun t => t.unpark ((s.core l).flt.frozen && k != 15)

/-- A slot that has issued nothing yet: it waits for the line of a target (R45). -/
def Slot.awaitLine (t : Slot) (pc : Addr) : Slot := { t with want := some pc, pc := t.iss.first, ctl := .line pc }

/-- How the executing instruction stops without effect. -/
def State.stopWith (s : State) (c : Ctl) : State :=
  match c with
  | .fault f => s.stopFault f
  | .retry p => s.modThr fun t => t.parkRetry p
  | .wait p => s.modThr fun t => t.parkWait p
  | .line pc => s.modThr fun t => t.awaitLine pc
  | c => s.modThr fun t => { t with ctl := c }

/-- A word of a ring that a refused pop or push found uncorrectable is poisoned by that (R119). -/
def State.checked (s : State) (u : Uses) (c : Ctl) : State :=
  match c with
  | .fault f =>
    if f.cause = 0x30 then
      (u.rx ++ u.wx).foldl (fun s r => match s.thr.bind r with
        | some b => (s.epCheck s.cur.lcn b).1
        | none => s) s
    else s
  | _ => s

/-- How the tests of an instruction that names these registers stop it. -/
def State.stopAt (s : State) (u : Uses) (c : Ctl) : State := (s.checked u c).stopWith c

/-- Whether the executing instruction has stopped without effect. -/
def Ctl.stopped : Ctl → Bool
  | .fault _ => true
  | .retry _ => true
  | .line _ => true
  | _ => false

/-! ## Registers -/

/-- An x register written, without regard to bindings; x0 discards. -/
def Slot.setX (t : Slot) (d : Fin 32) (w : Word) : Slot :=
  if d = 0 then t else { t with regs := { t.regs with x := t.regs.x.set d w } }

/-- A guard written; g0 discards. -/
def Slot.setG (t : Slot) (d : Fin 16) (b : Bool) : Slot :=
  if d = 0 then t else { t with regs := { t.regs with g := t.regs.g.set d b } }

/-- A vector register written with its tag. -/
def Slot.setV (t : Slot) (d : Fin 16) (v : Vec) (tag : Tag) : Slot :=
  { t with regs := { t.regs with v := t.regs.v.set d v, vtag := t.regs.vtag.set d tag } }

/-- A word pushed to an endpoint; a ring of the core that cannot be written faults its thread (R119-R121). -/
def State.pushX (s : State) (l : Nat) (k : Fin 16) (d : Fin 32) (b : Bind) (w : Word) : State :=
  let q := s.epCheck l b
  if q.2 = 0 then s.epPush l k d.val b ⟨w, false⟩ else q.1.deferFault l k 5 (s.slot l k).iss.b (mkCause q.2 0 0)

/-- A result written to an x register of a slot: a push, if it is bound to a push endpoint (R191). -/
def State.putX (s : State) (l : Nat) (k : Fin 16) (d : Fin 32) (w : Word) : State :=
  match (s.slot l k).bind d with
  | some b => if b.push then s.pushX l k d b w else s.modSlot l k fun t => t.setX d w
  | none => s.modSlot l k fun t => t.setX d w

/-- The executing thread's result (R51). -/
def State.wx (s : State) (d : Fin 32) (w : Word) : State := s.putX s.cur.lcn s.cur.slot d w

/-- The executing thread's guard. -/
def State.wg (s : State) (d : Fin 16) (b : Bool) : State := s.modThr fun t => t.setG d b

/-- One more result on its way to a register (R51). -/
def Pend.more (p : Pend) (q : Producer) : Pend := ⟨q, p.n + 1⟩
/-- One less. -/
def Pend.less (p : Pend) : Pend := ⟨p.prod, p.n - 1⟩

def Slot.markX (t : Slot) (q : Producer) (d : Fin 32) : Slot :=
  if d = 0 then t else { t with regs := { t.regs with xp := t.regs.xp.set d (t.regs.xp[d].more q) } }
def Slot.markV (t : Slot) (q : Producer) (d : Fin 16) : Slot :=
  { t with regs := { t.regs with vp := t.regs.vp.set d (t.regs.vp[d].more q) } }
def Slot.markG (t : Slot) (q : Producer) (d : Fin 16) : Slot :=
  if d = 0 then t else { t with regs := { t.regs with gp := t.regs.gp.set d (t.regs.gp[d].more q) } }
def Slot.unmarkX (t : Slot) (d : Fin 32) : Slot :=
  if d = 0 then t else { t with regs := { t.regs with xp := t.regs.xp.set d t.regs.xp[d].less } }
def Slot.unmarkV (t : Slot) (d : Fin 16) : Slot :=
  { t with regs := { t.regs with vp := t.regs.vp.set d t.regs.vp[d].less } }
def Slot.unmarkG (t : Slot) (d : Fin 16) : Slot :=
  if d = 0 then t else { t with regs := { t.regs with gp := t.regs.gp.set d t.regs.gp[d].less } }

/-- The marks of everything that an instruction will deliver. -/
def Slot.markAll (t : Slot) (q : Producer) (u : Uses) : Slot :=
  let t := u.wx.foldl (fun t d => t.markX q d) t
  let t := u.wv.foldl (fun t d => t.markV q d) t
  u.wg.foldl (fun t d => t.markG q d) t

/-- The marks of an instruction withdrawn: its results stay what they were. -/
def Slot.unmarkAll (t : Slot) (u : Uses) : Slot :=
  let t := u.wx.foldl Slot.unmarkX t
  let t := u.wv.foldl Slot.unmarkV t
  u.wg.foldl Slot.unmarkG t

/-- Whether no result of the slot is on its way to a register or a guard. -/
def Slot.quiet (t : Slot) : Bool :=
  t.regs.xp.all (·.n == 0) && t.regs.vp.all (·.n == 0) && t.regs.gp.all (·.n == 0)

/-- Whether no result of slot `k` is on its way, a shape record that it loads included (R50, R289). -/
def Core.quiet (c : Core) (k : Fin 16) : Bool :=
  (c.slot k).quiet && c.meng.q.all fun q => q.slot != k.val || !(q.op matches .mshld ..)

/-- A slot that waits at its switch marker goes on once every result has returned (R50). -/
def State.wakeMarker (s : State) (l : Nat) (k : Fin 16) : State :=
  let t := s.slot l k
  if t.state = .parked && t.park = .marker && !t.again && (s.core l).quiet k then s.unpark l k else s

/-- Whether a result for an x register can be written now: it is unbound, or its push endpoint has room (R191). -/
def State.canPut (s : State) (l : Nat) (k : Fin 16) (d : Fin 32) : Bool :=
  match (s.slot l k).bind d with
  | some b => !b.push || (0 < s.epRoom l b && !s.ringBlocked l k b)
  | none => true

/-- The guards and scalars that queued commands wait for, taken once their results have returned (R52, R55): a later
write of the register does not reach the command. -/
def Slot.gdNow (t : Slot) : CmdGuard → CmdGuard
  | .pend g neg => if t.regs.gp[g].n = 0 then .known (t.rg g != neg) else .pend g neg
  | c => c

/-- The captured scalars of a command of slot `t`. -/
def Slot.xsNow (t : Slot) (u : Uses) (xs : List (Option Word)) : List (Option Word) :=
  xs.zipIdx.map fun p =>
    match p.1, u.rx[p.2]? with
    | none, some r => if t.regs.xp[r].n = 0 then some (t.rx r) else none
    | x, _ => x

def Core.settleCmds (c : Core) (k : Fin 16) : Core :=
  if c.veng.q.isEmpty && c.meng.q.isEmpty then c
  else
    let t := c.slot k
    { c with
      veng := { c.veng with q := c.veng.q.map fun q =>
        if q.slot = k.val then { q with gd := t.gdNow q.gd, xs := t.xsNow q.op.uses q.xs } else q }
      meng := { c.meng with q := c.meng.q.map fun q => if q.slot = k.val then { q with gd := t.gdNow q.gd } else q } }

/-- A slot after results have returned: its queued commands take them, and a wait at its switch marker may end. -/
def State.arrived (s : State) (l : Nat) (k : Fin 16) : State := (s.modCore l fun c => c.settleCmds k).wakeMarker l k

/-- A result that has returned to an x register; a push without room waits, and the register stays pending. -/
def State.deliverX (s : State) (l : Nat) (k : Fin 16) (d : Fin 32) (w : Word) : State :=
  if s.canPut l k d && !((s.slot l k).late.any fun e => e.1 == d) then
    ((s.modSlot l k fun t => t.unmarkX d).putX l k d w).arrived l k
  else s.modSlot l k fun t => { t with late := t.late ++ [(d, w)] }

/-- The waiting results of a slot that can be pushed now. -/
def State.flushN (s : State) (l : Nat) (k : Fin 16) : Nat → State
  | 0 => s
  | n + 1 =>
    match (s.slot l k).late with
    | (d, w) :: t =>
      if s.canPut l k d then
        State.flushN (((s.modSlot l k fun x => { x.unmarkX d with late := t }).putX l k d w).arrived l k) l k n
      else s
    | [] => s

/-- The waiting results of all slots of a core, after room was made. -/
def State.flush (s : State) (l : Nat) : State :=
  (List.finRange 16).foldl (fun s k => s.flushN l k (s.slot l k).late.length) s

/-- A result that has returned to a guard. -/
def State.deliverG (s : State) (l : Nat) (k : Fin 16) (d : Fin 16) (b : Bool) : State :=
  (s.modSlot l k fun t => (t.unmarkG d).setG d b).arrived l k

/-- A result that has returned to a vector register. -/
def State.deliverV (s : State) (l : Nat) (k : Fin 16) (d : Fin 16) (v : Vec) (tag : Tag) : State :=
  (s.modSlot l k fun t => (t.unmarkV d).setV d v tag).arrived l k

/-- The pops of the bound registers that an instruction read, once for each register (R191). -/
def State.popAll (s : State) (rs : List (Fin 32)) : State :=
  if rs.any fun r => (s.thr.bind r).isSome then
    (rs.eraseDups.foldl (fun s r =>
      match s.thr.bind r with
      | some b => if b.push then s else s.epPop s.cur.lcn s.cur.slot b
      | none => s) s).flush s.cur.lcn
  else s

/-- What an instruction from state `s` leaves, from its effect `t`: the words that it read are popped, unless it stopped. -/
def State.pops (s t : State) (rs : List (Fin 32)) : State :=
  if t.thr.ctl.stopped || rs.all fun r => (s.thr.bind r).isNone then t else t.popAll rs

/-! ## Issue of one instruction -/

/-- The executing thread at the start of an instruction. -/
def State.begin (s : State) : State := s.modThr fun t => { t with ctl := .seq }

/-- An instruction of no engine: its tests, then its effect `k`, then the pops of what it read. -/
def State.issue (u : Uses) (k : State → State) (s : State) : State :=
  let s := s.begin
  match s.gate u with
  | .skip => s
  | .stop c => s.stopAt u c
  | .go => s.pops (k s) u.rx

/-- A jump: the address at which the thread goes on. -/
def State.jump (s : State) (pc : Addr) : State := s.modThr fun t => { t with ctl := .jump pc }

/-! ## The end of an instruction (R42, R47, R50, R93) -/

/-- The step of a loop's index register (R93). -/
def State.stepIdx (s : State) (l : Nat) (k : Fin 16) (lp : Loop) : State × Ctl :=
  match lp.idx with
  | none => (s, .seq)
  | some d =>
    let t := s.slot l k
    if d = 0 then (s, .seq)
    else if t.regs.xp[d].n ≠ 0 then (s, .fault ⟨0x05, unsyncInfo 0 d.val, 0⟩)
    else match t.bind d with
      | none => (s.putX l k d (t.rx d + lp.step), .seq)
      | some b =>
        if !b.push then (s, .fault ⟨0x27, 10, 0⟩)
        else if s.epRoom l b = 0 then (s, .retry .qFull)
        else (s.putX l k d (t.rx d + lp.step), .seq)

def Slot.setLoop (t : Slot) (n : Fin 2) (lp : Loop) : Slot := { t with loops := t.loops.set n lp }

/-- The action of the loop levels that end at `e` (R93): the state, how it ended, and the start to which the
thread goes back, if it does. -/
def State.loopEnd (s : State) (l : Nat) (k : Fin 16) (e : Addr) : State × Ctl × Option Addr :=
  let l1 := (s.slot l k).loops[1]
  let l0 := (s.slot l k).loops[0]
  if l1.active && l1.endpc == e then
    let r := s.stepIdx l k l1
    if r.2 ≠ .seq then (s, r.2, none)
    else if l1.count - 1 ≠ 0 then
      (r.1.modSlot l k fun t => t.setLoop 1 { l1 with count := l1.count - 1 }, .seq, some l1.start)
    else if l0.active && l0.endpc == e then
      let q := r.1.stepIdx l k l0
      if q.2 ≠ .seq then (s, q.2, none)
      else if l0.count - 1 ≠ 0 then
        (q.1.modSlot l k fun t => (t.setLoop 0 { l0 with count := l0.count - 1 }).setLoop 1 { l1 with count := l1.init },
          .seq, some l1.start)
      else
        (q.1.modSlot l k fun t => (t.setLoop 0 { l0 with count := 0, active := false }).setLoop 1
          { l1 with count := 0, active := false }, .seq, none)
    else (r.1.modSlot l k fun t => t.setLoop 1 { l1 with count := 0, active := false }, .seq, none)
  else if l0.active && l0.endpc == e then
    let r := s.stepIdx l k l0
    if r.2 ≠ .seq then (s, r.2, none)
    else if l0.count - 1 ≠ 0 then
      (r.1.modSlot l k fun t => t.setLoop 0 { l0 with count := l0.count - 1 }, .seq, some l0.start)
    else (r.1.modSlot l k fun t => t.setLoop 0 { l0 with count := 0, active := false }, .seq, none)
  else (s, .seq, none)

/-- The PC of a slot that goes on, with the wait of a switch marker (R50). -/
def Slot.goOn (t : Slot) (pc : Addr) (quiet frozen : Bool) : Slot :=
  let t := { t with pc := pc, ctl := .seq }
  if t.iss.swm && !quiet then { t with state := .parked, park := .marker, again := false }
  else { t with state := if frozen then .frozen else .running, park := .none, again := false }

/-- The loop levels at the end of an issue, which may be a pair: those that end at its first slot, then those that end at its last; with
the slot at which they acted. -/
def State.loopsAt (s : State) (l : Nat) (k : Fin 16) (i : Issue) : (State × Ctl × Option Addr) × Addr :=
  let r := s.loopEnd l k i.first
  if i.first = i.last || r.2.1 ≠ .seq || r.2.2.isSome then (r, i.first) else (r.1.loopEnd l k i.last, i.last)

/-- The end of an instruction or a pair: a taken transfer goes to its target; else the loop levels act and flow is
sequential. The second result says what stops it instead: a fault or a park at slot `e`, with no effect. -/
def State.complete (s : State) (l : Nat) (k : Fin 16) (taken : Option Addr) : State × Ctl × Addr :=
  let i := (s.slot l k).iss
  let fz := if k = 15 then (s.slot l k).state == .frozen else (s.core l).flt.frozen
  match taken with
  | some pc => (s.modSlot l k fun t => t.goOn pc ((s.core l).quiet k) fz, .seq, i.b)
  | none =>
    match s.loopsAt l k i with
    | ((t, .seq, some pc), e) => (t.modSlot l k fun x => x.goOn pc ((t.core l).quiet k) fz, .seq, e)
    | ((t, .seq, none), e) =>
      if i.next.isNone && lastSlot i.last then (s, .fault ⟨0x03, 0, BitVec.ofNat 64 (2 ^ 48)⟩, i.last)
      else (t.modSlot l k fun x => x.goOn (i.next.getD (nextSlot i.last)) ((t.core l).quiet k) fz, .seq, e)
    | ((_, c, _), e) => (s, c, e)

/-- The end of an instruction that had parked for an answer. -/
def State.completed (s : State) (l : Nat) (k : Fin 16) : State :=
  let r := s.complete l k (s.slot l k).iss.taken
  match r.2.1 with
  | .fault c => (s.modSlot l k fun t => { t with iss := { t.iss with b := r.2.2 } }).takeFaultAt l k c
  | .retry p => s.modSlot l k fun t => { t with state := .parked, park := p, again := false }
  | _ => r.1

/-- A parked thread goes on behind its instruction with a value for a register. -/
def State.completedX (s : State) (l : Nat) (k : Fin 16) (d : Fin 32) (w : Word) : State :=
  (s.deliverX l k d w).completed l k

/-! ## Engine commands and a thread's account of them (R226, R343) -/

/-- A command of the executing thread entered a queue. -/
def State.cmdIssued (s : State) : State :=
  (s.modThr fun t => { t with engOut := t.engOut + 1 }).modStill s.cur.lcn s.me.ctxid fun w => { w with iss := w.iss + 1 }

/-- A command of a slot has completed or was discarded. A command whose record has left its slot carries the slot's
number plus 16. -/
def State.cmdDone (s : State) (l slot : Nat) : State :=
  (if slot < 16 then s.modSlot l (Fin.ofNat 16 slot) fun t => { t with engOut := t.engOut - 1 } else s).modStill l
    (s.core l).ctxid fun w => { w with cmpl := w.cmpl + 1 }

/-- The commands of a slot no longer belong to the thread in it. -/
def Core.orphan (c : Core) (k : Fin 16) : Core :=
  let f (n : Nat) : Nat := if n = k.val then n + 16 else n
  { c with veng := { c.veng with q := c.veng.q.map fun q => { q with slot := f q.slot } },
           meng := { c.meng with q := c.meng.q.map fun q => { q with slot := f q.slot } },
           cq := c.cq.map fun q => { q with slot := f q.slot } }

/-- A slot without its record: Idle, nothing pending, no event; its registers hold what they held until the next load sets
them (Table 2.2). -/
def Slot.left (t : Slot) : Slot :=
  { pc := t.pc, regs := { x := t.regs.x, v := t.regs.v, vtag := t.regs.vtag, g := t.regs.g }, ctr := t.ctr, lfsr := t.lfsr, pri := t.pri
    lastIssue := t.lastIssue }

/-- A command discarded (R55): its destinations stay and are no longer pending. -/
def State.discardCmd (s : State) (l slot : Nat) (op : Instr) : State :=
  let k := Fin.ofNat 16 slot
  if slot < 16 then ((s.modSlot l k fun t => t.unmarkAll op.uses).cmdDone l slot).arrived l k else s.cmdDone l slot

/-! ## THE RETURN FROM AN EXCEPTION (R241) -/

/-- The access at the head of a thread's path is translated again. -/
def Slot.restartPath (t : Slot) : Slot :=
  { t with path := t.path.map fun a => if a.st = .failed then { a with st := .queued } else a }

/-- The registers whose deferred access was refused at a home are no longer pending. -/
def Slot.clearRefused (t : Slot) : Slot :=
  { t.refused.foldl (fun t d => match d with
      | .x d => t.unmarkX d
      | .v d => t.unmarkV d
      | .g d => t.unmarkG d) t with refused := [] }

/-- A stopped slot that goes on: one that holds no record looks for its record again (R40); of another the PC is tested no more for
its BTM bit (R45). -/
def Slot.resume (t : Slot) : Slot :=
  let t := t.restartPath.clearRefused
  if t.state = .frozen then
    (if t.load.isSome then { t with state := .idle }
     else { t with state := .running, park := .none, again := false, fresh := false })
  else t

/-- The command at the head of the vector queue that had faulted: discarded, or tried again (R206, R238). -/
def State.resumeVec (s : State) (l : Nat) : State :=
  match (s.core l).veng.q with
  | c :: t =>
    if !c.flt then s
    else if c.keep then
      s.modCore l fun k => { k with veng := { k.veng with q := { c with flt := false, keep := false, started := false } :: t } }
    else (s.modCore l fun k => { k with veng := { k.veng with q := t } }).discardCmd l c.slot c.op
  | [] => s

/-- The command at the head of the copy queue that had faulted goes on from its progress (R258). -/
def State.resumeCopy (s : State) (l : Nat) : State :=
  match (s.core l).cq with
  | c :: t => if c.flt then s.modCore l fun k => { k with cq := { c with flt := false } :: t } else s
  | [] => s

/-- Resume of a core: the slots stopped at a precise fault issue again, held memory paths start again, faulted engine
commands are discarded (R238, R241). -/
def State.resumeCore (s : State) (l : Nat) : State :=
  let c := s.core l
  if !c.flt.frozen && !c.mtStopped then s
  else
    let s := s.setCore l { c with
      slots := Vector.ofFn fun k => (c.slot k).resume
      flt := { c.flt with frozen := false, fcnt := 0, step := none } }
    let s := (List.finRange 16).foldl (fun s k => s.arrived l k) s
    (s.resumeVec l).resumeCopy l

/-- Single-step of slot `k`: it may issue once while the core stays frozen. -/
def State.stepSlot (s : State) (l : Nat) (k : Fin 16) : State :=
  let t := s.slot l k
  if t.state = .frozen && ((s.core l).flt.frozen || k == 15) then
    (s.modSlot l k Slot.resume).modCore l fun c => { c with flt := { c.flt with step := some k } }
  else s

end Sys2Proof.Machine
end

