-- ==== Sys2Proof/Machine/Flags.lean ====
section
/-! DEFINITION. Arithmetic counters and their thresholds (R23, R167, R168), the conditions of compares (R83, R84),
events (R24). -/

namespace Sys2Proof.Machine

/-! ## Counters -/

/-- Counter `k` of a set: 0 sat, 1 nan, 2 bso, 3 bnd. -/
def Counts.get (c : Counts) (k : Nat) : Nat :=
  if k = 0 then c.sat else if k = 1 then c.nan else if k = 2 then c.bso else c.bnd

def Counts.clear (c : Counts) (k : Nat) : Counts :=
  if k = 0 then { c with sat := 0 } else if k = 1 then { c with nan := 0 }
  else if k = 2 then { c with bso := 0 } else { c with bnd := 0 }

def Counts.isZero (c : Counts) : Bool := c == {}

/-- Whether a slot holds a record of the context, or runs a handler. -/
def Slot.holds (t : Slot) : Bool := t.state != .idle

/-- The total T_k of a core (R168). -/
def Core.total (c : Core) (k : Nat) : Nat :=
  (c.sys (0x44 + k)).toNat + (c.slots.toList.filter Slot.holds).foldl (fun n t => n + t.ctr.get k) 0 +
    c.meng.tiles.toList.foldl (fun n z => n + z.ctr.get k) 0

/-- The first counter whose total crossed its threshold between two states of a core. -/
def Core.crossed (a b : Core) : Option Nat :=
  (List.range 4).find? fun k =>
    let thr := (b.sys (0x40 + k)).toNat
    thr != 0 && a.total k < thr && thr ≤ b.total k

/-- Whether any threshold of a core is set. -/
def Core.thresholds (c : Core) : Bool := (List.range 4).any fun k => c.sys (0x40 + k) != 0

/-- Events counted in a slot (R167). -/
def State.countSlot (s : State) (l : Nat) (k : Fin 16) (n : Counts) : State :=
  if n.isZero then s else s.modSlot l k fun t => { t with ctr := t.ctr.add n }

/-- Events counted in the context counters of a core. -/
def State.countCtx (s : State) (l : Nat) (n : Counts) : State :=
  if n.isZero then s
  else s.modCore l fun c =>
    let put (c : Core) (r v : Nat) : Core := c.setSys r (word (sat32 ((c.sys r).toNat + v)))
    put (put (put (put c 0x44 n.sat) 0x45 n.nan) 0x46 n.bso) 0x47 n.bnd

/-- Events counted in a tile. -/
def State.countTile (s : State) (l : Nat) (z : Fin 8) (n : Counts) : State :=
  if n.isZero then s
  else s.modCore l fun c =>
    { c with meng := { c.meng with tiles := c.meng.tiles.set z { c.meng.tiles[z] with ctr := c.meng.tiles[z].ctr.add n } } }

/-- The fault of a threshold crossed between two states of core `l` (R168), deferred, at the issuing slot. -/
def State.threshold (old s : State) (l : Nat) (k : Fin 16) (eng : Nat) (apc : Addr) : State :=
  if !(s.core l).thresholds then s
  else match (old.core l).crossed (s.core l) with
    | some n => s.deferFault l k eng apc (mkCause 0x24 n 0)
    | none => s

/-- Events of a receive conversion counted in the context counters of core `l`; a threshold that they cross faults at the NI, which
no thread's instruction has asked (R132, R167, R168; log 124). -/
def State.countNi (s : State) (l : Nat) (n : Counts) : State :=
  let t := s.countCtx l n
  if !(t.core l).thresholds then t
  else match (s.core l).crossed (t.core l) with
    | some i => (t.modCore l Core.freeze).faultPacket l 0 6 true true 0 0 (mkCause 0x24 i 0)
    | none => t

/-- The fold of a slot's counters into the context counters (R23). -/
def State.foldCounts (s : State) (l : Nat) (k : Fin 16) : State :=
  (s.countCtx l (s.slot l k).ctr).modSlot l k fun t => { t with ctr := {} }

/-! ## Conditions (R83, R84) -/

/-- The low `n` bits of a word as an unsigned and as a signed number. -/
def low (n : Nat) (w : Word) : Nat := w.toNat % 2 ^ n
def slow (n : Nat) (w : Word) : Int := if low n w < 2 ^ (n - 1) then low n w else (low n w : Int) - 2 ^ n

/-- The condition of CMP on two operands of `n` bits. -/
def Cond.holds (c : Cond) (n : Nat) (a b : Word) : Bool :=
  match c with
  | .eq => low n a == low n b
  | .ne => low n a != low n b
  | .lt => slow n a < slow n b
  | .ge => slow n b ≤ slow n a
  | .ltu => low n a < low n b
  | .geu => low n b ≤ low n a

/-! ## Events (R24, R105) -/

/-- Event bits set in a slot that holds a record: Running, Parked, or Frozen with a record. -/
def Slot.signal (t : Slot) (m : BitVec 16) : Slot :=
  if t.state = .idle || t.record.isNone then t else { t with ev := t.ev ||| m }

end Sys2Proof.Machine
end

