-- ==== Sys2Proof/Machine/Home.lean ====
section
/-! DEFINITION. What happens at a home: accesses in home order (R121, R122, R218, R221, R224), waiters (R123, R124), deques
(R32-R36), the transitions of control words (R28, R272, R273, R445), join words (R37, R38, R100). -/

namespace Sys2Proof.Machine

/-! ## Fields of words -/

/-- A word with bits [hi:lo] replaced. -/
def setBits (w : Word) (hi lo v : Nat) : Word :=
  word (w.toNat % 2 ^ lo + v % 2 ^ (hi + 1 - lo) * 2 ^ lo + w.toNat / 2 ^ (hi + 1) * 2 ^ (hi + 1))

/-! ## Deques (R32, R33) -/

/-- The word of an entry, in the spill region and in the debug window (R125, R136): the record's address with its priority in
bits [4:3]. -/
def DqEnt.word (e : DqEnt) : Word := setBits (setBits e.record 5 0 0) 4 3 e.pri

/-- The place of the next spilled entry (R125): the first free one of the 512 in the region at DQBASE. -/
def Core.spillPlace (c : Core) : Nat :=
  let base := bits (c.sys 4) 19 12 * 4096
  (((List.range 512).map fun i => base + 8 * i).find? fun o => !c.dq.spill.any fun e => e.off == o).getD base

/-- The oldest hardware entry of a deque moved to the spill region, or the cause with which its word cannot be written (R125). -/
def State.spillOne (s : State) (l : Nat) : State × Nat :=
  let c := s.core l
  match c.dq.hw.getLast? with
  | none => (s, 0)
  | some e =>
    let q := s.writeOwned (slicePa l c.spillPlace) (toBytes 8 e.word.toNat) c.ctxid 0 none
    if q.2 ≠ 0 then q
    else (q.1.modCore l fun c => { c with dq := { hw := c.dq.hw.dropLast, spill := ⟨c.spillPlace, e.dom⟩ :: c.dq.spill } }, 0)

/-- Several of the oldest hardware entries moved to the spill region, in order. -/
def State.spillN (s : State) (l : Nat) : Nat → State × Nat
  | 0 => (s, 0)
  | n + 1 =>
    let q := s.spillOne l
    if q.2 = 0 then State.spillN q.1 l n else q

/-- The word of a spilled entry read back (R125). -/
def State.spilled (s : State) (l : Nat) (e : SpillEnt) : State × (DqEnt ⊕ Nat) :=
  let q := s.readOwned (slicePa l e.off) 8 (s.core l).ctxid 0
  let w := word (ofBytes q.2.2)
  (q.1, if q.2.1 = 0 then .inl ⟨setBits w 5 0 0, bits w 4 3, e.dom⟩ else .inr q.2.1)

/-- A spilled entry that cannot be read is reported as a deque overflow (R125); it stays where it is. -/
def State.spillLost (s : State) (l cause : Nat) : State :=
  s.sendPacket (s.receiver l 0x10) (s.packet l 0 5 true false 0 0 (mkCause 0x10 cause 0))

/-- Several of the newest spilled entries moved back into the hardware part as its oldest. -/
def State.refillN (s : State) (l : Nat) : Nat → State
  | 0 => s
  | n + 1 =>
    match (s.core l).dq.spill with
    | [] => s
    | e :: rest =>
      let q := s.spilled l e
      match q.2 with
      | .inl x => State.refillN (q.1.modCore l fun c => { c with dq := { hw := c.dq.hw ++ [x], spill := rest } }) l n
      | .inr why => q.1.spillLost l why

/-- Entries that move back into hardware when it falls to 16 (R33). -/
def State.dqRefill (s : State) (l : Nat) : State :=
  if (s.core l).dq.hw.length ≤ 16 then s.refillN l (min 16 (s.core l).dq.spill.length) else s

/-- The highest priority of some entries. -/
def topPri (l : List DqEnt) : Nat := l.foldl (fun n e => max n e.pri) 0

/-- The entry that a local pop takes: the newest hardware entry of the highest priority. -/
def Deque.newest (d : Deque) : Option DqEnt := d.hw.find? fun e => e.pri == topPri d.hw

/-- A local pop (R32). -/
def State.dqPop (s : State) (l : Nat) : State × Option DqEnt :=
  match (s.core l).dq.newest with
  | some e => ((s.modCore l fun c => { c with dq := { c.dq with hw := c.dq.hw.erase e } }).dqRefill l, some e)
  | none => (s.dqRefill l, none)

/-- The last entry of a list with a property. -/
def lastThat {α : Type} (l : List α) (p : α → Bool) : Option α := l.reverse.find? p

/-- A list without the last entry equal to `e`. -/
def eraseLast (l : List DqEnt) (e : DqEnt) : List DqEnt := (l.reverse.erase e).reverse

/-- The hardware entry that a steal at a level takes: the oldest of the highest priority among the qualifying ones. -/
def Deque.oldest (d : Deque) (level : Nat) : Option DqEnt :=
  let q (e : DqEnt) : Bool := level ≤ e.dom
  lastThat d.hw fun e => q e && e.pri == topPri (d.hw.filter q)

/-- A steal at a level (R32): the oldest qualifying spilled entry, else a hardware entry. -/
def State.dqSteal (s : State) (l level : Nat) : State × Option DqEnt :=
  let d := (s.core l).dq
  match lastThat d.spill fun e => level ≤ e.dom with
  | some e =>
    let q := s.spilled l e
    match q.2 with
    | .inl x => ((q.1.modCore l fun c => { c with dq := { c.dq with spill := c.dq.spill.erase e } }).dqRefill l, some x)
    | .inr why => (q.1.spillLost l why, none)
  | none =>
    match d.oldest level with
    | some e => ((s.modCore l fun c => { c with dq := { c.dq with hw := eraseLast c.dq.hw e } }).dqRefill l, some e)
    | none => (s, none)

/-- An entry put into the hardware part, as the newest or, by YIELD, as the oldest (R32). A push ends the wait of the steal search
(R36). -/
def Core.dqAdd (c : Core) (e : DqEnt) (old : Bool) : Core :=
  { c with dq := { c.dq with hw := if old then c.dq.hw ++ [e] else e :: c.dq.hw }, steal := { c.steal with wait := none } }

/-- A push onto a core's deque, for which up to 16 entries make room (R33): the information of fault 0x10 when it has no effect. -/
def State.push (s : State) (l : Nat) (e : DqEnt) (old : Bool) : State × Option Nat :=
  let c := s.core l
  if c.dq.hw.length < 64 then (s.setCore l (c.dqAdd e old), none)
  else if 512 ≤ c.dq.spill.length then (s, some 0)
  else
    let q := s.spillN l (min 16 (512 - c.dq.spill.length))
    if q.2 = 0 then (q.1.modCore l fun c => c.dqAdd e old, none) else (q.1, some q.2)

/-- A push of a woken record onto the deque of core `l` itself: when it is full the wake is held and reported (R33). -/
def State.pushHere (s : State) (l : Nat) (e : DqEnt) : State :=
  let q := s.push l e false
  match q.2 with
  | none => q.1
  | some i =>
    (q.1.modCore l fun c => { c with pushes := c.pushes ++ [⟨l, e, s.time + 256⟩] }).sendPacket (s.receiver l 0x10)
      (s.packet l 0 5 true false 0 0 (mkCause 0x10 i e.record))

/-- A push that agent `a` makes for a woken record onto the deque of core `l` (R33). -/
def State.pushWake (s : State) (a l ctx : Nat) (e : DqEnt) : State :=
  if a = l then s.pushHere l e else s.posted a 16 l 0x0E ctx 16 (.push e.record e.pri e.dom)

/-! ## Control words (Table 2.4) -/

def Ctrl.ctx (w : Word) : Nat := bits w 59 48
def Ctrl.vseen (w : Word) : Nat := bits w 47 16
def Ctrl.ref (w : Word) : Bool := bit w 13
def Ctrl.res (w : Word) : Bool := bit w 8
def Ctrl.dom (w : Word) : Nat := bits w 7 5
def Ctrl.pri (w : Word) : Nat := bits w 4 3
def Ctrl.state (w : Word) : Nat := bits w 2 0
def Ctrl.setState (w : Word) (n : Nat) : Word := setBits w 2 0 n
/-- AWT and JARM written. -/
def Ctrl.setWaits (w : Word) (awt jarm : Bool) : Word :=
  setBits w 12 11 ((if awt then 2 else 0) + if jarm then 1 else 0)

/-- The control word that FORK, SPAWN and the dealer write (R26, R96). -/
def Ctrl.fresh (ctx dom pri : Nat) : Word := word (ctx * 2 ^ 48 + dom * 32 + pri * 8 + 1)

/-- The checks of R27 on a record's words. -/
def recordOk (ctx : Nat) (ws : List Word) : Bool :=
  let pc := nth 0 ws 0
  let c := nth 0 ws 7
  isSlot pc && bits c 63 60 == 0 && bits c 15 14 == 0 && !bit c 9 && Ctrl.ctx c == ctx && Ctrl.state c == 1 &&
    Ctrl.dom c ≤ 4

/-- The control word after a suspension's write-back (R28, R99, R273). DESIGN CHOICE: EXIT leaves RES as it is (log 136). -/
def Ctrl.back (w : Word) (k : Susp) (armed : Bool) : Word :=
  match k with
  | .suspend => Ctrl.setState (setBits (Ctrl.setWaits w false false) 8 8 1) (if Ctrl.ref w then 1 else 3)
  | .suspendJ _ => Ctrl.setState (setBits (Ctrl.setWaits w false armed) 8 8 1) (if armed then 3 else 1)
  | .await _ => Ctrl.setState (setBits (Ctrl.setWaits w armed false) 8 8 1) (if armed then 3 else 1)
  | .yield => Ctrl.setState (setBits (Ctrl.setWaits w false false) 8 8 1) 1
  | .exit => Ctrl.setState w 4

/-- Whether slot `k` of a core runs a record, or has asked for it and waits for its words. -/
def Core.holdsRec (c : Core) (k : Nat) (va : Word) : Bool :=
  (c.slot (Fin.ofNat 16 k)).record == some va ||
    c.reqs.any fun q => q.va == va && match q.cont with
      | .recordLoaded n _ => n == k
      | _ => false

/-- The core and the slot recorded at the load of a record whose STATE is 2 (R272). -/
def State.running (s : State) (ctx : Nat) (va : Word) : Option (Nat × Nat) :=
  s.cores.findSome? fun e =>
    if e.2.ctxid = ctx then ((List.range 15).find? fun k => e.2.holdsRec k va).map fun k => (e.1, k) else none

/-- Event 15 in the slot that loaded a record, if the record is still there (R28, R29, R272). -/
def State.refired (s : State) (l slot : Nat) (va : Word) : State :=
  if (s.core l).holdsRec slot va then s.modSlot l (Fin.ofNat 16 slot) fun t => { t with ev := t.ev ||| 0x8000 } else s

/-- Event bits set in a slot of a core. -/
def State.signal (s : State) (l slot : Nat) (m : BitVec 16) : State :=
  s.modSlot l (Fin.ofNat 16 slot) fun t => t.signal m

/-- A transition of a record's control word at the record's home, which is the agent `a` (R28): the state and the
answer. `pa` is the record's physical address. -/
def State.ctlAt (s : State) (a pa : Nat) (va : Word) (op : CtlOp) (ctx lvl : Nat) : State × Resp :=
  let r := s.readToWrite pa 64 ctx lvl
  let rc := s.readToWrite (pa + 0x38) 8 ctx lvl
  let w := word (ofBytes rc.2.2)
  let put (s : State) (w : Word) : State := (s.writeAt (pa + 0x38) (toBytes 8 w.toNat) none).1
  match op with
  | .load _ _ =>
    if r.2.1 ≠ 0 then (r.1, { cause := r.2.1 })
    else
      let ws := wordsOf 8 r.2.2
      if !recordOk ctx ws then (r.1, { cause := 0x11 })
      else
        let w' := setBits (Ctrl.setState (nth 0 ws 7) 2) 13 13 0
        let s := put r.1 w'
        (s, { data := s.mem.read pa 64 })
  | .back pc regs k armed =>
    if rc.2.1 ≠ 0 then (rc.1, { cause := rc.2.1 })
    else
      let own := if k = .exit then 0 else s.ownCause pa 64 ctx lvl true
      let q := if k = .exit then (rc.1, 0) else if own ≠ 0 then (rc.1, own) else rc.1.writeAt pa (bytesOf ((pc.zeroExtend 64) :: regs)) none
      if q.2 ≠ 0 then (q.1, { cause := q.2 })
      else
        let w' := if Ctrl.state w = 2 then Ctrl.back w k armed else w
        (put q.1 w', { w := w', info := if Ctrl.state w = 2 then 1 else 0 })
  | .wake l =>
    if rc.2.1 ≠ 0 then (rc.1, { cause := rc.2.1 })
    else if Ctrl.state w = 3 then
      let s := put rc.1 (Ctrl.setWaits (Ctrl.setState w 1) false false)
      (s.pushWake a l ctx ⟨va, Ctrl.pri w, Ctrl.dom w⟩, {})
    else (rc.1, {})
  | .refire v _ l =>
    if rc.2.1 ≠ 0 then (rc.1, { cause := rc.2.1 })
    else
      let n := setBits (setBits w 47 16 v.toNat) 13 13 1
      if Ctrl.state w = 3 then
        let s := put rc.1 (Ctrl.setWaits (Ctrl.setState n 1) false false)
        (s.pushWake a (if a < 8192 then a else l) ctx ⟨va, Ctrl.pri w, Ctrl.dom w⟩, {})
      else if Ctrl.state w = 1 then (put rc.1 n, {})
      else if Ctrl.state w = 2 then
        let s := put rc.1 n
        match s.running ctx va with
        | some (l', k) =>
          (if l' = a then s.refired l' k va else s.posted a 16 l' 0x11 ctx 8 (.refired k va), {})
        | none => (s, {})
      else (rc.1, {})
  | .retire =>
    if rc.2.1 ≠ 0 then (rc.1, { cause := rc.2.1 })
    else if Ctrl.state w = 2 then (put rc.1 (Ctrl.setState w 4), {}) else (rc.1, {})

/-- The level of an access's master, as its header carries it (R121, R444). -/
def Msg.level (m : Msg) : Nat := m.wtag.toNat % 4

/-- A posted control-word transition served at the record's home, the agent `a`; one that cannot be made is reported (R445), to
the supervisor of the context. -/
def State.ctlPosted (s : State) (a : Nat) (m : Msg) (pa : Nat) (va : Word) (op : CtlOp) : State :=
  let q := s.ctlAt a pa va op m.ctx m.level
  if q.2.cause = 0 then q.1 else q.1.agentPacket m.src m.ctx 5 (mkCause q.2.cause q.2.info.toNat va)

/-- A transition that core `a` attempts for a record that it does not run: a wake, which it applies itself to a record of its own, or a
re-fire, which is always a message (R271). When the record cannot be reached, the supervisor receives a packet and nothing else
happens (R445). -/
def State.attempt (s : State) (a ctx : Nat) (va : Word) (op : CtlOp) : State :=
  let r := s.tr a ctx va.toNat .rw .record
  match r.2 with
  | .bad c i => r.1.agentPacket a ctx 5 (mkCause c i va)
  | .ok p pa =>
    if p = s.panelId && homeOf pa = a && !(op matches .refire ..) then
      let m : Msg := { dpanel := p, spanel := p, dest := a, src := a, vc := 2, kind := 0x10, len := 24, ctx, body := .ctl pa va op }
      if a < 8192 && s.gathered a (pa + 0x38) 8 then r.1.hold a (pa + 0x38) 8 m else r.1.ctlPosted a m pa va op
    else r.1.postedWrite 16 (homeKey p pa)
      { dpanel := p, spanel := s.panelId, dest := homeOf pa, src := a, vc := 2, kind := 0x10, len := 24, ctx,
        body := .ctl pa va op }

/-! ## Waiters (R123, R124) -/

/-- How many waiters a core can hold: 128 hardware entries and 4,096 in the overflow list. -/
def waitMax : Nat := 4224

/-- The holder's entry of a reserved word (R222). -/
def Core.held? (c : Core) (a : Nat) : Bool :=
  c.waits.any fun w => w.at_ == a && match w.kind with
    | .holder _ _ => true
    | _ => false

/-- Whether a waiter's condition holds for its word (Table 5.5). -/
def State.qualifies (s : State) (l : Nat) (w : Waiter) : Bool :=
  match w.kind with
  | .ldw _ => s.mem.full w.at_
  | .ldt _ => s.mem.full w.at_
  | .stw _ _ => !s.mem.full w.at_ && !s.gathered l w.at_ 8
  | .lrq _ _ _ => !(s.core l).held? w.at_
  | .await _ _ _ arming fired => s.mem.full w.at_ && !(arming && fired)
  | _ => false

/-- The service of one waiter (Table 5.5); one whose word cannot be read or written is refused for that (R119, R120). -/
def State.serveOne (s : State) (l : Nat) (w : Waiter) : State :=
  let drop (s : State) : State := s.modCore l fun c => { c with waits := c.waits.erase w }
  let read (r : Reply) (k : State → Word → State) : State :=
    let q := s.readSlice l w.at_ 8
    if q.2.1 = 0 then k q.1 (word (ofBytes q.2.2)) else (drop q.1).answer l r { cause := q.2.1 }
  match w.kind with
  | .ldw r => read r fun s d => (drop s).answer l r { w := d }
  | .ldt r => read r fun s d => ((drop s).modMem fun m => m.setFull w.at_ false).answer l r { w := d }
  | .stw r v =>
    let q := s.writeSlice l w.at_ (toBytes 8 v.toNat) none
    if q.2 = 0 then ((drop q.1).modMem fun m => m.setFull w.at_ true).answer l r {} else (drop q.1).answer l r { cause := q.2 }
  | .lrq r lc k => read r fun s d =>
    let put (x : Waiter) : Waiter := if x = w then ⟨w.at_, .holder lc k⟩ else x
    (s.modCore l fun c => { c with waits := c.waits.map put }).answer l r { w := d }
  | .await va ctx lc arming _ =>
    if arming then
      let put (x : Waiter) : Waiter := if x = w then ⟨w.at_, .await va ctx lc true true⟩ else x
      s.modCore l fun c => { c with waits := c.waits.map put }
    else (drop s).attempt l ctx va (.wake lc)
  | _ => s

/-- The waiters of one word served until none qualifies: the earliest first (R124). -/
def State.serveWaiters (s : State) (l a : Nat) : Nat → State
  | 0 => s
  | n + 1 =>
    match (s.core l).waits.find? fun w => w.at_ == a && s.qualifies l w with
    | some w => State.serveWaiters (s.serveOne l w) l a n
    | none => s

/-- The waiters of a word after an access to it. -/
def State.settle (s : State) (l a : Nat) : State :=
  if (s.core l).waits.isEmpty then s else s.serveWaiters l (wordAt a) (2 * (s.core l).waits.length)

/-- A new waiter, or cause 0x13 when the table and its overflow list are full. -/
def State.wait (s : State) (l : Nat) (w : Waiter) : State × Bool :=
  if (s.core l).table.length < waitMax then (s.modCore l fun c => { c with waits := c.waits ++ [w] }, true) else (s, false)

/-! ## Atomic operations (R224) -/

/-- The new datum of an atomic operation on `n` bits and its counted events; `b` is the operand, `c` the new value
of CAS. -/
def amoNew (n : Nat) (op : AmoOp) (old b c : Word) : Nat × Counts :=
  let o := low n old
  let y := low n b
  let fl (w : Nat) : Val := fp32 (BitVec.ofNat 32 w)
  match op with
  | .swap => (y, {})
  | .add => ((o + y) % 2 ^ n, {})
  | .and => (o &&& y, {})
  | .or => (o ||| y, {})
  | .xor => (o ^^^ y, {})
  | .min => (if slow n b < slow n old then y else o, {})
  | .max => (if slow n old < slow n b then y else o, {})
  | .minu => (min o y, {})
  | .maxu => (max o y, {})
  | .cas => (if o = y then low n c else o, {})
  | .fadd => finish (vAdd (fl o) (fl y) .rne) tagFp32 .rne 0
  | .fmin => conv (vMin (fl o) (fl y)) tagFp32 .rne 0
  | .fmax => conv (vMax (fl o) (fl y)) tagFp32 .rne 0

/-! ## Accesses at a home -/

/-- The slice address at which a handle-window access applies, or the reason of 0x0E (R122). -/
def State.window (s : State) (pa n ctx lvl : Nat) (write : Bool) : Nat ⊕ Nat :=
  let l := winLcn pa
  let h := (s.core l).handles[winHandle pa]?.getD {}
  if !h.v then .inr 1
  else if !(h.ctx == ctx || lvl == 2) then .inr 2
  else if winOff pa + n > h.size then .inr 3
  else .inl (slicePa l (((if h.pubb == write then h.offa else h.offb).toNat + winOff pa) % 2 ^ 20))

/-- How many bytes an access reads or writes, and whether it writes. -/
def MemOp.bytes : MemOp → Nat × Bool
  | .load n => (n, false)
  | .store d => (d.length, true)
  | .amo w _ _ _ => (if w then 4 else 8, true)
  | .stf _ | .stw _ | .scq _ => (8, true)
  | .ldw | .ldt | .lrq | .relq | .readFe | .peekFe => (8, false)
  | .fetch => (64, false)

/-- An access applied at a slice (R218, R221, R224), with the answer; no answer yet when it waits. `who` is the slot
of this core that made it, if one did. -/
def State.applySlice (s : State) (l pa : Nat) (op : MemOp) (slot ctx lvl : Nat) (who : Option Nat) (r : Reply) :
    State × Option Resp :=
  let n := op.bytes.1
  let own := s.ownCause pa n ctx lvl op.bytes.2
  let word8 (s : State) (f : State → Word → State × Option Resp) : State × Option Resp :=
    let q := s.readSlice l pa 8
    if q.2.1 ≠ 0 then (q.1, some { cause := q.2.1 }) else f q.1 (word (ofBytes q.2.2))
  if own ≠ 0 then (s, some { cause := own })
  else match op with
  | .load n =>
    let q := s.readSlice l pa n
    (q.1, some { cause := q.2.1, data := q.2.2, w := word (ofBytes q.2.2) })
  | .fetch =>
    let q := State.readLineWords (fun s a => s.chkSlice l a) s pa
    (q.1, some { data := q.2.1, info := word q.2.2 })
  | .store d =>
    let q := s.writeSlice l pa d who
    (if q.2 = 0 then q.1.settle l pa else q.1, some { cause := q.2 })
  | .amo w o b c =>
    let n := if w then 32 else 64
    let q := s.readSlice l pa (n / 8)
    if q.2.1 ≠ 0 then (q.1, some { cause := q.2.1 })
    else
      let old := word (ofBytes q.2.2)
      let v := amoNew n o old b c
      let z := q.1.writeSlice l pa (toBytes (n / 8) v.1) who
      (z.1.settle l pa, some { cause := z.2, w := old, cnt := v.2 })
  | .readFe | .peekFe => word8 s fun s _ => (s, some { w := if s.mem.full pa then 1 else 0 })
  | .ldw => word8 s fun s w =>
    if s.mem.full pa then (s, some { w })
    else let q := s.wait l ⟨wordAt pa, .ldw r⟩; (q.1, if q.2 then none else some { cause := 0x13 })
  | .ldt => word8 s fun s w =>
    if s.mem.full pa then ((s.modMem fun m => m.setFull pa false).settle l pa, some { w })
    else let q := s.wait l ⟨wordAt pa, .ldt r⟩; (q.1, if q.2 then none else some { cause := 0x13 })
  | .stf v =>
    let q := s.writeSlice l pa (toBytes 8 v.toNat) who
    if q.2 ≠ 0 then (q.1, some { cause := q.2 })
    else ((q.1.modMem fun m => m.setFull pa true).settle l pa, some {})
  | .stw v =>
    if (s.core l).health.badBanks.contains (pa / 65536 % 16) then (s, some { cause := 0x30 })
    else if s.mem.full pa then let q := s.wait l ⟨wordAt pa, .stw r v⟩; (q.1, if q.2 then none else some { cause := 0x13 })
    else
      let q := s.writeSlice l pa (toBytes 8 v.toNat) who
      if q.2 ≠ 0 then (q.1, some { cause := q.2 }) else ((q.1.modMem fun m => m.setFull pa true).settle l pa, some {})
  | .lrq => word8 s fun s w =>
    if (s.core l).held? (wordAt pa) then
      let q := s.wait l ⟨wordAt pa, .lrq r (r.panel * 65536 + r.src) slot⟩; (q.1, if q.2 then none else some { cause := 0x13 })
    else
      let q := s.wait l ⟨wordAt pa, .holder (r.panel * 65536 + r.src) slot⟩
      (q.1, some (if q.2 then { w } else { cause := 0x13 }))
  | .scq v =>
    let q := s.writeSlice l pa (toBytes 8 v.toNat) who
    if q.2 ≠ 0 then (q.1, some { cause := q.2 })
    else
      let s := q.1.modCore l fun c => { c with waits := c.waits.erase ⟨wordAt pa, .holder (r.panel * 65536 + r.src) slot⟩ }
      (s.settle l pa, some {})
  | .relq =>
    let s := s.modCore l fun c => { c with waits := c.waits.erase ⟨wordAt pa, .holder (r.panel * 65536 + r.src) slot⟩ }
    (s.settle l pa, some {})

/-- An access applied at a memory bridge (R384, R385, Table 8.3). A word of HBM has no full/empty bit: what CPROM reads there is free
(log 127). -/
def State.applyHbm (s : State) (pa : Nat) (op : MemOp) : State × Resp :=
  match op with
  | .load n =>
    let q := s.readHbm pa n
    (q.1, { cause := q.2.1, data := q.2.2, w := word (ofBytes q.2.2) })
  | .fetch =>
    let c := s.hbmRefuses pa 64 false
    if c ≠ 0 then (s, { cause := c })
    else let q := State.readLineWords (fun s a => s.chkHbm a) s pa; (q.1, { data := q.2.1, info := word q.2.2 })
  | .store d =>
    let q := s.writeHbm pa d
    (q.1, { cause := q.2 })
  | .amo w o b c =>
    let n := if w then 32 else 64
    let q := s.readHbm pa (n / 8)
    if q.2.1 ≠ 0 then (q.1, { cause := q.2.1 })
    else
      let old := word (ofBytes q.2.2)
      let v := amoNew n o old b c
      let z := q.1.writeHbm pa (toBytes (n / 8) v.1)
      (z.1, { cause := z.2, w := old, cnt := v.2 })
  | .peekFe =>
    let q := s.readHbm pa 8
    (q.1.tickFree, { cause := q.2.1, w := if Config.freeFe q.1.freeCtr then 1 else 0 })
  | _ => (s, { cause := 0x0F, info := 1 })

/-- The credit of a posted message that the NI did not send when it accepted it (R215). -/
def State.lateCredit (s : State) (a : Nat) (m : Msg) : State := if m.vc = 2 && m.late then s.answer a m.reply {} else s

/-- The answer to an access sent to its master; a posted write that is refused has a message of its own. -/
def State.reply (s : State) (a : Nat) (m : Msg) (slot : Nat) (apc : Addr) (r : Resp) : State :=
  if m.vc = 2 then
    let s := s.lateCredit a m
    let s := if r.cause = 0x0D then s.farRefusal m.spanel m.ctx m.via else s
    (if r.cause = 0 then s
     else s.post { dpanel := m.spanel, dest := m.src, spanel := s.panelId, src := a, vc := 1, kind := 0, seq := m.seq,
                   ctx := m.ctx, body := .resp 2 { r with w := word (apc.toNat * 32 + slot % 32) } })
  else s.answer a m.reply r

/-- The slice words that serving a message at core `l` writes: their addresses and how many bytes (R117). -/
def State.writesOf (s : State) (m : Msg) : List (Nat × Nat) :=
  let at_ (pa n : Nat) : List (Nat × Nat) :=
    if spaceOf pa = 3 then (match s.window pa n m.ctx m.level true with
      | .inl a => [(a, n)]
      | .inr _ => [])
    else if spaceOf pa = 1 then [(pa, n)] else []
  match m.body with
  | .mem pa op _ _ => if op.bytes.2 then at_ pa op.bytes.1 else []
  | .vsend pas _ _ _ _ _ _ => pas.flatMap fun pa => at_ pa 8
  | .ctl pa _ (.back _ _ .exit _) => at_ (pa + 0x38) 8
  | .ctl pa _ (.back ..) => at_ pa 64
  | .ctl pa _ _ => at_ (pa + 0x38) 8
  | .joinDec pa => at_ pa 8
  | .joinArm pa _ => at_ pa 8
  | .ringReserve d _ _ _ => at_ d 64
  | .ringReturn d _ => at_ d 64
  | .ringPush d ws _ _ _ _ _ _ => at_ d 64 ++ (s.ringWords d (s.ringTail d) ws.length).flatMap fun a => at_ a 8
  | .stagePut d _ => at_ d 64 ++ at_ (s.ringAt d (s.ringTail d)) 8
  | .stageGet d => at_ d 64
  | _ => []

/-- A message served at core `l`, or held at the bank while a gather reads a word that it would write (R117). -/
def State.unlessHeld (s : State) (l : Nat) (m : Msg) (k : State → State) : State :=
  match (s.writesOf m).find? fun p => s.gathered l p.1 p.2 with
  | some p => s.hold l p.1 p.2 m
  | none => k s

/-- Whether agent `a` has accepted, and credited, a posted write to some bytes that it has still to serve: in home order it comes
before any later access to them (R129, R216). -/
def State.landing (s : State) (a pa n : Nat) : Bool :=
  (s.ni a).inq.any fun m => m.vc == 2 && !m.late &&
    match m.body with
    | .mem p op _ _ => op.bytes.2 && (if spaceOf p = 2 then p < pa + n && pa < p + op.bytes.1
        else (s.writesOf m).any fun w => w.1 < pa + n && pa < w.1 + w.2)
    | .vsend pas _ _ _ _ _ _ => (pas.any fun p => spaceOf p == 2 && decide (p < pa + n) && decide (pa < p + 8)) ||
        (s.writesOf m).any fun w => w.1 < pa + n && pa < w.1 + w.2
    | _ => false

/-- An access served at core `l`: through a handle window, held under a gather, or applied. -/
def State.serveMem (s : State) (l : Nat) (m : Msg) : State :=
  match m.body with
  | .mem pa op slot apc =>
    let n := op.bytes.1
    let who := if m.src = l && m.spanel = s.panelId then some slot else none
    match (if spaceOf pa = 3 then s.window pa n m.ctx m.level op.bytes.2 else .inl pa) with
    | .inr why => s.reply l m slot apc { cause := 0x0E, info := word why }
    | .inl a =>
      if op.bytes.2 && s.gathered l a n then s.hold l a n m
      else
        let q := s.applySlice l a op slot m.ctx m.level who m.reply
        match q.2 with
        | some r => q.1.reply l m slot apc r
        | none => q.1
  | _ => s

/-! ## Join words (R37, R38, R100) -/

/-- The continuation and the count of a join word (Table 2.7). -/
def joinCont (w : Word) : Word := word (bits w 63 22 * 64)
def joinCount (w : Word) : Nat := bits w 21 0
def joinWord (cont : Word) (n : Nat) : Word := word (bits cont 47 6 * 2 ^ 22 + n % 2 ^ 22)

/-- A decrement at the word's home: the answer carries a released continuation, and waits while the arming of the
word has not ended. -/
def State.joinDecAt (s : State) (l pa ctx lvl : Nat) (r : Reply) : State × Option Resp :=
  let q := s.readToWrite pa 8 ctx lvl
  let w := word (ofBytes q.2.2)
  let put (s : State) (w : Word) : State := (s.writeSlice l pa (toBytes 8 w.toNat) none).1.settle l pa
  if q.2.1 ≠ 0 then (q.1, some { cause := q.2.1 })
  else if joinCount w = 0 then (q.1, some { cause := 0x12 })
  else if joinCount w = 1 && joinCont w != 0 then
    let s := put q.1 0
    match (s.core l).waits.find? fun x => x.at_ == pa && x.kind == .arm (joinCont w) none with
    | some x =>
      (s.modCore l fun c => { c with waits := c.waits.map fun y => if y = x then ⟨pa, .arm (joinCont w) (some r)⟩ else y },
        none)
    | none => (s, some { w := joinCont w })
  else (put q.1 (joinWord (joinCont w) (joinCount w - 1)), some {})

/-- Arming at the word's home: answer 1 when the continuation was registered, 0 when the count was zero. -/
def State.joinArmAt (s : State) (l pa ctx lvl : Nat) (va : Word) : State × Resp :=
  let q := s.readToWrite pa 8 ctx lvl
  let w := word (ofBytes q.2.2)
  if q.2.1 ≠ 0 then (q.1, { cause := q.2.1 })
  else if joinCont w ≠ 0 then (q.1, { cause := 0x15 })
  else if joinCount w = 0 then (q.1, { w := 0 })
  else
    let s := ((q.1.writeSlice l pa (toBytes 8 (joinWord va (joinCount w)).toNat) none).1.settle l pa).modCore l fun c =>
      { c with waits := c.waits ++ [⟨pa, .arm va none⟩] }
    (s, { w := 1 })

/-- The registration of an AWAIT: answer 1 when it waits, 0 when the word is full. -/
def State.awaitAt (s : State) (l pa ctx lvl : Nat) (va : Word) (lcn : Nat) : State × Resp :=
  let q := s.readOwned pa 8 ctx lvl
  if q.2.1 ≠ 0 then (q.1, { cause := q.2.1 })
  else if s.mem.full pa then (q.1, { w := 0 })
  else
    let z := q.1.wait l ⟨pa, .await va ctx lcn true false⟩
    (z.1, if z.2 then { w := 1 } else { cause := 0x13 })

/-- The end of an arming (R100): what it had held applies now. -/
def State.armEndAt (s : State) (l pa : Nat) (va : Word) : State :=
  match (s.core l).waits.find? fun x => x.at_ == pa && match x.kind with
      | .await v _ _ a _ => v == va && a
      | .arm v _ => v == va
      | _ => false with
  | none => s
  | some x =>
    match x.kind with
    | .arm _ (some r) => (s.modCore l fun c => { c with waits := c.waits.erase x }).answer l r { w := va }
    | .await v ctx lc _ fired =>
      if fired || s.mem.full pa then
        (s.modCore l fun c => { c with waits := c.waits.erase x }).attempt l ctx v (.wake lc)
      else s.modCore l fun c => { c with waits := c.waits.map fun y => if y = x then ⟨pa, .await v ctx lc false false⟩ else y }
    | _ => s.modCore l fun c => { c with waits := c.waits.erase x }

/-! ## Ring bindings (R128, R189, R190) -/

/-- Whether `n` more slots of a ring can be set aside. -/
def State.ringFits (s : State) (d n : Nat) : Bool := n + s.ringResv d + s.ringCount d ≤ s.ringSize d

/-- A binding asked for at a ring's home: a consumer's (n = 0), or a producer's, which waits until its slots can be set
aside. -/
def State.ringReserveAt (s : State) (l : Nat) (m : Msg) (pa n : Nat) (tag : Tag) (slot : Nat) : State × Option Resp :=
  let q := s.ringCheck pa m.ctx m.level true []
  let bad : Resp := { cause := 0x27, info := 6 }
  if q.2 ≠ 0 then (q.1, some { cause := q.2 })
  else if !s.ringValid pa || s.mem.read64 (pa + 0x28) ≠ tag.zeroExtend 64 then (q.1, some bad)
  else if n = 0 then
    let c := s.mem.read64 (pa + 0x30)
    if m.src ≠ l || m.spanel ≠ s.panelId then (q.1, some bad)
    else if bit c 4 && bits c 3 0 ≠ slot then (q.1, some { cause := 0x27, info := 3 })
    else (q.1.ringSet pa 0x30 (word (16 + slot % 16)), some { w := tag.zeroExtend 64 })
  else if s.ringFits pa n then
    (q.1.ringSet pa 0x20 (word (s.ringResv pa + n)), some { w := tag.zeroExtend 64 })
  else
    (q.1.modCore l fun c => { c with links := { c.links with ringWait := c.links.ringWait ++ [m] } }, none)

/-- The reservations that wait at a home, served in order as far as they fit; one whose ring fails its checks by then is refused. -/
def State.ringServeN (s : State) (l : Nat) : List Msg → State
  | [] => s
  | m :: t =>
    match m.body with
    | .ringReserve pa n _ _ =>
      let gone (s : State) : State := s.modCore l fun c => { c with links := { c.links with ringWait := c.links.ringWait.erase m } }
      let q := s.ringCheck pa m.ctx m.level true []
      if q.2 ≠ 0 then State.ringServeN ((gone q.1).answer l m.reply { cause := q.2 }) l t
      else if s.ringFits pa n then
        let s := gone (q.1.ringSet pa 0x20 (word (s.ringResv pa + n)))
        State.ringServeN (s.answer l m.reply { w := (s.ringTag pa).zeroExtend 64 }) l t
      else State.ringServeN s l t
    | _ => State.ringServeN s l t

/-- Reservations that return to a ring's home unused; a ring that fails its checks is reported to the context's supervisor. -/
def State.ringReturnAt (s : State) (l pa n : Nat) : State :=
  let c := s.core l
  let q := s.ringCheck pa c.ctxid c.level true []
  if q.2 ≠ 0 then q.1.agentPacket l c.ctxid 5 (mkCause q.2 0 0)
  else (q.1.ringSet pa 0x20 (word (s.ringResv pa - n))).ringServeN l (s.core l).links.ringWait

/-- A fill of a word by the hardware: an engine's completion word, the PCTL's settle and completion words (R118, R281, R345): the
datum, FE set, the waiters served; held while a gather reads the word (R117). The cause of a refusal is 0 for none. -/
def State.fillAt (s : State) (pa : Nat) (w : Word) (ctx lvl : Nat) : State × Nat :=
  if spaceOf pa = 1 then
    let l := sliceLcn pa
    let own := s.ownCause pa 8 ctx lvl true
    if own ≠ 0 then (s, own)
    else if s.gathered l pa 8 then
      (s.hold l pa 8 { dpanel := s.panelId, spanel := s.panelId, dest := l, src := l, vc := 2, kind := 0x06, len := 8, ctx,
                       wtag := BitVec.ofNat 16 lvl, body := .mem pa (.stf w) 16 0 }, 0)
    else
      let q := s.writeSlice l pa (toBytes 8 w.toNat) none
      if q.2 ≠ 0 then q else ((q.1.modMem fun m => m.setFull pa true).settle l pa, 0)
  else s.writeHbm pa (toBytes 8 w.toNat)

end Sys2Proof.Machine
end

