-- ==== Sys2Proof/Machine/VecEval.lean ====
section
/-! DEFINITION. What a vector command computes once it starts (R171-R185): tag checks, then the result with its
counted events and its bound check. -/

namespace Sys2Proof.Machine

/-- What a vector command reads at its start: the thread's vector registers and tags, the core's bound sets, its
scalars, the LFSR that it took at issue. -/
structure VEnv where
  v    : Vector Vec 16
  tags : Vector Tag 16
  bs   : Vector Bound 16
  xs   : List Word := []
  lfsr : BitVec 32 := 0
  deriving DecidableEq, Repr

/-- The outcome of a start: a fault with nothing written, or a result. -/
abbrev VOut := Except Cause VResult

/-- Fault 0x22 and fault 0x23 with their reason and operand position (R146, R172). -/
def bad22 (r pos : Nat) : Cause := mkCause 0x22 (r + pos * 256) 0
def bad23 (r pos : Nat) : Cause := mkCause 0x23 (r + pos * 256) 0

/-- A condition that a command needs. -/
def orFault (b : Bool) (c : Cause) : Except Cause Unit := if b then .ok () else .error c

namespace VEnv

/-- A tag that must be valid; a command that is not raw needs a format (R171). -/
def valid (e : VEnv) (t : Tag) (pos : Nat) (raw : Bool) : Except Cause Unit :=
  match tagReason e.bs t (!raw) with
  | some r => .error (bad22 r pos)
  | none => .ok ()

/-- A tag that must be valid and unscaled (R185). -/
def plain (e : VEnv) (t : Tag) (pos : Nat) (raw : Bool) : Except Cause Unit := do
  e.valid t pos raw
  orFault (Tag.scm t == 0) (bad23 3 pos)

/-- A tag that must be compatible with `t` (R171). -/
def compat (e : VEnv) (t u : Tag) (pos : Nat) : Except Cause Unit := do
  e.valid u pos false
  orFault (Tag.isFloat u == Tag.isFloat t) (bad23 1 pos)
  orFault (Tag.width u == Tag.width t) (bad23 2 pos)
  orFault (Tag.scm u == 0) (bad23 3 pos)

/-- The values of a register under a tag. -/
def vals (e : VEnv) (r : Fin 16) (t : Tag) : List Val := (lanesOf e.v[r] (Tag.width t)).map (decodeElem t)

/-- The random bits of element `j`. -/
def rnd (e : VEnv) (j : Nat) : Nat := rndOf e.lfsr j

/-- Captured scalar `i`. -/
def x (e : VEnv) (i : Nat) : Word := nth 0 e.xs i

/-- The write-back of lanes to a vector register with the bound check (R166): hits count even when they trap. -/
def out (e : VEnv) (d : Fin 16) (t : Tag) (codes : List Nat) (cnt : Counts := {}) : VOut :=
  let r := boundAll e.bs t (codes.map fun c => (c, none))
  match r.2.2 with
  | some i => .ok { cnt := cnt.add r.2.1, flt := some (mkCause 0x25 i 0) }
  | none => .ok { vds := [(d, vecOf (Tag.width t) r.1, t)], cnt := cnt.add r.2.1 }

/-- A scalar read as an element of a tag: an FP32 value for the floating kind, the low bits for the integer kind
(R174). -/
def bval (t : Tag) (w : Word) : Val :=
  if Tag.isFloat t then fp32 (w.setWidth 32) else decodeElem t (w.toNat % 2 ^ Tag.width t)

/-- The values of a second operand, which must be compatible with `t` when it is a register. -/
def second (e : VEnv) (t : Tag) (src : VSrc) : Except Cause (List Val) :=
  match src with
  | .v r => do
    e.compat t e.tags[r] 2
    return e.vals r e.tags[r]
  | .x _ => .ok (List.replicate (Tag.lanes t) (bval t (e.x 0)))
  | .imm i => .ok (List.replicate (Tag.lanes t) (bval t (sext32 i)))

/-- Codes and counted events of elements in order. -/
def gather (l : List (Nat × Counts)) : List Nat × Counts :=
  (l.map (·.1), l.foldl (fun c p => c.add p.2) {})

/-- A command of R174: `f` gives the exact result of the operands of an element. -/
def arith (e : VEnv) (d s1 : Fin 16) (mode : RMode) (ops : Tag → Except Cause (List (Val × Bool))) : VOut := do
  let t := e.tags[s1]
  e.plain t 1 false
  let rs ← ops t
  let q := gather (rs.zipIdx.map fun p => finish p.1 t mode (if mode == .sr then e.rnd p.2 else 0))
  e.out d t q.1 q.2

/-- The exact product and sum of VFMA; a NaN among the operands is no NaN produced. -/
def vFma (a b c : Val) (mode : RMode) : Val × Bool :=
  let p := vMul a b
  match p.1 with
  | .nan => (.nan, p.2 && !c.isNan)
  | _ => vAdd p.1 c mode

/-- VADD, VSUB, VMUL, VMIN, VMAX (R174). -/
def binary (e : VEnv) (a : VBin) (f : Val → Val → Val × Bool) : VOut :=
  e.arith a.d a.s1 a.mode fun t => do
    let b ← e.second t a.src
    return (e.vals a.s1 t).zipWith f b

/-- VFMA (R174). -/
def fma (e : VEnv) (a : VBin) (s3 : Fin 16) : VOut :=
  e.arith a.d a.s1 a.mode fun t => do
    let b ← e.second t a.src
    e.compat t e.tags[s3] 3
    return ((e.vals a.s1 t).zip (b.zip (e.vals s3 e.tags[s3]))).map fun p => vFma p.1 p.2.1 p.2.2 a.mode

/-- VABS, VNEG (R174). -/
def unary (e : VEnv) (a : VUn) (f : Val → Val) : VOut :=
  e.arith a.d a.s1 a.mode fun t => .ok ((e.vals a.s1 t).map fun v => (f v, false))

/-- The lanes of a second operand as raw bits of width `w`; a register must have that width. -/
def rawSecond (e : VEnv) (w : Nat) (raw : Bool) (src : VSrc) : Except Cause (List Nat) :=
  match src with
  | .v r => do
    e.valid e.tags[r] 2 raw
    orFault (Tag.width e.tags[r] == w) (bad23 2 2)
    orFault (Tag.scm e.tags[r] == 0) (bad23 3 2)
    return lanesOf e.v[r] w
  | .x _ => .ok (List.replicate (512 / w) ((e.x 0).toNat % 2 ^ w))
  | .imm i => .ok (List.replicate (512 / w) ((sext32 i).toNat % 2 ^ w))

/-- VAND, VOR, VXOR (R175). -/
def logic (e : VEnv) (d s1 : Fin 16) (src : VSrc) (f : Nat → Nat → Nat) : VOut := do
  let t := e.tags[s1]
  e.plain t 1 true
  let b ← e.rawSecond (Tag.width t) true src
  e.out d t ((lanesOf e.v[s1] (Tag.width t)).zipWith f b)

/-- A lane shifted right arithmetically. -/
def sraLane (w x k : Nat) : Nat := if x < 2 ^ (w - 1) then x / 2 ^ k else x / 2 ^ k + (2 ^ w - 2 ^ (w - k))

/-- VSHL, VSHR (R176). DESIGN CHOICE: the amounts may be of any kind of the same width (log 123). -/
def shift (e : VEnv) (d s1 : Fin 16) (src : VSrc) (f : Tag → Nat → Nat → Nat) : VOut := do
  let t := e.tags[s1]
  e.valid t 1 false
  orFault (Tag.isInt t) (bad23 7 1)
  let w := Tag.width t
  let b ← e.rawSecond w false src
  e.out d t ((lanesOf e.v[s1] w).zipWith (fun x k => f t x (k % w)) b)

def shl (t : Tag) (x k : Nat) : Nat := x * 2 ^ k % 2 ^ Tag.width t
def shr (lgc : Bool) (t : Tag) (x k : Nat) : Nat :=
  if lgc || Tag.cls t == 7 then x / 2 ^ k else sraLane (Tag.width t) x k

/-- The condition of VCMP (R177). -/
def holds (c : VCond) (a b : Val) : Bool :=
  let un := a.isNan || b.isNan
  match c with
  | .eq => a.eqv b
  | .ne => un || !a.eqv b
  | .lt => a.lt b
  | .le => !un && !b.lt a
  | .gt => b.lt a
  | .ge => !un && !a.lt b
  | .un => un

/-- VCMP (R177). -/
def cmp (e : VEnv) (c : VCond) (d : VCmpDst) (s1 : Fin 16) (src : VSrc) (mtag : Nat → Tag) : VOut := do
  let t := e.tags[s1]
  e.plain t 1 false
  let b ← e.second t src
  let h := (e.vals s1 t).zipWith (holds c) b
  let w := Tag.width t
  match d with
  | .mask d => return { vds := [(d, vecOf w (h.map fun b => if b then 2 ^ w - 1 else 0), mtag w)] }
  | .any g => return { gd := some (g, h.any id) }
  | .all g => return { gd := some (g, h.all id) }

/-- VSEL (R178). -/
def sel (e : VEnv) (d s1 s2 s3 : Fin 16) : VOut := do
  let t := e.tags[s1]
  e.plain t 1 true
  e.plain e.tags[s2] 2 true
  orFault (e.tags[s2] == t) (bad23 7 2)
  e.plain e.tags[s3] 3 true
  let w := Tag.width t
  orFault (Tag.width e.tags[s3] == w) (bad23 2 3)
  e.out d t (((lanesOf e.v[s3] w).zip ((lanesOf e.v[s1] w).zip (lanesOf e.v[s2] w))).map fun p =>
    if p.1 ≠ 0 then p.2.1 else p.2.2)

/-- VPERM (R179). -/
def perm (e : VEnv) (d s1 s2 : Fin 16) : VOut := do
  let t := e.tags[s1]
  e.plain t 1 true
  let u := e.tags[s2]
  e.plain u 2 true
  let w := Tag.width t
  orFault (Tag.width u == w) (bad23 2 2)
  orFault (Tag.isInt u || (Tag.cls u == 0 && Tag.cls t == 0)) (bad23 7 2)
  e.out d t ((lanesOf e.v[s2] w).map fun j => if j < 512 / w then lane e.v[s1] w j else 0)

/-- A second operand of a lane move: a captured scalar or an immediate. -/
def scalar (e : VEnv) (src : Src) : Word :=
  match src with
  | .reg _ => e.x 0
  | .imm i => sext32 i

/-- VSLIDE (R179). -/
def slide (e : VEnv) (d s1 : Fin 16) (src : Src) : VOut := do
  let t := e.tags[s1]
  e.plain t 1 true
  let w := Tag.width t
  let k := (e.scalar src).toInt
  e.out d t ((List.range (512 / w)).map fun (i : Nat) =>
    let j : Int := (i : Int) + k
    if 0 ≤ j && j < (512 / w : Nat) then lane e.v[s1] w j.toNat else 0)

/-- VBCAST (R180). -/
def bcast (e : VEnv) (d : Fin 16) (src : Src) (mode : RMode) : VOut := do
  let t := e.tags[d]
  e.plain t 0 true
  let w := Tag.width t
  let q : Nat × Counts :=
    if Tag.isFloat t then conv (fp32 ((e.scalar src).setWidth 32)) t mode (if mode == .sr then e.rnd 0 else 0)
    else ((e.scalar src).toNat % 2 ^ w, {})
  e.out d t (List.replicate (512 / w) q.1) q.2

/-- A lane index: a scalar, or the immediate read unsigned (R181). -/
def index (x : Word) : Src → Nat
  | .reg _ => x.toNat
  | .imm i => i.toNat

/-- VMOVX (R181). -/
def movx (e : VEnv) (d : Fin 32) (s1 : Fin 16) (src : Src) : VOut := do
  let t := e.tags[s1]
  e.plain t 1 true
  let w := Tag.width t
  let j := index (e.x 0) src
  orFault (j < 512 / w) (bad23 4 2)
  return { xd := some (d, word (lane e.v[s1] w j)) }

/-- VINS (R181); its datum is the first captured scalar, its index the second. -/
def ins (e : VEnv) (d s1 : Fin 16) (src : Src) : VOut := do
  let t := e.tags[s1]
  e.plain t 1 false
  let w := Tag.width t
  let j := index (e.x 1) src
  orFault (j < 512 / w) (bad23 4 2)
  e.out d t ((lanesOf e.v[s1] w).set j ((e.x 0).toNat % 2 ^ w))

/-! ## VRED (R162, R182) -/

/-- An element of a reduction tree: its value, its code, its lane. -/
abbrev Node := Val × Nat × Nat

/-- The contest of two elements of MAX or MIN: an empty one yields, a NaN wins, equal values keep the smaller index. -/
def pick (mx : Bool) (a b : Option Node) : Option Node :=
  match a, b with
  | none, b => b
  | a, none => a
  | some a, some b =>
    if a.1.isNan || b.1.isNan then
      some (if a.1.isNan && (!b.1.isNan || a.2.2 < b.2.2) then a else b)
    else if a.1.lt b.1 then some (if mx then b else a)
    else if b.1.lt a.1 then some (if mx then a else b)
    else some (if a.2.2 < b.2.2 then a else b)

/-- The halving tree over `n` elements: `f` combines two elements and gets the number of the combination. -/
def tree {α : Type} (f : Nat → α → α → α × Counts) : Nat → Nat → List α → Counts → List α × Counts
  | 0, _, l, c => (l, c)
  | k + 1, j, l, c =>
    if l.length ≤ 1 then (l, c)
    else
      let h := l.length / 2
      let rs := ((l.take h).zip (l.drop h)).zipIdx.map fun p => f (j + p.2) p.1.1 p.1.2
      tree f k (j + h) (rs.map (·.1)) (rs.foldl (fun c r => c.add r.2) c)

/-- One rounded addition of a SUM tree. -/
def sumStep (t : Tag) (mode : RMode) (rnd : Nat → Nat) (j : Nat) (a b : Val × Nat) : (Val × Nat) × Counts :=
  let q := finish (vAdd a.1 b.1 mode) t mode (if mode == .sr then rnd j else 0)
  ((decodeElem t q.1, q.1), q.2)

/-- The code that a reduction without elements gives (R182). -/
def emptyCode (t : Tag) (mx : Bool) : Nat :=
  if Tag.isInt t then intCode t (if mx then Tag.intLo t else Tag.intHi t) else (Tag.fmt t).nanCode

/-- The SUM, MAX or MIN of some elements: the code and the events. -/
def reduce (t : Tag) (op : RedOp) (mode : RMode) (rnd : Nat → Nat) (on : List Bool) (codes : List Nat) : Nat × Counts :=
  match op with
  | .sum =>
    let l := (codes.zip on).map fun p => if p.2 then (decodeElem t p.1, p.1) else (.fin false 0 1, 0)
    let r := tree (sumStep t mode rnd) 6 0 l {}
    ((nth (.nan, 0) r.1 0).2, r.2)
  | op =>
    let mx := op == .max
    let l := (codes.zip on).zipIdx.map fun p =>
      if p.1.2 then some (decodeElem t p.1.1, p.1.1, p.2) else none
    let r := tree (fun _ a b => (pick mx a b, {})) 6 0 l {}
    match nth none r.1 0 with
    | some n => (if n.1.isNan then (Tag.fmt t).nanCode else n.2.1, {})
    | none => (emptyCode t mx, {})

/-- The lane of the largest (or smallest) element, all ones when there is none; NaN lanes take no part. -/
def argRed (t : Tag) (mx : Bool) (on : List Bool) (codes : List Nat) : Word :=
  let l := (codes.zip on).zipIdx.map fun p =>
    let v := decodeElem t p.1.1
    if p.1.2 && !v.isNan then some (v, p.1.1, p.2) else none
  match nth none (tree (fun _ a b => (pick mx a b, {})) 6 0 l {}).1 0 with
  | some n => word n.2.2
  | none => BitVec.allOnes 64

/-- The lanes that a mask register lets take part. -/
def mask (e : VEnv) (w : Nat) : Option (Fin 16) → Except Cause (List Bool)
  | none => .ok (List.replicate (512 / w) true)
  | some r => do
    e.valid e.tags[r] 2 false
    orFault (Tag.width e.tags[r] == w) (bad23 2 2)
    orFault (Tag.scm e.tags[r] == 0) (bad23 3 2)
    return (lanesOf e.v[r] w).map (· != 0)

/-- VRED (R182). -/
def red (e : VEnv) (op : RedOp) (mode : RMode) (d : RedDst) (s1 : Fin 16) (m : Option (Fin 16)) : VOut := do
  let t := e.tags[s1]
  e.plain t 1 false
  let w := Tag.width t
  let codes := lanesOf e.v[s1] w
  let on ← e.mask w m
  match op, d with
  | .amax, .x d => return { xd := some (d, argRed t true on codes) }
  | .amin, .x d => return { xd := some (d, argRed t false on codes) }
  | op, d =>
    let q := reduce t op mode e.rnd on codes
    match d with
    | .x d => return { xd := some (d, word q.1), cnt := q.2 }
    | .v d => e.out d t (q.1 :: List.replicate (512 / w - 1) 0) q.2

/-! ## Conversion and quantisation (R184, R185) -/

/-- VCVT (R184). DESIGN CHOICE: an element's random bits are those of its source lane, with PART above 0 too (R153; log 138). -/
def cvt (e : VEnv) (mode : RMode) (part : Nat) (d s1 : Fin 16) (t2 : Tag) : VOut := do
  let t1 := e.tags[s1]
  e.plain t2 0 false
  e.plain t1 1 false
  let n1 := Tag.lanes t1
  let n2 := Tag.lanes t2
  let cv (i : Nat) (code : Nat) : Nat × Counts := conv (decodeElem t1 code) t2 mode (if mode == .sr then e.rnd i else 0)
  let src := lanesOf e.v[s1] (Tag.width t1)
  if n2 ≥ n1 then
    orFault (part < n2 / n1) (bad23 5 0)
    let q := gather (src.zipIdx.map fun p => cv p.2 p.1)
    let old := lanesOf e.v[d] (Tag.width t2)
    e.out d t2 (old.take (part * n1) ++ q.1 ++ old.drop (part * n1 + n1)) q.2
  else
    orFault (part < n1 / n2) (bad23 5 0)
    let q := gather (((src.drop (part * n2)).take n2).zipIdx.map fun p => cv p.2 p.1)
    e.out d t2 q.1 q.2

/-- Groups of `n` consecutive entries. -/
def chunks {α : Type} (n : Nat) : Nat → List α → List (List α)
  | 0, _ => []
  | k + 1, l => if l.isEmpty then [] else l.take n :: chunks n k (l.drop n)

/-- Values encoded into a scaled tag (R149): the codes with their scale codes, the scale codes of the blocks. `rnd`
gives the random bits of each element. -/
def scaledCodes (t : Tag) (vs : List Val) (mode : RMode) (rnd : Nat → Nat) : List (Nat × Nat) × List Nat × Counts :=
  let b := Tag.block t
  (chunks b 64 vs).zipIdx.foldl (fun acc p =>
    let s := scaleCode t p.1
    let sv := scaleVal (Tag.scm t) s.1
    let q := gather (p.1.zipIdx.map fun x =>
      conv (unscale x.1 sv) t mode (if mode == .sr then rnd (p.2 * b + x.2) else 0))
    (acc.1 ++ q.1.map (fun c => (c, s.1)), acc.2.1 ++ [s.1], (acc.2.2.add s.2).add q.2)) ([], [], {})

/-- Registers of the source group of VQNT, which must be aligned and alike (R185). -/
def group (e : VEnv) (t : Tag) (s1 : Fin 16) : Except Cause (List (Fin 16)) := do
  let n := if Tag.cls t = 1 then 4 else 2
  orFault (s1.val % n == 0) (bad23 6 1)
  let rs := (List.range n).map fun i => Fin.ofNat 16 (s1.val + i)
  orFault (rs.all fun r => e.tags[r] == t) (bad23 6 1)
  return rs

/-- VQNT (R185). -/
def qnt (e : VEnv) (mode : RMode) (d s1 : Fin 16) (s3 : Fin 32) (t2 : Tag) : VOut := do
  e.valid t2 0 false
  orFault (Tag.cls t2 == 8 && Tag.scm t2 != 0) (bad23 7 0)
  let t1 := e.tags[s1]
  e.plain t1 1 false
  orFault ([1, 2, 3].contains (Tag.cls t1)) (bad23 7 1)
  let rs ← e.group t1 s1
  let q := scaledCodes t2 (rs.flatMap fun r => e.vals r t1) mode e.rnd
  let b := boundAll e.bs t2 (q.1.map fun c => (c.1, some c.2))
  let cnt := q.2.2.add b.2.1
  match b.2.2 with
  | some i => return { cnt, flt := some (mkCause 0x25 i 0) }
  | none => return { vds := [(d, vecOf 8 b.1, t2)], xd := some (s3, word (ofBytes (q.2.1.map fun c => BitVec.ofNat 8 c))), cnt }

/-- The values of the elements of a scaled register, with the events of its scales (R147, R148). -/
def scaledVals (t : Tag) (codes scales : List Nat) : List Val × Counts :=
  let b := Tag.block t
  let used := scales.take ((codes.length + b - 1) / b)
  (codes.zipIdx.map fun p => scaledVal (decodeElem t p.1) (scaleVal (Tag.scm t) (nth 0 scales (p.2 / b))),
    used.foldl (fun c s => c.add (scaleEvent (Tag.scm t) s)) {})

/-- VDQNT (R185): the destination group is written whole or, when an element traps, not at all. -/
def dqnt (e : VEnv) (mode : RMode) (d s1 : Fin 16) (t2 : Tag) : VOut := do
  e.plain t2 0 false
  orFault ([1, 2, 3].contains (Tag.cls t2)) (bad23 7 0)
  let t1 := e.tags[s1]
  e.valid t1 1 false
  orFault (Tag.cls t1 == 8 && Tag.scm t1 != 0) (bad23 7 1)
  let n := if Tag.cls t2 = 1 then 4 else 2
  orFault (d.val % n == 0) (bad23 6 0)
  let vs := scaledVals t1 (lanesOf e.v[s1] 8) ((toBytes 8 (e.x 0).toNat).map BitVec.toNat)
  let q := gather (vs.1.zipIdx.map fun p => conv p.1 t2 mode (if mode == .sr then e.rnd p.2 else 0))
  let b := boundAll e.bs t2 (q.1.map fun c => (c, none))
  let cnt := (vs.2.add q.2).add b.2.1
  match b.2.2 with
  | some i => return { cnt, flt := some (mkCause 0x25 i 0) }
  | none =>
    return { vds := (chunks (Tag.lanes t2) 4 b.1).zipIdx.map fun p =>
               (Fin.ofNat 16 (d.val + p.2), vecOf (Tag.width t2) p.1, t2),
             cnt }

end VEnv

end Sys2Proof.Machine
end

