-- ==== Sys2Proof/Machine/Wire.lean ====
section
/-! DEFINITION. VSEND on the wire (R132, R194): the conversion at the sender, the conversion and the stores at the home. -/

namespace Sys2Proof.Machine

/-- The kind of a tag: 0 untagged, 1 floating, 2 integer (R132). -/
def Tag.kind (t : Tag) : Nat := if Tag.cls t = 0 then 0 else if Tag.isFloat t then 1 else 2

/-- Bytes of codes of width `w`. -/
def packBytes (w : Nat) (codes : List Nat) : List Byte := codes.flatMap fun c => toBytes (w / 8) c

/-- Codes of width `w` in bytes. -/
def unpack (w : Nat) (n : Nat) (bs : List Byte) : List Nat := (List.range n).map fun i => ofBytes ((bs.drop (i * (w / 8))).take (w / 8))

/-- The elements of a register converted to WTAG, each with its block's scale code when WTAG is scaled (R194, R149). -/
def wireOf (t wt : Tag) (codes : List Nat) : List Nat × List Nat × Counts :=
  if Tag.cls t = 0 then (codes, [], {})
  else if Tag.scm wt = 0 then
    let q := VEnv.gather (codes.map fun c => conv (decodeElem t c) wt .rne 0)
    (q.1, [], q.2)
  else
    let q := VEnv.scaledCodes wt (codes.map (decodeElem t)) .rne fun _ => 0
    (q.1.map (·.1), q.2.1, q.2.2)

/-- The blocks that elements `i` to `i + n - 1` touch: the first and how many. -/
def blocksOf (b i n : Nat) : Nat × Nat := (i / b, if n = 0 then 0 else (i + n - 1) / b - i / b + 1)

/-- The payload of elements `i` to `i + n - 1`, with the scale bytes of their blocks. -/
def wireBytes (wt : Tag) (codes scales : List Nat) (i n : Nat) : List Byte :=
  let b := blocksOf (Tag.block wt) i n
  packBytes (Tag.width wt) ((codes.drop i).take n) ++
    if Tag.scm wt = 0 then [] else packBytes 8 ((scales.drop b.1).take b.2)

/-- How many elements a payload of a length holds, of which the first has index `skip` in its block. -/
def wireCount (wt : Tag) (len skip : Nat) : Nat :=
  if Tag.scm wt = 0 then len / (Tag.width wt / 8)
  else ((List.range 65).find? fun n => n * (Tag.width wt / 8) + (blocksOf (Tag.block wt) skip n).2 == len).getD 0

/-- The elements of a payload converted to a receiving tag, with the counted events; none when the pair crosses kinds
(R132). -/
def unwire (wt mt : Tag) (data : List Byte) (skip : Nat) : Option (List Nat × Counts) :=
  let n := wireCount wt data.length skip
  let w := Tag.width wt
  let codes := unpack w n data
  if wt = mt then some (codes, {})
  else if Tag.kind wt ≠ Tag.kind mt then none
  else if Tag.kind wt = 0 then some (codes, {})
  else if Tag.scm wt = 0 then some (VEnv.gather (codes.map fun c => conv (decodeElem wt c) mt .rne 0))
  else
    let scales := unpack 8 (blocksOf (Tag.block wt) skip n).2 (data.drop (n * (w / 8)))
    let b := Tag.block wt
    let vs := codes.zipIdx.map fun p =>
      scaledVal (decodeElem wt p.1) (scaleVal (Tag.scm wt) (nth 0 scales ((skip + p.2) / b)))
    let q := VEnv.gather (vs.map fun v => conv v mt .rne 0)
    some (q.1, (scales.foldl (fun c s => c.add (scaleEvent (Tag.scm wt) s)) ({} : Counts)).add q.2)

/-- Exactly `n` words of some bytes, zeros behind them. -/
def padWords (n : Nat) (bs : List Byte) : List Word := wordsOf n bs

/-! ## At the home -/

/-- The words of a VSEND stored at a ring's home: converted to the ring's tag, or unconverted and marked (R132). -/
def State.ringVsend (s : State) (d : Nat) (who : Nat × Nat × Nat) (words : Nat) (wt : Tag) (data : List Byte) : State :=
  let mt := s.ringTag d
  match unwire wt mt data 0 with
  | some q => (s.countNi (sliceLcn d) q.2).ringPut d who false (padWords words (packBytes (Tag.width mt) q.1))
  | none => s.ringPut d who true (padWords words data)

/-- A posted push, or the return of reservations, served at a ring's home, or held while a gather reads what it writes (R117). A push
that the home cannot make is refused (R119-R121). -/
def State.serveRing (s : State) (l : Nat) (m : Msg) : State :=
  s.unlessHeld l m fun s =>
    match m.body with
    | .ringReturn d n => (s.ringReturnAt l d n).lateCredit l m
    | .ringPush d ws wt _ raw slot reg apc =>
      let who := (peerKey m.spanel m.src, slot, reg)
      let q := s.ringCheck d m.ctx m.level true (s.ringWords d (s.ringTail d) ws.length)
      if q.2 ≠ 0 then q.1.reply l m slot apc { cause := q.2 }
      else (if raw.isEmpty then q.1.ringPut d who false ws else q.1.ringVsend d who ws.length wt raw).lateCredit l m
    | _ => s

/-- Words stored one by one as plain stores by the agent that serves them; the cause and information of the first that is
refused. -/
def State.storeWords (s : State) (ctx lvl : Nat) (who : Option Nat) (r : Reply) : List (Nat × Word) → State × Resp
  | [] => (s, {})
  | (pa, w) :: t =>
    match (if spaceOf pa = 3 then s.window pa 8 ctx lvl true else .inl pa) with
    | .inr why => (s, { cause := 0x0E, info := word why })
    | .inl a =>
      let q := if spaceOf a = 2 then
          (let z := s.applyHbm a (.store (toBytes 8 w.toNat)); (z.1, some z.2))
        else s.applySlice (sliceLcn a) a (.store (toBytes 8 w.toNat)) 16 ctx lvl who r
      match q.2 with
      | some x => if x.cause = 0 then State.storeWords q.1 ctx lvl who r t else (q.1, x)
      | none => (q.1, {})

/-- A VSEND to a buffer applied at its home: converted to MTAG, then stored in lane order (R194). At a memory bridge, which has no
counters, the events count in the sender's context counters (log 124). -/
def State.applyVsend (s : State) (a : Nat) (m : Msg) : State × Resp :=
  match m.body with
  | .vsend pas wt mt data skip slot _ =>
    match unwire wt mt data skip with
    | some q =>
      let s := if a < 8192 then s.countNi a q.2 else if m.src < 8192 && m.spanel = s.panelId then s.countNi m.src q.2 else s
      let who := if m.src = a && m.spanel = s.panelId then some slot else none
      s.storeWords m.ctx m.level who m.reply (pas.zip (padWords pas.length (packBytes (Tag.width mt) q.1)))
    | none => (s, {})
  | _ => (s, {})

/-- A VSEND to a buffer served by agent `a`: held while a gather reads one of its words (R117), else applied. -/
def State.serveVsend (s : State) (a : Nat) (m : Msg) : State :=
  match m.body with
  | .vsend _ _ _ _ _ slot apc =>
    match (if a < 8192 then (s.writesOf m).find? fun p => s.gathered a p.1 p.2 else none) with
    | some p => s.hold a p.1 p.2 m
    | none =>
      let q := s.applyVsend a m
      q.1.reply a m slot apc q.2
  | _ => s

end Sys2Proof.Machine
end

