-- ==== Sys2Proof/Machine/Path.lean ====
section
/-! DEFINITION. A thread's memory path (R213-R216, R220, R228, R230): request slots, the sending of accesses in program
order, path faults. -/

namespace Sys2Proof.Machine

/-! ## Requests (R215) -/

/-- Whether a request takes one of the 16 request slots: every one but those that the core sends to itself. -/
def Req.takesSlot (r : Req) (l own : Nat) : Bool := r.msg.vc != 4 && !(r.msg.dest == l && r.msg.dpanel == own && r.msg.vc == 4)

/-- Free request slots of a core; the copy engine (unit 18) has its own (R257). -/
def State.freeSlots (s : State) (l : Nat) : Nat :=
  16 - ((s.core l).reqs.filter fun r => r.slot != 18 && r.takesSlot l s.panelId).length

/-- An answer that the source itself gives to a request that it cannot send (R375, R411). -/
def State.selfAnswer (s : State) (l id ctx : Nat) (r : Resp) : State :=
  s.send { dpanel := s.panelId, spanel := s.panelId, dest := l, src := l, vc := 1, kind := 0, seq := id, ctx,
           body := .resp 4 r }

/-- The answer that core `l` gives itself to a request that it cannot send (R375, R411). -/
def State.unsendable (s : State) (l : Nat) (m : Msg) : Option Resp :=
  if m.vc = 4 then none
  else if m.dpanel ≠ s.panelId && (s.portOf m).isNone then some { cause := 0x37, info := 1 }
  else if m.dpanel = s.panelId && m.dest < 8192 && !s.present m.dest then some { cause := 0x35 }
  else if m.dpanel = s.panelId && !s.routed l m.dest 0 then some { cause := 0x35 }
  else none

/-- A request remembered until its answer, and in its thread's account when a slot made it. -/
def State.remember (s : State) (l key : Nat) (q : Req) : State :=
  let s := s.modCore l fun c => { c with reqs := c.reqs ++ [q] }
  if q.slot < 16 then
    s.modSlot l (Fin.ofNat 16 q.slot) fun t => { t with outst := t.outst ++ [⟨key, q.msg.vc, q.id⟩] }
  else s

/-- A request of a unit of core `l` sent and remembered until its answer (R215). Units 0-15 are slots. `key` is its
home. -/
def State.request (s : State) (l unit : Nat) (apc : Addr) (va : Word) (key : Nat) (cont : Cont) (m : Msg) : State :=
  let f := s.freshId l
  match f.1.unsendable l m with
  | some r =>
    (f.1.remember l key { id := f.2, slot := unit, apc, va, msg := { m with vc := 4, seq := f.2 }, cont }).selfAnswer l f.2 m.ctx r
  | none =>
    let m' := if m.vc = 0 then f.1.numbered m else { m with seq := f.2 }
    let s := f.1.remember l key { id := f.2, slot := unit, apc, va, msg := m', cont }
    if m.vc = 4 then s else s.post m'

/-- The message of a request of core `l` to a home, without its body. -/
def State.reqMsg (s : State) (l panel dest vc kind len : Nat) (b : Body) : Msg :=
  { dpanel := panel, dest, spanel := s.panelId, src := l, vc, kind, len, ctx := (s.core l).ctxid,
    wtag := BitVec.ofNat 16 (s.core l).level, body := b }

/-! ## The path -/

/-- The KIND of an access (Table 5.7). -/
def MemOp.kind : MemOp → Nat
  | .load _ | .readFe | .peekFe | .fetch => 0x01
  | .store _ => 0x02
  | .amo _ _ _ _ => 0x03
  | .ldw => 0x04
  | .ldt => 0x05
  | .stf _ => 0x06
  | .stw _ => 0x07
  | .lrq => 0x08
  | .scq _ => 0x09
  | .relq => 0x0A

/-- Which spaces an access needs (Table 8.3). -/
def MemOp.sup : MemOp → Sup
  | .load n => .plain n
  | .store d => .plain d.length
  | .peekFe => .plain 8
  | .amo _ _ _ _ => .amo
  | _ => .sync

def HandleOp.kind : HandleOp → Nat
  | .hcfg _ _ => 0x1B
  | .publish _ => 0x12
  | .hsub _ => 0x13
  | .hunsub _ => 0x14
  | .hver _ => 0x15
  | .stopref _ _ => 0x16
  | .refchk => 0x17

/-- Which spaces an access of the path needs. -/
def PathOp.sup : PathOp → Sup
  | .mem op => op.sup
  | .ctl _ => .record
  | .joinDec | .joinArm _ | .awaitReg _ | .ringReserve _ _ | .group _ => .sync
  | .stagePut _ | .stageGet => .sync
  | .handle _ => .vec

/-- The KIND, the payload length and the body of an access's message. -/
def PathOp.message (op : PathOp) (pa : Nat) (va : Word) (slot : Nat) (apc : Addr) : Nat × Nat × Body :=
  match op with
  | .mem o => (if spaceOf pa = 15 && homeOf pa < 8192 then 0x1C else o.kind, o.bytes.1, .mem pa o slot apc)
  | .ctl o => (0x10, 64, .ctl pa va o)
  | .joinDec => (0x0D, 8, .joinDec pa)
  | .joinArm r => (0x0C, 8, .joinArm pa r)
  | .awaitReg r => (0x0B, 8, .awaitReg pa r)
  | .handle o => (o.kind, 8, .handle (winHandle pa) o)
  | .ringReserve n t => (0x18, 8, .ringReserve pa n t slot)
  | .stagePut v => (0x18, 8, .stagePut pa v)
  | .stageGet => (0x18, 8, .stageGet pa)
  | .group o => (0x0D, 8, .group pa o)

/-- A control-word transition at the record's home, the agent `a`; a core's is held while a gather reads the word (R117), and a
re-fire of a record whose bridge is down is sent again (R285). -/
def State.serveCtl (s : State) (a : Nat) (m : Msg) : State :=
  match m.body with
  | .ctl pa va op =>
    let k (s : State) : State :=
      if m.vc = 2 then
        if 8192 ≤ a && (op matches .refire ..) && s.hbmRefuses pa 64 true = 0x33 then s.answer a m.reply { retry := true }
        else (s.ctlPosted a m pa va op).lateCredit a m
      else let q := s.ctlAt a pa va op m.ctx m.level; q.1.answer a m.reply q.2
    if a < 8192 then s.unlessHeld a m k else k s
  | _ => s

/-- What a core serves for itself without its message thread: accesses to its slice, and the words that its own threads
wait on. -/
def State.serveLocal (s : State) (l : Nat) (m : Msg) : State :=
  match m.body with
  | .mem pa _ _ _ =>
    if spaceOf pa = 15 then s.modNi l fun n => { n with inq := n.inq ++ [m] } else s.serveMem l m
  | .ctl _ _ _ => s.serveCtl l m
  | .joinDec pa => s.unlessHeld l m fun s =>
    let q := s.joinDecAt l pa m.ctx m.level m.reply
    match q.2 with
    | some r => q.1.answer l m.reply r
    | none => q.1
  | .joinArm pa r => s.unlessHeld l m fun s =>
    let q := s.joinArmAt l pa m.ctx m.level r
    q.1.answer l m.reply q.2
  | .awaitReg pa r =>
    let q := s.awaitAt l pa m.ctx m.level r l
    q.1.answer l m.reply q.2
  | .ringReserve pa n t slot => s.unlessHeld l m fun s =>
    let q := s.ringReserveAt l m pa n t slot
    match q.2 with
    | some r => q.1.answer l m.reply r
    | none => q.1
  | .armEnd pa r => (s.armEndAt l pa r).answer l m.reply {}
  | _ => s.modNi l fun n => { n with inq := n.inq ++ [m] }

/-- Whether an access goes to the core's own slice. -/
def State.isLocal (s : State) (l p pa : Nat) : Bool := p == s.panelId && spaceOf pa != 15 && homeOf pa == l

/-- A request sent to its home, or served by the core itself. -/
def State.sendAccess (s : State) (l unit : Nat) (apc : Addr) (va : Word) (panel pa : Nat) (kind len : Nat) (b : Body)
    (cont : Cont) : State :=
  let dest := homeOf pa
  if panel = s.panelId && dest = l then
    let id := (s.ni l).nextId
    let m := { s.reqMsg l panel l 4 kind len b with seq := id }
    (s.request l unit apc va (homeKey panel pa) cont m).serveLocal l m
  else
    let vc := if spaceOf pa = 15 then 3 else 0
    s.request l unit apc va (homeKey panel pa) cont (s.reqMsg l panel dest vc kind len b)

/-- Whether an access leaves as a posted write: a store of the message thread (R220), but into control space, where every access has an
answer (R444). -/
def Acc.asPosted (a : Acc) (pa : Nat) : Bool := a.posted && spaceOf pa != 15

/-- Whether an earlier access of the thread keeps a later one to the same home back: it went on the other of VC 0 and
VC 2, or it waits to be sent again (R228). -/
def State.keptBack (s : State) (l : Nat) (t : Slot) (slot key vc : Nat) : Bool :=
  (t.outst.any fun o => o.home == key && o.vc != vc && (o.vc == 0 || o.vc == 2)) ||
    ((s.ni l).posted.any fun p => p.slot == slot && p.resend.isSome &&
      (t.outst.any fun o => o.id == p.id && o.vc == 2 && o.home == key)) ||
    (s.core l).reqs.any fun q => q.slot == slot && q.resend.isSome &&
      (t.outst.any fun o => o.id == q.id && o.vc != 2 && o.home == key)

/-- A path fault: the access and all behind it stay in the path; the fault is deferred (R214). -/
def State.pathFault (s : State) (l : Nat) (k : Fin 16) (a : Acc) (rest : List Acc) (c i : Nat) : State :=
  (s.modSlot l k fun t => { t with path := { a with st := .failed } :: rest }).deferFault l k 5 a.apc (mkCause c i a.va)

/-- Whether a message of `len` bytes of a worker thread would use the last 8 KiB of the send log (R392). -/
def State.logFull (s : State) (l len : Nat) : Bool :=
  s.logs l (s.core l).ctxid && bit ((s.core l).sys 0xF) 0 && (s.core l).slogUse + 16 + (len + 15) / 16 * 16 > 24576

/-- Whether the access at the head of a path waits for the send log (R392). -/
def State.logStalled (s : State) (l : Nat) (t : Slot) : Bool :=
  match t.path with
  | a :: _ =>
    match a.st with
    | .ready p pa => !(p == s.panelId && homeOf pa == l) && s.logFull l (a.op.message pa a.va 0 a.apc).2.1
    | _ => false
  | [] => false

/-- Whether the access at the head of a path waits for a request slot (R215) or the send log. -/
def State.stalled (s : State) (l : Nat) (t : Slot) : Bool :=
  match t.path with
  | a :: _ =>
    match a.st with
    | .ready p pa => (!a.asPosted pa && !(p == s.panelId && homeOf pa == l) && s.freeSlots l == 0) || s.logStalled l t
    | _ => false
  | [] => false

/-- One step of a thread's path: the access at its head meets the L1 TLB and the source checks, or is sent. The second
result says whether the path moved. -/
def State.pumpOnce (s : State) (l : Nat) (k : Fin 16) : State × Bool :=
  let t := s.slot l k
  match t.path with
  | [] => (s, false)
  | a :: rest =>
    let cmd : Option (Option MCmd) := match a.cont with
      | .mshld no => some ((s.core l).meng.q.find? fun q => q.no == no)
      | _ => none
    if cmd.any fun q => q.all fun q => q.gd == .known false then (s.modSlot l k fun t => { t with path := rest }, true)
    else if cmd.any fun q => q.any fun q => q.gd != .known true then (s, false)
    else match a.st with
    | .queued =>
      match (s.core l).l1 (s.core l).ctxid a.va.toNat with
      | none => (s.modSlot l k fun t => { t with path := { a with st := .l2 } :: rest }, false)
      | some e =>
        let s := s.modCore l fun c => { c with tlb := tlbPut 96 c.tlb e }
        match e.check a.perm a.op.sup a.va.toNat s.panelId with
        | .bad c i => (s.pathFault l k a rest c i, false)
        | .ok p pa => (s.modSlot l k fun t => { t with path := { a with st := .ready p pa } :: rest }, true)
    | .ready p pa =>
      let key := homeKey p pa
      let here := p == s.panelId && homeOf pa == l
      let m := a.op.message pa a.va k.val a.apc
      if k != 15 && s.logStalled l t then (s, false)
      else if here && k != 15 && s.landing l pa a.bytes then (s, false)
      else if a.asPosted pa && !here then
        if s.keptBack l t k.val key 2 || (s.ni l).posted.length ≥ postedMax then (s, false)
        else
          ((s.modSlot l k fun t => { t with path := rest }).postedWrite k.val key
            (s.reqMsg l p (homeOf pa) 2 m.1 m.2.1 m.2.2), true)
      else if !here && (s.freeSlots l == 0 || s.keptBack l t k.val key (if spaceOf pa = 15 then 3 else 0)) then (s, false)
      else ((s.modSlot l k fun t => { t with path := rest }).sendAccess l k.val a.apc a.va p pa m.1 m.2.1 m.2.2 a.cont, true)
    | _ => (s, false)

/-- A thread's path moved as far as it goes. -/
def State.pumpN (s : State) (l : Nat) (k : Fin 16) : Nat → State
  | 0 => s
  | n + 1 => let r := s.pumpOnce l k; if r.2 then State.pumpN r.1 l k n else r.1

def State.pump (s : State) (l : Nat) (k : Fin 16) : State := s.pumpN l k (2 * (s.slot l k).path.length)

/-- The paths of all slots of a core, after something freed. -/
def State.pumpCore (s : State) (l : Nat) : State :=
  (List.finRange 16).foldl (fun s k => if (s.slot l k).path.isEmpty then s else s.pump l k) s

/-- An access of the executing thread put into its path. -/
def State.enqueue (s : State) (a : Acc) : State :=
  (s.modThr fun t => { t with path := t.path ++ [a] }).pump s.cur.lcn s.cur.slot

/-! ## Ordering at issue (R188, R226, R230) -/

/-- Whether every prior access of a slot has been performed (R216). -/
def Core.performed (c : Core) (k : Fin 16) : Bool :=
  (c.slot k).path.isEmpty && (c.slot k).outst.isEmpty && !c.vecMemQueued k.val

/-- How the ordering classes keep back an instruction of the memory path: an acquire whose result has not returned, a
vector memory command not yet in the path, prior accesses for a release, a request slot. -/
def State.orderStop (s : State) (release : Bool) : Option Ctl :=
  let t := s.thr
  if t.acq ≠ 0 || s.me.vecMemQueued s.cur.slot.val then some (.retry .fence)
  else if s.stalled s.cur.lcn t then some (.retry .reqSlot)
  else if release && !s.me.performed s.cur.slot then
    some (.retry (if (s.ni s.cur.lcn).posted.length ≥ postedMax && !t.path.isEmpty then .posted else .fence))
  else none

/-- The checks of R213 on an address of `n` bytes. -/
def addrStop (va : Word) (n : Nat) : Option Cause :=
  if va.toNat ≥ 2 ^ 48 then some ⟨0x09, 1, va⟩
  else if va.toNat % n ≠ 0 then some ⟨0x08, 0, va⟩ else none

/-- A translation that an instruction makes while it issues. -/
def State.trNow (s : State) (va : Word) (perm : Perm) (sup : Sup) : State × (Nat × Nat ⊕ Cause) :=
  let r := s.tr s.cur.lcn s.me.ctxid va.toNat perm sup
  match r.2 with
  | .ok p pa => (r.1, .inl (p, pa))
  | .bad c i => (r.1, .inr (mkCause c i va))

/-- An instruction that may not be issued on the message thread (R114, R220): fault 0x1F with the major opcode. -/
def State.notOnMt (s : State) (i : Instr) (k : State → State) : State :=
  if s.cur.slot = 15 then s.takeFault (mkCause 0x1F i.opByte 0) else k s

/-- Memory a handler would have to wait for: a request to another home faults with 0x1A, reason 2 (R220). A handler's
accesses are translated while they issue. -/
def State.mtRemote (s : State) (va : Word) (perm : Perm) (sup : Sup) : State × Bool :=
  if s.cur.slot = 15 then
    let r := s.tr s.cur.lcn s.me.ctxid va.toNat perm sup
    match r.2 with
    | .ok p pa => (r.1, !(p == s.panelId && homeOf pa == s.cur.lcn))
    | .bad _ _ => (r.1, false)
  else (s, false)

end Sys2Proof.Machine
end

