-- ==== Sys2Proof/Machine/Fetch.lean ====
section
/-! DEFINITION. Fetch lines (R41-R46, R61): the line word, parity, the reading of a line, the test of a transfer's
target (R45). -/

namespace Sys2Proof.Machine

/-- The line word of a line (R41). -/
def lineWord (v : Vec) : Nat := v.toNat / 2 ^ 480

/-- Slot `k` of a line. -/
def lineSlot (v : Vec) (k : Nat) : BitVec 96 := BitVec.ofNat 96 (v.toNat / 2 ^ (96 * k))

/-- Whether the line word's parity is right. -/
def lparOk (v : Vec) : Bool := ones 32 (lineWord v) % 2 == 0

/-- Whether the parity of slot `k` is right. -/
def sparOk (v : Vec) (k : Nat) : Bool := (ones 96 (lineSlot v k).toNat + lineWord v / 2 ^ (16 + k)) % 2 == 0

/-- The BTM bit and the switch marker of slot `k`. -/
def lineBtm (v : Vec) (k : Nat) : Bool := (lineWord v).testBit (5 + k)
def lineSwm (v : Vec) (k : Nat) : Bool := (lineWord v).testBit k

/-- The pairing template of a line. -/
def linePair (v : Vec) : Nat := lineWord v / 1024 % 16

/-- Why a line is illegal, as the information of fault 0x02 (R43, Table 3.10). -/
def lineIllegal (v : Vec) : Option Nat :=
  let w := lineWord v
  if w / 2 ^ 22 ≠ 0 || w / 2 ^ 14 % 4 ≠ 0 then some 1 else if linePair v ≥ 8 then some 2 else none

/-- Whether slot `k` is the first of a pair of a template (Table 3.3). -/
def pairFirst (p k : Nat) : Bool :=
  (p == 1 && k == 0) || (p == 2 && k == 1) || (p == 3 && k == 2) || (p == 4 && k == 3) ||
  (p == 5 && (k == 0 || k == 2)) || (p == 6 && (k == 0 || k == 3)) || (p == 7 && (k == 1 || k == 3))

/-- The slot of its line that a PC names. -/
def slotIdx (pc : Addr) : Nat := pc.toNat % 64 / 12

/-- The address of the line of a PC. -/
def lineOf (pc : Addr) : Nat := pc.toNat / 64 * 64

/-- The snapshot of a PC's line that a core holds (R46). -/
def Core.line? (c : Core) (pc : Addr) : Option Line := c.lines.find? fun x => x.va == lineOf pc

/-- What the reading of a line comes to: its bytes and the causes of its words, an address outside the core's slice, or a fault of
R61's first item. -/
inductive Fetched where
  | line (v : Vec) (bad : Nat)
  | away (panel pa : Nat)
  | bad (c : Cause)
  deriving DecidableEq, Repr

/-- Bytes read at a physical address of the panel by an access of a context and level: slices, windows, HBM. -/
def State.readPa (s : State) (pa n ctx lvl : Nat) : State × Nat × Nat × List Byte :=
  if spaceOf pa = 3 then
    match s.window pa n ctx lvl false with
    | .inr why => (s, 0x0E, why, [])
    | .inl a => let r := s.readOwned a n ctx lvl; (r.1, r.2.1, 0, r.2.2)
  else let r := s.readOwned pa n ctx lvl; (r.1, r.2.1, 0, r.2.2)

/-- The line of a PC translated for a thread of core `l`, and read when it lies in the core's own slice (R46, R61); from anywhere else it
comes with a request. -/
def State.readLine (s : State) (l : Nat) (pc : Addr) : State × Fetched :=
  let c := s.core l
  let r := s.tr l c.ctxid (lineOf pc) .x .vec
  match r.2 with
  | .bad k i => (r.1, .bad (mkCause k i (pc.zeroExtend 64)))
  | .ok p pa =>
    if p = s.panelId && spaceOf pa = 1 && sliceLcn pa = l then
      let own := r.1.ownCause pa 64 c.ctxid c.level false
      if own ≠ 0 then (r.1, .bad (mkCause own 0 (pc.zeroExtend 64)))
      else
        let q := State.readLineWords (fun s a => s.chkSlice l a) r.1 pa
        (q.1, .line (BitVec.ofNat 512 (ofBytes q.2.1)) q.2.2)
    else (r.1, .away p pa)

/-- The cause with which one of the words of a line was read that slot `k` needs: the line word first, then the slot's own (R61). -/
def Line.badAt (x : Line) (k : Nat) : Option Nat :=
  ([7, 12 * k / 8, (12 * k + 11) / 8].map fun i => x.bad / 2 ^ (8 * i) % 256).find? (· ≠ 0)

/-- Whether the line word could be read and its parity is right. -/
def Line.sound (x : Line) : Bool := x.bad / 2 ^ 56 % 256 == 0 && lparOk x.data

/-- A snapshot put in place. -/
def Core.putLine (c : Core) (x : Line) : Core := { c with lines := x :: c.lines.filter fun y => y.va != x.va }

/-- A snapshot dropped. -/
def Core.dropLine (c : Core) (pc : Addr) : Core := { c with lines := c.lines.filter fun y => y.va != lineOf pc }

/-- The fault of a transfer to an illegal target (R45). -/
def badTarget (w : Word) : Cause := ⟨0x03, 0, w⟩

/-- The test of a transfer's target (R45): the fault, or the wait for a line that is not at hand, or none when the transfer goes to it.
A line that cannot be read, or whose parity fails twice, faults at the target instead. -/
def State.targetStop (s : State) (w : Word) : State × Option Ctl :=
  if !isSlot w then (s, some (.fault (badTarget w)))
  else
    let pc : Addr := w.setWidth 48
    let test (x : Line) : Option Ctl :=
      if x.sound && (lineIllegal x.data).isNone && !lineBtm x.data (slotIdx pc) then some (.fault (badTarget w)) else none
    match s.me.line? pc with
    | some x => (s, test x)
    | none =>
      if s.thr.lost = some pc then (s, none)
      else
        let r := s.readLine s.cur.lcn pc
        match r.2 with
        | .line v bad =>
          let x : Line := { va := lineOf pc, data := v, bad }
          (if x.sound then r.1.modMe fun c => c.putLine x else r.1, test x)
        | .bad _ => (r.1, none)
        | .away _ _ => (r.1, some (.line pc))

/-- The target at a slot offset from the executing slot, as a value whose bits [63:48] show that it lies outside the
address space (R42). -/
def targetWord (b : Addr) (off : BitVec 40) : Word :=
  let t := target b off
  BitVec.ofInt 64 t

/-- A control transfer of the executing thread (R42, R45): it goes to its target after `k`, which writes the link; or
it faults, or waits for the target's line, and nothing is written. A transfer of the message thread to PC 0 ends its handler (R130). -/
def State.transfer (s : State) (w : Word) (k : State → State) : State :=
  if s.cur.slot = 15 && w = 0 then (k s).jump 0
  else
    let r := s.targetStop w
    match r.2 with
    | some c => r.1.stopWith c
    | none => (k (r.1.modThr fun t => { t with lost := none })).jump (w.setWidth 48)

end Sys2Proof.Machine
end

