-- ==== Sys2Proof/Machine/Control.lean ====
section
/-! DEFINITION. Control and system instructions (R62, R87-R94, R107-R112). -/

namespace Sys2Proof.Machine

/-- What the meaning of an instruction answers. -/
abbrev Result := Host.Outcome State Fault Refusal

/-- An instruction of no engine with its effect. -/
def State.run (s : State) (i : Instr) (k : State → State) : Result := .next (s.issue i.uses k)

/-- NOP (R109). -/
def execNop (gd : Guard) (s : State) : Result := s.run (.nop gd) id

/-! ## Transfers (R87-R90) -/

/-- The slot of the executing instruction. -/
def State.here (s : State) : Addr := s.thr.iss.b

/-- The link of a call: the slot after the transfer. -/
def State.link (s : State) : Word := word (slotpc (lin s.here.toNat + 1))

/-- J (R87). -/
def execJ (gd : Guard) (off : BitVec 40) (s : State) : Result :=
  s.run (.j gd off) fun s => s.transfer (targetWord s.here off) id

/-- JAL (R87). -/
def execJal (gd : Guard) (d : Fin 32) (off : BitVec 40) (s : State) : Result :=
  s.run (.jal gd d off) fun s => s.transfer (targetWord s.here off) fun s => s.wx d s.link

/-- JR (R88). -/
def execJr (gd : Guard) (s1 : Fin 32) (s : State) : Result :=
  s.run (.jr gd s1) fun s => s.transfer (s.rx s1) id

/-- JALR (R88). -/
def execJalr (gd : Guard) (d s1 : Fin 32) (s : State) : Result :=
  s.run (.jalr gd d s1) fun s => s.transfer (s.rx s1) fun s => s.wx d s.link

/-- BR (R89). -/
def execBr (gd : Guard) (g2 : Fin 16) (off : BitVec 40) (s : State) : Result :=
  s.run (.br gd g2 off) fun s => if s.thr.rg g2 then s.transfer (targetWord s.here off) id else s

/-- BR.F (R89). -/
def execBrF (gd : Guard) (g2 : Fin 16) (off : BitVec 40) (s : State) : Result :=
  s.run (.brF gd g2 off) fun s => if s.thr.rg g2 then s else s.transfer (targetWord s.here off) id

/-! ## Hardware loops (R91-R94) -/

/-- The effect of a loop instruction (R92). It is no taken transfer: a level that ends at its slot acts (R93). -/
def State.startLoop (s : State) (lv : Fin 2) (cnt : BitVec 32) (off : BitVec 40) (idx : Option (Fin 32)) (step : Word) :
    State :=
  let t := targetWord s.here off
  if off.msb || (off = 0 && cnt != 0) || t.toNat ≥ 2 ^ 48 then s.takeFault ⟨0x03, 0, t⟩
  else
    let e : Addr := t.setWidth 48
    if cnt = 0 then
      if lastSlot e then s.takeFault ⟨0x03, 0, word (2 ^ 48)⟩
      else
        let off (t : Slot) : Slot := t.setLoop lv { t.loops[lv] with active := false }
        s.modThr fun t => { off t with iss := { t.iss with next := some (nextSlot e) } }
    else
      s.modThr fun t => t.setLoop lv { active := true, count := cnt, init := cnt, start := nextSlot s.here, endpc := e, idx, step }

/-- LOOP (R92). -/
def execLoop (gd : Guard) (lv : Fin 2) (s1 : Fin 32) (off : BitVec 40) (s : State) : Result :=
  s.run (.loop gd lv s1 off) fun s => s.startLoop lv ((s.rx s1).setWidth 32) off none 0

/-- LOOPI (R92). -/
def execLoopi (gd : Guard) (lv : Fin 2) (cnt : BitVec 24) (off : BitVec 40) (s : State) : Result :=
  s.run (.loopi gd lv cnt off) fun s => s.startLoop lv (cnt.zeroExtend 32) off none 0

/-- LOOPX (R92). -/
def execLoopx (gd : Guard) (lv : Fin 2) (d s1 sr : Fin 32) (off : BitVec 40) (s : State) : Result :=
  s.run (.loopx gd lv d s1 sr off) fun s =>
    s.startLoop lv ((s.rx s1).setWidth 32) off (some d) (sext32 ((s.rx sr).setWidth 32))

/-! ## Supervisor instructions (R110, R111) -/

/-- TRAP (R110). -/
def execTrap (gd : Guard) (code : BitVec 16) (s : State) : Result :=
  s.run (.trap gd code) fun s => s.takeFault (mkCause 0x17 code.toNat 0)

/-- BRK (R110). -/
def execBrk (gd : Guard) (code : BitVec 16) (s : State) : Result :=
  s.run (.brk gd code) fun s => s.takeFault (mkCause 0x18 code.toNat 0)

/-- SUPCALL (R111): a release; the packet leaves and the slot parks in supervisor call. -/
def execSupcall (gd : Guard) (code : BitVec 16) (s : State) : Result :=
  s.run (.supcall gd code) fun s => s.notOnMt (.supcall gd code) fun s =>
    match s.orderStop true with
    | some c => s.stopWith c
    | none =>
      let l := s.cur.lcn
      let p := s.packet l s.cur.slot.val 0 false false s.here s.here (mkCause 0x19 code.toNat 0)
      let s := s.modMe fun k => { k with flt := { k.flt with last := some p } }
      (s.sendPacket (s.receiver l 0x19) p).stopWith (.wait .supcall)

/-! ## System registers (R5, R112, R134) -/

/-- The bits of a system register that hold a value; the others read as zero (Table 5.9). -/
def sysMask (n : Nat) : Word :=
  if n = 0 then 0xFFF
  else if n = 4 then 0xFF000
  else if n = 5 then 0xF0000
  else if n = 7 then 0xFFF00
  else if n = 8 || n = 9 then 0xFFFFFFFF
  else if n = 0xC || n = 0xD then 0xFFFFFFFF
  else if n = 0xE then 0xE0001
  else if n = 0xF then 0xF8001
  else if n = 0x10 then 7
  else if n = 0x11 then 0xFFFFFFFF
  else if n = 0x12 then 3
  else if 0x20 ≤ n && n < 0x30 then 0x1FFF
  else if 0x40 ≤ n && n < 0x48 then 0xFFFFFFFF
  else BitVec.allOnes 64

/-- Whether a core's cluster has no working matrix unit (R265), a bank has failed, a containment is pending. -/
def State.corestat (s : State) (l : Nat) : Word :=
  let c := s.core l
  word ((if (s.cluster (clusterOf l)).mabs then 1 else 0) + (if c.health.badBanks.isEmpty then 0 else 2) +
    (if c.health.contain = .live && !c.health.trigger then 0 else 4))

/-- The value of a system register of core `l`. -/
def State.sysRead (s : State) (l n : Nat) : Word :=
  if n = 1 then word (s.core l).level else if n = 0xB then s.corestat l else (s.core l).sys n

/-- Whether `n` bytes at a slice offset lie in the slice and in pages of the context. -/
def Core.regionOk (c : Core) (off n : Nat) : Bool := off + n ≤ 2 ^ 20 && c.owns off n c.ctxid 0

/-- Whether the pages of a region have no owner. -/
def Core.unowned (c : Core) (off n : Nat) : Bool :=
  off + n ≤ 2 ^ 20 && (List.range ((off + n - 1) / 65536 - off / 65536 + 1)).all fun i =>
    !bit (c.sys (0x20 + (off / 65536 + i))) 12

/-- The bytes of the peat stores of a core: 128 KiB, twice that in column 126 (R390). -/
def peatBytes (l : Nat) : Nat := if l % 128 = 126 then 262144 else 131072

/-- Whether a page lies in the region of the peat stores or of the send log of 32 KiB that the registers of core `l` name. -/
def Core.inReserved (c : Core) (l page : Nat) : Bool :=
  (bit (c.sys 0xE) 0 && bits (c.sys 0xE) 19 17 * 2 ≤ page && page < bits (c.sys 0xE) 19 17 * 2 + peatBytes l / 65536) ||
    (bit (c.sys 0xF) 0 && bits (c.sys 0xF) 19 15 / 2 == page)

/-- Whether core `l` accepts a value for a system register (R134). -/
def Core.sysOk (c : Core) (l n : Nat) (w : Word) : Bool :=
  if n = 4 then c.regionOk (bits w 19 12 * 4096) 4096
  else if n = 5 then c.regionOk (bits w 19 16 * 65536) 65536
  else if n = 7 then c.regionOk (bits w 19 8 * 256) 256
  else if n = 0xE then !bit w 0 || c.unowned (bits w 19 17 * 131072) (peatBytes l)
  else if n = 0xF then !bit w 0 || c.unowned (bits w 19 15 * 32768) 32768
  else if 0x20 ≤ n && n < 0x30 then !(bit w 12 && c.inReserved l (n - 0x20))
  else true

/-- A system register written. -/
def Core.sysWrite (c : Core) (n : Nat) (w : Word) : Core :=
  if n = 0xC || n = 0xD then c.setSys n 0
  else c.setSys n (w &&& sysMask n)

/-- RDSYS (R112). -/
def execRdsys (gd : Guard) (d : Fin 32) (n : BitVec 12) (s : State) : Result :=
  s.run (.rdsys gd d n) fun s =>
    match sysReadLevel n.toNat with
    | none => s.takeFault (mkCause 0x1B n.toNat 0)
    | some _ => s.wx d (s.sysRead s.cur.lcn n.toNat)

/-- WRSYS (R112). -/
def execWrsys (gd : Guard) (n : BitVec 12) (s1 : Fin 32) (s : State) : Result :=
  s.run (.wrsys gd n s1) fun s =>
    match sysWriteLevel n.toNat with
    | none => s.takeFault (mkCause 0x1B (n.toNat + 4096) 0)
    | some _ =>
      if s.me.sysOk s.cur.lcn n.toNat (s.rx s1) then s.modMe fun c => c.sysWrite n.toNat (s.rx s1)
      else s.takeFault (mkCause 0x1B (n.toNat + 4096) 0)

/-! ## Time (R107, R108) -/

/-- RDTIME (R107). -/
def execRdtime (gd : Guard) (d : Fin 32) (s : State) : Result :=
  s.run (.rdtime gd d) fun s => s.wx d s.gtb

/-- SLEEPUNTIL at its time (R108): the full/empty bit of the completion word is read at its home. -/
def State.sleepWord (s : State) (a : Word) : State :=
  s.enqueue { va := a, bytes := 8, perm := .rw, op := .mem .readFe, apc := s.here, cont := .sleep false a }

/-- SLEEPUNTIL (R108): the address checks at issue, the wait for the time, then the completion word. -/
def execSleepuntil (gd : Guard) (s1 s2 : Fin 32) (s : State) : Result :=
  s.run (.sleepuntil gd s1 s2) fun s => s.notOnMt (.sleepuntil gd s1 s2) fun s =>
    match (if s2 = 0 then none else addrStop (s.rx s2) 8) with
    | some c => s.takeFault c
    | none =>
      match (if s2 = 0 then none else s.orderStop false) with
      | some c => s.stopWith c
      | none =>
        let t := s.rx s1
        if s.gtb.toNat < t.toNat then 
          (s.modThr fun k => { k with until_ := t, nap := some (if s2 = 0 then none else some (s.rx s2)) }).stopWith (.wait .sleep)
        else if s2 = 0 then s
        else (s.stopWith (.wait .sleep)).sleepWord (s.rx s2)

end Sys2Proof.Machine
end

