-- ==== Sys2Proof/Machine/Scalar.lean ====
section
/-! DEFINITION. Scalar integer instructions, compares and guards (R78-R86). -/

namespace Sys2Proof.Machine

/-! ## The operations of Table 4.1 -/

/-- A shift amount: the low 6 bits, or 5 for the 32-bit form. -/
def shamt (n : Nat) (b : Word) : Nat := b.toNat % n

/-- Quotient and remainder truncated toward zero, with the results of Table 4.1 for a divisor of zero. -/
def sdiv (n : Nat) (a b : Word) : Int := if low n b = 0 then 0 else (slow n a).tdiv (slow n b)
def srem (n : Nat) (a b : Word) : Int := if low n b = 0 then slow n a else (slow n a).tmod (slow n b)
def udiv (n : Nat) (a b : Word) : Nat := if low n b = 0 then 0 else low n a / low n b
def urem (n : Nat) (a b : Word) : Nat := if low n b = 0 then low n a else low n a % low n b

/-- Leading zeros of an `n`-bit number. -/
def clz (n a : Nat) : Nat := if a = 0 then n else n - 1 - Nat.log2 a

/-- Trailing zeros of a number of at most `n` bits. -/
def ctz : Nat → Nat → Nat
  | 0, _ => 0
  | n + 1, a => if a % 2 = 1 then 0 else 1 + ctz n (a / 2)

/-- An `n`-bit result sign-extended to a register (R78). -/
def signed (n : Nat) (r : Int) : Word :=
  if n = 64 then BitVec.ofInt 64 r else (BitVec.ofInt 32 r).signExtend 64

/-- A scalar operation of two operands with its operation on `n` bits (R78). -/
def State.alu (s : State) (i : Instr) (a : Alu) (f : Nat → Word → Word → Int) : Result :=
  s.run i fun s =>
    let n := if a.w then 32 else 64
    s.wx a.d (signed n (f n (s.rx a.s1) (s.src a.src)))

/-- A scalar operation of one operand (R78). -/
def State.un (s : State) (i : Instr) (a : Un) (f : Nat → Nat → Nat) : Result :=
  s.run i fun s =>
    let n := if a.w then 32 else 64
    s.wx a.d (signed n (f n (low n (s.rx a.s1))))

def execAdd (a : Alu) (s : State) : Result := s.alu (.add a) a fun n x y => low n x + low n y
def execSub (a : Alu) (s : State) : Result := s.alu (.sub a) a fun n x y => (low n x : Int) - low n y
def execAnd (a : Alu) (s : State) : Result := s.alu (.and a) a fun _ x y => (x &&& y).toNat
def execOr (a : Alu) (s : State) : Result := s.alu (.or a) a fun _ x y => (x ||| y).toNat
def execXor (a : Alu) (s : State) : Result := s.alu (.xor a) a fun _ x y => (x ^^^ y).toNat
def execSll (a : Alu) (s : State) : Result := s.alu (.sll a) a fun n x y => low n x * 2 ^ shamt n y
def execSrl (a : Alu) (s : State) : Result := s.alu (.srl a) a fun n x y => low n x / 2 ^ shamt n y
def execSra (a : Alu) (s : State) : Result := s.alu (.sra a) a fun n x y => slow n x / 2 ^ shamt n y
def execSlt (a : Alu) (s : State) : Result := s.alu (.slt a) a fun n x y => if slow n x < slow n y then 1 else 0
def execSltu (a : Alu) (s : State) : Result := s.alu (.sltu a) a fun n x y => if low n x < low n y then 1 else 0
def execMul (a : Alu) (s : State) : Result := s.alu (.mul a) a fun n x y => slow n x * slow n y
def execMulh (a : Alu) (s : State) : Result := s.alu (.mulh a) a fun n x y => slow n x * slow n y / 2 ^ 64
def execMulhm (a : Alu) (s : State) : Result := s.alu (.mulhm a) a fun n x y => slow n x * low n y / 2 ^ 64
def execMulhu (a : Alu) (s : State) : Result := s.alu (.mulhu a) a fun n x y => (low n x * low n y / 2 ^ 64 : Nat)
def execDiv (a : Alu) (s : State) : Result := s.alu (.div a) a sdiv
def execDivu (a : Alu) (s : State) : Result := s.alu (.divu a) a fun n x y => udiv n x y
def execRem (a : Alu) (s : State) : Result := s.alu (.rem a) a srem
def execRemu (a : Alu) (s : State) : Result := s.alu (.remu a) a fun n x y => urem n x y
def execMin (a : Alu) (s : State) : Result := s.alu (.min a) a fun n x y => min (slow n x) (slow n y)
def execMax (a : Alu) (s : State) : Result := s.alu (.max a) a fun n x y => max (slow n x) (slow n y)
def execMinu (a : Alu) (s : State) : Result := s.alu (.minu a) a fun n x y => (min (low n x) (low n y) : Nat)
def execMaxu (a : Alu) (s : State) : Result := s.alu (.maxu a) a fun n x y => (max (low n x) (low n y) : Nat)
def execClz (a : Un) (s : State) : Result := s.un (.clz a) a clz
def execCtz (a : Un) (s : State) : Result := s.un (.ctz a) a ctz
def execCpop (a : Un) (s : State) : Result := s.un (.cpop a) a ones

/-- LI (R81). -/
def execLi (gd : Guard) (d : Fin 32) (imm : Word) (s : State) : Result :=
  s.run (.li gd d imm) fun s => s.wx d imm

/-- ADDPC (R82). -/
def execAddpc (gd : Guard) (d : Fin 32) (off : BitVec 32) (s : State) : Result :=
  s.run (.addpc gd d off) fun s =>
    let t := targetWord s.here (off.signExtend 40)
    s.wx d (if t.toNat < 2 ^ 48 then t else BitVec.allOnes 64)

/-! ## Compares and guards (R83-R86) -/

/-- CMP (R83). -/
def execCmp (gd : Guard) (w : Bool) (c : Cond) (d : Fin 16) (s1 : Fin 32) (src : Src) (s : State) : Result :=
  s.run (.cmp gd w c d s1 src) fun s => s.wg d (Cond.holds c (if w then 32 else 64) (s.rx s1) (s.src src))

/-- TST (R84). -/
def execTst (gd : Guard) (z : Bool) (d : Fin 16) (s1 : Fin 32) (src : Src) (s : State) : Result :=
  s.run (.tst gd z d s1 src) fun s => s.wg d ((s.rx s1 &&& s.src src != 0) != z)

/-- GLOG (R85). -/
def execGlog (gd : Guard) (d a b : Fin 16) (tbl : BitVec 4) (s : State) : Result :=
  s.run (.glog gd d a b tbl) fun s =>
    s.wg d (tbl.getLsbD ((if s.thr.rg a then 2 else 0) + if s.thr.rg b then 1 else 0))

/-- The guards as a word, g0 being true. -/
def Slot.guards (t : Slot) : Nat := (List.finRange 16).foldl (fun n g => n + if t.rg g then 2 ^ g.val else 0) 0

/-- GRD (R86). -/
def execGrd (gd : Guard) (d : Fin 32) (s : State) : Result := s.run (.grd gd d) fun s => s.wx d (word s.thr.guards)

/-- GWR (R86). -/
def execGwr (gd : Guard) (s1 : Fin 32) (mask : BitVec 16) (s : State) : Result :=
  s.run (.gwr gd s1 mask) fun s =>
    let v := s.rx s1
    s.modThr fun t => (maskGuards mask).foldl (fun t g => t.setG g (v.getLsbD g.val)) t

end Sys2Proof.Machine
end

