-- ==== Sys2Proof/Machine/LoadStore.lean ====
section
/-! DEFINITION. Scalar memory instructions (R213-R226): loads, stores, the synchronising family, AMO, fences. -/

namespace Sys2Proof

/-- The bytes of an access. -/
def MemForm.n (a : MemForm) : Nat := 2 ^ a.size.val

end Sys2Proof

namespace Sys2Proof.Machine

/-- The address of a memory instruction (R213). -/
def State.memVa (s : State) (a : MemForm) : Word := s.rx a.base + s.src a.off

/-- An access of the executing thread: the address checks, the ordering of its class, then into the path; `k` is what the
thread does besides. -/
def State.access (s : State) (va : Word) (n : Nat) (perm : Perm) (op : PathOp) (cont : Cont) (release : Bool)
    (posted : Bool) (k : State → State) : State :=
  match addrStop va n with
  | some c => s.takeFault c
  | none =>
    match s.orderStop release with
    | some c => s.stopWith c
    | none => (k s).enqueue { va, bytes := n, perm, op, apc := s.here, cont, posted }

/-- A read that a handler may not send to another home (R220). -/
def State.localOnMt (s : State) (va : Word) (perm : Perm) (sup : Sup) (k : State → State) : State :=
  let r := s.mtRemote va perm sup
  if r.2 then r.1.takeFault (mkCause 0x1A 2 0) else k r.1

/-- A result on its way to x[d]. -/
def State.awaitX (s : State) (d : Fin 32) : State := s.modThr fun t => t.markX .path d

/-- One more acquire whose result has not returned (R230). -/
def State.acquire (s : State) (b : Bool) : State := if b then s.modThr fun t => { t with acq := t.acq + 1 } else s

/-- A load (R218). -/
def State.load (s : State) (i : Instr) (a : MemForm) (signed acq : Bool) : Result :=
  s.run i fun s =>
    let va := s.memVa a
    let n := a.n
    match addrStop va n with
    | some c => s.takeFault c
    | none =>
      s.localOnMt va .r (.plain n) fun s =>
        s.access va n .r (.mem (.load n)) (.load a.r n signed acq) false false fun s => (s.awaitX a.r).acquire acq

/-- A store (R218); of the message thread to another home a posted write (R220). -/
def State.storeTo (s : State) (i : Instr) (a : MemForm) (release : Bool) : Result :=
  s.run i fun s =>
    let n := a.n
    s.access (s.memVa a) n .w (.mem (.store (toBytes n (s.rx a.r).toNat))) .done release (s.cur.slot == 15) id

/-- LD (R218). -/
def execLd (a : MemForm) (s : State) : Result := s.load (.ld a) a true false
/-- LDU (R218). -/
def execLdu (a : MemForm) (s : State) : Result := s.load (.ldu a) a false false
/-- LD.ACQ (R218, R230). -/
def execLdAcq (a : MemForm) (s : State) : Result := s.load (.ldAcq a) a true true
/-- ST (R218). -/
def execSt (a : MemForm) (s : State) : Result := s.storeTo (.st a) a false
/-- ST.REL (R218, R230). -/
def execStRel (a : MemForm) (s : State) : Result := s.storeTo (.stRel a) a true

/-! ## The synchronising family (R219-R222) -/

/-- A synchronising access that parks its thread until the home has served it. -/
def State.syncWait (s : State) (i : Instr) (a : MemForm) (op : State → MemOp) (d : Option (Fin 32)) (release : Bool)
    (cont : Word → Cont) (extra : State → Option Cause) : Result :=
  s.run i fun s =>
    let va := s.memVa a
    match addrStop va 8 with
    | some c => s.takeFault c
    | none => s.notOnMt i fun s =>
      match extra s with
      | some c => s.takeFault c
      | none => s.access va 8 .rw (.mem (op s)) (cont va) release false fun s =>
        let s := s.stopWith (.wait .home)
        match d with
        | some r => s.awaitX r
        | none => s

/-- LDW (R221). -/
def execLdw (a : MemForm) (s : State) : Result :=
  s.syncWait (.ldw a) a (fun _ => .ldw) (some a.r) false (fun _ => .sync (some a.r)) fun _ => none

/-- LDT (R221). -/
def execLdt (a : MemForm) (s : State) : Result :=
  s.syncWait (.ldt a) a (fun _ => .ldt) (some a.r) false (fun _ => .sync (some a.r)) fun _ => none

/-- STW (R221). -/
def execStw (a : MemForm) (s : State) : Result :=
  s.syncWait (.stw a) a (fun s => .stw (s.rx a.r)) none true (fun _ => .sync none) fun _ => none

/-- LRQ (R221, R222): a thread holds at most one reservation. -/
def execLrq (a : MemForm) (s : State) : Result :=
  s.syncWait (.lrq a) a (fun _ => .lrq) (some a.r) false (fun _ => .lrq a.r) fun s =>
    if s.thr.held.isSome then some (mkCause 0x0F 3 (s.memVa a)) else none

/-- STF (R221); of the message thread to another home a posted write (R220). -/
def execStf (a : MemForm) (s : State) : Result :=
  s.run (.stf a) fun s =>
    s.access (s.memVa a) 8 .rw (.mem (.stf (s.rx a.r))) .done true (s.cur.slot == 15) id

/-- Whether the executing thread does not hold the word of an address (R221, R222); an address that does not translate fails in the
path. -/
def State.notHeld (s : State) (va : Word) : State × Bool :=
  match s.thr.held with
  | none => (s, true)
  | some h =>
    let r := s.trNow va .rw .sync
    match r.2 with
    | .inl (p, pa) => (r.1, h != word (p * 2 ^ 48 + pa))
    | .inr _ => (r.1, false)

/-- A synchronising access by which the held reservation ends (R222). -/
def State.endReservation (s : State) (i : Instr) (a : MemForm) (op : State → MemOp) : Result :=
  s.run i fun s =>
    let va := s.memVa a
    match addrStop va 8 with
    | some c => s.takeFault c
    | none => s.notOnMt i fun s =>
      let z := s.notHeld va
      if z.2 then z.1.takeFault (mkCause 0x0F 2 va)
      else z.1.access va 8 .rw (.mem (op s)) .done true false fun s => s.modThr fun t => { t with held := none }

/-- SCQ (R221, R222). -/
def execScq (a : MemForm) (s : State) : Result := s.endReservation (.scq a) a fun s => .scq (s.rx a.r)
/-- RELQ (R221, R222). -/
def execRelq (a : MemForm) (s : State) : Result := s.endReservation (.relq a) a fun _ => .relq

/-! ## AMO (R224) -/

/-- AMO (R224, R225). -/
def execAmo (gd : Guard) (w : Bool) (op : AmoOp) (aq rl : Bool) (d s1 : Fin 32) (src : Src) (s3 : Fin 32) (s : State) :
    Result :=
  s.run (.amo gd w op aq rl d s1 src s3) fun s =>
    let va := s.rx s1
    let n := if w then 4 else 8
    match addrStop va n with
    | some c => s.takeFault c
    | none =>
      s.localOnMt va .rw .amo fun s =>
        s.access va n .rw (.mem (.amo w op (s.src src) (if op = .cas then s.rx s3 else 0))) (.amo d w aq) rl false
          fun s => (s.awaitX d).acquire aq

/-! ## Fences (R226) -/

/-- FENCE (R226). -/
def execFence (gd : Guard) (s : State) : Result :=
  s.run (.fence gd) fun s =>
    match s.orderStop true with
    | some c => s.stopWith c
    | none => s

/-- FENCE.ENG (R226). -/
def execFenceEng (gd : Guard) (s : State) : Result :=
  s.run (.fenceEng gd) fun s =>
    match s.orderStop true with
    | some c => s.stopWith c
    | none => if s.thr.engOut = 0 then s else s.stopWith (.retry .fence)

/-- FENCE.I (R46, R226). -/
def execFenceI (gd : Guard) (s : State) : Result :=
  s.run (.fenceI gd) fun s =>
    match s.orderStop true with
    | some c => s.stopWith c
    | none => s.modMe fun c => { c with lines := [] }

end Sys2Proof.Machine
end

