-- ==== Sys2Proof/Machine/Tasks.lean ====
section
/-! DEFINITION. Task instructions (R95-R106): FORK, SPAWN, JOINDEC, the suspension points, identities, events. -/

namespace Sys2Proof.Machine

/-! ## FORK and SPAWN (R95-R97) -/

/-- The record that FORK and SPAWN write (R96). -/
def State.childRecord (s : State) (ent jw : Word) (dom : Fin 8) (pri : Fin 4) : List Byte :=
  bytesOf [ent, s.rx 8, s.rx 10, s.rx 11, s.rx 12, s.rx 13, jw, Ctrl.fresh s.me.ctxid dom.val pri.val]

/-- FORK and SPAWN: `dst` is the register with the target's packed CCN (R96). -/
def State.fork (s : State) (i : Instr) (s1 : Fin 32) (dst : Option (Fin 32)) (jn : Fin 32) (dom : Fin 8) (pri : Fin 4)
    (off : BitVec 40) : Result :=
  s.run i fun s => s.notOnMt i fun s =>
    let ra := s.rx s1
    let jw := s.rx jn
    let ent := targetWord s.here off
    if dom.val > 4 || ra.toNat % 64 ≠ 0 then s.takeFault ⟨0x11, 0, ra⟩
    else if jw.toNat % 8 ≠ 0 then s.takeFault ⟨0x15, 0, jw⟩
    else
      let r := s.targetStop ent
      match r.2 with
      | some c => r.1.stopWith c
      | none =>
        let s := r.1.modThr fun t => { t with lost := none }
        match (match dst with
            | none => some s.cur.lcn
            | some t => s.target s.me.ctxid (s.rx t)) with
        | none =>
          let w := s.rx (dst.getD 0)
          s.takeFault (mkCause 0x16 (w.toNat % 65536) w)
        | some dest =>
          s.access ra 64 .w (.mem (.store (s.childRecord ent jw dom pri)))
            (.forked ra dest (Ctrl.fresh s.me.ctxid dom.val pri.val)) true false fun s => s.stopWith (.wait .response)

/-- FORK (R96). -/
def execFork (gd : Guard) (s1 jn : Fin 32) (dom : Fin 8) (pri : Fin 4) (off : BitVec 40) (s : State) : Result :=
  s.fork (.fork gd s1 jn dom pri off) s1 none jn dom pri off

/-- SPAWN (R96). -/
def execSpawn (gd : Guard) (s1 t jn : Fin 32) (dom : Fin 8) (pri : Fin 4) (off : BitVec 40) (s : State) : Result :=
  s.fork (.spawn gd s1 t jn dom pri off) s1 (some t) jn dom pri off

/-! ## JOINDEC (R98) -/

/-- JOINDEC (R98). -/
def execJoindec (gd : Guard) (s1 : Fin 32) (s : State) : Result :=
  s.run (.joindec gd s1) fun s =>
    let va := s.rx s1
    if va.toNat % 8 ≠ 0 then s.takeFault ⟨0x15, 0, va⟩
    else
      s.localOnMt va .rw .sync fun s =>
        s.access va 8 .rw .joinDec (.joinDec false) true false fun s => s.stopWith (.wait .response)

/-! ## Suspension points (R30, R99-R101) -/

/-- Whether a slot has live state that a suspension forbids (R30). -/
def Slot.live (t : Slot) : Bool :=
  t.binds.toList.any Option.isSome || t.loops.toList.any Loop.active || t.held.isSome

/-- A suspension point (R30): results drain, prior accesses are performed, no live state is left; then `k`. -/
def State.suspension (s : State) (i : Instr) (k : State → State) : Result :=
  s.run i fun s => s.notOnMt i fun s =>
    if !s.me.quiet s.cur.slot then s.stopWith (.retry .marker)
    else
      match s.orderStop true with
      | some c => s.stopWith c
      | none => if s.thr.live then s.takeFault ⟨0x14, 0, 0⟩ else k s

/-- The write-back of the running record (R30): PC, FP, A0-A3 and the control word's transition, or the control word alone
for EXIT. -/
def State.writeBack (s : State) (k : Susp) (armed : Bool) : State :=
  match s.thr.record with
  | none => s.stopWith .stop
  | some ra =>
    let t := s.thr
    (s.stopWith (.wait .response)).enqueue
      { va := ra, bytes := 64, perm := .rw, apc := t.iss.b, cont := .backed k armed,
        op := .ctl (.back (nextSlot t.iss.b) [t.rx 8, t.rx 10, t.rx 11, t.rx 12, t.rx 13] k armed) }

/-- SUSPEND (R99). -/
def execSuspend (gd : Guard) (s : State) : Result := s.suspension (.suspend gd) fun s => s.writeBack .suspend false

/-- YIELD (R99). -/
def execYield (gd : Guard) (s : State) : Result := s.suspension (.yield gd) fun s => s.writeBack .yield false

/-- SUSPEND.J (R37, R99): the arming at the join word's home comes first. -/
def execSuspendJ (gd : Guard) (s1 : Fin 32) (s : State) : Result :=
  s.suspension (.suspendJ gd s1) fun s =>
    let jw := s.rx s1
    if jw.toNat % 8 ≠ 0 then s.takeFault ⟨0x15, 0, jw⟩
    else
      s.access jw 8 .rw (.joinArm (s.thr.record.getD 0)) (.armed (.suspendJ 0)) true false fun s => s.stopWith (.wait .response)

/-- AWAIT (R99): the registration at the word's home comes first. -/
def execAwait (gd : Guard) (s1 : Fin 32) (s : State) : Result :=
  s.suspension (.await gd s1) fun s =>
    s.access (s.rx s1) 8 .rw (.awaitReg (s.thr.record.getD 0)) (.armed (.await 0)) true false fun s =>
      s.stopWith (.wait .response)

/-- EXIT (R38, R99): the record's JOIN field tells whether a join word is decremented first. -/
def execExit (gd : Guard) (s : State) : Result :=
  s.suspension (.exit gd) fun s =>
    match s.thr.record with
    | none => s.stopWith .stop
    | some ra =>
      (s.stopWith (.wait .response)).enqueue
        { va := ra + 0x30, bytes := 8, perm := .r, op := .mem (.load 8), apc := s.here, cont := .exitJoin }

/-! ## Steal limit and identities (R102, R103) -/

/-- STEALDOM (R102). -/
def execStealdom (gd : Guard) (src : Src) (s : State) : Result :=
  s.run (.stealdom gd src) fun s => s.modMe fun c => c.setSys 3 (s.src src)

/-- The packed CCN of a core in its context. -/
def State.ccn (s : State) (l : Nat) : Nat := ((s.ctx (s.core l).ctxid).ccnOf l).getD 0

/-- GETID (R103). -/
def execGetid (gd : Guard) (d : Fin 32) (sel : Fin 9) (s : State) : Result :=
  s.run (.getid gd d sel) fun s =>
    let l := s.cur.lcn
    let v := match sel.val with
      | 0 => l
      | 1 => s.ccn l
      | 2 => s.cur.slot.val
      | 3 => dieOf l
      | 4 => clusterOf l
      | 5 => memberOf l
      | 6 => s.me.ctxid
      | 7 => s.panelId % 64
      | _ => s.physOf l
    s.wx d (word v)

/-! ## Events (R104, R105) -/

/-- The end of a WAITEV (R104). -/
def State.waitDone (s : State) (d : Fin 32) (m : BitVec 16) : State :=
  let hit := s.thr.ev &&& m
  (s.modThr fun t => { t with ev := t.ev &&& ~~~m, watch := none }).wx d (hit.zeroExtend 64)

/-- The test of a WAITEV, which is one step with its park (R104). -/
def State.waitTest (s : State) (d : Fin 32) (m : BitVec 16) : State :=
  if s.thr.ev &&& m ≠ 0 then s.waitDone d m
  else (s.modThr fun t => { t with evMask := m }).stopWith (.retry .events)

/-- WAITEV (R104). DESIGN CHOICE: an address that is not a multiple of 8 watches the word that holds it (log 135). -/
def execWaitev (gd : Guard) (d : Fin 32) (src : Src) (watch : Option (Fin 32)) (s : State) : Result :=
  s.run (.waitev gd d src watch) fun s =>
    let m : BitVec 16 := (s.src src).setWidth 16
    if m = 0 then s.wx d 0
    else
      match watch with
      | none => s.waitTest d m
      | some r =>
        let va := s.rx r
        let q := s.trNow va .r (.plain 8)
        match q.2 with
        | .inr c => s.takeFault c
        | .inl (p, pa) =>
          let s := q.1
          if !(p == s.panelId && spaceOf pa != 15 && homeOf pa == s.cur.lcn) then s.takeFault ⟨0x1E, 0, va⟩
          else
            let a := if spaceOf pa = 3 then
                (match s.window pa 1 s.me.ctxid s.me.level false with
                 | .inl a => a
                 | .inr _ => pa)
              else pa
            (s.modThr fun t => { t with watch := some (wordAt a) }).waitTest d m

/-- SIGEV (R105): a release; a posted message, or the event bits of a slot of this core. -/
def execSigev (gd : Guard) (s1 s2 : Fin 32) (s : State) : Result :=
  s.run (.sigev gd s1 s2) fun s =>
    let w := s.rx s1
    let k := bits w 19 16
    match (if w.toNat ≥ 2 ^ 20 || k = 15 then none else s.target s.me.ctxid (word (w.toNat % 65536))) with
    | none => s.takeFault (mkCause 0x16 (w.toNat % 65536) w)
    | some l =>
      match s.orderStop true with
      | some c => s.stopWith c
      | none =>
        let m : BitVec 16 := (s.rx s2).setWidth 16
        if l = s.cur.lcn then s.signal l k m
        else if (s.ni s.cur.lcn).posted.length ≥ postedMax then s.stopWith (.retry .posted)
        else s.posted s.cur.lcn s.cur.slot.val l 0x11 s.me.ctxid 8 (.sigev k m)

end Sys2Proof.Machine
end

