-- ==== Sys2Proof/Machine/Causeway.lean ====
section
/-! DEFINITION. Causeway barriers (R386-R389): the barrier instructions, the wires, the catch-up of a restored register. -/

namespace Sys2Proof.Machine

/-! ## Rectangle words (Table 15.7) -/

def brCol0 (w : BitVec 32) : Nat := w.toNat % 256
def brRow0 (w : BitVec 32) : Nat := w.toNat / 256 % 256
def brRows (w : BitVec 32) : Nat := w.toNat / 65536 % 256
def brCols (w : BitVec 32) : Nat := w.toNat / 2 ^ 24

/-- Whether a rectangle lies within one allocation rectangle of a placement. -/
def Ctx.holdsRect (c : Ctx) (w : BitVec 32) : Bool :=
  c.place.any fun r => r.has (brRow0 w) (brCol0 w) && r.has (brRow0 w + brRows w) (brCol0 w + brCols w)

/-- Whether a packed CCN lies in a rectangle. -/
def inRect (w : BitVec 32) (ccn : Nat) : Bool :=
  brRow0 w ≤ ccn / 256 && ccn / 256 ≤ brRow0 w + brRows w && brCol0 w ≤ ccn % 256 && ccn % 256 ≤ brCol0 w + brCols w

/-! ## The wires (R386) -/

/-- The present cores of row `r` of a rectangle, from west to east. -/
def State.rectRow (s : State) (ctx : Nat) (w : BitVec 32) (r : Nat) : List Nat :=
  (List.range (brCols w + 1)).filterMap fun j =>
    match (s.ctx ctx).lcnOf (r * 256 + brCol0 w + j) with
    | some l => if s.present l then some l else none
    | none => none

def State.bar (s : State) (l : Nat) (k : Fin 4) : Bar := (s.core l).bars[k]

def State.modBar (s : State) (l : Nat) (k : Fin 4) (f : Bar → Bar) : State :=
  s.modCore l fun c => { c with bars := c.bars.set k (f c.bars[k]) }

/-- Whether a core is a member of channel `k`. -/
def State.barMember (s : State) (k : Fin 4) (l : Nat) : Bool := (s.bar l k).v && (s.bar l k).memb

/-- The members of a row, from west to east; absent cores and routers that are no members are left out. -/
def State.barRow (s : State) (ctx : Nat) (k : Fin 4) (w : BitVec 32) (r : Nat) : List Nat :=
  (s.rectRow ctx w r).filter (s.barMember k)

/-- The westernmost member of each row that has members, from north to south, with the row. -/
def State.barHeads (s : State) (ctx : Nat) (k : Fin 4) (w : BitVec 32) : List (Nat × Nat) :=
  (List.range (brRows w + 1)).filterMap fun i => ((s.barRow ctx k w (brRow0 w + i)).head?).map fun l => (brRow0 w + i, l)

/-- The element after `a` in a list. -/
def after (a : Nat) : List Nat → Option Nat
  | x :: y :: t => if x = a then some y else after a (y :: t)
  | _ => none

/-- What a member's router knows of its place: the members to its west and east; if it is the head of its row, the heads
of the rows above and below. -/
structure BarPlace where
  west  : Option Nat
  east  : Option Nat
  head  : Bool
  above : Option Nat
  below : Option Nat
  deriving DecidableEq, Repr

def State.barPlace (s : State) (l : Nat) (k : Fin 4) : BarPlace :=
  let ctx := (s.core l).ctxid
  let w := (s.bar l k).brect
  let row := s.barRow ctx k w (s.ccn l / 256)
  let heads := (s.barHeads ctx k w).map Prod.snd
  { west := after l row.reverse, east := after l row, head := row.head? == some l, above := after l heads.reverse,
    below := after l heads }

/-- Whether everything east and south of a member's router has arrived, itself included: withdrawn members count as
arrived, a signal only under the router's own sense and rectangle. -/
def State.barReady (s : State) (l : Nat) (k : Fin 4) : Bool :=
  let b := s.bar l k
  let p := s.barPlace l k
  s.barMember k l && !s.rlyf.contains (s.physOf l) && (b.wd || b.ls != b.g) &&
    (p.east.isNone || b.east == some (b.g, b.brect)) && (!p.head || p.below.isNone || b.south == some (b.g, b.brect))

/-- CAUSEWAY_SIGNAL (R386): the combined signal passes west along the row, or north from the row's head. -/
def execCausewaySignal (core ch : Nat) (s : State) : Result :=
  let k := Fin.ofNat 4 ch
  let b := s.bar core k
  let p := s.barPlace core k
  .next (if !s.barReady core k then s
    else match p.west with
      | some w => s.modBar w k fun x => { x with east := some (b.g, b.brect) }
      | none =>
        match p.above with
        | some n => s.modBar n k fun x => { x with south := some (b.g, b.brect) }
        | none => s)

/-- A release at a member's router (R386, R389): G, RC, PH; then it goes on along the reverse paths. -/
def State.barRelease (s : State) (l : Nat) (k : Fin 4) (g : Bool) : State :=
  let p := s.barPlace l k
  let s := s.modBar l k fun b => { b with g, rc := b.rc + 1, ph := b.ph + 1, east := none, south := none, rel := none }
  let go (s : State) (n : Option Nat) : State :=
    match n with
    | some n => s.modBar n k fun b => { b with rel := some g }
    | none => s
  go (go s p.east) (if p.head then p.below else none)

/-- The routers in a rectangle whose cores are no members see the release as it passes. -/
def State.barPassBy (s : State) (ctx : Nat) (k : Fin 4) (w : BitVec 32) (g : Bool) : State :=
  ((List.range (brRows w + 1)).flatMap fun i => (s.rectRow ctx w (brRow0 w + i)).filter fun l => !s.barMember k l).foldl
    (fun s l => s.modBar l k fun b => { b with g, rc := b.rc + 1 }) s

/-- CAUSEWAY_RELEASE (R386): the corner finds every member arrived. -/
def execCausewayRelease (core ch : Nat) (s : State) : Result :=
  let k := Fin.ofNat 4 ch
  let b := s.bar core k
  let p := s.barPlace core k
  .next (if s.barReady core k && p.west.isNone && p.above.isNone then
      (s.barPassBy (s.core core).ctxid k b.brect (!b.g)).barRelease core k (!b.g)
    else s)

/-- CAUSEWAY_RELEASE_PASS (R389): a release passes the router of a member. -/
def execCausewayReleasePass (core ch : Nat) (s : State) : Result :=
  let k := Fin.ofNat 4 ch
  .next (match (s.bar core k).rel with
    | some g => s.barRelease core k g
    | none => s)

/-! ## The instructions (R388) -/

/-- A fault 0x2F with its reason. -/
def bad2F (r : Nat) : Cause := mkCause 0x2F r 0

/-- The routers on the paths of a rectangle (R387): along each row between its outermost members' columns, and from the head
of each row to that of the row above. -/
def State.barPaths (s : State) (ctx : Nat) (w : BitVec 32) : List Nat :=
  (List.range (brRows w + 1)).flatMap fun i =>
    let cols := (s.rectRow ctx w (brRow0 w + i)).map s.rmapOf
    let below := (s.rectRow ctx w (brRow0 w + i + 1)).map s.rmapOf
    match s.rectRow ctx w (brRow0 w + i) with
    | [] => []
    | l :: _ =>
      let h := cols.headD 0
      let n := if i < brRows w then below.headD h else h
      (span (min h n) (max n (cols.foldl max h))).map (physAt (lcnRow l))

/-- The corner core's release count. -/
def State.cornerRc (s : State) (ctx : Nat) (k : Fin 4) (w : BitVec 32) (own : BitVec 32) : BitVec 32 :=
  match (s.ctx ctx).lcnOf (brRow0 w * 256 + brCol0 w) with
  | some l => if s.present l then (s.bar l k).rc else own
  | none => own

/-- BARSET (R388, R389). -/
def execBarset (gd : Guard) (d : Fin 4) (s1 : Fin 32) (s : State) : Result :=
  s.run (.barset gd d s1) fun s =>
    let l := s.cur.lcn
    let ctx := s.me.ctxid
    let x := s.rx s1
    let w : BitVec 32 := x.setWidth 32
    if s1 = 0 then s.modBar l d fun b => { b with v := false, memb := false, cu := 0, arc := false }
    else if bits x 63 32 ≠ 0 || !(s.ctx ctx).holdsRect w || !inRect w (s.ccn l) then s.takeFault (bad2F 1)
    else if (s.barPaths ctx w).any s.rlyf.contains then s.takeFault (bad2F 4)
    else
      let rc := s.cornerRc ctx d w (s.bar l d).rc
      s.modBar l d fun b =>
        { b with brect := w, v := true, wd := false, memb := true, ls := b.g, ph := rc, cu := 0, arc := false }

/-- BARARR (R388, R389): a release; a second arrival waits for the release of the first. -/
def execBararr (gd : Guard) (s1 : Fin 4) (s : State) : Result :=
  s.run (.bararr gd s1) fun s =>
    let l := s.cur.lcn
    let b := s.bar l s1
    if !b.v then s.takeFault (bad2F 2)
    else match s.orderStop true with
      | some c => s.stopWith c
      | none =>
        if b.wd then s
        else if b.cu ≠ 0 then
          let b' := if b.arc then { b with cu := b.cu - 1, ph := b.ph + 1 } else b
          s.modBar l s1 fun _ => if b'.cu = 0 then { b' with ls := !b'.ls, arc := false } else { b' with arc := true }
        else if b.ls ≠ b.g then s.stopWith (.retry .barrier)
        else s.modBar l s1 fun b => { b with ls := !b.ls }

/-- The end of a BARWAIT. -/
def State.barDone (s : State) (d : Option (Fin 16)) (hit : Bool) : State :=
  let s := s.modThr fun t => { t with barw := none }
  match d with
  | some d => s.wg d hit
  | none => s

/-- The time-out of a BARWAIT: false in its guard, or the fault 0x2A of BARWAIT.F. -/
def State.barTimeout (s : State) (k : Fin 4) (d : Option (Fin 16)) : State :=
  match d with
  | some _ => s.barDone d false
  | none => (s.barDone none false).takeFault (mkCause 0x2A k.val 0)

/-- Whether the time-out of a parked BARWAIT has elapsed. -/
def State.barLate (s : State) : Bool := s.thr.barAt.any fun n => n ≤ s.time

/-- BARWAIT and BARWAIT.F (R388, R389). -/
def State.barwait (s : State) (i : Instr) (d : Option (Fin 16)) (k : Fin 4) (cycles : BitVec 32) : Result :=
  s.run i fun s =>
    let l := s.cur.lcn
    let b := s.bar l k
    if !b.v then s.takeFault (bad2F 2)
    else if b.cu ≠ 0 then
      (if b.arc then s.modBar l k fun b => { b with arc := false, cu := b.cu - 1, ph := b.ph + 1 } else s).barDone d true
    else if b.wd || b.ls = b.g then s.barDone d true
    else if s.thr.barw.isSome then
      (if s.barLate then s.barTimeout k d else s.stopWith (.retry .barrier))
    else
      let at_ := if cycles = 0 then none else some (s.time + cycles.toNat)
      (s.modThr fun t => { t with barw := some (k, d), barAt := at_ }).stopWith (.retry .barrier)

def execBarwait (gd : Guard) (d : Fin 16) (s1 : Fin 4) (cycles : BitVec 32) (s : State) : Result :=
  s.barwait (.barwait gd d s1 cycles) (some d) s1 cycles

def execBarwaitF (gd : Guard) (s1 : Fin 4) (cycles : BitVec 32) (s : State) : Result :=
  s.barwait (.barwaitF gd s1 cycles) none s1 cycles

/-- BARWD (R388). -/
def execBarwd (gd : Guard) (s1 : Fin 4) (s : State) : Result :=
  s.run (.barwd gd s1) fun s =>
    if !(s.bar s.cur.lcn s1).v then s.takeFault (bad2F 2) else s.modBar s.cur.lcn s1 fun b => { b with wd := true }

/-- BARWAIT_TIMEOUT (R388): the time-out of a parked BARWAIT expires before the release; a frozen core's waits end at its
resume. -/
def execBarwaitTimeout (core slot : Nat) (s : State) : Result :=
  let k := Fin.ofNat 16 slot
  let s := s.onSlot core k
  let t := s.thr
  .next (match t.barw with
    | some (b, d) =>
      if t.state = .parked && s.barLate && (s.bar core b).ls ≠ (s.bar core b).g && !(s.core core).flt.frozen then
        (match d with
         | some _ => (s.barTimeout b d).completed core k
         | none => s.barTimeout b d)
      else s
    | none => s)

/-! ## Registers of a restored core (R355, R389) -/

/-- A barrier register as a restore puts it back, from the release sense and count of its rectangle's corner. -/
def Bar.restore (b : Bar) (fits : Bool) (g : Bool) (rc : BitVec 32) : Bar :=
  let arrived := b.ls != b.g
  let b := { b with east := none, south := none, rel := none, g, rc }
  if !b.v then b
  else if !fits then { b with v := false, memb := false }
  else if b.ph = rc then { b with ls := if arrived then !g else g }
  else { b with cu := rc - b.ph, arc := arrived, ls := g }

end Sys2Proof.Machine
end

