-- ==== Sys2Proof/Machine/Reed.lean ====
section
/-! DEFINITION. The Reed array's graphs (R196-R201, R206): images, their checks, and what a graph computes in each lane. -/

namespace Sys2Proof.Machine

/-! ## Images (Table 7.8) -/

/-- `n` bytes of an image at an offset, as a number. -/
def imgField (img : List Byte) (off n : Nat) : Nat := ofBytes ((img.drop off).take n)

/-- One bit of the CRC-32 of IEEE 802.3, reflected. -/
def crcBit (c : BitVec 32) : BitVec 32 := if c.getLsbD 0 then (c >>> 1) ^^^ 0xEDB88320#32 else c >>> 1

def crcByte (c : BitVec 32) (b : Byte) : BitVec 32 :=
  let c := c ^^^ b.zeroExtend 32
  crcBit (crcBit (crcBit (crcBit (crcBit (crcBit (crcBit (crcBit c)))))))

/-- The CRC-32 of some bytes. -/
def crc32 (bs : List Byte) : BitVec 32 := ~~~ (bs.foldl crcByte (BitVec.allOnes 32))

/-- Lane width of WIDTH. -/
def laneWidth (w : Nat) : Nat := if w = 0 then 32 else if w = 1 then 16 else 8

/-- The graph of an image. -/
def Graph.ofImage (img : List Byte) : Graph :=
  let h (o : Nat) : BitVec 16 := BitVec.ofNat 16 (imgField img o 2)
  { opn := imgField img 6 1,
    hdr := Vector.ofFn fun i => word (imgField img (8 * i.val) 8),
    nin := imgField img 7 1,
    tin := Vector.ofFn fun i => h (8 + 2 * i.val),
    tsc := h 0x0E, tout := h 0x10, lat := imgField img 0x12 1, width := laneWidth (imgField img 0x15 1),
    cells := Vector.ofFn fun i => BitVec.ofNat 32 (imgField img (0x40 + 4 * i.val) 4),
    routes := Vector.ofFn fun i => BitVec.ofNat 32 (imgField img (0xC0 + 4 * i.val) 4),
    consts := Vector.ofFn fun i => BitVec.ofNat 32 (imgField img (0x140 + 4 * i.val) 4),
    luts := (List.range (min 4 (imgField img 0x14 1))).map fun j =>
      (List.range 256).map fun e => h (0x180 + 512 * j + 2 * e) }

/-! ## Cells and routes (Tables 7.9, 7.10) -/

/-- Bits [hi:lo] of a cell or routing word. -/
def cellBits (c : BitVec 32) (hi lo : Nat) : Nat := c.toNat / 2 ^ lo % 2 ^ (hi + 1 - lo)

def cellPrim (c : BitVec 32) : Nat := cellBits c 31 28
def cellFn (c : BitVec 32) : Nat := cellBits c 27 24
def cellRm (c : BitVec 32) : Nat := cellBits c 23 21
def cellLut (c : BitVec 32) : Nat := cellBits c 20 18
def cellTag (c : BitVec 32) : Tag := c.setWidth 16

/-- Operands that a primitive uses (Table 7.11). -/
def primArity (p : Nat) : Nat := nth 0 [0, 2, 2, 2, 3, 2, 2, 1, 2, 3, 2, 2, 1, 1, 1] p

/-- Whether the FN of a cell is defined for its primitive. -/
def fnOk (p fn : Nat) : Bool :=
  if p = 8 then fn < 6 else if p = 10 then fn < 4 else if p = 11 then fn < 3 else if p = 13 then fn < 8 else fn == 0

/-- The source code of operand `i` of a routing word. -/
def routeSrc (r : BitVec 32) (i : Nat) : Nat := cellBits r (17 + 6 * i) (12 + 6 * i)

def Graph.cell (g : Graph) (c : Nat) : BitVec 32 := g.cells[c]?.getD 0
def Graph.route (g : Graph) (c : Nat) : BitVec 32 := g.routes[c]?.getD 0

/-- The format in bits [10:0] of a source, as the cell `c` that consumes it sees it (R199). -/
def Graph.srcFmt (g : Graph) (c src : Nat) : Nat :=
  (if src < 32 then cellTag (g.cell src)
   else if src < 35 then g.tin[src - 32]?.getD 0
   else if src = 35 then g.tsc else cellTag (g.cell c)).toNat % 2048

/-- Whether a tag may stand at an input, the scalar or the output. -/
def Graph.tagOk (g : Graph) (bs : Vector Bound 16) (t : Tag) : Bool :=
  (tagReason bs t true).isNone && Tag.scm t == 0 && Tag.width t == g.width

/-- Check 8 of Table 7.12 on one cell. -/
def Graph.cellOk (g : Graph) (nlut c : Nat) : Bool :=
  let w := g.cell c
  let p := cellPrim w
  let t := cellTag w
  let src (i : Nat) : Nat := g.srcFmt c (routeSrc (g.route c) i)
  p == 0 || (p != 15 && cellRm w < 5 && fnOk p (cellFn w) && (p != 13 || cellLut w < nlut) &&
    (tagReason (Vector.replicate 16 {}) t true).isNone && Tag.scm t == 0 && Tag.bs t == 0 && Tag.width t == g.width &&
    ((p != 8 && p != 11) || Tag.isInt t) &&
    (if p = 8 then src 0 == src 1
     else [9, 12, 13, 14].contains p || (List.range (primArity p)).all fun i => src i == t.toNat % 2048))

/-- Whether operand `i` of cell `c` has a source that may stand there (R198). -/
def Graph.srcOk (g : Graph) (nconst c i : Nat) : Bool :=
  let s := routeSrc (g.route c) i
  if primArity (cellPrim (g.cell c)) ≤ i then s == 52
  else if s < 32 then s / 4 < c / 4 && cellPrim (g.cell s) != 0
  else if s < 35 then s - 32 < g.nin
  else if s = 35 then g.tsc != 0
  else if s < 52 then s - 36 < nconst else s == 52

/-- Cells with OUT set. -/
def Graph.outs (g : Graph) : List Nat := (List.range 32).filter fun c => (g.route c).getLsbD 0

/-- The output cell. -/
def Graph.outCell (g : Graph) : Nat := nth 0 g.outs 0

/-- The checks of Table 7.12 on an image (R201): the first failing reason, 0 when all pass. `ent` is the table's entry. -/
def graphReason (img : List Byte) (ent : Word) (opn : Nat) (bs : Vector Bound 16) : Nat :=
  let g := Graph.ofImage img
  let size := bits ent 59 48
  let nconst := imgField img 0x13 1
  let nlut := imgField img 0x14 1
  let cs := List.range 32
  if !bit ent 63 || size < 0x180 || 0x980 < size then 1
  else if imgField img 0 4 ≠ 0x47444552 || imgField img 4 2 ≠ 1 then 2
  else if g.opn ≠ opn then 3
  else if imgField img 0x18 4 ≠ size || size ≠ 0x180 + 512 * nlut then 4
  else if (crc32 (img.take 0x1C ++ [0, 0, 0, 0] ++ img.drop 0x20)).toNat ≠ imgField img 0x1C 4 then 5
  else if 3 < g.nin || 16 < nconst || 4 < nlut || g.lat < 1 || 48 < g.lat || 2 < imgField img 0x15 1 then 6
  else if !((List.range g.nin).all fun k => g.tagOk bs (g.tin[k]?.getD 0)) || (g.tsc ≠ 0 && !g.tagOk bs g.tsc) ||
      !g.tagOk bs g.tout then 7
  else if !(cs.all fun c => g.cellOk nlut c) || 4 < (cs.filter fun c => cellPrim (g.cell c) == 13).length then 8
  else if !(cs.all fun c => (List.range 3).all fun i => g.srcOk nconst c i) || g.outs.length ≠ 1 ||
      cellPrim (g.cell g.outCell) = 0 || (cellTag (g.cell g.outCell)).toNat % 4096 ≠ g.tout.toNat % 4096 then 9
  else if g.lat < 2 * (g.outCell / 4 + 1) then 10
  else if bits ent 62 60 ≠ 0 || bits ent 5 0 ≠ 0 || imgField img 0x16 2 ≠ 0 || imgField img 0x20 32 ≠ 0 ||
      ((List.range 3).any fun k => g.nin ≤ k && g.tin[k]?.getD 0 != 0) ||
      ((List.range 16).any fun k =>
        let v := (g.consts[k]?.getD 0).toNat
        2 ^ g.width ≤ v || (nconst ≤ k && v != 0)) ||
      (cs.any fun c =>
        let w := g.cell c
        cellBits w 17 16 != 0 || cellBits (g.route c) 31 30 != 0 || cellBits (g.route c) 11 1 != 0 ||
          (cellPrim w == 0 && w != 0) || (cellPrim w != 13 && cellLut w != 0)) then 11
  else 0

/-! ## Evaluation (R199, R206) -/

/-- A primitive on its operands, each a code with its format: the code and the events. -/
def Graph.prim (g : Graph) (w : BitVec 32) (mode : RMode) (rnd : Nat) (a b c : Nat × Tag) : Nat × Counts :=
  let t := cellTag w
  let v (x : Nat × Tag) : Val := decodeElem x.2 x.1
  let fn := cellFn w
  match cellPrim w with
  | 1 => finish (vAdd (v a) (v b) mode) t mode rnd
  | 2 => finish (vAdd (v a) (vNeg (v b)) mode) t mode rnd
  | 3 => finish (vMul (v a) (v b)) t mode rnd
  | 4 => finish (VEnv.vFma (v a) (v b) (v c) mode) t mode rnd
  | 5 => finish (vMin (v a) (v b), false) t mode rnd
  | 6 => finish (vMax (v a) (v b), false) t mode rnd
  | 7 => finish (vAbs (v a), false) t mode rnd
  | 8 => (if VEnv.holds (nth .eq [.eq, .ne, .lt, .le, .gt, .ge] fn) (v a) (v b) then 2 ^ g.width - 1 else 0, {})
  | 9 => (if a.1 ≠ 0 then b.1 else c.1, {})
  | 10 =>
    (if fn = 0 then a.1 &&& b.1 else if fn = 1 then a.1 ||| b.1 else if fn = 2 then a.1 ^^^ b.1
     else a.1 &&& (2 ^ g.width - 1 - b.1), {})
  | 11 =>
    let k := b.1 % g.width
    (if fn = 0 then a.1 * 2 ^ k % 2 ^ g.width else if fn = 1 then a.1 / 2 ^ k else VEnv.sraLane g.width a.1 k, {})
  | 12 => conv (v a) t mode rnd
  | 13 =>
    let e := (nth 0 (nth [] g.luts (cellLut w)) (a.1 / 2 ^ (8 * (fn % 4)) % 256)).toNat
    (if g.width = 8 then e % 256 else if g.width = 32 && 4 ≤ fn then e * 65536 else e, {})
  | _ => (a.1, {})

/-- The value of a source in a lane: a code with its format; `vals` holds the codes of the cells so far. -/
def Graph.source (g : Graph) (c src : Nat) (vals : List Nat) (ins : List Nat) (sc : Nat) : Nat × Tag :=
  if src < 32 then (nth 0 vals src, cellTag (g.cell src))
  else if src < 35 then (nth 0 ins (src - 32), g.tin[src - 32]?.getD 0)
  else if src = 35 then (sc, g.tsc)
  else (if src < 52 then (g.consts[src - 36]?.getD 0).toNat else 0, cellTag (g.cell c))

/-- The rounding mode of a cell. -/
def cellMode (w : BitVec 32) (m : RMode) : RMode := if cellRm w < 4 then nth .rne [.rne, .rtz, .rup, .rdn] (cellRm w) else m

/-- Cells that round under the command's mode, ascending. -/
def Graph.dynCells (g : Graph) : List Nat :=
  (List.range 32).filter fun c => cellPrim (g.cell c) != 0 && cellRm (g.cell c) == 4

/-- Lanes of a graph. -/
def Graph.lanes (g : Graph) : Nat := 512 / g.width

/-- One lane of a graph: the code of the output cell and the events. -/
def Graph.lane (g : Graph) (mode : RMode) (rnd : Nat → Nat) (j : Nat) (ins : List Nat) (sc : Nat) : Nat × Counts :=
  let r := (List.range 32).foldl (fun (acc : List Nat × Counts) c =>
      let w := g.cell c
      if cellPrim w = 0 then (acc.1 ++ [0], acc.2)
      else
        let op (i : Nat) : Nat × Tag := g.source c (routeSrc (g.route c) i) acc.1 ins sc
        let q := g.prim w (cellMode w mode) (rnd (g.dynCells.idxOf c * g.lanes + j)) (op 0) (op 1) (op 2)
        (acc.1 ++ [q.1], acc.2.add q.2)) ([], {})
  (nth 0 r.1 g.outCell, r.2)

/-- CXOP at its start (R206): the input tags, which a bound set cleared since the load makes invalid (R146), then the graph in every
lane, then the bound check under TOUT. -/
def VEnv.cx (e : VEnv) (g : Graph) (mode : RMode) (d : Fin 16) (ss : List (Fin 16)) : VOut :=
  let tagAt (k : Nat) : Nat := e.tags[nth 0 ss k].toNat % 2048
  match (List.range g.nin).find? fun k => tagAt k != (g.tin[k]?.getD 0).toNat % 2048 with
  | some k => .error (mkCause 0x28 k 0)
  | none => do
    (List.range g.nin).forM fun k => e.valid (e.tags[nth 0 ss k]) (k + 1) false
    e.valid g.tout 0 false
    let w := g.width
    let sc := (e.x 0).toNat % 2 ^ w
    let q := VEnv.gather ((List.range g.lanes).map fun j =>
      g.lane mode (fun n => if mode == .sr then e.rnd n else 0) j ((List.range g.nin).map fun k => Machine.lane e.v[nth 0 ss k] w j) sc)
    e.out d g.tout q.1 q.2

end Sys2Proof.Machine
end

