-- ==== Sys2Proof/Machine/Answers.lean ====
section
/-! DEFINITION. What the answer to a request does at the core that sent it: loads, stores, synchronising accesses, tasks
(R28, R30, R96-R100, R215, R221, R224). The executing thread of these definitions is the request's. -/

namespace Sys2Proof.Machine

/-- The slot of a request. -/
def Req.k (q : Req) : Fin 16 := Fin.ofNat 16 q.slot

/-- The fault that an answer carries. -/
def Req.cause (q : Req) (r : Resp) : Cause := ⟨r.cause, r.info, q.va⟩

/-- A refused access (R119, R236): a deferred fault of its instruction. -/
def State.refused (s : State) (l : Nat) (q : Req) (r : Resp) : State := s.deferFault l q.k 5 q.apc (q.cause r)

/-- A register whose access was refused stays pending until the resume (R241). -/
def State.refusedDst (s : State) (l : Nat) (q : Req) (r : Resp) (d : List Dst) : State :=
  (s.modSlot l q.k fun t => { t with refused := t.refused ++ d }).refused l q r

/-- A parked thread whose access was refused with a deferred fault goes on behind its instruction. -/
def State.refusedWait (s : State) (l : Nat) (q : Req) (r : Resp) : State := (s.completed l q.k).refused l q r

/-- A parked thread whose access was refused stops at its instruction, behind which it has issued nothing (R40); the packet tells
whether a home decided the fault (R236, R242). -/
def State.refusedHere (s : State) (l : Nat) (q : Req) (r : Resp) : State := s.takeFaultAt l q.k (q.cause r) (homeCause r.cause)

/-- A write-back that meets a poisoned or uncorrectable word (R40): the slot is as after a load that failed, and loads the record again
at its resume. -/
def State.refusedBack (s : State) (l : Nat) (q : Req) (r : Resp) : State :=
  (s.refusedHere l q r).modSlot l q.k fun t => { t with record := none, load := some ⟨q.va, t.pri.val, 0⟩ }

/-- A datum of `n` bytes extended to a register (R218). -/
def extend (n : Nat) (sgn : Bool) (bs : List Byte) : Word :=
  let v := ofBytes (bs.take n)
  if sgn then BitVec.ofInt 64 (if v < 2 ^ (8 * n - 1) then v else (v : Int) - 2 ^ (8 * n)) else word v

/-- One acquire of a slot has returned. -/
def State.acquired (s : State) (l : Nat) (k : Fin 16) (b : Bool) : State :=
  if b then s.modSlot l k fun t => { t with acq := t.acq - 1 } else s

/-- A load's answer. -/
def State.onLoad (s : State) (l : Nat) (q : Req) (r : Resp) (d : Fin 32) (n : Nat) (sgn acq : Bool) : State :=
  let s := s.acquired l q.k acq
  if r.cause ≠ 0 then s.refusedDst l q r [.x d] else s.deliverX l q.k d (extend n sgn r.data)

/-- An AMO's answer: the old datum, and the events counted in the slot (R224). -/
def State.onAmo (s : State) (l : Nat) (q : Req) (r : Resp) (d : Fin 32) (w acq : Bool) : State :=
  let s := s.acquired l q.k acq
  if r.cause ≠ 0 then s.refusedDst l q r [.x d]
  else
    let t := (s.countSlot l q.k r.cnt).deliverX l q.k d (if w then (r.w.setWidth 32).signExtend 64 else r.w)
    s.threshold t l q.k 5 q.apc

/-- LDW, LDT, STW (R221). -/
def State.onSync (s : State) (l : Nat) (q : Req) (r : Resp) (d : Option (Fin 32)) : State :=
  if r.cause ≠ 0 then
    (s.completed l q.k).refusedDst l q r (match d with
      | some d => [.x d]
      | none => [])
  else match d with
    | some d => (s.deliverX l q.k d r.w).completed l q.k
    | none => s.completed l q.k

/-- The held address of a reservation: panel and physical address of its word (R221). -/
def heldAt (m : Msg) : Word :=
  match m.body with
  | .mem pa _ _ _ => word (m.dpanel * 2 ^ 48 + pa)
  | _ => 0

/-- LRQ (R221, R222). -/
def State.onLrq (s : State) (l : Nat) (q : Req) (r : Resp) (d : Fin 32) : State :=
  if r.cause ≠ 0 then (s.completed l q.k).refusedDst l q r [.x d]
  else ((s.modSlot l q.k fun t => { t with held := some (heldAt q.msg) }).deliverX l q.k d r.w).completed l q.k

/-! ## SLEEPUNTIL (R108) -/

/-- The answers of a SLEEPUNTIL: the full/empty bit first, then the fill. -/
def State.onSleep (s : State) (l : Nat) (q : Req) (r : Resp) (hit : Bool) (a : Word) : State :=
  if r.cause ≠ 0 then s.refusedWait l q r
  else
    match q.msg.body with
    | .mem _ .readFe _ _ =>
      if r.w ≠ 0 then s.completed l q.k
      else
        let n := sat32 (((s.core l).sys 8).toNat + 1)
        let th := ((s.core l).sys 9).toNat
        let s := s.modCore l fun c => c.setSys 8 (word n)
        s.enqueue { va := a, bytes := 8, perm := .rw, op := .mem .ldw, apc := q.apc, cont := .sleep (th != 0 && n == th) a }
    | _ =>
      if hit then s.takeFaultAt l q.k ⟨0x26, 0, a⟩ true else s.completed l q.k

/-! ## FORK and SPAWN (R96) -/

/-- The entry that a control word makes of a record. -/
def entryOf (ra w : Word) : DqEnt := ⟨ra, Ctrl.pri w, Ctrl.dom w⟩

/-- The record is written: it is pushed. -/
def State.onForked (s : State) (l : Nat) (q : Req) (r : Resp) (ra : Word) (dest : Nat) (w : Word) : State :=
  if r.cause ≠ 0 then s.refusedWait l q r
  else if dest = l then
    let p := s.push l (entryOf ra w) false
    match p.2 with
    | none => p.1.completed l q.k
    | some i => p.1.takeFaultAt l q.k (mkCause 0x10 i ra)
  else
    s.request l q.slot q.apc ra (homeKey s.panelId (slicePa dest 0)) .pushed
      (s.reqMsg l s.panelId dest 0 0x0E 16 (.push ra (Ctrl.pri w) (Ctrl.dom w)))

/-- The push of a SPAWN is acknowledged. -/
def State.onPushed (s : State) (l : Nat) (q : Req) (r : Resp) : State :=
  if r.cause = 0 then s.completed l q.k
  else if r.cause = 0x10 then s.refusedHere l q r else s.refusedWait l q r

/-! ## Join words and suspension points -/

/-- A decrement's answer: a released continuation is made ready and pushed by this core (R38). -/
def State.onJoinDec (s : State) (l : Nat) (q : Req) (r : Resp) (exit : Bool) : State :=
  if r.cause = 0x12 || (exit && r.cause ≠ 0) then s.refusedHere l q r
  else if r.cause ≠ 0 then s.refusedWait l q r
  else
    let s := if r.w = 0 then s else s.attempt l (s.core l).ctxid r.w (.wake l)
    if exit then s.writeBack .exit false else s.completed l q.k

/-- The JOIN field of a record that exits (R38). -/
def State.onExitJoin (s : State) (l : Nat) (q : Req) (r : Resp) : State :=
  let jw := word (ofBytes r.data)
  if r.cause ≠ 0 then s.refusedHere l q r
  else if jw = 0 then s.writeBack .exit false
  else if jw.toNat % 8 ≠ 0 then s.takeFaultAt l q.k ⟨0x15, 0, jw⟩
  else if jw.toNat ≥ 2 ^ 48 then s.takeFaultAt l q.k ⟨0x09, 1, jw⟩
  else s.enqueue { va := jw, bytes := 8, perm := .rw, op := .joinDec, apc := q.apc, cont := .joinDec true }

/-- The place of the word that a suspension armed: panel and physical address. -/
def Req.armedAt (q : Req) : Nat :=
  match q.msg.body with
  | .joinArm pa _ => q.msg.dpanel * 2 ^ 48 + pa
  | .awaitReg pa _ => q.msg.dpanel * 2 ^ 48 + pa
  | _ => 0

/-- The answer to an arming or a registration: the write-back follows (R99, R100). -/
def State.onArmed (s : State) (l : Nat) (q : Req) (r : Resp) (k : Susp) : State :=
  if r.cause ≠ 0 then s.refusedHere l q r
  else
    s.writeBack (match k with
      | .suspendJ _ => .suspendJ q.armedAt
      | .await _ => .await q.armedAt
      | k => k) (r.w = 1)

/-- The slot reports the end of an arming to the word's home (R100). -/
def State.reportArmed (s : State) (l at_ : Nat) (ra : Word) : State :=
  let p := at_ / 2 ^ 48
  let pa := at_ % 2 ^ 48
  if p = s.panelId && homeOf pa = l then s.armEndAt l pa ra
  else
    s.postedWrite 16 (homeKey p pa)
      { dpanel := p, spanel := s.panelId, dest := homeOf pa, src := l, vc := 2, kind := 0x0C, len := 8,
        ctx := (s.core l).ctxid, body := .armEnd pa ra }

/-- A slot that has left its record: Idle, its counters folded (R23), its engine commands nobody's. -/
def State.idle (s : State) (l : Nat) (k : Fin 16) : State :=
  let s := s.foldCounts l k
  s.modCore l fun c => (c.orphan k).modSlot k Slot.left

/-- The write-back is performed: the push that its new state asks for, then the slot is Idle (R28, R30). -/
def State.onBacked (s : State) (l : Nat) (q : Req) (r : Resp) (k : Susp) (armed : Bool) : State :=
  let ra := q.va
  if 0x30 ≤ r.cause && r.cause < 0x40 then s.refusedBack l q r
  else if r.cause ≠ 0 then s.refusedHere l q r
  else
    let push : Option Bool :=
      if r.info = 0 then none
      else match k with
        | .yield => some true
        | .exit => none
        | _ => if Ctrl.state r.w = 1 then some false else none
    let p : State × Option Nat := match push with
      | some old => s.push l (entryOf ra r.w) old
      | none => (s, none)
    match p.2 with
    | some i => p.1.takeFaultAt l q.k (mkCause 0x10 i ra)
    | none =>
      let s := p.1.idle l q.k
      match k with
      | .suspendJ a => if armed then s.reportArmed l a ra else s
      | .await a => if armed then s.reportArmed l a ra else s
      | _ => s

end Sys2Proof.Machine
end

