-- ==== Sys2Proof/Machine/Vector.lean ====
section
/-! DEFINITION. Vector commands at issue (R170-R195): the queue, the operands captured at issue (R52, R55, R153). -/

namespace Sys2Proof

open Machine

/-- Whether an instruction rounds stochastically. -/
def Instr.stochastic : Instr → Bool
  | .vadd a | .vsub a | .vmul a | .vmin a | .vmax a | .vfma a _ => a.mode == .sr
  | .vabs a | .vneg a => a.mode == .sr
  | .vbcast _ _ _ m | .vred _ _ m _ _ _ | .vcvt _ m _ _ _ _ | .vqnt _ m _ _ _ _ | .vdqnt _ m _ _ _ _ => m == .sr
  | .cxop _ m _ _ _ _ _ _ => m == .sr
  | .mst _ m _ _ | .mrowred _ _ m _ _ _ _ => m == .sr
  | _ => false

/-- The number of elements for which a command of the vector queue takes random bits (R153, R180, R182). -/
def Instr.rounds (ts : Vector Tag 16) : Instr → Nat
  | .vadd a | .vsub a | .vmul a | .vmin a | .vmax a | .vfma a _ => Tag.lanes ts[a.s1]
  | .vabs a | .vneg a => Tag.lanes ts[a.s1]
  | .vbcast _ d _ _ => Tag.lanes ts[d]
  | .vred _ _ _ _ s1 _ => Tag.lanes ts[s1]
  | .vcvt _ _ _ _ _ t => Tag.lanes t
  | .vqnt _ _ _ _ _ t | .vdqnt _ _ _ _ _ t => Tag.lanes t
  | _ => 0

end Sys2Proof

namespace Sys2Proof.Machine

/-! ## Entering the queue (R170) -/

/-- The scalar operands that a command takes at issue: those that are not results still to come from its own queue. -/
def State.capture (s : State) (u : Uses) : List (Option Word) :=
  u.rx.map fun r => if r ≠ 0 && s.thr.regs.xp[r].n ≠ 0 then none else some (s.rx r)

/-- The LFSR stepped for a stochastic command (R153). -/
def State.stepLfsr (s : State) (i : Instr) (n : Nat) : State :=
  if i.stochastic then s.modThr fun t => { t with lfsr := lfsrSteps n t.lfsr } else s

/-- A command put into the vector queue. -/
def State.pushVec (s : State) (i : Instr) (g : CmdGuard) (n cx : Nat)
    (xs : List (Option Word) := s.capture (s.usesOf i)) : State :=
  let t := s.thr
  let q : VCmd :=
    { slot := s.cur.slot.val, no := s.me.cmdNo, apc := s.here, gd := g, op := i, xs, lfsr := t.lfsr, cxslot := cx,
      bad := s.laterStop (s.usesOf i) }
  let s := (s.stepLfsr i n).modThr fun t => t.markAll .vector i.uses
  (s.modMe fun c => { c with veng := { c.veng with q := c.veng.q ++ [q] }, cmdNo := c.cmdNo + 1 }).cmdIssued

/-- A vector command at issue: its tests, room in the queue, an acquire before a memory command (R170, R230); then `k`
puts it into the queue. -/
def State.vecIssue (s : State) (i : Instr) (k : State → CmdGuard → State) : Result :=
  let s := s.begin
  let u := s.usesOf i
  let go (s : State) (g : CmdGuard) (pops : Bool) : State :=
    if s.me.veng.q.length ≥ 2 then s.stopWith (.retry .engQueue)
    else if i.vecMem && s.thr.acq ≠ 0 then s.stopWith (.retry .fence)
    else if pops then s.pops (k s g) u.rx else k s g
  match s.gateEng u with
  | .stop c => .next (s.stopAt u c)
  | .skip => .next (go s (.known false) false)
  | .go => .next (go s (s.cmdGuard u.gd) true)

/-- A vector command without further tests at issue. -/
def State.vec (s : State) (i : Instr) : Result :=
  s.vecIssue i fun s g => s.pushVec i g (i.rounds (s.me.tagsAhead s.cur.slot.val)) 0

def execVadd (a : VBin) (s : State) : Result := s.vec (.vadd a)
def execVsub (a : VBin) (s : State) : Result := s.vec (.vsub a)
def execVmul (a : VBin) (s : State) : Result := s.vec (.vmul a)
def execVfma (a : VBin) (s3 : Fin 16) (s : State) : Result := s.vec (.vfma a s3)
def execVmin (a : VBin) (s : State) : Result := s.vec (.vmin a)
def execVmax (a : VBin) (s : State) : Result := s.vec (.vmax a)
def execVabs (a : VUn) (s : State) : Result := s.vec (.vabs a)
def execVneg (a : VUn) (s : State) : Result := s.vec (.vneg a)
def execVand (gd : Guard) (d s1 : Fin 16) (src : VSrc) (s : State) : Result := s.vec (.vand gd d s1 src)
def execVor (gd : Guard) (d s1 : Fin 16) (src : VSrc) (s : State) : Result := s.vec (.vor gd d s1 src)
def execVxor (gd : Guard) (d s1 : Fin 16) (src : VSrc) (s : State) : Result := s.vec (.vxor gd d s1 src)
def execVshl (gd : Guard) (d s1 : Fin 16) (src : VSrc) (s : State) : Result := s.vec (.vshl gd d s1 src)
def execVshr (gd : Guard) (lgc : Bool) (d s1 : Fin 16) (src : VSrc) (s : State) : Result := s.vec (.vshr gd lgc d s1 src)
def execVcmp (gd : Guard) (c : VCond) (d : VCmpDst) (s1 : Fin 16) (src : VSrc) (s : State) : Result :=
  s.vec (.vcmp gd c d s1 src)
def execVsel (gd : Guard) (d s1 s2 s3 : Fin 16) (s : State) : Result := s.vec (.vsel gd d s1 s2 s3)
def execVperm (gd : Guard) (d s1 s2 : Fin 16) (s : State) : Result := s.vec (.vperm gd d s1 s2)
def execVslide (gd : Guard) (d s1 : Fin 16) (src : Src) (s : State) : Result := s.vec (.vslide gd d s1 src)
def execVbcast (gd : Guard) (d : Fin 16) (src : Src) (mode : RMode) (s : State) : Result := s.vec (.vbcast gd d src mode)
def execVmovx (gd : Guard) (d : Fin 32) (s1 : Fin 16) (src : Src) (s : State) : Result := s.vec (.vmovx gd d s1 src)
def execVins (gd : Guard) (d s1 : Fin 16) (src : Src) (s3 : Fin 32) (s : State) : Result := s.vec (.vins gd d s1 src s3)
def execVred (gd : Guard) (op : RedOp) (mode : RMode) (d : RedDst) (s1 : Fin 16) (m : Option (Fin 16)) (s : State) : Result :=
  s.vec (.vred gd op mode d s1 m)
def execVsettag (gd : Guard) (d s1 : Fin 16) (src : Src) (s : State) : Result := s.vec (.vsettag gd d s1 src)
def execVgettag (gd : Guard) (d : Fin 32) (s1 : Fin 16) (s : State) : Result := s.vec (.vgettag gd d s1)
def execVcvt (gd : Guard) (mode : RMode) (part : Fin 4) (d s1 : Fin 16) (tag : Tag) (s : State) : Result :=
  s.vec (.vcvt gd mode part d s1 tag)
def execVqnt (gd : Guard) (mode : RMode) (d s1 : Fin 16) (s3 : Fin 32) (tag : Tag) (s : State) : Result :=
  s.vec (.vqnt gd mode d s1 s3 tag)
def execVdqnt (gd : Guard) (mode : RMode) (d s1 : Fin 16) (s2 : Fin 32) (tag : Tag) (s : State) : Result :=
  s.vec (.vdqnt gd mode d s1 s2 tag)
def execVld (gd : Guard) (d : Fin 16) (s1 : Fin 32) (off : BitVec 32) (tag : Tag) (s : State) : Result :=
  s.vec (.vld gd d s1 off tag)
def execVst (gd : Guard) (s3 : Fin 16) (s1 : Fin 32) (off : BitVec 32) (s : State) : Result := s.vec (.vst gd s3 s1 off)
def execVlds (gd : Guard) (d : Fin 16) (s1 s2 : Fin 32) (tag : Tag) (s : State) : Result := s.vec (.vlds gd d s1 s2 tag)
def execVsts (gd : Guard) (s3 : Fin 16) (s1 s2 : Fin 32) (s : State) : Result := s.vec (.vsts gd s3 s1 s2)
def execVldx (gd : Guard) (d : Fin 16) (s1 : Fin 32) (s2 : Fin 16) (tag : Tag) (s : State) : Result :=
  s.vec (.vldx gd d s1 s2 tag)
def execVstx (gd : Guard) (s3 : Fin 16) (s1 : Fin 32) (s2 : Fin 16) (s : State) : Result := s.vec (.vstx gd s3 s1 s2)

/-! ## Queue commands at issue (R193, R194) -/

/-- The fault of an endpoint that is not bound in the slot, or in the other direction. -/
def bind10 : Cause := mkCause 0x27 10 0

/-- VQPOP (R193): the register must be bound to a pop endpoint; a command whose guard is pending is tested at the queue's head. -/
def execVqpop (gd : Guard) (d : Fin 16) (s1 : Fin 32) (s : State) : Result :=
  s.vecIssue (.vqpop gd d s1) fun s g =>
    match g, s.thr.bind s1 with
    | .known true, some b => if b.push then s.takeFault bind10 else s.pushVec (.vqpop gd d s1) g 0 0
    | .known true, none => s.takeFault bind10
    | _, _ => s.pushVec (.vqpop gd d s1) g 0 0

/-- VQPUSH (R193): the register must be bound to a push endpoint. -/
def execVqpush (gd : Guard) (s3 : Fin 16) (s1 : Fin 32) (s : State) : Result :=
  s.vecIssue (.vqpush gd s3 s1) fun s g =>
    match g, s.thr.bind s1 with
    | .known true, some b => if b.push then s.pushVec (.vqpush gd s3 s1) g 0 0 else s.takeFault bind10
    | .known true, none => s.takeFault bind10
    | _, _ => s.pushVec (.vqpush gd s3 s1) g 0 0

/-- VSEND (R194): to the ring that S1 is bound to as a producer, or to the address in x[S1], which is captured. IMM32 is zero for a
ring: there another value is a nonzero zero field, fault 0x01 with reason 5, whatever the guard (log 121). -/
def execVsend (gd : Guard) (s3 : Fin 16) (s1 : Fin 32) (wtag : Tag) (imm : BitVec 32) (s : State) : Result :=
  let i : Instr := .vsend gd s3 s1 wtag imm
  if imm ≠ 0 && (s.usesOf i).rx.isEmpty then .next (s.begin.takeFault (mkCause 0x01 (5 + i.opByte * 256) 0))
  else s.vecIssue i fun s g => s.pushVec i g 0 0

end Sys2Proof.Machine
end

