-- ==== Sys2Proof/Machine/CxIssue.lean ====
section
/-! DEFINITION. Custom opcodes, bound sets and counters at issue (R201-R206, R210, R211). -/

namespace Sys2Proof.Machine

/-- A value for x[d] that the memory path delivers later (R51), behind the thread's queued vector memory commands (R188). -/
def State.laterX (s : State) (d : Fin 32) (w : Word) : State :=
  let l := s.cur.lcn
  if s.me.vecMemQueued s.cur.slot.val then s.stopWith (.retry .fence) else
  let m := { s.reqMsg l s.panelId l 4 0 0 .credit with seq := (s.ni l).nextId }
  ((s.awaitX d).request l s.cur.slot.val s.here 0 l (.value d) m).answer l m.reply { w }

/-! ## Graph slots (R204, R205) -/

/-- Slot `k` becomes the newest; those that were newer age. The four ages stay different. -/
def VEng.touch (v : VEng) (k : Fin 4) : VEng :=
  let a := v.gs[k].age
  { v with gs := Vector.ofFn fun i => if i = k then { v.gs[i] with age := 0 }
                                      else if v.gs[i].age < a then { v.gs[i] with age := v.gs[i].age + 1 } else v.gs[i] }

/-- Whether a queued CXOP refers to a graph slot. -/
def VEng.refers (v : VEng) (k : Fin 4) : Bool :=
  v.q.any fun q => match q.op with
    | .cxop .. => q.cxslot == k.val && !q.keep
    | _ => false

/-- The victim of a load: the lowest invalid slot, else the least recently used one to which no CXOP refers. -/
def VEng.victim (v : VEng) : Option (Fin 4) :=
  match (List.finRange 4).find? fun k => v.gs[k].proj.isNone with
  | some k => some k
  | none =>
    let free := (List.finRange 4).filter fun k => !v.refers k
    free.find? fun k => free.all fun j => v.gs[j].age ≤ v.gs[k].age

def VEng.setSlot (v : VEng) (k : Fin 4) (g : GSlot) : VEng := { v with gs := v.gs.set k g }

/-- What the read of a sector by an engine of a core comes to: its bytes, a cause with its information, or an address of another
panel that has not answered yet. -/
inductive Sector where
  | bytes (bs : List Byte)
  | bad (cause info : Nat)
  | away (va panel pa : Nat)
  deriving DecidableEq, Repr

/-- A sector read by an engine of core `l` (R201): slices, handle windows and HBM of this panel, or what another panel has answered. -/
def State.engSector (s : State) (l va : Nat) : State × Sector :=
  let q := s.tr l (s.core l).ctxid va .r .vec
  match q.2 with
  | .bad c k => (q.1, .bad c k)
  | .ok p pa =>
    if p = s.panelId then
      let z := q.1.readPa pa 64 (s.core l).ctxid (s.core l).level
      (z.1, if z.2.1 = 0 then .bytes z.2.2.2 else .bad z.2.1 z.2.2.1)
    else match (s.core l).veng.far.find? fun e => e.1 == va with
      | some e => (q.1, if e.2.cause = 0 then .bytes e.2.data else .bad e.2.cause e.2.info.toNat)
      | none => (q.1, .away va p pa)

/-- Sectors read in order, up to the first that gives no bytes. -/
def State.engSectors (s : State) (l : Nat) (bs : List Byte) : List Nat → State × Sector
  | [] => (s, .bytes bs)
  | va :: t =>
    let r := s.engSector l va
    match r.2 with
    | .bytes b => State.engSectors r.1 l (bs ++ b) t
    | x => (r.1, x)

/-- `n` bytes read by an engine of core `l`. -/
def State.engRead (s : State) (l va n : Nat) : State × Sector :=
  let r := s.engSectors l [] ((List.range ((va % 64 + n + 63) / 64)).map fun i => va / 64 * 64 + 64 * i)
  (r.1, match r.2 with
    | .bytes bs => .bytes ((bs.drop (va % 64)).take n)
    | x => x)

/-- The address of the entry of a custom opcode (R202). -/
def Core.cxEntry (c : Core) (n : Nat) : Word := c.sys 2 + 0x1000 + word (8 * n)

/-- Whether an entry of the custom-opcode table may name an image (Table 7.12, reason 1). -/
def cxEntryOk (w : Word) : Bool := bit w 63 && 0x180 ≤ bits w 59 48 && bits w 59 48 ≤ 0x980

/-- The graph that a load of opcode `n` will install, as the entry and the image stand now (R204), or the sector of another panel that
a load has still to read. -/
def State.cxHead (s : State) (l n : Nat) : Option Graph × Option (Nat × Nat × Nat) :=
  match (s.engRead l ((s.core l).cxEntry n).toNat 8).2 with
  | .away va p pa => (none, some (va, p, pa))
  | .bad _ _ => (none, none)
  | .bytes e =>
    let w := word (ofBytes e)
    if !cxEntryOk w then (none, none)
    else match (s.engRead l (bits w 47 0) (bits w 59 48)).2 with
      | .away va p pa => (none, some (va, p, pa))
      | .bad _ _ => (none, none)
      | .bytes img => (if graphReason img w n (s.core l).bs = 0 then some (Graph.ofImage img) else none, none)

/-- The sector that a graph load has still to read from another panel is asked for; one request at a time (R215). -/
def State.cxAsk (s : State) (l : Nat) (apc : Addr) (a : Nat × Nat × Nat) : State :=
  if s.freeSlots l = 0 || (s.core l).reqs.any (fun q => q.cont matches .graph _) then s
  else
    s.request l 17 apc (word a.1) (homeKey a.2.1 a.2.2) (.graph a.1)
      (s.reqMsg l a.2.1 (homeOf a.2.2) 0 0x01 64 (.mem a.2.2 (.load 64) 16 apc))

/-- A sector of a graph load has been answered. -/
def State.onGraph (s : State) (l : Nat) (r : Resp) (va : Nat) : State :=
  s.modCore l fun c => { c with veng := { c.veng with far := Fmap.set c.veng.far va r } }

/-- A graph slot taken for a load. -/
def State.cxTake (s : State) (l : Nat) (k : Fin 4) (n : Nat) : State :=
  let g := s.cxHead l n
  s.modCore l fun c =>
    let v := c.veng.touch k
    { c with veng := v.setSlot k { v.gs[k] with proj := some n, head := g.1, load := true, away := g.2.isSome } }

/-- An opcode number in x[S1] (R205). -/
def State.cxNumber (s : State) (s1 : Fin 32) (k : State → Nat → State) : State :=
  let w := s.rx s1
  if w.toNat ≥ 256 then s.takeFault ⟨0x1D, 11, 0⟩ else k s w.toNat

/-- CXLOAD (R205). -/
def execCxload (gd : Guard) (s1 : Fin 32) (s : State) : Result :=
  s.run (.cxload gd s1) fun s => s.cxNumber s1 fun s n =>
    match s.me.cxAt n with
    | some k => s.modMe fun c => { c with veng := c.veng.touch k }
    | none =>
      if s.thr.acq ≠ 0 then s.stopWith (.retry .fence)
      else if s.me.veng.q.length ≥ 2 then s.stopWith (.retry .engQueue)
      else match s.me.veng.victim with
        | none => s.stopWith (.retry .cxSlot)
        | some k => (s.cxTake s.cur.lcn k n).pushVec (.cxload gd s1) (.known true) 0 k.val [some (word n)]

/-- CXDROP (R205). -/
def execCxdrop (gd : Guard) (s1 : Fin 32) (s : State) : Result :=
  s.run (.cxdrop gd s1) fun s => s.cxNumber s1 fun s n =>
    match s.me.cxAt n with
    | none => s
    | some k =>
      if s.me.veng.q.length ≥ 2 then s.stopWith (.retry .engQueue)
      else
        (s.modMe fun c => { c with veng := c.veng.setSlot k { c.veng.gs[k] with proj := none, head := none } }).pushVec
          (.cxdrop gd s1) (.known true) 0 k.val [some (word n)]

/-- CXQRY (R205). -/
def execCxqry (gd : Guard) (d s1 : Fin 32) (s : State) : Result :=
  s.run (.cxqry gd d s1) fun s => s.cxNumber s1 fun s n =>
    s.laterX d (match s.me.cxAt n with
      | none => 0
      | some k =>
        let g := s.me.veng.gs[k]
        let h : Nat := match g.head with
          | some h => h.lat * 256 + h.nin * 65536 + (if h.tsc = 0 then 0 else 2 ^ 18)
          | none => 0
        word (1 + (if g.load then 2 else 0) + k.val * 4 + h))

/-- CXTBL (R203): a release, one 8-byte store. -/
def execCxtbl (gd : Guard) (s1 s2 : Fin 32) (s : State) : Result :=
  s.run (.cxtbl gd s1 s2) fun s => s.cxNumber s1 fun s n =>
    let e := s.rx s2
    if bit e 63 && (bits e 62 60 != 0 || bits e 5 0 != 0) then s.takeFault ⟨0x1D, 11, 0⟩
    else
      s.access (s.me.cxEntry n) 8 .w (.mem (.store (toBytes 8 e.toNat))) .done true (s.cur.slot == 15) id

/-- CXOP at issue (R206). While the image that its slot loads is still to come from another panel it waits, since the graph tells what
it reads (log 122). -/
def execCxop (gd : Guard) (mode : RMode) (d s1 s2 s3 : Fin 16) (n : BitVec 8) (sc : Fin 32) (s : State) : Result :=
  s.vecIssue (.cxop gd mode d s1 s2 s3 n sc) fun s g =>
    match s.me.cxAt n.toNat with
    | some k =>
      if s.me.veng.gs[k].away then s.stopWith (.retry .engQueue)
      else
        let rnds := (s.me.veng.gs[k].head.map fun h => h.lanes * h.dynCells.length).getD 0
        let s := if g = .known false then s else s.modMe fun c => { c with veng := c.veng.touch k }
        s.pushVec (.cxop gd mode d s1 s2 s3 n sc) g rnds k.val
    | none =>
      match g with
      | .pend _ _ => s.stopWith (.retry .guard)
      | .known true => s.takeFault (mkCause 0x1C n.toNat 0)
      | .known false => s.pushVec (.cxop gd mode d s1 s2 s3 n sc) g 0 4

/-! ## Bound sets (R210) -/

/-- BNDSET at issue: a command of the vector queue. -/
def execBndset (gd : Guard) (k : Fin 16) (clr : Bool) (mode : BitVec 2) (s1 : Fin 32) (s : State) : Result :=
  s.vecIssue (.bndset gd k clr mode s1) fun s g => s.pushVec (.bndset gd k clr mode s1) g 0 0

/-- Whether a command is a BNDSET. -/
def VCmd.isBndset (c : VCmd) : Bool :=
  match c.op with
  | .bndset .. => true
  | _ => false

/-- BNDGET (R210): it reflects every BNDSET issued earlier on the core. -/
def execBndget (gd : Guard) (d : Fin 32) (k : Fin 16) (sel : Bool) (s : State) : Result :=
  s.run (.bndget gd d k sel) fun s =>
    if s.me.veng.q.any VCmd.isBndset then s.stopWith (.retry .engQueue)
    else
      let b := s.me.bs[k]
      s.laterX d (if sel then word (b.mode.toNat + if b.v then 4 else 0) else b.hi ++ b.lo)

/-! ## Counters (R211) -/

/-- Whether every vector, Reed and matrix command of a core numbered below `n` has completed. -/
def Core.doneBelow (c : Core) (n : Nat) : Bool := (c.veng.q.all fun q => n ≤ q.no) && c.meng.q.all fun q => n ≤ q.no

/-- An instruction that waits for the engine commands issued before it. -/
def State.afterEngines (s : State) (k : State → State) : State :=
  let n := s.thr.mark.getD s.me.cmdNo
  if s.me.doneBelow n then k (s.modThr fun t => { t with mark := none })
  else (s.modThr fun t => { t with mark := some n }).stopWith (.retry .fence)

/-- The value of a counter. -/
def Core.counter (c : Core) (slot : Fin 16) (k h : Nat) (j : Fin 8) : Nat :=
  if h = 0 then (c.slot slot).ctr.get k
  else if h = 1 then c.total k
  else if h = 2 then c.meng.tiles[j].ctr.get k
  else (c.sys (0x44 + k)).toNat

/-- CNTRD (R211). -/
def execCntrd (gd : Guard) (d : Fin 32) (k h : Fin 4) (j : Fin 8) (s : State) : Result :=
  s.run (.cntrd gd d k h j) fun s => s.afterEngines fun s =>
    s.laterX d (word (s.me.counter s.cur.slot k.val h.val j % 2 ^ 32))

/-- A core with a counter cleared in a holder. -/
def Core.clearCounter (c : Core) (slot : Fin 16) (k h : Nat) (j : Fin 8) : Core :=
  let tile (c : Core) (j : Fin 8) : Core :=
    { c with meng := { c.meng with tiles := c.meng.tiles.set j { c.meng.tiles[j] with ctr := c.meng.tiles[j].ctr.clear k } } }
  if h = 0 then c.modSlot slot fun t => { t with ctr := t.ctr.clear k }
  else if h = 1 then
    ((List.finRange 8).foldl tile { c with slots := Vector.ofFn fun i => { c.slot i with ctr := (c.slot i).ctr.clear k } }).setSys
      (0x44 + k) 0
  else if h = 2 then
    (tile c j).setSys (0x44 + k) (word (sat32 ((c.sys (0x44 + k)).toNat + c.meng.tiles[j].ctr.get k)))
  else c.setSys (0x44 + k) 0

/-- CNTCLR (R211). -/
def execCntclr (gd : Guard) (k h : Fin 4) (j : Fin 8) (s : State) : Result :=
  s.run (.cntclr gd k h j) fun s => s.afterEngines fun s => s.modMe fun c => c.clearCounter s.cur.slot k.val h.val j

end Sys2Proof.Machine
end

