-- ==== Sys2Proof/Machine/QueueInstr.lean ====
section
/-! DEFINITION. QBIND, QFREE, QSTAT and AMCALL (R189-R192, R195). -/

namespace Sys2Proof.Machine

/-! ## QBIND (R189) -/

/-- Whether another slot of a core holds an endpoint in a direction. -/
def Core.heldElse (c : Core) (k : Fin 16) (e : Endpoint) (push : Bool) : Bool :=
  (List.finRange 16).any fun j => j != k && (c.slot j).binds.toList.any fun b => b.any fun b => b.ep == e && b.push == push

/-- The zero fields of a binding word (Table 7.5) for its kind. -/
def bindZeros (w : Word) (kind : Nat) (s2 : Fin 32) : Bool :=
  bits w 47 44 == 0 && bits w 39 38 == 0 && bits w 33 6 == 0 && (kind == 4 || kind == 5 || bits w 37 36 == 0) &&
    (kind == 7 || bits w 5 0 == 0) && (kind == 6 || kind == 7 || s2 == 0)

/-- The endpoint that a binding word names, for the kinds of this core. -/
def bindEp (w : Word) : Endpoint :=
  match bits w 43 40 with
  | 4 => .pqF (Fin.ofNat 4 (bits w 37 36))
  | 5 => .pqR (Fin.ofNat 4 (bits w 37 36))
  | k => .link (Fin.ofNat 4 k)

/-- The reason of Table 7.6 for which a binding is refused before its ring is asked. -/
def State.bindReason (s : State) (d : Fin 32) (w : Word) (s2 : Fin 32) (va : Word) : Option Nat :=
  let kind := bits w 43 40
  let push := bit w 35
  let pf := bit w 34
  let tag : Tag := w.extractLsb' 48 16
  let l := s.cur.lcn
  if d.val < 24 then some 1
  else if (s.thr.bind d).isSome then some 2
  else if kind < 6 && s.me.heldElse s.cur.slot (bindEp w) push then some 3
  else if 8 ≤ kind || (kind == 6 && push) || (kind == 7 && !push) || !bindZeros w kind s2 then some 4
  else if pf && (push || 4 ≤ kind) then some 5
  else if 6 ≤ kind && va.toNat % 64 ≠ 0 then some 6
  else if tag ≠ 0 && (Tag.scm tag ≠ 0 || (tagReason s.me.bs tag false).isSome) then some 8
  else if kind < 4 && (s.neighbour l (Fin.ofNat 4 kind)).isNone then some 9
  else none

/-- A binding put into a slot. -/
def Slot.setBind (t : Slot) (d : Fin 32) (b : Option Bind) : Slot := { t with binds := t.binds.setIfInBounds (d.val - 24) b }

/-- QBIND (R189). -/
def execQbind (gd : Guard) (d s1 s2 : Fin 32) (s : State) : Result :=
  s.run (.qbind gd d s1 s2) fun s =>
    let w := s.rx s1
    let va := s.rx s2
    match s.bindReason d w s2 va with
    | some r => s.takeFault (mkCause 0x27 r 0)
    | none =>
      let kind := bits w 43 40
      let tag : Tag := w.extractLsb' 48 16
      if kind < 6 then
        s.modThr fun t => t.setBind d (some { ep := bindEp w, push := bit w 35, pf := bit w 34, tag, rsv := 0 })
      else
        let n := if kind = 7 then bits w 5 0 + 1 else 0
        if kind = 7 && 32 < n then s.takeFault (mkCause 0x27 4 0)
        else
          s.localOnMt va .rw .sync fun s =>
            s.access va 64 .rw (.ringReserve n tag)
              (.ringReserved d { ep := if kind = 6 then .ringC 0 else .ringP 0, push := kind == 7, pf := false, tag, rsv := n })
              false false fun s => s.stopWith (.wait .response)

/-- The answer to a ring binding: the endpoint is the descriptor that the request named. -/
def State.onRingReserved (s : State) (l : Nat) (q : Req) (r : Resp) (d : Fin 32) (b : Bind) : State :=
  if r.cause ≠ 0 then s.refusedHere l q r
  else
    let pa := match q.msg.body with
      | .ringReserve pa _ _ _ => pa
      | _ => 0
    let ep : Endpoint := match b.ep with
      | .ringC _ => .ringC pa
      | _ => .ringP pa
    (s.modSlot l q.k fun t => t.setBind d (some { b with ep := ep })).completed l q.k

/-! ## QFREE (R191) -/

/-- What a binding gives back when it ends: a consumer's place, a producer's unused reservations. -/
def State.unbind (s : State) (l : Nat) (k : Fin 16) (b : Bind) : State :=
  match b.ep with
  | .ringC d => s.ringSet d 0x30 0
  | .ringP d =>
    if b.rsv = 0 then s
    else if sliceLcn d = l then s.ringReturnAt l d b.rsv
    else s.posted l k.val (sliceLcn d) 0x18 (s.core l).ctxid 8 (.ringReturn d b.rsv)
  | _ => s

/-- A register unbound in a slot, and zeroed. -/
def State.qfree (s : State) (l : Nat) (k : Fin 16) (d : Fin 32) : State :=
  match (s.slot l k).bind d with
  | none => s
  | some b => (s.unbind l k b).modSlot l k fun t => (t.setBind d none).setX d 0

/-- QFREE (R191). -/
def execQfree (gd : Guard) (d : Fin 32) (s : State) : Result :=
  s.run (.qfree gd d) fun s =>
    match s.thr.bind d with
    | none => s
    | some b =>
      if s.thr.regs.xp[d].n ≠ 0 then s.takeFault ⟨0x05, unsyncInfo 0 d.val, 0⟩
      else if b.push && b.rsv ≠ 0 && (s.ni s.cur.lcn).posted.length ≥ postedMax then s.stopWith (.retry .posted)
      else s.qfree s.cur.lcn s.cur.slot d

/-! ## QSTAT (R192) -/

/-- KIND of an endpoint. -/
def Endpoint.kind : Endpoint → Nat
  | .link d => d.val
  | .pqF _ => 4
  | .pqR _ => 5
  | .ringC _ => 6
  | .ringP _ => 7

/-- What QSTAT reports of a register (R192). DESIGN CHOICE: 65,536 words read as 0 in the 16 bits of the count (log 140). -/
def State.qstatus (s : State) (l : Nat) (k : Fin 16) (r : Fin 32) : Word :=
  match (s.slot l k).bind r with
  | none => 0
  | some b =>
    let n := if b.push then s.epRoom l b else s.epCount l b.ep
    let mark := !b.push && ((s.epHead l b.ep).any QWord.mark)
    word (n % 65536 + b.ep.kind * 2 ^ 16 + (if b.push then 2 ^ 20 else 0) + 2 ^ 21 + if mark then 2 ^ 22 else 0)

/-- QSTAT (R192). -/
def execQstat (gd : Guard) (d s1 : Fin 32) (s : State) : Result :=
  s.run (.qstat gd d s1) fun s => s.laterX d (s.qstatus s.cur.lcn s.cur.slot s1)

/-! ## AMCALL (R195) -/

/-- An active message sent by slot `k` of core `l`. -/
def State.amSend (s : State) (l : Nat) (k : Fin 16) (dest kind : Nat) (data : List Byte) : State :=
  s.posted l k.val dest kind (s.core l).ctxid data.length (.program data)

/-- The next part of an AMCALL's payload: to the end of its sector. -/
def amPart (va : Word) (left : Nat) : Nat := min left (64 - va.toNat % 64)

/-- The read of the next part of a payload. -/
def State.amRead (s : State) (va : Word) (left dest kind len : Nat) : State :=
  s.enqueue { va, bytes := amPart va left, perm := .r, op := .mem (.load (amPart va left)), apc := s.thr.iss.b,
              cont := .amcall dest kind len }

/-- AMCALL (R195). -/
def execAmcall (gd : Guard) (s1 s2 : Fin 32) (kind : BitVec 8) (len : BitVec 9) (s : State) : Result :=
  s.run (.amcall gd s1 s2 kind len) fun s =>
    let l := s.cur.lcn
    let w := s.rx s1
    match s.target s.me.ctxid w with
    | none => s.takeFault (mkCause 0x16 (w.toNat % 65536) w)
    | some dest =>
      match s.orderStop false with
      | some c => s.stopWith c
      | none =>
        let key := homeKey s.panelId (slicePa dest 0)
        if !s.thr.path.isEmpty || s.thr.outst.any (fun o => o.home == key && o.vc != 2) then s.stopWith (.retry .fence)
        else if (s.ni l).posted.length ≥ postedMax then s.stopWith (.retry .posted)
        else if s2 = 0 then
          s.amSend l s.cur.slot dest kind.toNat ((bytesOf [s.rx 10, s.rx 11, s.rx 12, s.rx 13]).take len.toNat)
        else if len = 0 then s.amSend l s.cur.slot dest kind.toNat []
        else
          let va := s.rx s2
          if va.toNat + len.toNat > 2 ^ 48 then s.takeFault ⟨0x09, 1, va⟩
          else
            s.localOnMt va .r (.plain 1) fun s =>
              ((s.modThr fun t => { t with buf := [] }).stopWith (.wait .response)).amRead va len.toNat dest kind.toNat len.toNat

/-- A part of a payload has returned: the next part is read, or the message leaves. -/
def State.onAmcall (s : State) (l : Nat) (q : Req) (r : Resp) (dest kind len : Nat) : State :=
  if r.cause ≠ 0 then s.refusedWait l q r
  else
    let s := s.modSlot l q.k fun t => { t with buf := t.buf ++ r.data }
    let got := (s.slot l q.k).buf
    if got.length < len then s.amRead (q.va + word r.data.length) (len - got.length) dest kind len
    else if (s.ni l).posted.length ≥ postedMax then s.modSlot l q.k fun t => { t.parkRetry .posted with buf := [] }
    else ((s.amSend l q.k dest kind got).modSlot l q.k fun t => { t with buf := [] }).completed l q.k

end Sys2Proof.Machine
end

