-- ==== Sys2Proof/Machine/Handles.lean ====
section
/-! DEFINITION. Publish handles: the instructions at issue (R305-R312) and what they do at a handle's home (R267-R276). -/

namespace Sys2Proof.Machine

/-! ## The head of an NI's buffer (R129, R239) -/

/-- Whether a message is for a program handler, a fault packet apart. -/
def Msg.forProgram (m : Msg) : Bool :=
  match m.body with
  | .program _ | .raw _ => true
  | _ => false

/-- Messages that the message port's sequencer serves while the message thread is stopped (R239). -/
def Msg.sequenced (m : Msg) : Bool :=
  match m.body with
  | .mem pa _ _ _ => spaceOf pa == 15
  | .ctlRead _ | .ctlWrite _ _ | .pageOwner _ _ => true
  | _ => false

/-- The message that the next handler of core `l` takes, none on an isolated core: system messages first; while the message thread is stopped or runs a
program handler, only those of the sequencer; while the core checkpoints, system messages alone (R391). Of a core that stops for a pre-emption,
the memory that other contexts own goes on being served (R13). -/
def State.headMsg (s : State) (l : Nat) : Option Msg :=
  let q := (s.ni l).inq
  let c := s.core l
  if c.health.iso then none
  else if c.mtStopped || c.mt.isSome then q.find? fun m => m.vc ≥ 3 && m.sequenced
  else if c.diverted then
    (q.find? fun m => m.vc ≥ 3 && m.sequenced).orElse fun _ => q.find? fun m => m.vc < 3 && m.ctx != c.ctxid && !m.forProgram
  else if c.ckpt.chk.isSome then q.find? fun m => m.vc ≥ 3
  else (q.find? fun m => m.vc ≥ 3).orElse fun _ => q.head?

/-- A message taken from an NI's buffer. -/
def State.takeMsg (s : State) (a : Nat) (m : Msg) : State := s.modNi a fun n => { n with inq := n.inq.erase m }

/-- The handler of the message at the head, if the message is one of its own. -/
def State.handle (s : State) (l : Nat) (mine : Msg → Bool) (k : State → Msg → State) : State :=
  match s.headMsg l with
  | some m => if mine m && m.len ≤ 256 then k (s.takeMsg l m) m else s
  | none => s

/-! ## Handles (Table 5.4, R274) -/

def Core.handle (c : Core) (h : Nat) : Handle := c.handles[h]?.getD {}

def State.modHandle (s : State) (l h : Nat) (f : Handle → Handle) : State :=
  s.modCore l fun c => { c with handles := c.handles.setIfInBounds h (f (c.handle h)) }

/-- Whether a handle is stopped at a version. -/
def Handle.stoppedAt (e : Handle) : Bool := e.stopat != 0 && e.stopat ≤ e.version

/-- Whether every subscriber has acknowledged. -/
def Handle.acked (e : Handle) : Bool := (List.range e.subs.length).all fun k => e.ack.getLsbD k

/-- The bits [47:6] of a record's address. -/
def subOf (va : Word) : BitVec 42 := va.extractLsb' 6 42

/-- A handle without subscriber `k`: later entries and their bits move down. -/
def Handle.unsub (e : Handle) (k : Nat) : Handle :=
  { e with subs := e.subs.eraseIdx k
           ack := BitVec.ofNat 8 (e.ack.toNat % 2 ^ k + e.ack.toNat / 2 ^ (k + 1) * 2 ^ k) }

/-- The acknowledgement of the record whose address is in x4 (R275). -/
def Handle.acknowledge (e : Handle) (x4 : Word) : Handle :=
  if !e.pace then e
  else match e.subs.findIdx? (· == subOf x4) with
    | some k => { e with ack := e.ack ||| (1#8 <<< k) }
    | none => e

/-- A fault 0x2E of a handle as an answer (R284). -/
def bad2E (r h : Nat) : Resp := { cause := 0x2E, info := word (r + h * 256) }

/-- The re-fires of a version to every subscriber, in ascending order (R271). -/
def State.refire (s : State) (l h : Nat) : State :=
  let e := (s.core l).handle h
  e.subs.foldl (fun s r => s.attempt l e.ctx (word (r.toNat * 64)) (.refire e.version e.final l)) s

/-- A publish at its handle's home (R270): the answer, none when it is to be held, as it is behind another held one (R276). -/
def State.publishAt (s : State) (l h ctx : Nat) (final : Bool) (behind : Bool := false) : State × Option Resp :=
  let e := (s.core l).handle h
  if !e.v then (s, some (bad2E 1 h))
  else if e.ctx ≠ ctx then (s, some (bad2E 2 h))
  else if e.final then (s, some (bad2E 4 h))
  else if e.stoppedAt then
    (if final then (s.modHandle l h fun e => { e with final := true }).refire l h else s, some {})
  else if e.version = BitVec.allOnes 32 then (s, some (bad2E 5 h))
  else if e.pace && (behind || !e.acked) then (s, none)
  else
    ((s.modHandle l h fun e =>
      { e with pubb := !e.pubb, version := e.version + 1, final := e.final || final, ack := 0 }).refire l h, some {})

/-- Whether a waiter is a message of a handle. -/
def Waiter.msgOf (w : Waiter) (h : Nat) : Option Msg :=
  match w.kind with
  | .handle m => if w.at_ = h then some m else none
  | _ => none

/-- The messages of a handle that wait at its home, in order of arrival. -/
def Core.handleWaits (c : Core) (h : Nat) : List Msg := c.waits.filterMap fun w => w.msgOf h

/-- Whether a message is an HCFG. -/
def Msg.isHcfg (m : Msg) : Bool :=
  match m.body with
  | .handle _ (.hcfg _ _) => true
  | _ => false

def Msg.isPublish (m : Msg) : Option Bool :=
  match m.body with
  | .handle _ (.publish f) => some f
  | _ => none

/-- The earliest held publishes of a handle applied while they may (R275, R276). -/
def State.servePublishes (s : State) (l h : Nat) : Nat → State
  | 0 => s
  | n + 1 =>
    match (s.core l).handleWaits h with
    | m :: _ =>
      match m.isPublish with
      | some f =>
        let r := s.publishAt l h m.ctx f
        match r.2 with
        | some a =>
          let s := r.1.modCore l fun c => { c with waits := c.waits.erase ⟨h, .handle m⟩ }
          State.servePublishes (s.answer l m.reply a) l h n
        | none => s
      | none => s
    | [] => s

/-- The held publishes of a handle after its entry changed. -/
def State.serveHeld (s : State) (l h : Nat) : State := s.servePublishes l h ((s.core l).handleWaits h).length

/-! ## HCFG (R267, R268, R307) -/

/-- The entry that a handle record asks for. -/
def handleOfRecord (ctx : Nat) (r0 r1 : Word) : Handle :=
  { v := true, offa := r0.extractLsb' 0 20, offb := r0.extractLsb' 20 20, size := bits r1 16 0, ctx,
    pace := bit r1 23, ssv := bit r1 22, sset := bits r1 21 18 }

/-- Whether a handle record is valid (R268): the context owns every page of its buffers, whatever its level. -/
def State.handleOk (s : State) (l ctx : Nat) (r0 r1 : Word) : Bool :=
  let e := handleOfRecord ctx r0 r1
  let a := e.offa.toNat
  let b := e.offb.toNat
  bits r0 63 40 == 0 && bits r1 63 24 == 0 && !bit r1 17 && 1 ≤ e.size && e.size ≤ 65536 && a % 8 == 0 && b % 8 == 0 &&
    a + e.size ≤ 2 ^ 20 && b + e.size ≤ 2 ^ 20 && (a + e.size ≤ b || b + e.size ≤ a) &&
    (s.core l).owns a e.size ctx 0 && (s.core l).owns b e.size ctx 0

/-- HCFG at the handle's home. -/
def State.hcfgAt (s : State) (l h ctx lvl : Nat) (r0 r1 : Word) : State × Resp :=
  let e := (s.core l).handle h
  if e.v && e.ctx ≠ ctx && lvl ≠ 2 then (s, bad2E 2 h)
  else
    let drop : Bool := !bit r1 23 && !bit r1 22 && bits r1 16 0 == 0
    if !drop && !s.handleOk l ctx r0 r1 then (s, bad2E 3 h)
    else
      let s := ((s.core l).handleWaits h).foldl (fun s m =>
        if m.isPublish.isSome then
          (s.modCore l fun c => { c with waits := c.waits.erase ⟨h, .handle m⟩ }).answer l m.reply (bad2E 1 h)
        else s) s
      (s.modHandle l h fun _ => if drop then {} else handleOfRecord ctx r0 r1, {})

/-- Whether a queued matrix command of the cluster named a handle's window at issue (R290). -/
def State.windowNamed (s : State) (l h : Nat) : Bool :=
  (List.range 8).any fun m =>
    (s.core (memberLcn (clusterOf l) m)).meng.q.any fun c => c.wins.contains (l * 64 + h)

/-! ## Messages to a handle (R305, Table 11.8) -/

/-- A message to a handle held at its home, or refused when nothing can wait. -/
def State.holdHandle (s : State) (l h : Nat) (m : Msg) : State :=
  let r := s.wait l ⟨h, .handle m⟩
  if r.2 then r.1 else r.1.answer l m.reply { cause := 0x13 }

/-- What an operation that answers at once does to a handle of the context. -/
def State.handleOp (s : State) (l h : Nat) (op : HandleOp) : State × Resp :=
  let e := (s.core l).handle h
  match op with
  | .hsub va =>
    if e.subs.contains (subOf va) then (s, {})
    else if e.subs.length ≥ 8 then (s, bad2E 6 h)
    else
      (s.modHandle l h fun e => { e with subs := e.subs ++ [subOf va], ack := e.ack ||| (1#8 <<< e.subs.length) }, {})
  | .hunsub va =>
    match e.subs.findIdx? (· == subOf va) with
    | some k => ((s.modHandle l h fun e => e.unsub k).serveHeld l h, {})
    | none => (s, {})
  | .hver x4 =>
    let w := word (e.version.toNat + (if e.final then 2 ^ 32 else 0) + (if e.stop then 2 ^ 33 else 0) +
      if e.stoppedAt then 2 ^ 34 else 0)
    ((s.modHandle l h fun e => e.acknowledge x4).serveHeld l h, { w })
  | .stopref v x4 =>
    if e.final then (s, {})
    else match v with
      | none => ((s.modHandle l h fun e => { e.acknowledge x4 with stop := true }).serveHeld l h, {})
      | some v =>
        if v = 0 || !e.pace then (s, bad2E 7 h)
        else if v < e.version then (s, bad2E 8 h)
        else
          let at_ := if e.stopat = 0 || v < e.stopat then v else e.stopat
          ((s.modHandle l h fun e => { e.acknowledge x4 with stopat := at_ }).serveHeld l h, {})
  | .refchk => (s, { w := if e.stop || e.stoppedAt then 1 else 0 })
  | _ => (s, {})

/-- A message to a handle, as it arrives or as what it waited for has ended. -/
def State.handleNow (s : State) (l : Nat) (m : Msg) : State :=
  match m.body with
  | .handle h (.hcfg r0 r1) =>
    if s.windowNamed l h then s.holdHandle l h m
    else
      let r := s.hcfgAt l h m.ctx m.level r0 r1
      r.1.answer l m.reply r.2
  | .handle h (.publish f) =>
    let r := s.publishAt l h m.ctx f (((s.core l).handleWaits h).any (·.isPublish.isSome))
    match r.2 with
    | some a => r.1.answer l m.reply a
    | none => s.holdHandle l h m
  | .handle h op =>
    let e := (s.core l).handle h
    let r := if !e.v then (s, bad2E 1 h) else if e.ctx ≠ m.ctx then (s, bad2E 2 h) else s.handleOp l h op
    r.1.answer l m.reply r.2
  | _ => s

/-- A message to a handle at its home: behind an HCFG that waits it waits too (R307). -/
def State.handleMsg (s : State) (l : Nat) (m : Msg) : State :=
  match m.body with
  | .handle h _ => if ((s.core l).handleWaits h).any Msg.isHcfg then s.holdHandle l h m else s.handleNow l m
  | _ => s

/-- The messages that wait behind an HCFG, once no matrix command names the window any more (R307). -/
def State.serveHandle (s : State) (l h : Nat) : State :=
  let ms := (s.core l).handleWaits h
  if !ms.any Msg.isHcfg || s.windowNamed l h then s
  else
    let late := ms.dropWhile fun m => !m.isHcfg
    let s := late.foldl (fun s m => s.modCore l fun c => { c with waits := c.waits.erase ⟨h, .handle m⟩ }) s
    late.foldl (fun s m => s.handleMsg l m) s

/-- Windows that a matrix command had named: held messages may go on. -/
def State.serveWindows (s : State) (ws : List Nat) : State := ws.foldl (fun s w => s.serveHandle (w / 64) (w % 64)) s

/-! ## The publish family at issue (R305, R306) -/

/-- A handle name translated: the panel and the window address, or a precise fault. -/
def State.trName (s : State) (va : Word) : State × (Nat × Nat ⊕ Cause) :=
  if va.toNat ≥ 2 ^ 48 then (s, .inr ⟨0x09, 1, va⟩)
  else if va.toNat % 65536 ≠ 0 then (s, .inr (mkCause 0x2E 1 va))
  else
    let r := s.fill s.cur.lcn s.me.ctxid va.toNat
    match r.2 with
    | .inr (c, i) => (r.1, .inr (mkCause c i va))
    | .inl e =>
      if Pte.kind e.pte ≠ 2 then (r.1, .inr (mkCause 0x2E 1 va)) else (r.1, .inl (Pte.panel e.pte, e.pa va.toNat))

/-- A request to the home of a handle, from a thread that then waits (R305). -/
def State.handleAsk (s : State) (p pa : Nat) (va : Word) (op : HandleOp) (cont : Cont) : State :=
  s.enqueue { va, bytes := 8, perm := .r, op := .handle op, apc := s.here, st := .ready p pa, cont }

/-- An instruction of the publish family: not on the message thread; the name; its own checks `pre`, with the window address; its ordering class; then
`k` with the home. -/
def State.publishFamily (s : State) (i : Instr) (s1 : Fin 32) (release : Bool) (pre : State → Nat → State × Option Cause)
    (k : State → Nat → Nat → Word → State) : Result :=
  s.run i fun s => s.notOnMt i fun s =>
    let va := s.rx s1
    let r := s.trName va
    match r.2 with
    | .inr c => r.1.takeFault c
    | .inl (p, pa) =>
      let q := pre r.1 pa
      match q.2 with
      | some c => q.1.takeFault c
      | none =>
        match q.1.orderStop release with
        | some c => q.1.stopWith c
        | none => k (q.1.stopWith (.wait .response)) p pa va

/-- No checks of its own. -/
def noPre (s : State) (_ : Nat) : State × Option Cause := (s, none)

/-- HCFG (R307): the record is read at issue; then the request leaves. -/
def execHcfg (gd : Guard) (s1 s2 : Fin 32) (s : State) : Result :=
  s.publishFamily (.hcfg gd s1 s2) s1 true
    (fun s _ => (s, addrStop (s.rx s2) 16))
    fun s p pa _ =>
      s.enqueue { va := s.rx s2, bytes := 16, perm := .r, op := .mem (.load 16), apc := s.here,
                  cont := .hcfgRead (p * 2 ^ 48 + pa) }

def State.publish (s : State) (i : Instr) (s1 : Fin 32) (final : Bool) : Result :=
  s.publishFamily i s1 true noPre fun s p pa va => s.handleAsk p pa va (.publish final) (.handle none none)

/-- PUBLISH and PUBLISH.F (R308). -/
def execPublish (gd : Guard) (s1 : Fin 32) (s : State) : Result := s.publish (.publish gd s1) s1 false
def execPublishF (gd : Guard) (s1 : Fin 32) (s : State) : Result := s.publish (.publishF gd s1) s1 true

/-- The check of a record address at issue (R309). -/
def State.recordAt (s : State) (va : Word) : State × Option Cause :=
  match addrStop va 64 with
  | some c => (s, some c)
  | none =>
    let r := s.fill s.cur.lcn s.me.ctxid va.toNat
    match r.2 with
    | .inr (c, i) => (r.1, some (mkCause c i va))
    | .inl _ => (r.1, none)

/-- HSUB and HUNSUB (R309). -/
def execHsub (gd : Guard) (s1 s2 : Fin 32) (s : State) : Result :=
  s.publishFamily (.hsub gd s1 s2) s1 false (fun s _ => s.recordAt (s.rx s2)) fun s p pa va =>
    s.handleAsk p pa va (.hsub (s.rx s2)) (.handle none none)

def execHunsub (gd : Guard) (s1 s2 : Fin 32) (s : State) : Result :=
  s.publishFamily (.hunsub gd s1 s2) s1 false (fun s _ => s.recordAt (s.rx s2)) fun s p pa va =>
    s.handleAsk p pa va (.hunsub (s.rx s2)) (.handle none none)

/-- HVER (R310). -/
def execHver (gd : Guard) (d s1 : Fin 32) (s : State) : Result :=
  s.publishFamily (.hver gd d s1) s1 false noPre fun s p pa va =>
    (s.awaitX d).handleAsk p pa va (.hver (s.thr.rx 4)) (.handle (some d) none)

/-- STOPREF and STOPREF.AT (R311). -/
def execStopref (gd : Guard) (s1 : Fin 32) (s : State) : Result :=
  s.publishFamily (.stopref gd s1) s1 true noPre fun s p pa va =>
    s.handleAsk p pa va (.stopref none (s.thr.rx 4)) (.handle none none)

def execStoprefAt (gd : Guard) (s1 s2 : Fin 32) (s : State) : Result :=
  s.publishFamily (.stoprefAt gd s1 s2) s1 true
    (fun s pa => (s, if (s.rx s2).extractLsb' 0 32 = 0 then some (mkCause 0x2E (7 + winHandle pa * 256) 0) else none))
    fun s p pa va =>
      s.handleAsk p pa va (.stopref (some ((s.rx s2).extractLsb' 0 32)) (s.thr.rx 4)) (.handle none none)

/-- REFCHK (R310). -/
def execRefchk (gd : Guard) (d : Fin 16) (s1 : Fin 32) (s : State) : Result :=
  s.publishFamily (.refchk gd d s1) s1 false noPre fun s p pa va =>
    (s.modThr fun t => t.markG .path d).handleAsk p pa va .refchk (.handle none (some d))

/-! ## Answers -/

/-- The record of an HCFG has returned: the request to the handle's home leaves. -/
def State.onHcfgRead (s : State) (l : Nat) (q : Req) (r : Resp) (name : Nat) : State :=
  if r.cause ≠ 0 then s.refusedWait l q r
  else
    let ws := wordsOf 2 r.data
    s.enqueue { va := q.va, bytes := 8, perm := .r, op := .handle (.hcfg (nth 0 ws 0) (nth 0 ws 1)), apc := q.apc,
                st := .ready (name / 2 ^ 48) (name % 2 ^ 48), cont := .handle none none }

/-- The answer of a handle's home. -/
def State.onHandle (s : State) (l : Nat) (q : Req) (r : Resp) (d : Option (Fin 32)) (g : Option (Fin 16)) : State :=
  if r.cause ≠ 0 then
    (s.completed l q.k).refusedDst l q r ((d.toList.map Dst.x) ++ g.toList.map Dst.g)
  else
    let s := match d with
      | some d => s.deliverX l q.k d r.w
      | none => s
    let s := match g with
      | some g => s.deliverG l q.k g (r.w != 0)
      | none => s
    s.completed l q.k

/-! ## Settle sets (R279, R312) -/

/-- A request to a system agent from the executing thread, which waits for its answer. -/
def State.ask (s : State) (dest kind len : Nat) (va : Word) (b : Body) (cont : Cont) : State :=
  let l := s.cur.lcn
  if s.freeSlots l = 0 then s.stopWith (.retry .reqSlot)
  else
    (s.stopWith (.wait .response)).request l s.cur.slot.val s.here va dest cont (s.reqMsg l s.panelId dest 3 kind len b)

def bad9 (va : Word) : Cause := mkCause 0x2E 9 va

/-- SETTLE and SETTLEW: the arm request to the PCTL. -/
def State.settleArmAsk (s : State) (i : Instr) (s1 : Fin 32) (set nh : BitVec 8) (d : Option (Fin 32)) : Result :=
  s.run i fun s => s.notOnMt i fun s =>
    let va := s.rx s1
    if set.toNat > 15 || nh = 0 || nh.toNat > 64 || va.toNat % 8 ≠ 0 then s.takeFault (bad9 va)
    else
      let r := s.trNow va .rw (.plain 8)
      match r.2 with
      | .inr c => r.1.takeFault c
      | .inl (p, pa) =>
        if p ≠ s.panelId || spaceOf pa ≠ 1 then r.1.takeFault (bad9 va)
        else
          match r.1.orderStop true with
          | some c => r.1.stopWith c
          | none =>
            (r.1.ask Config.srcPctl 0x20 16 va (.settleArm set.toNat nh.toNat va.toNat) (.settleArm d va.toNat))

def execSettle (gd : Guard) (s1 : Fin 32) (set nh : BitVec 8) (s : State) : Result :=
  s.settleArmAsk (.settle gd s1 set nh) s1 set nh none

def execSettlew (gd : Guard) (d s1 : Fin 32) (set nh : BitVec 8) (s : State) : Result :=
  s.settleArmAsk (.settlew gd d s1 set nh) s1 set nh (some d)

/-- The PCTL's answer: SETTLE goes on; SETTLEW waits for its word. -/
def State.onSettleArm (s : State) (l : Nat) (q : Req) (r : Resp) (w : Option (Fin 32)) (swa : Nat) : State :=
  if r.cause ≠ 0 then s.refusedWait l q r
  else match w with
    | none => s.completed l q.k
    | some d =>
      let s := s.modThr fun t => { t with park := .home }
      (s.awaitX d).enqueue { va := word swa, bytes := 8, perm := .rw, op := .mem .ldw, apc := q.apc, cont := .settled d }

/-! ## The handlers (R129) -/

/-- The operation of a message to a handle. -/
def Msg.handleOp? (m : Msg) : Option HandleOp :=
  match m.body with
  | .handle _ op => some op
  | _ => none

def State.handleEvent (s : State) (l : Nat) (p : HandleOp → Bool) : Result :=
  .next (s.handle l (fun m => m.handleOp?.any p) fun s m => s.handleMsg l m)

def execPublishHome (core : Nat) (s : State) : Result :=
  s.handleEvent core fun o => match o with
    | .publish _ => true
    | _ => false
def execHsubHome (core : Nat) (s : State) : Result :=
  s.handleEvent core fun o => match o with
    | .hsub _ => true
    | _ => false
def execHunsubHome (core : Nat) (s : State) : Result :=
  s.handleEvent core fun o => match o with
    | .hunsub _ => true
    | _ => false
def execHverHome (core : Nat) (s : State) : Result :=
  s.handleEvent core fun o => match o with
    | .hver _ => true
    | _ => false
def execStoprefHome (core : Nat) (s : State) : Result :=
  s.handleEvent core fun o => match o with
    | .stopref _ _ => true
    | _ => false
def execRefchkHome (core : Nat) (s : State) : Result :=
  s.handleEvent core fun o => match o with
    | .refchk => true
    | _ => false
def execHcfgHome (core : Nat) (s : State) : Result :=
  s.handleEvent core fun o => match o with
    | .hcfg _ _ => true
    | _ => false

end Sys2Proof.Machine
end

