-- ==== Sys2Proof/Machine/Matrix.lean ====
section
/-! DEFINITION. Matrix commands at issue (R243-R255, R286-R299): shape records, the checks of Table 11.2, the queue. -/

namespace Sys2Proof.Machine

/-! ## Shape records (R286, R287) -/

/-- A shape record with its fields. -/
structure Shape where
  base  : Nat
  tag   : Tag
  estr  : Int
  rstr  : Int
  sstr  : Int
  cols  : Nat
  rows  : Nat
  sbase : Nat
  /-- its zero fields are zero -/
  clean : Bool
  deriving DecidableEq, Repr

/-- The fields of a 32-byte record (Table 11.1). -/
def Shape.of (v : BitVec 256) : Shape :=
  { base := (v.extractLsb' 0 48).toNat
    tag := v.extractLsb' 112 16
    estr := (v.extractLsb' 96 16).toInt
    rstr := (v.extractLsb' 64 32).toInt
    sstr := (v.extractLsb' 160 32).toInt
    cols := (v.extractLsb' 144 16).toNat
    rows := (v.extractLsb' 128 16).toNat
    sbase := (v.extractLsb' 192 48).toNat
    clean := v.extractLsb' 48 16 = 0 && v.extractLsb' 240 16 = 0 }

/-- The bytes of an element. -/
def Shape.w (h : Shape) : Nat := max 1 (Tag.width h.tag / 8)

/-- The address of element (r, c). -/
def Shape.at_ (h : Shape) (r c : Nat) : Word := BitVec.ofInt 64 ((h.base : Int) + r * h.rstr + c * h.estr)

/-- The address of a scale byte. -/
def Shape.scaleAt (h : Shape) (line blk : Nat) : Word := BitVec.ofInt 64 ((h.sbase : Int) + line * h.sstr + blk)

/-- The address of the scale byte of element (r, c), which runs along a row, or along a column for a B operand; none when
the shape has no scales. -/
def Shape.scaleOf (h : Shape) (b : Bool) (r c : Nat) : Option Word :=
  if Tag.scm h.tag = 0 then none
  else some (if b then h.scaleAt c (r / Tag.block h.tag) else h.scaleAt r (c / Tag.block h.tag))

/-- The reasons of Table 11.10 for which a record is not well formed within limits of rows and columns. -/
def Shape.reasons (h : Shape) (rl cl : Nat) : List Nat :=
  (if 1 ≤ h.rows && h.rows ≤ rl && 1 ≤ h.cols && h.cols ≤ cl then [] else [1]) ++
  (if h.base % h.w = 0 && h.rstr % h.w = 0 && h.estr % h.w = 0 then [] else [4]) ++
  (if h.clean then [] else [8])

/-- A fault 0x2C with a reason and an operand (R299). -/
def bad2C (r pos : Nat) (va : Word) : Cause := mkCause 0x2C (r + pos * 256) va

/-- The lowest of some reasons as a fault of an operand. -/
def shapeStop (rs : List Nat) (pos : Nat) : Except Cause Unit :=
  match sortNat rs with
  | r :: _ => .error (bad2C r pos 0)
  | [] => .ok ()

/-! ## Type combinations (R250) -/

/-- The conditions of Table 9.2 on a binary8 operand. -/
def b8Ok (t : Tag) (scm : List Nat) : Bool :=
  Tag.cls t == 8 && !Tag.unsigned t && 2 ≤ Tag.prec t && Tag.prec t ≤ 5 && scm.contains (Tag.scm t)

/-- Kg of a combination of A, B and tile, none when it is not implemented. -/
def comboKg (a b z : Tag) (sparse : Bool) : Option Nat :=
  let f := Tag.cls z == 1 && Tag.scm z == 0
  let n := Tag.cls z == 4 && Tag.scm z == 0
  let i8 (t : Tag) : Bool := Tag.cls t == 6 || Tag.cls t == 7
  if f && ((Tag.cls a == 2 && Tag.cls b == 2) || (Tag.cls a == 3 && Tag.cls b == 3)) then some 32
  else if f && b8Ok a [0, 1, 2] && b8Ok b [0, 1, 2] then some 64
  else if n && i8 a && i8 b && !sparse then some 64
  else if f && Tag.cls a == 2 && b8Ok b [1] then some 32
  else none

/-- Whether a tag can be a tile's. -/
def tileTag (t : Tag) : Bool := (Tag.cls t == 1 || Tag.cls t == 4) && Tag.scm t == 0

/-! ## The forms of MMA (R291, R292) -/

/-- What a form of MMA names: tile, shapes, options, the metadata register with the sparse N, the index register with
the gathered M. -/
structure Mma where
  d  : Fin 8
  sa : Fin 8
  sb : Fin 8
  o  : MmaOpts
  sp : Option (Fin 32 × Nat)
  ga : Option (Fin 16 × Nat)
  deriving DecidableEq, Repr

/-- N of a sparse form. -/
def spN (n : Fin 3) : Nat := 16 * 2 ^ n.val

/-- The form of MMA that an instruction is. -/
def mmaOf : Instr → Option Mma
  | .mma _ d sa sb o => some { d, sa, sb, o, sp := none, ga := none }
  | .mmaSp _ d sa sb o s1 n => some { d, sa, sb, o, sp := some (s1, spN n), ga := none }
  | .mmaGa _ d sa sb o s2 m => some { d, sa, sb, o, sp := none, ga := some (s2, 8 * (m.val + 1)) }
  | .mmaSpga _ d sa sb o s1 n s2 m => some { d, sa, sb, o, sp := some (s1, spN n), ga := some (s2, 8 * (m.val + 1)) }
  | _ => none

/-- The tile rows of the command. -/
def Mma.rows (m : Mma) (a : Shape) : Nat := match m.ga with
  | some g => g.2
  | none => a.rows

/-- The stored elements of a row of A. -/
def Mma.stored (m : Mma) (k : Nat) : Nat := match m.sp with
  | some p => k * p.2 / 128
  | none => k

/-- The row of A that tile row `i` takes; none for a row of +0 (R253). -/
def Mma.row (m : Mma) (idx : Vec) (i : Nat) : Option Nat := match m.ga with
  | some _ => if lane idx 16 i = 0xFFFF then none else some (lane idx 16 i)
  | none => some i

/-! ## Tiles and shapes that a command names -/

/-- The tile that a command writes as its result (R290). -/
def mTile : Instr → Option (Fin 8)
  | .mma _ d _ _ _ | .mmaSp _ d _ _ _ _ _ | .mmaGa _ d _ _ _ _ _ | .mmaSpga _ d _ _ _ _ _ _ _ => some d
  | .mzero _ d _ | .mld _ d _ _ => some d
  | _ => none

/-- The shape record that a command loads. -/
def mShapeDst : Instr → Option (Fin 8)
  | .mshld _ d _ _ => some d
  | _ => none

/-- The shape records that a command reads. -/
def mShapes : Instr → List (Fin 8)
  | .mma _ _ a b _ | .mmaSp _ _ a b _ _ _ | .mmaGa _ _ a b _ _ _ | .mmaSpga _ _ a b _ _ _ _ _ => [a, b]
  | .mld _ _ a _ | .mst _ _ _ a => [a]
  | _ => []

/-- Whether a command's operands lie in memory. -/
def mMemory (i : Instr) : Bool := !(mShapes i).isEmpty

/-- The tag that a tile will hold once the queued commands have executed (R250). -/
def MEng.projTag (m : MEng) (z : Fin 8) : Tag :=
  m.q.foldl (fun t c => match c.op with
    | .mzero _ d tag => if d = z && c.gd != .known false then tag else t
    | .mld _ d _ tag => if d = z && c.gd != .known false then tag else t
    | _ => t) m.tiles[z].tag

/-- Whether the guard of a queued command decides what tag a tile will hold, and is still pending. -/
def MEng.tagOpen (m : MEng) (z : Fin 8) : Bool :=
  m.q.any fun c => (match c.gd with
    | .pend _ _ => true
    | .known _ => false) && match c.op with
      | .mzero _ d _ => d == z
      | .mld _ d _ _ => d == z
      | _ => false

/-! ## The checks at issue (Table 11.2) -/

/-- A byte or element that a command touches: its operand, address and width. -/
structure Need where
  pos : Nat
  va  : Word
  w   : Nat
  deriving DecidableEq, Repr

/-- The elements and scale bytes of some rows and columns of a shape. -/
def Shape.needs (h : Shape) (pos : Nat) (rows cols : List Nat) (b : Bool) : List Need :=
  rows.flatMap fun r => cols.flatMap fun c =>
    ⟨pos, h.at_ r c, h.w⟩ :: (match h.scaleOf b r c with
      | some a => [⟨pos, a, 1⟩]
      | none => [])

/-- A translated page: its virtual page, its panel, the physical address of its first byte, who touched it first. -/
structure MPage where
  vpn   : Nat
  panel : Nat
  base  : Nat
  pos   : Nat
  va    : Word
  deriving DecidableEq, Repr

/-- The pages of some needs translated in order: the first failure stops (R290, step 4). -/
def State.trPages (s : State) (perm : Perm) : List Need → List MPage → State × Except Cause (List MPage)
  | [], ps => (s, .ok ps)
  | n :: t, ps =>
    if ps.any fun p => p.vpn == n.va.toNat / 65536 then State.trPages s perm t ps
    else
      let r := s.tr s.cur.lcn s.me.ctxid n.va.toNat perm (.plain 8)
      match r.2 with
      | .bad c i => (r.1, .error (mkCause c i n.va))
      | .ok p pa =>
        State.trPages r.1 perm t (ps ++ [⟨n.va.toNat / 65536, p, pa / 65536 * 65536, n.pos, n.va⟩])

/-- Check 6 on a page (R251); of a handle window whose handle is valid, both buffers lie in pages that the context owns. -/
def State.pageOk (s : State) (write : Bool) (p : MPage) : Bool :=
  let l := s.cur.lcn
  p.panel == s.panelId &&
  if spaceOf p.base = 1 then
    let h := sliceLcn p.base
    clusterOf h == clusterOf l && (s.core h).owns (sliceOff p.base) 1 s.me.ctxid s.me.level &&
      !(write && (s.core h).inOverflow (sliceOff p.base) 1)
  else
    let c := s.core (winLcn p.base)
    let h := c.handles[winHandle p.base]?.getD {}
    spaceOf p.base == 3 && clusterOf (winLcn p.base) == clusterOf l &&
      (!h.v || [h.offa, h.offb].all fun o => c.owns o.toNat h.size s.me.ctxid s.me.level && !(write && c.inOverflow o.toNat h.size))

/-- Check 7 on a need: the reason of 0x0E, if any. -/
def State.needWindow (s : State) (write : Bool) (ps : List MPage) (n : Need) : Option Cause :=
  match ps.find? fun p => p.vpn == n.va.toNat / 65536 with
  | some p =>
    if spaceOf p.base = 3 then
      match s.window (p.base + n.va.toNat % 65536) n.w s.me.ctxid s.me.level write with
      | .inr r => some (mkCause 0x0E r n.va)
      | .inl _ => none
    else none
  | none => none

/-- Checks 5 to 7 of Table 11.2. -/
def State.mPages (s : State) (write : Bool) (ns : List Need) : State × Except Cause (List MPage) :=
  let r := s.trPages (if write then .w else .r) ns []
  match r.2 with
  | .error c => (r.1, .error c)
  | .ok ps =>
    match ps.find? fun p => !r.1.pageOk write p with
    | some p => (r.1, .error (bad2C 5 p.pos p.va))
    | none =>
      match (if ps.any fun p => spaceOf p.base == 3 then ns.findSome? (r.1.needWindow write ps) else none) with
      | some c => (r.1, .error c)
      | none => (r.1, .ok ps)

/-- A tag that must be valid at issue (check 2). -/
def mTagOk (bs : Vector Bound 16) (t : Tag) (pos : Nat) (need : Bool) : Except Cause Unit :=
  match tagReason bs t need with
  | some r => .error (bad22 r pos)
  | none => .ok ()

/-- What an MMA touches from dense position `k0` on: A, B, metadata. -/
def mmaTouched (m : Mma) (a b : Shape) (x1 : Word) (idx : Vec) (k0 : Nat) : List Need :=
  let k := b.rows
  let rows := m.rows a
  let from_ (n z : Nat) : List Nat := (List.range n).filter fun i => z ≤ i
  let e0 := match m.sp with
    | some p => k0 / 128 * p.2
    | none => k0
  let md : List Need := match m.sp with
    | some p =>
      let st := k * p.2 / 128
      (List.range rows).flatMap fun i => (from_ st e0).map fun e => ⟨3, x1 + word (i * st + e), 1⟩
    | none => []
  a.needs 1 ((List.range rows).filterMap (m.row idx)) (from_ (m.stored k) e0) false ++ b.needs 2 (from_ k k0) (List.range b.cols) true ++ md

/-- Checks 2 to 4 of an MMA, and what it touches. -/
def mmaNeeds (bs : Vector Bound 16) (tile : Tag) (m : Mma) (a b : Shape) (x1 : Word) (idx : Vec) (itag : Tag) :
    Except Cause (List Need) := do
  mTagOk bs tile 0 false
  mTagOk bs a.tag 1 true
  mTagOk bs b.tag 2 true
  orFault (comboKg a.tag b.tag tile m.sp.isSome).isSome (mkCause 0x20 0 0)
  let k := b.rows
  let dims : List Nat := [8, 16, 24, 32]
  shapeStop (a.reasons 65535 1024 ++ (if m.ga.isNone && !dims.contains a.rows then [2] else []) ++
    (if a.cols = m.stored k && (m.sp.isNone || k % 128 = 0) then [] else [3])) 1
  shapeStop (b.reasons 65535 1024 ++ (if dims.contains b.cols && k % 8 = 0 && k ≤ 1024 then [] else [2])) 2
  let rows := m.rows a
  match m.ga with
  | some _ =>
    shapeStop ((if Tag.cls itag = 5 then [] else [7]) ++
      if (List.range rows).all fun i => (m.row idx i).all fun r => r < a.rows then [] else [6]) 4
  | none => .ok ()
  return mmaTouched m a b x1 idx 0

/-- Checks 2 to 4 of MLD and MST (R295, R296), and what they touch. -/
def blockNeeds (bs : Vector Bound 16) (tile : Tag) (h : Shape) : Except Cause (List Need) := do
  mTagOk bs tile 0 false
  mTagOk bs h.tag 1 true
  orFault (tileTag tile && Tag.isFloat h.tag == Tag.isFloat tile) (mkCause 0x20 0 0)
  shapeStop (h.reasons 32 32) 1
  return h.needs 1 (List.range h.rows) (List.range h.cols) false

/-! ## Entering the queue (R243, R290) -/

/-- One more, or one less, result on its way to a tile or a shape record. -/
def MEng.mark (m : MEng) (i : Instr) (n : Nat → Nat) : MEng :=
  let m := match mTile i with
    | some z => { m with tiles := m.tiles.set z { m.tiles[z] with pend := n m.tiles[z].pend } }
    | none => m
  match mShapeDst i with
  | some h => { m with shp := m.shp.set h (n m.shp[h]) }
  | none => m

/-- A command put into the matrix queue; the thread parks while the queue is full. -/
def State.pushMat (s : State) (i : Instr) (g : CmdGuard) (f : MCmd → MCmd) (rnd : Nat := 0) : State :=
  if s.me.meng.q.length ≥ 4 then s.stopWith (.retry .engQueue)
  else
    let q : MCmd := f { slot := s.cur.slot.val, no := s.me.cmdNo, apc := s.here, gd := g, op := i, lfsr := s.thr.lfsr }
    let s := (s.stepLfsr i rnd).modThr fun t => t.markAll .matrix i.uses
    (s.modMe fun c =>
      { c with meng := { c.meng.mark i (· + 1) with q := c.meng.q ++ [q] }, cmdNo := c.cmdNo + 1 }).cmdIssued

/-- A check that fails at issue (R290). A command whose guard is pending raises no fault when it turns out false (R55): the thread
waits for the guard. -/
def State.matFault (s : State) (g : CmdGuard) (c : Cause) : State :=
  match g with
  | .pend _ _ => s.stopWith (.retry .guard)
  | .known _ => s.takeFault c

/-- PRES as it stands (Table 9.3). -/
def State.presBit (s : State) (cl m : Nat) : Bool :=
  match (s.cluster cl).pres with
  | some b => b.getLsbD m
  | none => s.present (memberLcn cl m)

/-- Whether a member has a queue: its core is present, and neither PRES nor CMUMAP marks it absent (R244, R248). -/
def State.memberOn (s : State) (cl m : Nat) : Bool :=
  s.present (memberLcn cl m) && s.presBit cl m && (s.die (cl / 4)).cmumap[Fin.ofNat 32 (cl % 4 * 8 + m)] != 15

/-- Whether the executing core's cluster runs no matrix command of it: matrix-absent (R265), or the member marked absent (R244,
log 130). -/
def State.noMatrix (s : State) : Bool :=
  let l := s.cur.lcn
  (s.cluster (clusterOf l)).mabs || !((List.range 8).any fun m => memberLcn (clusterOf l) m == l && s.memberOn (clusterOf l) m)

/-- The LFSR steps that a command takes at issue, whatever its guard (R153, R296, R297). -/
def State.matRounds (s : State) (i : Instr) : Nat :=
  match i with
  | .mst _ _ _ sa => (Shape.of s.me.meng.sh[sa]).rows * (Shape.of s.me.meng.sh[sa]).cols
  | .mrowred .. => 496
  | _ => 0

/-- A matrix command at issue: its tests, its shape records, an acquire before it (R230), the matrix unit (check 1); then
`k`. A command whose guard is false enters the queue without checks. -/
def State.matIssue (s : State) (i : Instr) (k : State → CmdGuard → State) : Result :=
  let s := s.begin
  let u := i.uses
  match s.gateEng u with
  | .stop c => .next (s.stopAt u c)
  | .skip =>
    if (mShapes i).any fun h => s.me.meng.shp[h] ≠ 0 then .next (s.stopWith (.retry .response))
    else .next (s.pushMat i (.known false) id (s.matRounds i))
  | .go =>
    if u.rx.any fun r => r ≠ 0 && s.thr.regs.xp[r].n ≠ 0 then .next (s.stopWith (.retry .response))
    else if (mShapes i).any fun h => s.me.meng.shp[h] ≠ 0 then .next (s.stopWith (.retry .response))
    else if mMemory i && s.thr.acq ≠ 0 then .next (s.stopWith (.retry .fence))
    else if (mShapeDst i).isNone && s.noMatrix then .next (s.matFault (s.cmdGuard u.gd) (mkCause 0x29 0 0))
    else .next (s.pops (k s (s.cmdGuard u.gd)) u.rx)

/-- The pages of a command for its queue entry, and the windows that it named. -/
def MCmd.withPages (q : MCmd) (ps : List MPage) : MCmd :=
  { q with pages := ps.map fun p => (p.vpn, p.base),
           wins := (ps.filter fun p => spaceOf p.base == 3).map fun p => winLcn p.base * 64 + winHandle p.base }

/-- A command with operands in memory: its checks, its pages, the queue. -/
def State.matPush (s : State) (i : Instr) (g : CmdGuard) (write : Bool) (ns : Except Cause (List Need))
    (f : MCmd → MCmd) (rnd : Nat := 0) : State :=
  match ns with
  | .error c => s.matFault g c
  | .ok ns =>
    let r := s.mPages write ns
    match r.2 with
    | .error c => r.1.matFault g c
    | .ok ps => r.1.pushMat i g (fun q => (f q).withPages ps) rnd

/-- The snapshot of a shape record. -/
def State.shape (s : State) (h : Fin 8) : BitVec 256 := s.me.meng.sh[h]

/-- A command that waits until the tag that a tile will hold is known. -/
def State.tagKnown (s : State) (z : Fin 8) (k : State → State) : State :=
  if s.me.meng.tagOpen z then s.stopWith (.retry .guard) else k s

/-- The bound sets as the queued BNDSETs will leave them (R210); none while an operand or a guard of one is pending. -/
def Core.bsAhead (c : Core) : Option (Vector Bound 16) :=
  c.veng.q.foldl (fun (b : Option (Vector Bound 16)) q => b.bind fun bs =>
    match q.op with
    | .bndset _ k clr mode _ =>
      match q.gd with
      | .known false => some bs
      | .pend _ _ => none
      | .known true =>
        if clr then some (bs.set k { bs[k] with v := false })
        else match nth none q.xs 0 with
          | some w =>
            let n : Bound := { v := true, mode, lo := w.extractLsb' 0 32, hi := w.extractLsb' 32 32 }
            some (if n.ok then bs.set k n else bs)
          | none => none
    | _ => some bs) (some c.bs)

/-- A command that waits until the bound sets that it will meet are known. -/
def State.bsKnown (s : State) (k : Vector Bound 16 → State) : State :=
  match s.me.bsAhead with
  | some bs => k bs
  | none => s.stopWith (.retry .guard)

/-- MMA and its forms (R291, R292). -/
def State.mmaIssue (s : State) (i : Instr) (m : Mma) : Result :=
  s.matIssue i fun s g => s.tagKnown m.d fun s => s.bsKnown fun bs =>
    let sa := s.shape m.sa
    let sb := s.shape m.sb
    let x1 := m.sp.elim 0 fun p => s.rx p.1
    let idx : Vec := m.ga.elim 0 fun p => s.thr.regs.v[p.1]
    let itag : Tag := m.ga.elim 0 fun p => s.thr.regs.vtag[p.1]
    s.matPush i g false
      (mmaNeeds bs (s.me.meng.projTag m.d) m (.of sa) (.of sb) x1 idx itag)
      fun q => { q with sa, sb, x1, idx }

def execMma (gd : Guard) (d sa sb : Fin 8) (o : MmaOpts) (s : State) : Result :=
  s.mmaIssue (.mma gd d sa sb o) { d, sa, sb, o, sp := none, ga := none }

def execMmaSp (gd : Guard) (d sa sb : Fin 8) (o : MmaOpts) (s1 : Fin 32) (spn : Fin 3) (s : State) : Result :=
  s.mmaIssue (.mmaSp gd d sa sb o s1 spn) { d, sa, sb, o, sp := some (s1, spN spn), ga := none }

def execMmaGa (gd : Guard) (d sa sb : Fin 8) (o : MmaOpts) (s2 : Fin 16) (mg : Fin 4) (s : State) : Result :=
  s.mmaIssue (.mmaGa gd d sa sb o s2 mg) { d, sa, sb, o, sp := none, ga := some (s2, 8 * (mg.val + 1)) }

def execMmaSpga (gd : Guard) (d sa sb : Fin 8) (o : MmaOpts) (s1 : Fin 32) (spn : Fin 3) (s2 : Fin 16) (mg : Fin 4)
    (s : State) : Result :=
  s.mmaIssue (.mmaSpga gd d sa sb o s1 spn s2 mg)
    { d, sa, sb, o, sp := some (s1, spN spn), ga := some (s2, 8 * (mg.val + 1)) }

/-- MZERO (R294). -/
def execMzero (gd : Guard) (d : Fin 8) (tag : Tag) (s : State) : Result :=
  s.matIssue (.mzero gd d tag) fun s g => s.bsKnown fun bs =>
    match (do mTagOk bs tag 0 false; orFault (tileTag tag) (mkCause 0x20 0 0)) with
    | .error c => s.matFault g c
    | .ok _ => s.pushMat (.mzero gd d tag) g id

/-- MLD (R295). -/
def execMld (gd : Guard) (d sa : Fin 8) (tag : Tag) (s : State) : Result :=
  s.matIssue (.mld gd d sa tag) fun s g => s.bsKnown fun bs =>
    let h := s.shape sa
    s.matPush (.mld gd d sa tag) g false (blockNeeds bs tag (.of h)) fun q => { q with sa := h }

/-- MST (R296): with stochastic rounding the LFSR advances by one step for each element. -/
def execMst (gd : Guard) (mode : RMode) (s3 sa : Fin 8) (s : State) : Result :=
  s.matIssue (.mst gd mode s3 sa) fun s g => s.tagKnown s3 fun s => s.bsKnown fun bs =>
    let h := s.shape sa
    s.matPush (.mst gd mode s3 sa) g true (blockNeeds bs (s.me.meng.projTag s3) (.of h))
      (fun q => { q with sa := h }) (s.matRounds (.mst gd mode s3 sa))

/-- MROWRED (R297). -/
def execMrowred (gd : Guard) (op : Red3) (mode : RMode) (part : Bool) (nc : BitVec 5) (d : Fin 16) (s1 : Fin 8)
    (s : State) : Result :=
  s.matIssue (.mrowred gd op mode part nc d s1) fun s g => s.tagKnown s1 fun s => s.bsKnown fun bs =>
    let t := s.me.meng.projTag s1
    match (do mTagOk bs t 0 false; orFault (tileTag t) (mkCause 0x20 0 0)) with
    | .error c => s.matFault g c
    | .ok _ => s.pushMat (.mrowred gd op mode part nc d s1) g id (s.matRounds (.mrowred gd op mode part nc d s1))

/-- MCNT (R298). -/
def execMcnt (gd : Guard) (clr : Bool) (d : Fin 32) (s1 : Fin 8) (s : State) : Result :=
  s.matIssue (.mcnt gd clr d s1) fun s g => s.pushMat (.mcnt gd clr d s1) g id

/-- MSHLD (R289): the read goes through the thread's memory path; the command waits for its data in the queue, and the access in the
path for the command's guard (R55). -/
def execMshld (gd : Guard) (d : Fin 8) (s1 : Fin 32) (off : BitVec 32) (s : State) : Result :=
  s.matIssue (.mshld gd d s1 off) fun s g =>
      let va := s.rx s1 + sext32 off
      match addrStop va 32 with
      | some c => s.matFault g c
      | none =>
        if s.cur.slot = 15 then s.matFault g (mkCause 0x1F (Instr.mshld gd d s1 off).opByte 0)
        else if s.me.meng.q.length ≥ 4 then s.stopWith (.retry .engQueue)
        else
          match s.orderStop false with
          | some c => s.stopWith c
          | none =>
            (s.pushMat (.mshld gd d s1 off) g id).enqueue
              { va, bytes := 32, perm := .r, op := .mem (.load 32), apc := s.here, cont := .mshld s.me.cmdNo }

end Sys2Proof.Machine
end

