-- ==== Sys2Proof/Machine/MatEngine.lean ====
section
/-! DEFINITION. The cluster's matrix unit (R160, R161, R243-R255, R264, R265, R289-R298): the arbiter, grants, results,
failure in service. -/

namespace Sys2Proof.Machine

/-! ## Operands (R251, R252, R255) -/

/-- The physical address of a byte that a command touches. -/
def MCmd.pa (c : MCmd) (va : Word) : Nat :=
  match c.pages.find? fun p => p.1 == va.toNat / 65536 with
  | some p => p.2 + va.toNat % 65536
  | none => 0

/-- The bytes of an operand as they stood at the command's start; none when their word cannot be used. -/
def MCmd.code (c : MCmd) (va : Word) (w : Nat) : Option Nat :=
  let pa := c.pa va
  if c.bad.contains (wordAt pa) then none else c.latch.map fun m => ofBytes (m.read pa w)

/-- The value of an element with its scale (R287): a NaN, or an integer zero, when its word cannot be used. -/
def MCmd.val (c : MCmd) (h : Shape) (b : Bool) (r k : Nat) : Val :=
  match c.code (h.at_ r k) h.w with
  | none => if Tag.isFloat h.tag then .nan else .fin false 0 1
  | some x =>
    match h.scaleOf b r k with
    | none => decodeElem h.tag x
    | some a =>
      match c.code a 1 with
      | some y => scaledVal (decodeElem h.tag x) (scaleVal (Tag.scm h.tag) y)
      | none => .nan

/-- The events of the scale of a block whose first element is (r, k). -/
def MCmd.scaleCount (c : MCmd) (h : Shape) (b : Bool) (r k : Nat) : Counts :=
  match h.scaleOf b r k with
  | some a => ((c.code a 1).elim {} (scaleEvent (Tag.scm h.tag)))
  | none => {}

/-- The columns of A that one grant covers. -/
def MCmd.kg (c : MCmd) (z : Tag) (m : Mma) : Nat :=
  ((comboKg (Shape.of c.sa).tag (Shape.of c.sb).tag z m.sp.isSome).getD 32) * if m.sp.isSome then 2 else 1

/-- What a command reads from grant `k` on. -/
def MCmd.needs (c : MCmd) (e : MEng) (k : Nat) : List Need :=
  match mmaOf c.op with
  | some m => mmaTouched m (.of c.sa) (.of c.sb) c.x1 c.idx (k * c.kg e.tiles[m.d].tag m)
  | none =>
    match c.op with
    | .mld .. => (Shape.of c.sa).needs 1 (List.range (Shape.of c.sa).rows) (List.range (Shape.of c.sa).cols) false
    | _ => []

/-- Whether a word that could not be used was read by a grant that is done. -/
def MCmd.tainted (c : MCmd) (e : MEng) : Bool :=
  c.tnt || (!c.bad.isEmpty &&
    let rest := c.needs e c.k
    (c.needs e 0).any fun n => c.bad.contains (wordAt (c.pa n.va)) && !rest.contains n)

/-- A command stopped for a pre-emption lets its operands go: it reads those that remain again after the restore (R252, R255). -/
def MCmd.unlatch (e : MEng) (c : MCmd) : MCmd := { c with latch := none, reads := [], bad := [], tnt := c.tainted e }

/-- A command whose windows name slice addresses: the published buffer for reads, the shadow buffer for writes, as they
stand now (R122). -/
def State.resolved (s : State) (l : Nat) (c : MCmd) (write : Bool) : MCmd :=
  { c with pages := c.pages.map fun p =>
      if spaceOf p.2 = 3 then
        match s.window p.2 1 (s.core l).ctxid (s.core l).level write with
        | .inl a => (p.1, a)
        | .inr _ => (p.1, 0)
      else p }

/-- The check bits of the words that a command reads: the words that cannot be used. -/
def State.scan (s : State) (ws : List Nat) : State × List Nat :=
  ws.foldl (fun r a =>
    let q := r.1.chkSlice (sliceLcn a) a
    (q.1, if q.2 = 0 && spaceOf a == 1 then r.2 else r.2 ++ [a])) (s, [])

/-- A command of a member's matrix queue changed. -/
def State.setMat (s : State) (l : Nat) (c : MCmd) : State :=
  s.modCore l fun k => { k with meng := { k.meng with q := k.meng.q.map fun x => if x.no = c.no then c else x } }

/-- Whether an accepted write to a word that a command reads has still to be served: in home order it comes before the command's
start (R232, R252). -/
def State.mLanding (s : State) (l : Nat) (c : MCmd) : Bool :=
  ((List.range 8).map (memberLcn (clusterOf l))).any fun h =>
    ((s.ni h).inq.any fun m => m.vc == 2 && !m.late) &&
      let c := s.resolved l c false
      (c.needs (s.core l).meng c.k).any fun n => sliceLcn (c.pa n.va) == h && s.landing h (c.pa n.va) n.w

/-- The start of a command: its operands as they stand; writes to them are held from now on (R252). -/
def State.mStart (s : State) (l : Nat) (c : MCmd) : State :=
  let ns := c.needs (s.core l).meng c.k
  let c := if ns.isEmpty then c else s.resolved l c false
  let ws := (ns.map fun n => wordAt (c.pa n.va)).foldl Marks.ins []
  let r := s.scan ws
  r.1.setMat l { c with started := true, reads := ws, bad := r.2, latch := some r.1.mem }

/-! ## Grants (R246, R249) -/

/-- The grants that a command needs (Table 9.1). -/
def MCmd.grants (c : MCmd) (e : MEng) : Nat :=
  match mmaOf c.op with
  | some m =>
    let g := c.kg e.tiles[m.d].tag m
    ((Shape.of c.sb).rows + g - 1) / g
  | none => 1

/-- Whether a command needs the array. -/
def needsGrant : Instr → Bool
  | .mshld .. | .mcnt .. => false
  | _ => true

/-- Whether a command waits for a BNDSET issued before it (R210). -/
def Core.bndAhead (c : Core) (no : Nat) : Bool := c.veng.q.any fun q => q.isBndset && q.no < no

/-- The tiles that a command reads or writes. -/
def mTiles (i : Instr) : List (Fin 8) :=
  match i with
  | .mst _ _ z _ => [z]
  | .mrowred _ _ _ _ _ _ z => [z]
  | .mcnt _ _ _ z => [z]
  | i => (mTile i).toList

/-- Whether a command may start while an earlier one, its grants done, has not completed (R247, R290): they share no tile, or are MMAs that
chain on one; and it reads no memory that the earlier one may still write. -/
def MCmd.mayFollow (q e : MCmd) : Bool :=
  ((mmaOf q.op).isSome && (mmaOf e.op).isSome || !(mTiles q.op).any (mTiles e.op).contains) &&
    !((e.op matches .mst ..) && ((mmaOf q.op).isSome || (q.op matches .mld ..)))

/-- The command of a member's queue whose grants come next: the first that is not done, if it may follow those before it. -/
def MEng.next (e : MEng) : Option MCmd :=
  (e.q.find? fun q => !q.done).filter fun q => (e.q.takeWhile MCmd.done).all q.mayFollow

/-- Whether a member is ready for a grant (R249). -/
def State.mReady (s : State) (cl m : Nat) : Bool :=
  let l := memberLcn cl m
  let c := s.core l
  s.memberOn cl m && c.stopping.isNone && c.meng.next.any fun q => needsGrant q.op &&
    (q.started || (!c.flt.frozen && q.gd == .known true && !c.bndAhead q.no)) && (q.latch.isSome || !s.mLanding l q)

/-- The weights of the members (Table 9.3). -/
def Cluster.weights (c : Cluster) : Vector Nat 8 :=
  Vector.ofFn fun m => c.cmuwt.toNat / 16 ^ m.val % 8 + 1

/-- One decision of the arbiter: the member, the pointer and the credits after it. -/
def arbiter (w : Vector Nat 8) (ready : Nat → Bool) (p : Nat) : Nat → Vector Nat 8 → Option (Nat × Nat × Vector Nat 8)
  | 0, _ => none
  | n + 1, left =>
    match ((List.range 8).map fun i => (p + i) % 8).find? fun m => ready m && 0 < left[m]?.getD 0 with
    | some m =>
      let k := left[m]?.getD 0 - 1
      some (m, if k = 0 then (m + 1) % 8 else m, left.setIfInBounds m k)
    | none => if (List.range 8).any ready then arbiter w ready p n w else none

/-- A grant decision. -/
def State.matrixGrant (s : State) (cl : Nat) : State :=
  let k := s.cluster cl
  if k.mabs || k.grant.isSome then s
  else match arbiter k.weights (s.mReady cl) k.p 2 k.c with
    | none => s
    | some (m, p, c) =>
      let s := s.modCluster cl fun k => { k with grant := some m, p, c }
      let l := memberLcn cl m
      match (s.core l).meng.next with
      | some q => if q.latch.isNone then s.mStart l q else s
      | none => s

/-! ## MMA (R160, R161, R292) -/

/-- The values of row `i` of A at the dense positions `k0` to `k0 + n - 1`: those that are stored there; none when the row
is one of +0. -/
def MCmd.rowVals (c : MCmd) (m : Mma) (i k0 n : Nat) : Option (List (List Val)) :=
  let a := Shape.of c.sa
  let sg (v : Val) : Val := if m.o.nega then vNeg v else v
  (m.row c.idx i).map fun r =>
    match m.sp with
    | none => (List.range n).map fun k => [sg (c.val a false r (k0 + k))]
    | some p =>
      let st := p.2
      let len := (Shape.of c.sb).rows * st / 128
      let e0 := k0 / 128 * st
      let e1 := min len ((k0 + n + 127) / 128 * st)
      let es := (List.range (e1 - e0)).map fun j =>
        let e := e0 + j
        (e / st * 128 + ((c.code (c.x1 + word (i * len + e)) 1).getD 0) % 128, sg (c.val a false r e))
      (List.range n).map fun k => (es.filter fun e => e.1 == k0 + k).map (·.2)

/-- The products of one group and whether an input was NaN: +0, and no input, at a position that no stored element names (R292; log 131).
DESIGN CHOICE: an infinite element under a scale of 0 counts as a NaN operand (R160; log 139). -/
def groupTerms (a : List (List Val)) (b : List Val) : List (Val × Bool) :=
  (a.zip b).flatMap fun p =>
    if p.1.isEmpty then [(.fin false 0 1, false)] else p.1.map fun x => ((vMul x p.2).1, x.isNan || p.2.isNan)

/-- One group added into a tile element (R160). -/
def addGroup (t : Tag) (acc : Nat × Counts) (terms : List (Val × Bool)) : Nat × Counts :=
  let s := terms.foldl (fun v x => (vAdd v x.1 .rne).1) (.fin false 0 1)
  let made := s.isNan && !terms.any (·.2)
  let cnt := if made && Tag.isFloat t then acc.2.add oneNan else acc.2
  let s' : Val × Counts :=
    if Tag.isFloat t then let q := conv s t .rne 0; (decodeElem t q.1, q.2) else (s, {})
  let r := finish (vAdd (decodeElem t acc.1) s'.1 .rne) t .rne 0
  (r.1, (cnt.add s'.2).add r.2)

/-- The work of one grant on one element: its groups of 16 in ascending order. -/
def mmaElem (t : Tag) (code : Nat) (row : Option (List (List Val))) (col : List Val) : Nat × Counts :=
  let a : List (List (Val × Bool)) := match row with
    | some r => ((VEnv.chunks 16 64 r).zip (VEnv.chunks 16 64 col)).map fun p => groupTerms p.1 p.2
    | none => (VEnv.chunks 16 64 col).map fun g => g.map fun _ => (.fin false 0 1, false)
  a.foldl (addGroup t) (code, {})

/-- The work of one grant of an MMA: the tile's elements and the counted events. -/
def MCmd.mmaStep (c : MCmd) (m : Mma) (z : Tile) : Tile × Counts :=
  let a := Shape.of c.sa
  let b := Shape.of c.sb
  let g := c.kg z.tag m
  let k0 := c.k * g
  let n := min g (b.rows - k0)
  let sg (v : Val) : Val := if m.o.negb then vNeg v else v
  let cols := (List.range b.cols).map fun j => (List.range n).map fun k => sg (c.val b true (k0 + k) j)
  let res := (List.range (m.rows a)).flatMap fun i =>
    let row := c.rowVals m i k0 n
    cols.zipIdx.map fun p =>
      let at_ := 32 * i + p.2
      let old := if m.o.accdis && c.k = 0 then 0 else ((z.e[at_]?).getD 0).toNat
      (at_, mmaElem z.tag old row p.1)
  ({ z with e := res.foldl (fun e p => e.setIfInBounds p.1 (BitVec.ofNat 32 p.2.1)) z.e },
   res.foldl (fun n p => n.add p.2.2) {})

/-- The scale events of a whole MMA: one for each block read (R148). -/
def MCmd.mmaScales (c : MCmd) (m : Mma) : Counts :=
  let a := Shape.of c.sa
  let b := Shape.of c.sb
  let firsts (t : Tag) (n : Nat) : List Nat :=
    if Tag.scm t = 0 then [] else (List.range n).filter fun k => k % Tag.block t == 0
  let ca := (List.range (m.rows a)).foldl (fun n i =>
    match m.row c.idx i with
    | some r => (firsts a.tag (m.stored b.rows)).foldl (fun n k => n.add (c.scaleCount a false r k)) n
    | none => n) ({} : Counts)
  (List.range b.cols).foldl (fun n j =>
    (firsts b.tag b.rows).foldl (fun n k => n.add (c.scaleCount b true k j)) n) ca

/-! ## The end of a grant -/

def State.setTile (s : State) (l : Nat) (z : Fin 8) (t : Tile) : State :=
  s.modCore l fun c => { c with meng := { c.meng with tiles := c.meng.tiles.set z t } }

/-- A message that a bank had held served again (R117); what the stages of R349 serve goes first into the message thread's buffer. -/
def State.serveBanked (s : State) (l : Nat) (m : Msg) : State :=
  match m.body with
  | .mem .. => s.serveMem l m
  | .vsend .. => s.serveVsend l m
  | .ringPush .. | .ringReturn .. => s.serveRing l m
  | .stagePut .. | .stageGet .. => s.modNi l fun n => { n with inq := m :: n.inq }
  | _ => s.serveLocal l m

/-- What waited at core `l` for the end of a gather (R117): stores of STW whose word is empty, pushes. -/
def State.ungathered (s : State) (l : Nat) : State :=
  (((s.core l).waits.filter fun w => w.kind matches .stw ..).foldl (fun s w => s.settle l w.at_) s).flush l

/-- The writes held in a cluster, served again in their order of arrival (R117, R252). -/
def State.releaseHolds (s : State) (cl : Nat) : State :=
  (List.range 8).foldl (fun s m =>
    let l := memberLcn cl m
    let hs := (s.core l).meng.holds
    if hs.isEmpty then s.ungathered l
    else
      let s := s.modCore l fun c => { c with meng := { c.meng with holds := [] } }
      (hs.foldl (fun s h => s.serveBanked l h.msg) s).ungathered l) s

/-- The bound check that ends an MMA (R165, R166): the tile, the hits, the element of a trap. -/
def MCmd.mmaBound (c : MCmd) (bs : Vector Bound 16) (f : Mma) (z : Tile) : Tile × Counts × Option Nat :=
  let at_ := (List.range (f.rows (.of c.sa))).flatMap fun i => (List.range (Shape.of c.sb).cols).map fun j => 32 * i + j
  let r := boundAll bs z.tag (at_.map fun i => (((z.e[i]?).getD 0).toNat, none))
  ({ z with e := (at_.zip r.1).foldl (fun e p => e.setIfInBounds p.1 (BitVec.ofNat 32 p.2)) z.e }, r.2.1, r.2.2.map fun i => nth 0 at_ i)

/-- A grant ends: its additions reach the tile, after the last one checked against their bounds, and then the held writes apply. -/
def State.matrixGrantEnd (s : State) (cl : Nat) : State :=
  match (s.cluster cl).grant with
  | none => s
  | some m =>
    let l := memberLcn cl m
    let s := s.modCluster cl fun k => { k with grant := none }
    match (s.core l).meng.next with
    | none => s
    | some c =>
      let last := c.k + 1 ≥ c.grants (s.core l).meng
      let s := match mmaOf c.op with
        | some f =>
          let z := (s.core l).meng.tiles[f.d]
          let r := c.mmaStep f z
          let cnt := (c.cnt.add r.2).add (if c.k = 0 then c.mmaScales f else {})
          let b := if last then c.mmaBound (s.core l).bs f r.1 else (r.1, {}, none)
          (s.setTile l f.d b.1).setMat l { c with k := c.k + 1, done := last, cnt := cnt.add b.2.1, trap := b.2.2 }
        | none => s.setMat l { c with k := c.k + 1, done := last }
      if last then s.releaseHolds cl else s

/-! ## Results (R165, R292-R298) -/

/-- A command has left its queue: its pending marks clear. -/
def State.popMat (s : State) (l : Nat) (c : MCmd) : State :=
  ((s.modCore l fun k =>
    { k with meng := { (k.meng.mark c.op (· - 1)) with q := k.meng.q.filter fun q => q.no != c.no } }).cmdDone l c.slot).serveWindows
      c.wins

/-- A command discarded: its destinations keep their values. -/
def State.dropMat (s : State) (l : Nat) (c : MCmd) : State :=
  ((s.modCore l fun k =>
    { k with meng := { (k.meng.mark c.op (· - 1)) with q := k.meng.q.filter fun q => q.no != c.no } }).discardCmd l c.slot
      c.op).serveWindows c.wins

/-- Events counted in the issuing slot. -/
def State.mCount (s : State) (l : Nat) (c : MCmd) (n : Counts) : State :=
  if c.slot < 16 then s.countSlot l (Fin.ofNat 16 c.slot) n else s.countCtx l n

/-- The end of a command: a threshold crossed by its events, a bound trap. -/
def State.mEnd (s old : State) (l : Nat) (c : MCmd) (trap : Option Nat) : State :=
  let k := Fin.ofNat 16 c.slot
  let s := old.threshold s l k 3 c.apc
  match trap with
  | some i => s.deferFault l k 3 c.apc (mkCause 0x25 i 0)
  | none => s

/-- The end of an MMA: its counters, TNT. -/
def State.mmaDone (s : State) (l : Nat) (c : MCmd) (f : Mma) : State :=
  let z := (s.core l).meng.tiles[f.d]
  let tnt := !c.bad.isEmpty || c.tnt || (z.tnt && !f.o.accdis)
  let s' := ((s.setTile l f.d { z with tnt }).countTile l f.d c.cnt).popMat l c
  s'.mEnd s l c c.trap

/-- MLD's tile. -/
def State.mldDone (s : State) (l : Nat) (c : MCmd) (d : Fin 8) (tag : Tag) : State :=
  let h := Shape.of c.sa
  let z := (s.core l).meng.tiles[d]
  let e : Vector (BitVec 32) 1024 := Vector.ofFn fun i =>
    let r := i.val / 32
    let k := i.val % 32
    if r < h.rows && k < h.cols then BitVec.ofNat 32 (conv (c.val h false r k) tag .rne 0).1 else 0
  let cnt := (List.range h.rows).foldl (fun n r =>
    let n := (List.range h.cols).foldl (fun n k => n.add (conv (c.val h false r k) tag .rne 0).2) n
    if Tag.scm h.tag = 0 then n
    else ((List.range h.cols).filter fun k => k % Tag.block h.tag == 0).foldl (fun n k => n.add (c.scaleCount h false r k)) n)
    ({} : Counts)
  let s' := ((s.setTile l d { z with e, tag, tnt := !c.bad.isEmpty }).mCount l c cnt).popMat l c
  s'.mEnd s l c none

/-- The elements of a tile in a destination format: codes with scale codes, scale codes by row, events (R296). -/
def mstCodes (h : Shape) (z : Tile) (mode : RMode) (lfsr : BitVec 32) :
    List (List (Nat × Option Nat)) × List (List Nat) × Counts :=
  (List.range h.rows).foldl (fun acc r =>
    let vs := (List.range h.cols).map fun k => decodeElem z.tag ((z.e[32 * r + k]?).getD 0).toNat
    let rnd (k : Nat) : Nat := if mode == .sr then rndOf lfsr (r * h.cols + k) else 0
    if Tag.scm h.tag = 0 then
      let q := VEnv.gather (vs.zipIdx.map fun p => conv p.1 h.tag mode (rnd p.2))
      (acc.1 ++ [q.1.map fun x => (x, none)], acc.2.1 ++ [[]], acc.2.2.add q.2)
    else
      let q := VEnv.scaledCodes h.tag vs mode rnd
      (acc.1 ++ [q.1.map fun x => (x.1, some x.2)], acc.2.1 ++ [q.2.1], acc.2.2.add q.2.2)) ([], [], {})

/-- The writes of an MST: elements, then scale bytes. -/
def mstWrites (h : Shape) (codes : List Nat) (scales : List (List Nat)) : List (Word × Nat × Nat) :=
  (codes.zipIdx.map fun p => (h.at_ (p.2 / h.cols) (p.2 % h.cols), h.w, p.1)) ++
    scales.zipIdx.flatMap fun p => p.1.zipIdx.map fun q => (h.scaleAt p.2 q.2, 1, q.1)

/-- MST's writes (R296): a word that cannot be merged keeps what it has, and the tile is tainted. -/
def State.mstDone (s : State) (l : Nat) (c : MCmd) (mode : RMode) (z : Fin 8) : State :=
  let h := Shape.of c.sa
  let t := (s.core l).meng.tiles[z]
  let y := mstCodes h t mode c.lfsr
  let r := boundAll (s.core l).bs h.tag (y.1.flatMap id)
  let ws := mstWrites h r.1 y.2.1
  let q := s.resolved l c true
  if ws.any fun w => s.gathered l (q.pa w.1) w.2.1 then s
  else
    let s' := if r.2.2.isSome then s
      else ws.foldl (fun s w =>
        let pa := q.pa w.1
        let k := if spaceOf pa = 1 then s.writeSlice (sliceLcn pa) pa (toBytes w.2.1 w.2.2) none else (s, 0x30)
        if k.2 = 0 then k.1.settle (sliceLcn pa) pa
        else k.1.setTile l z { (k.1.core l).meng.tiles[z] with tnt := true }) s
    ((s'.mCount l c (y.2.2.add r.2.1)).popMat l c).mEnd s l c r.2.2

/-- The operation of MROWRED as one of VRED. -/
def red3Op : Red3 → RedOp
  | .sum => .sum
  | .max => .max
  | .min => .min

/-- MROWRED's register (R297). -/
def State.mrowredDone (s : State) (l : Nat) (c : MCmd) (op : Red3) (mode : RMode) (part : Bool) (nc : Nat) (d : Fin 16)
    (z : Fin 8) : State :=
  let t := (s.core l).meng.tiles[z]
  let q := VEnv.gather ((List.range 16).map fun i =>
    let row := 32 * ((if part then 16 else 0) + i)
    VEnv.reduce t.tag (red3Op op) mode (fun j => rndOf c.lfsr (31 * i + j))
      ((List.range 32).map fun k => decide (k ≤ nc)) ((List.range 32).map fun k => ((t.e[row + k]?).getD 0).toNat))
  let r := boundAll (s.core l).bs t.tag (q.1.map fun x => (x, none))
  let s' := s.popMat l c
  let s' := if c.slot ≥ 16 then s'
    else if r.2.2.isSome then (s'.modSlot l (Fin.ofNat 16 c.slot) fun t => t.unmarkV d).arrived l (Fin.ofNat 16 c.slot)
    else s'.deliverV l (Fin.ofNat 16 c.slot) d (vecOf 32 r.1) t.tag
  (s'.mCount l c (q.2.add r.2.1)).mEnd s l c r.2.2

/-- The command at the head of a member's queue completes (R247). -/
def State.matrixComplete (s : State) (l : Nat) : State :=
  match (s.core l).meng.q with
  | [] => s
  | c :: _ =>
    if !c.done then s
    else match mmaOf c.op with
      | some f => s.mmaDone l c f
      | none =>
        match c.op with
        | .mzero _ d tag =>
          (s.modCore l fun k =>
            let t := { k.meng.tiles[d] with e := Vector.replicate 1024 0, tag, tnt := false }
            { k with meng := { k.meng with tiles := k.meng.tiles.set d t } }).popMat l c
        | .mld _ d _ tag => s.mldDone l c d tag
        | .mst _ mode z _ => s.mstDone l c mode z
        | .mrowred _ op mode part nc d z => s.mrowredDone l c op mode part nc.toNat d z
        | _ => s

/-! ## Commands without a grant (R289, R298) -/

/-- MCNT's value. -/
def Tile.mcnt (z : Tile) : Word :=
  word (z.tag.toNat + (if z.tnt then 2 ^ 16 else 0) +
    (List.range 4).foldl (fun n k => n + if z.ctr.get k = 0 then 0 else 2 ^ (17 + k)) 0)

/-- The paths whose head is the access of an MSHLD go on once the command's guard is known (R55). -/
def State.pumpShapes (s : State) (l : Nat) : State :=
  (List.range 15).foldl (fun s k =>
    match (s.slot l (Fin.ofNat 16 k)).path with
    | a :: _ => if a.cont matches .mshld _ then s.pump l (Fin.ofNat 16 k) else s
    | [] => s) s

/-- MSHLD or MCNT executes at the head of its queue, after the BNDSETs issued before it (R210); a command whose guard is false is
discarded there (R55). -/
def State.matrixHead (s : State) (l : Nat) : State :=
  match (s.core l).meng.q with
  | [] => s
  | c :: _ =>
    if (s.core l).flt.frozen || (s.core l).stopping.isSome || c.started then s
    else match c.gd with
      | .pend _ _ => s
      | .known false => s.dropMat l c
      | .known true =>
        if (s.core l).bndAhead c.no then s
        else match c.op with
        | .mshld _ d _ _ =>
          match c.data with
          | some v =>
            let s := (s.modCore l fun k => { k with meng := { k.meng with sh := k.meng.sh.set d v } }).popMat l c
            if c.slot < 16 then s.wakeMarker l (Fin.ofNat 16 c.slot) else s
          | none => s
        | .mcnt _ clr d z =>
          let t := (s.core l).meng.tiles[z]
          let s := if clr then s.setTile l z { t with tnt := false } else s
          let s := s.popMat l c
          if c.slot < 16 then s.deliverX l (Fin.ofNat 16 c.slot) d t.mcnt else s
        | _ => s

/-- The answer to the read of an MSHLD: its data wait for the command's turn. A refused read is a path fault (R214, R289): the access goes
back to the head of the thread's path, which repeats it at the resume. -/
def State.onMshld (s : State) (l : Nat) (q : Req) (r : Resp) (no : Nat) : State :=
  match (s.core l).meng.q.find? fun c => c.no == no with
  | none => s
  | some c =>
    if r.cause ≠ 0 then
      if c.slot ≥ 16 then (s.popMat l c).refused l q r
      else s.pathFault l q.k { va := q.va, bytes := 32, perm := .r, op := .mem (.load 32), apc := q.apc, cont := .mshld no }
        (s.slot l q.k).path r.cause r.info.toNat
    else
      let put (x : MCmd) : MCmd := if x.no = no then { x with data := some (BitVec.ofNat 256 (ofBytes r.data)) } else x
      s.modCore l fun k => { k with meng := { k.meng with q := k.meng.q.map put } }

/-! ## Failure in service (R265, R266) -/

/-- A member's commands discarded and its tiles cleared. -/
def State.clearMat (s : State) (l : Nat) : State :=
  let s := (s.core l).meng.q.foldl (fun s c => s.dropMat l c) s
  s.modCore l fun k =>
    { k with meng := { k.meng with tiles := Vector.ofFn fun i =>
        { k.meng.tiles[i] with e := Vector.replicate 1024 0, tag := 0, pend := 0 } } }

/-- The matrix unit of a cluster fails. -/
def State.cmuFailure (s : State) (cl : Nat) : State :=
  if (s.cluster cl).mabs then s
  else
    let ms := (List.range 8).map (memberLcn cl)
    let s := s.modCluster cl fun k => { k with mabs := true, cmboff := true, grant := none }
    let s := (ms.foldl State.clearMat s).releaseHolds cl
    let lo := (sortNat (ms.filter s.present)).headD (ms.headD 0)
    s.sendPacket Config.srcPctl
      { priv := 0, ctx := 0, lcn := lo, eng := 3, deff := false, frz := false, slot := 0, cause := 0x3B, pc := 0, apc := 0,
        faddr := 0, info := word cl, gtb := s.gtb, src := peerKey s.panelId (Config.srcDie (cl / 4)), fcnt := 0, record := 0 }

def execMatrixGrant (cluster : Nat) (s : State) : Result := .next (s.matrixGrant cluster)
def execMatrixGrantEnd (cluster : Nat) (s : State) : Result := .next (s.matrixGrantEnd cluster)
def execMatrixCommandComplete (core : Nat) (s : State) : Result := .next (s.matrixComplete core)
def execMatrixQueueHeadExecute (core : Nat) (s : State) : Result := .next ((s.matrixHead core).pumpShapes core)
def execCmuFailure (cluster : Nat) (s : State) : Result := .next (s.cmuFailure cluster)

end Sys2Proof.Machine
end

