-- ==== Sys2Proof/Machine/Copy.lean ====
section
/-! DEFINITION. The copy engine (R257-R264, R300-R304): copy records, COPY, COPYM and CPROM, the engine's segments, combining. -/

namespace Sys2Proof.Machine

/-! ## The copy record (R300, R301) -/

/-- A copy record with its fields (Table 11.5). -/
structure CopyRec where
  src  : Nat
  stag : Tag
  dst  : Nat
  dtag : Tag
  ndim : Nat
  pf   : Bool
  pub  : Bool
  aft  : Bool
  comb : Bool
  mask : Nat
  cwa  : Nat
  prog : Nat
  drs  : Int
  cnt  : List Nat
  sst  : List Int
  /-- its zero fields and unused dimension words are zero -/
  clean : Bool
  deriving DecidableEq, Repr

def CopyRec.of (ws : List Word) : CopyRec :=
  let w (i : Nat) : Word := nth 0 ws i
  let n := bits (w 2) 62 60 + 1
  let dim (d : Nat) : BitVec 32 := (w (4 + d / 2)).extractLsb' (32 * (d % 2)) 32
  { src := bits (w 0) 47 0, stag := (w 0).extractLsb' 48 16, dst := bits (w 1) 47 0, dtag := (w 1).extractLsb' 48 16,
    ndim := n, pf := bit (w 2) 59, pub := bit (w 2) 58, aft := bit (w 2) 57, comb := bit (w 2) 56,
    mask := bits (w 2) 55 48, cwa := bits (w 2) 47 0, prog := bits (w 3) 63 32, drs := ((w 3).extractLsb' 0 32).toInt,
    cnt := (List.range 8).map fun d => if d < n then ((dim d).extractLsb' 22 10).toNat + 1 else 1,
    sst := (List.range 8).map fun d => if d < n then ((dim d).extractLsb' 0 22).toInt else 0,
    clean := !bit (w 2) 63 && (List.range 8).all fun d => d < n || dim d == 0 }

/-- The element width in bytes of a tag; untagged elements are bytes (Table 11.5). -/
def elemBytes (t : Tag) : Nat := if t = 0 then 1 else max 1 (Tag.width t / 8)

/-- Element widths in bytes. -/
def CopyRec.ssz (r : CopyRec) : Nat := elemBytes r.stag
def CopyRec.dsz (r : CopyRec) : Nat := elemBytes r.dtag

/-- The number of elements, and of destination bytes. -/
def CopyRec.elems (r : CopyRec) : Nat := r.cnt.foldl (· * ·) 1
def CopyRec.total (r : CopyRec) : Nat := r.dsz * r.elems

/-- The digits of an element's number in the counts. -/
def digits : List Nat → Nat → List Nat
  | [], _ => []
  | c :: t, n => n % c :: digits t (n / c)

/-- The addresses of element `n` (R301). -/
def CopyRec.sa (r : CopyRec) (n : Nat) : Word :=
  let ds := digits r.cnt n
  BitVec.ofInt 64 (((ds.zip r.sst).zipIdx.map fun p =>
    (p.1.1 : Int) * p.1.2 * (if p.2 < 2 then (r.ssz : Int) else 64)).foldl (· + ·) (r.src : Int))

def CopyRec.da (r : CopyRec) (n : Nat) : Word :=
  let c0 := nth 1 r.cnt 0
  let c1 := nth 1 r.cnt 1
  let pitch : Int := if r.drs ≠ 0 then r.drs else c0 * r.dsz
  BitVec.ofInt 64 ((r.dst : Int) + (n % c0) * r.dsz + (n / c0 % c1) * pitch + (n / (c0 * c1)) * c1 * pitch)

/-- Whether the engine converts between two tags (R259). -/
def CopyRec.tagsOk (r : CopyRec) (bs : Vector Bound 16) : Bool :=
  r.stag == r.dtag || ((tagReason bs r.stag true).isNone && (tagReason bs r.dtag true).isNone && Tag.scm r.stag == 0 &&
    Tag.scm r.dtag == 0 && Tag.kind r.stag == Tag.kind r.dtag)

/-! ## Homes and the promise (R261, R378) -/

/-- The unloaded round trip from a core to the home of an address. -/
def State.homeLat (s : State) (l : Nat) (write : Bool) (p pa : Nat) : Nat :=
  if p ≠ s.panelId then 2 * s.oneWay l (Config.srcOpt 0) 0
  else if homeOf pa = l && spaceOf pa ≠ 2 then 8
  else
    let t := 2 * s.oneWay l (homeOf pa) (channelOf pa)
    if spaceOf pa = 2 then t + (if write then 43 else 113) else t + (if write then 7 else 11)

/-- The pages of some addresses as they are mapped now. -/
def State.mapped (s : State) (l : Nat) (vas : List Word) : State × List (Nat × Nat) :=
  let vs := vas.foldl (fun acc (va : Word) => if acc.contains (va.toNat / 65536) then acc else acc ++ [va.toNat / 65536]) []
  vs.foldl (fun r v =>
    if v ≥ 2 ^ 32 then r
    else
      let q := r.1.fill l (r.1.core l).ctxid (v * 65536)
      match q.2 with
      | .inl e => (q.1, r.2 ++ [(Pte.panel e.pte, e.pa (v * 65536))])
      | .inr _ => (q.1, r.2)) (s, [])

/-- The elements of a record from a byte on. -/
def CopyRec.from_ (r : CopyRec) (prog : Nat) : List Nat :=
  (List.range (r.elems - prog / r.dsz)).map fun i => prog / r.dsz + i

/-- The promise of a command of which `n` destination bytes are to be moved (R261, R304): the farthest home that its record names. -/
def State.promise (s : State) (l : Nat) (r : CopyRec) (n : Nat) (ahead : Option Word) : State × Word :=
  let b := max s.time (ahead.elim 0 BitVec.toNat)
  let es := r.from_ 0
  let a := s.mapped l (es.map r.sa)
  let z := a.1.mapped l (es.map r.da)
  let lat := (a.2.map fun p => z.1.homeLat l false p.1 p.2) ++ z.2.map fun p => z.1.homeLat l true p.1 p.2
  (z.1, word (b + lat.foldl max 8 + (n + 63) / 64 + if r.comb then 64 else 0))

/-! ## COPY and COPYM at issue (R302, R303) -/

/-- The reasons found at issue, in ascending order. -/
def State.copyReason (s : State) (l : Nat) (multi : Bool) (r : CopyRec) : State × Option Nat :=
  let early : Option Nat :=
    if !r.clean then some 2
    else if !r.tagsOk (s.core l).bs then some 3
    else if r.src % r.ssz ≠ 0 || r.dst % r.dsz ≠ 0 || r.drs % r.dsz ≠ 0 || r.total ≥ 2 ^ 32 || r.prog ≥ r.total ||
        r.prog % r.dsz ≠ 0 then some 4
    else none
  match early with
  | some n => (s, some n)
  | none =>
    let es := r.from_ r.prog
    let a := s.mapped l (es.map r.sa)
    let z := a.1.mapped l (es.map r.da)
    let outside := (a.2 ++ z.2).any fun p => spaceOf p.2 == 15
    let window := z.2.eraseDups.length == 1 && z.2.all fun p => spaceOf p.2 == 3
    (z.1, if outside || (r.pub && !window) || (r.pf && !r.pub) then some 6
          else if (if multi then r.mask == 0 else r.mask != 0) then some 7
          else if multi && r.comb then some 8 else none)

/-- Copies of a core: queued, or with their record still to come. -/
def Core.copies (c : Core) : Nat :=
  c.cq.length + (c.reqs.filter fun q => match q.cont with
    | .copyRec .. => true
    | _ => false).length +
  (c.slots.toList.flatMap Slot.path |>.filter fun a => match a.cont with
    | .copyRec .. => true
    | _ => false).length

/-- COPY and COPYM: the record is read through the memory path while the thread waits. -/
def State.copyIssue (s : State) (i : Instr) (d s1 : Fin 32) (multi : Bool) : Result :=
  let s := s.begin
  let u := i.uses
  match s.gateEng u with
  | .stop c => .next (s.stopAt u c)
  | .skip => .next s
  | .go =>
    match s.cmdGuard u.gd with
    | .pend _ _ => .next (s.stopWith (.retry .guard))
    | .known _ =>
      let va := s.rx s1
      let t :=
        if va.toNat ≥ 2 ^ 48 then s.takeFault ⟨0x09, 1, va⟩
        else if va.toNat % 64 ≠ 0 then s.deferFault s.cur.lcn s.cur.slot 4 s.here (mkCause 0x2D 1 va)
        else s.localOnMt va .r (.plain 64) fun s =>
          if s.me.copies ≥ 2 then s.stopWith (.retry .engQueue)
          else
            s.access va 64 .r (.mem (.load 64)) (.copyRec d multi va) false false fun s => s.stopWith (.wait .response)
      .next (s.pops t u.rx)

def execCopy (gd : Guard) (d s1 : Fin 32) (s : State) : Result := s.copyIssue (.copy gd d s1) d s1 false
def execCopym (gd : Guard) (d s1 : Fin 32) (s : State) : Result := s.copyIssue (.copym gd d s1) d s1 true

/-- The record has returned: it is checked, and the command enters the copy queue with its promise. -/
def State.onCopyRec (s : State) (l : Nat) (q : Req) (r : Resp) (d : Fin 32) (multi : Bool) (ra : Word) : State :=
  if r.cause ≠ 0 then s.refusedWait l q r
  else
    let ws := wordsOf 8 r.data
    let c := CopyRec.of ws
    let z := s.copyReason l multi c
    match z.2 with
    | some n => (z.1.completed l q.k).deferFault l q.k 4 q.apc (mkCause 0x2D n ra)
    | none =>
      let p := z.1.promise l c c.total ((z.1.core l).cq.getLast?.map CCmd.p)
      let t := p.1.slot l q.k
      let cmd : CCmd :=
        { slot := q.slot, apc := q.apc, multi, ra, words := ws, prog := c.prog, p := p.2,
          after := if c.aft then t.outst.map Out.id else [] }
      (((p.1.modCore l fun k => { k with cq := k.cq ++ [cmd] }).cmdIssued.putX l q.k d p.2)).completed l q.k

/-! ## CPROM (R304) -/

def execCprom (gd : Guard) (d s1 : Fin 32) (s : State) : Result :=
  s.run (.cprom gd d s1) fun s =>
    let va := s.rx s1
    match addrStop va 8 with
    | some c => s.takeFault c
    | none => s.notOnMt (.cprom gd d s1) fun s =>
      match s.me.cq.find? fun c => (CopyRec.of c.words).cwa == va.toNat && va != 0 with
      | some c => s.laterX d c.p
      | none => s.access va 8 .r (.mem .peekFe) (.cprom d va) false false fun s => s.awaitX d

/-- The full/empty bit of the word has returned. -/
def State.onCprom (s : State) (l : Nat) (q : Req) (r : Resp) (d : Fin 32) : State :=
  if r.cause ≠ 0 then s.refusedDst l q r [.x d]
  else s.deliverX l q.k d (if r.w ≠ 0 then 0 else BitVec.allOnes 64)

/-! ## The engine (R257, R258) -/

def CCmd.rcd (c : CCmd) : CopyRec := .of c.words

/-- Whether every byte of a command has been moved. -/
def CCmd.done (c : CCmd) : Bool := c.started && c.rcd.total ≤ c.prog

/-- The head of the copy queue changed. -/
def State.setCopy (s : State) (l : Nat) (c : CCmd) : State :=
  s.modCore l fun k => { k with cq := c :: k.cq.drop 1 }

/-- A write of the copy engine of core `l` to bytes at one home (R257): into its own slice, held there while a gather reads them (R117);
else a posted write. The cause and information of a refusal. -/
def State.copyStore (s : State) (l p pa : Nat) (bs : List Byte) (slot : Nat) (apc : Addr) : State × Nat × Nat :=
  let c := s.core l
  let m := s.reqMsg l p (homeOf pa) 2 0x02 bs.length (.mem pa (.store bs) slot apc)
  if !s.isLocal l p pa then (s.postedWrite 18 (homeKey p pa) m, 0, 0)
  else match (if spaceOf pa = 3 then s.window pa bs.length c.ctxid c.level true else .inl pa) with
    | .inr why => (s, 0x0E, why)
    | .inl a =>
      if s.gathered l a bs.length then (s.postedWrite 18 (homeKey p pa) m, 0, 0)
      else
        let q := s.writeOwned a bs c.ctxid c.level none
        (if q.2 = 0 then q.1.settle l a else q.1, q.2, 0)

/-- The progress written back into the record (R258). -/
def State.writeProg (s : State) (l : Nat) (c : CCmd) : State :=
  let r := s.tr l (s.core l).ctxid (c.ra.toNat + 0x18) .w .vec
  match r.2 with
  | .ok p pa => (r.1.copyStore l p (pa + 4) (toBytes 4 c.seg) c.slot c.apc).1
  | .bad _ _ => r.1

/-- A command back at the segment that it was to move, with what it had fetched dropped. -/
def CCmd.halt (c : CCmd) : CCmd := { c with started := false, prog := c.seg, fetched := none, got := [], busy := false, before := none }

/-- The engine stops: its progress is written back. -/
def State.stopCopy (s : State) (l : Nat) (c : CCmd) : State := (s.writeProg l c).setCopy l c.halt

/-- A fault of the command at the head (R258): it stays there. -/
def State.copyFault (s : State) (l : Nat) (c : CCmd) (f : Cause) : State :=
  ((s.writeProg l c).setCopy l { c.halt with flt := true }).deferFault l (Fin.ofNat 16 c.slot) 4 c.apc f

/-- The members that a COPYM names. -/
def CopyRec.members (r : CopyRec) (l : Nat) : List Nat :=
  ((List.range 8).filter fun m => r.mask.testBit m).map (memberLcn (clusterOf l))

/-- Whether a slice address of COPYM's destination can be written in every named member (R263). -/
def State.membersOk (s : State) (l : Nat) (r : CopyRec) (pa : Nat) : Bool :=
  spaceOf pa == 1 && clusterOf (sliceLcn pa) == clusterOf l &&
    (r.members l).all fun m => s.present m && (s.core m).owns (sliceOff pa) 1 (s.core l).ctxid (s.core l).level

/-- What a start-time check comes to: the completion word's address, if there is one, or a fault (R260, R263). -/
def State.copyStartCheck (s : State) (l : Nat) (c : CCmd) : State × Except Cause (Option Nat) :=
  let r := c.rcd
  let w := if r.cwa = 0 then (s, Except.ok none)
    else if r.cwa % 8 ≠ 0 then (s, .error (mkCause 0x2D 5 (word r.cwa)))
    else
      let t := s.tr l (s.core l).ctxid r.cwa .rw (.plain 8)
      match t.2 with
      | .bad k i => (t.1, .error (mkCause k i (word r.cwa)))
      | .ok p pa =>
        if p ≠ s.panelId || spaceOf pa ≠ 1 then (t.1, .error (mkCause 0x2D 5 (word r.cwa))) else (t.1, .ok (some pa))
  match w.2 with
  | .error f => (w.1, .error f)
  | .ok cw =>
    if !c.multi then (w.1, .ok cw)
    else
      let d := w.1.mapped l ((r.from_ c.prog).map r.da)
      if (d.2.all fun p => p.1 == s.panelId && d.1.membersOk l r p.2) &&
          (d.2.map fun p => sliceLcn p.2).eraseDups.length ≤ 1 && cw.all fun a => d.1.membersOk l r a then (d.1, .ok cw)
      else (d.1, .error (mkCause 0x2D 7 (word r.dst)))

/-- A command of the copy queue whose record is at `ra` changed. -/
def State.setCopyAt (s : State) (l : Nat) (ra : Word) (f : CCmd → CCmd) : State :=
  s.modCore l fun k => { k with cq := k.cq.map fun c => if c.ra = ra && c.restored then f c else c }

/-- The promise of the command ahead of the one whose record is at `ra`. -/
def Core.promiseAhead (k : Core) (ra : Word) : Option Word := ((k.cq.takeWhile fun c => !(c.ra == ra && c.restored)).getLast?).map CCmd.p

/-- A record read again after a restore (R302, R304): its words, its PROG, a promise for the bytes that remain. -/
def State.copyAgain (s : State) (l : Nat) (ra : Word) (ws : List Word) : State :=
  let r := CopyRec.of ws
  let z := s.promise l r (r.total - r.prog) ((s.core l).promiseAhead ra)
  z.1.setCopyAt l ra fun c => { c with words := ws, prog := r.prog, seg := r.prog, p := z.2, restored := false, busy := false }

/-- The record of a restored command read again: from the core's own slice at once, else by a request. -/
def State.copyReread (s : State) (l : Nat) (c : CCmd) : State × Option Cause :=
  let r := s.tr l (s.core l).ctxid c.ra.toNat .r .vec
  match r.2 with
  | .bad k i => (r.1, some (mkCause k i c.ra))
  | .ok p pa =>
    if s.isLocal l p pa then
      let q := r.1.readPa pa 64 (s.core l).ctxid (s.core l).level
      if q.2.1 ≠ 0 then (q.1, some (mkCause q.2.1 q.2.2.1 c.ra)) else (q.1.copyAgain l c.ra (wordsOf 8 q.2.2.2), none)
    else
      ((r.1.setCopyAt l c.ra fun c => { c with busy := true }).request l 18 c.apc c.ra (homeKey p pa) (.copyAgain c.ra)
        (s.reqMsg l p (homeOf pa) 0 0x01 64 (.mem pa (.load 64) c.slot c.apc)), none)

/-- The first restored command of a core whose record is still to be read again. -/
def Core.copyToReread (k : Core) : Option CCmd := k.cq.find? fun c => c.restored && !c.busy && !c.flt

/-- The next record of a restored core's queue read again. -/
def State.rereadCopy (s : State) (l : Nat) (c : CCmd) : State :=
  let q := s.copyReread l c
  match q.2 with
  | none => q.1
  | some f => (q.1.setCopyAt l c.ra fun c => { c with flt := true }).deferFault l (Fin.ofNat 16 c.slot) 4 c.apc f

/-- The records of a restored core's commands read again, in the order of its queue (R302). -/
def State.rereadFirst (s : State) (l : Nat) : State :=
  (s.core l).cq.foldl (fun s c => if c.restored && !c.flt then s.rereadCopy l c else s) s

/-- The record of a restored command has been read again at another home. -/
def State.onCopyAgain (s : State) (l : Nat) (q : Req) (r : Resp) (ra : Word) : State :=
  match (s.core l).cq.find? fun c => c.ra == ra && c.restored with
  | some c =>
    if r.cause ≠ 0 then
      (s.setCopyAt l ra fun c => { c with flt := true, busy := false }).deferFault l (Fin.ofNat 16 c.slot) 4 c.apc ⟨r.cause, r.info, q.va⟩
    else s.copyAgain l ra (wordsOf 8 r.data)
  | none => s

/-- Where an element of a copy lies on this panel, through a handle window as the window stands. -/
def State.copyAt (s : State) (l : Nat) (va : Word) (n : Nat) (write : Bool) : Option Nat :=
  match (s.tr l (s.core l).ctxid va.toNat (if write then .w else .r) .vec).2 with
  | .ok p pa =>
    if p ≠ s.panelId then none
    else if spaceOf pa = 3 then
      (match s.window pa n (s.core l).ctxid (s.core l).level write with
       | .inl a => some a
       | .inr _ => none)
    else some pa
  | .bad _ _ => none

/-- Where the elements of a command are written: with COPYM in every named member. -/
def State.copyDests (s : State) (l : Nat) (c : CCmd) : List Nat :=
  let r := c.rcd
  ((r.from_ 0).filterMap fun n => s.copyAt l (r.da n) r.dsz true).flatMap fun a =>
    if c.multi then (r.members l).map fun m => slicePa m (sliceOff a) else [a]

/-- Whether element `n` of a command is read from where the command writes. -/
def State.copyMeets (s : State) (l : Nat) (r : CopyRec) (ds : List Nat) (n : Nat) : Bool :=
  match s.copyAt l (r.sa n) r.ssz false with
  | some a => ds.any fun d => a < d + r.dsz && d < a + r.ssz
  | none => false

/-- Whether the source and the destination of a command overlap (R257). -/
def State.copyOverlaps (s : State) (l : Nat) (c : CCmd) : Bool :=
  let ds := s.copyDests l c
  (c.rcd.from_ 0).any (s.copyMeets l c.rcd ds)

/-- A command that starts: what it overlaps may be read as it stood now. -/
def State.copyStarted (s : State) (l : Nat) (c : CCmd) : CCmd :=
  { c with started := true, seg := c.prog, before := if s.copyOverlaps l c then some s.mem else none }

/-- The command at the head of the copy queue starts. -/
def State.copyStart (s : State) (l : Nat) : State :=
  match (s.core l).cq with
  | [] => s
  | c :: _ =>
    let k := s.core l
    let waits := c.slot < 16 && ((k.slot (Fin.ofNat 16 c.slot)).outst.any fun o => c.after.contains o.id)
    if k.flt.frozen || k.stopping.isSome then s
    else match k.copyToReread with
    | some r => s.rereadCopy l r
    | none =>
      if c.started || c.flt || c.restored || waits || c.comb = 1 || (c.rcd.comb && c.comb = 0) then s
      else
        let q := s.copyStartCheck l c
        match q.2 with
        | .error f => q.1.copyFault l c f
        | .ok _ => q.1.setCopy l (q.1.copyStarted l c)

/-- Where an element of a copy is read: panel and physical address. -/
def State.copySrc (s : State) (l : Nat) (r : CopyRec) (n : Nat) : State × Except Cause (Nat × Nat) :=
  let va := r.sa n
  let t := s.tr l (s.core l).ctxid va.toNat .r .vec
  match t.2 with
  | .bad k i => (t.1, .error (mkCause k i va))
  | .ok p pa => (t.1, .ok (p, pa))

/-- The bytes of one element at its source: the bytes, none when they are at another home, or a fault. -/
def State.copyRead (s : State) (l : Nat) (r : CopyRec) (n : Nat) : State × Except Cause (Option (List Byte)) :=
  let t := s.copySrc l r n
  match t.2 with
  | .error f => (t.1, .error f)
  | .ok (p, pa) =>
    if !s.isLocal l p pa then (t.1, .ok none)
    else
      let q := t.1.readPa pa r.ssz (s.core l).ctxid (s.core l).level
      (q.1, if q.2.1 = 0 then .ok (some q.2.2.2) else .error (mkCause q.2.1 q.2.2.1 (r.sa n)))

/-- Where a destination element at an address lies: in every named member for COPYM. -/
def State.copyPlaces (s : State) (l : Nat) (c : CCmd) (p pa : Nat) : List (Nat × Nat) :=
  if c.multi then (c.rcd.members l).map fun m => (s.panelId, slicePa m (sliceOff pa)) else [(p, pa)]

/-- Whether an element that is read or written in the core's own slice waits: posted writes that the core has accepted come before the
engine's accesses to their words. -/
def State.copyLanding (s : State) (l : Nat) (c : CCmd) (ns : List Nat) : Bool :=
  ns.any fun n =>
    (match (s.copySrc l c.rcd n).2 with
     | .ok (p, pa) => s.isLocal l p pa && s.landing l pa c.rcd.ssz
     | .error _ => false) ||
    match (s.tr l (s.core l).ctxid (c.rcd.da n).toNat .w .vec).2 with
    | .ok p pa => (s.copyPlaces l c p pa).any fun a => s.isLocal l a.1 a.2 && s.landing l a.2 c.rcd.dsz
    | .bad _ _ => false

/-- An element converted (R259). -/
def CopyRec.convert (r : CopyRec) (bs : List Byte) : List Byte × Counts :=
  if r.stag = r.dtag then (bs, {})
  else
    let q := conv (decodeElem r.stag (ofBytes bs)) r.dtag .rne 0
    (toBytes r.dsz q.1, q.2)

/-- A message of the engine that gathers the bytes of destination elements at another home. -/
structure CopyOut where
  panel : Nat
  pa    : Nat
  bs    : List Byte
  deriving DecidableEq, Repr

/-- Bytes for another home: added to a message whose bytes they follow there, up to 256, or in a message of their own. -/
def CopyOut.add (os : List CopyOut) (p pa : Nat) (bs : List Byte) : List CopyOut :=
  let fits (o : CopyOut) : Bool := o.panel == p && o.pa + o.bs.length == pa && homeKey p o.pa == homeKey p pa && o.bs.length + bs.length ≤ 256
  if os.any fits then os.map fun o => if fits o then { o with bs := o.bs ++ bs } else o else os ++ [⟨p, pa, bs⟩]

/-- Elements moved: how many; what is left of the data of other homes; the writes to other homes, and how many messages the NI can take;
the events, a fault. -/
structure CopyStep where
  s   : State
  got : List Byte
  out : List CopyOut := []
  room : Nat := postedMax
  moved : Nat := 0
  full : Bool := false
  cnt : Counts := {}
  flt : Option Cause := none
  deriving DecidableEq, Repr

/-- The bytes that element `n` of an overlapping command is read as (R257): as they stand, `bs`, or as they stood before the
command wrote them. -/
def State.copyOld (s : State) (l : Nat) (c : CCmd) (n : Nat) (bs : List Byte) : State × List Byte :=
  match c.before with
  | none => (s, bs)
  | some m =>
    (s.tickFree,
      match s.copyAt l (c.rcd.sa n) c.rcd.ssz false with
      | some a => if s.copyMeets l c.rcd (s.copyDests l c) n && Config.freeOverlap s.freeCtr then m.read a c.rcd.ssz else bs
      | none => bs)

/-- Bytes of a destination element written at one place. -/
def CopyStep.put (l : Nat) (c : CCmd) (va : Word) (bs : List Byte) (z : CopyStep) (a : Nat × Nat) : CopyStep :=
  match z.flt with
  | some _ => z
  | none =>
    if z.s.isLocal l a.1 a.2 then
      let q := z.s.copyStore l a.1 a.2 bs c.slot c.apc
      { z with s := q.1, flt := if q.2.1 = 0 then none else some (mkCause q.2.1 q.2.2 va) }
    else { z with out := CopyOut.add z.out a.1 a.2 bs }

/-- Element `n` moved, unless the NI has no room for what it would send. -/
def CopyStep.one (l : Nat) (c : CCmd) (z : CopyStep) (n : Nat) : CopyStep :=
  if z.flt.isSome || z.full then z
  else
    let r := c.rcd
    let d := z.s.tr l (z.s.core l).ctxid (r.da n).toNat .w .vec
    match d.2 with
    | .bad k i => { z with s := d.1, flt := some (mkCause k i (r.da n)) }
    | .ok p pa =>
      let rd := match c.fetched with
        | some bs => (d.1, Except.ok (some ((bs.drop (n * r.ssz)).take r.ssz)))
        | none => d.1.copyRead l r n
      match rd.2 with
      | .error f => { z with s := rd.1, flt := some f }
      | .ok b =>
        let o := rd.1.copyOld l c n (b.getD (z.got.take r.ssz))
        let q := r.convert o.2
        let at_ := o.1.copyPlaces l c p pa
        let z' := at_.foldl (CopyStep.put l c (r.da n) q.1) { z with s := o.1 }
        if z'.out.length > z.room then { z with full := true }
        else { z' with got := if b.isSome then z.got else z.got.drop r.ssz, cnt := z.cnt.add q.2, moved := z.moved + 1 }

/-- The gathered writes sent to their homes. -/
def CopyStep.send (l : Nat) (c : CCmd) (z : CopyStep) : State :=
  z.out.foldl (fun s o => (s.copyStore l o.panel o.pa o.bs c.slot c.apc).1) z.s

/-- The elements of the segment at a command's progress. -/
def CCmd.segment (c : CCmd) : List Nat :=
  let r := c.rcd
  (List.range ((min r.total (c.seg / 4096 * 4096 + 4096) - c.prog) / r.dsz)).map fun i => c.prog / r.dsz + i

/-- The elements of some, by number, whose source is at another home: panel, address, virtual address. -/
def State.copyAway (s : State) (l : Nat) (c : CCmd) (ns : List Nat) : List (Nat × Nat × Word) :=
  if c.fetched.isSome then []
  else ns.filterMap fun n =>
    match (s.copySrc l c.rcd n).2 with
    | .ok (p, pa) => if s.isLocal l p pa then none else some (p, pa, c.rcd.sa n)
    | .error _ => none

/-- The bytes, up to 256, of elements of width `w` that follow one another at the home of the first; `n` bytes are counted so far. -/
def runBytes (w : Nat) : Nat → List (Nat × Nat × Word) → Nat
  | n, a :: b :: t =>
    if a.1 = b.1 && a.2.1 + w = b.2.1 && homeKey a.1 a.2.1 = homeKey b.1 b.2.1 && n + 2 * w ≤ 256 then runBytes w (n + w) (b :: t) else n + w
  | n, _ => n + w

/-- The next bytes of elements at other homes asked for: one request of up to 256 bytes (R257). -/
def State.copyAsk (s : State) (l : Nat) (c : CCmd) (w : Nat) (a : Nat × Nat × Word) (rest : List (Nat × Nat × Word)) (k : Cont) : State :=
  let n := runBytes w 0 (a :: rest)
  s.request l 18 c.apc a.2.2 (homeKey a.1 a.2.1) k (s.reqMsg l a.1 (homeOf a.2.1) 0 0x01 n (.mem a.2.1 (.load n) c.slot c.apc))

/-- An element put into a list in rising order of a key. -/
def insKey (key : Nat → Nat) (n : Nat) : List Nat → List Nat
  | [] => [n]
  | a :: t => if key n < key a then n :: a :: t else a :: insKey key n t

/-- Whether every element of the segment is read and written in the core's own slice. -/
def State.copyInside (s : State) (l : Nat) (c : CCmd) : Bool :=
  (s.copyAway l c c.segment).isEmpty && c.segment.all fun n =>
    match (s.tr l (s.core l).ctxid (c.rcd.da n).toNat .w .vec).2 with
    | .ok p pa => (s.copyPlaces l c p pa).all fun a => s.isLocal l a.1 a.2
    | .bad _ _ => true

/-- The order in which the elements of the segment move: any order where the command overlaps itself (R257). -/
def State.copyOrder (s : State) (l : Nat) (c : CCmd) : List Nat :=
  if c.before.isSome && s.copyInside l c then c.segment.foldl (fun ns n => insKey (Config.freeOrder s.freeCtr) n ns) []
  else c.segment

/-- A segment of the command at the head moves as far as the NI has room: it ends, or the engine stops before it for a freeze or a
pre-emption; data at other homes are asked for first. -/
def State.copySegment (s : State) (l : Nat) : State :=
  match (s.core l).cq with
  | [] => s
  | c :: _ =>
    let k := s.core l
    if !c.started || c.flt || c.done || c.busy then s
    else if (k.flt.frozen || k.stopping.isSome) && c.prog = c.seg then s.stopCopy l c
    else match (s.copyAway l c c.segment).drop (c.got.length / c.rcd.ssz) with
      | a :: rest => (s.setCopy l { c with busy := true }).copyAsk l c c.rcd.ssz a rest .copyData
      | [] =>
        if s.copyLanding l c c.segment then s
        else
          let z := (s.copyOrder l c).foldl (CopyStep.one l c) { s, got := c.got, room := postedMax - (s.ni l).posted.length }
          let t := z.send l c
          match z.flt with
          | some f => t.copyFault l c f
          | none =>
            let prog := c.prog + z.moved * c.rcd.dsz
            let t := t.setCopy l { c with prog, seg := if z.full then c.seg else prog, got := z.got }
            let t' := if c.slot < 16 then t.countSlot l (Fin.ofNat 16 c.slot) z.cnt else t.countCtx l z.cnt
            t.threshold t' l (Fin.ofNat 16 c.slot) 4 c.apc

/-- Data from another home for the segment. -/
def State.onCopyData (s : State) (l : Nat) (q : Req) (r : Resp) : State :=
  match (s.core l).cq with
  | c :: _ =>
    if !c.busy || c.restored then s
    else if r.cause ≠ 0 then s.copyFault l c ⟨r.cause, r.info, q.va⟩
    else s.setCopy l { c with busy := false, got := c.got ++ r.data }
  | [] => s

/-! ## The end of a copy (R260) -/

/-- A completion word filled: in the core's own slice at once, else by a posted write; the cause of a refusal. -/
def State.copyFillAt (s : State) (l : Nat) (c : CCmd) (pa : Nat) : State × Nat :=
  let w := word c.rcd.total
  if homeOf pa = l then s.fillAt pa w (s.core l).ctxid (s.core l).level
  else (s.postedWrite 18 (homeKey s.panelId pa) (s.reqMsg l s.panelId (homeOf pa) 2 0x06 8 (.mem pa (.stf w) c.slot c.apc)), 0)

/-- The completion word, in every named member for COPYM: the cause of the first refusal. -/
def State.copyFill (s : State) (l : Nat) (c : CCmd) (pa : Nat) : State × Nat :=
  let at_ := if c.multi then (c.rcd.members l).map fun m => slicePa m (sliceOff pa) else [pa]
  at_.foldl (fun z a => if z.2 = 0 then z.1.copyFillAt l c a else z) (s, 0)

/-- Every write of the head command is performed: it publishes, then fills its completion word. -/
def State.copyComplete (s : State) (l : Nat) : State :=
  match (s.core l).cq with
  | [] => s
  | c :: t =>
    if !c.done || c.flt || (s.ni l).posted.any (·.slot == 18) then s
    else if c.rcd.pub && c.pub ≠ 2 then
      if c.pub = 1 then s
      else
        let r := s.tr l (s.core l).ctxid c.rcd.dst .w .vec
        match r.2 with
        | .bad k i => r.1.copyFault l c (mkCause k i (word c.rcd.dst))
        | .ok p pa =>
          (r.1.setCopy l { c with pub := 1 }).sendAccess l 18 c.apc (word c.rcd.dst) p pa 0x12 8
            (.handle (winHandle pa) (.publish c.rcd.pf)) .copyPub
    else
      let q := s.copyStartCheck l { c with prog := c.rcd.total }
      match q.2 with
      | .error f => q.1.copyFault l c f
      | .ok w =>
        let z := w.elim (q.1, 0) fun pa => q.1.copyFill l c pa
        if z.2 ≠ 0 then z.1.copyFault l c (mkCause z.2 0 (word c.rcd.cwa))
        else (z.1.modCore l fun k => { k with cq := t }).cmdDone l c.slot

/-- The publish on completion has applied, or was refused. -/
def State.onCopyPub (s : State) (l : Nat) (q : Req) (r : Resp) : State :=
  match (s.core l).cq with
  | c :: _ =>
    if r.cause ≠ 0 then (s.copyFault l { c with pub := 0 } ⟨r.cause, r.info, q.va⟩)
    else s.setCopy l { c with pub := 2 }
  | [] => s

/-! ## Combining (R262) -/

/-- What two combined requests must have in common. -/
def State.combKey (s : State) (l : Nat) (c : CCmd) : State × List Word :=
  let r := c.rcd
  let a := s.mapped l ((r.from_ 0).map r.sa)
  (a.1, [word r.stag.toNat, word r.dtag.toNat, word r.ndim, word (r.src % 65536), word c.prog] ++ c.words.drop 4 ++
    a.2.map fun p => word (p.1 * 2 ^ 48 + p.2))

/-- The copy queue with the way of one of its commands through the node changed. -/
def State.setComb (s : State) (l : Nat) (ra : Word) (f : CCmd → CCmd) : State :=
  s.modCore l fun k => { k with cq := k.cq.map fun c => if c.ra = ra && c.comb ≠ 2 then f c else c }

/-- The node gets the first COMB command of a core that has not reached it: it joins a window, opens one, or runs alone. -/
def State.combineRequest (s : State) (l : Nat) : State :=
  let cl := clusterOf l
  match (s.core l).cq.find? fun c => c.rcd.comb && c.comb == 0 with
  | none => s
  | some c =>
    let waits := c.slot < 16 && ((s.slot l (Fin.ofNat 16 c.slot)).outst.any fun o => c.after.contains o.id)
    if waits || (s.core l).cq.any (·.comb == 1) || (s.core l).flt.frozen || (s.core l).stopping.isSome then s
    else
      let n := s.cluster cl
      let alone (s : State) : State := s.setComb l c.ra fun c => { c with comb := 2 }
      if n.mabs || n.cmboff || c.restored || c.prog ≠ 0 then alone s
      else
        let k := s.combKey l c
        let s := k.1
        let ctx := (s.core l).ctxid
        let fits (w : Window) : Bool := !w.closed && w.ctx == ctx && w.key == k.2 && s.time < w.at_ + 64 && !w.mem.contains l
        if n.wins.any fits then
          (s.modCluster cl fun n => { n with wins := n.wins.map fun w => if fits w then { w with mem := w.mem ++ [l] } else w }).setComb
            l c.ra fun c => { c with comb := 1 }
        else if (n.wins.filter fun w => !w.closed).length < 8 then
          (s.modCluster cl fun n => { n with wins := n.wins ++ [{ at_ := s.time, ctx, key := k.2, mem := [l] }] }).setComb
            l c.ra fun c => { c with comb := 1 }
        else alone s

/-- What a combined fetch has read: the bytes, the element that is asked for next at another home, whether a part cannot be read. -/
structure CombStep where
  s   : State
  got : List Byte := []
  ask : Option Nat := none
  bad : Bool := false
  deriving DecidableEq, Repr

/-- Element `n` of a combined fetch read by core `l`. -/
def CombStep.one (l : Nat) (r : CopyRec) (z : CombStep) (n : Nat) : CombStep :=
  if z.bad || z.ask.isSome then z
  else
    let q := z.s.copyRead l r n
    match q.2 with
    | .ok (some b) => { z with s := q.1, got := z.got ++ b }
    | .ok none => { z with s := q.1, ask := some n }
    | .error _ => { z with s := q.1, bad := true }

/-- The source of a record read by core `l`, from what has been read on, up to the first element at another home. -/
def State.combFetch (s : State) (l : Nat) (r : CopyRec) (got : List Byte) : CombStep :=
  ((List.range (r.elems - got.length / r.ssz)).map (got.length / r.ssz + ·)).foldl (CombStep.one l r) { s, got }

/-- The members that are still in a window: the others were stopped, and go on alone. -/
def State.windowLive (s : State) (w : Window) : List Nat := w.mem.filter fun l => (s.core l).cq.any (·.comb == 1)

/-- Whether a window may close: 64 cycles have passed, or every present member of the context has joined. -/
def State.windowDue (s : State) (cl : Nat) (w : Window) : Bool :=
  w.at_ + 64 ≤ s.time ||
    (((List.range 8).map (memberLcn cl)).filter fun l => s.present l && (s.core l).ctxid == w.ctx).all (s.windowLive w).contains

/-- Window `i` of a node changed. -/
def State.setWindow (s : State) (cl i : Nat) (w : Window) : State := s.modCluster cl fun n => { n with wins := n.wins.set i w }

/-- The members of a window go on, with what was fetched for them. -/
def State.windowDone (s : State) (cl i : Nat) (w : Window) (bs : Option (List Byte)) : State :=
  (s.windowLive w).foldl (fun s l =>
    s.modCore l fun k => { k with cq := k.cq.map fun c => if c.comb = 1 then { c with comb := 2, fetched := bs } else c })
    (s.modCluster cl fun n => { n with wins := n.wins.eraseIdx i })

/-- The one fetch of a window that has closed, by its opener's engine: it asks for what lies at other homes; at its end the members
go on. -/
def State.windowFetch (s : State) (cl i : Nat) (w : Window) : State :=
  match w.mem with
  | [] => s.windowDone cl i w none
  | l :: _ =>
    if w.busy then s
    else if (s.windowLive w).isEmpty then s.windowDone cl i w none
    else
      let r := CopyRec.of w.words
      let z := s.combFetch l r w.got
      match z.ask with
      | some n =>
        let c : CCmd := { slot := 16, apc := 0, multi := false, ra := 0, words := w.words }
        match z.s.copyAway l c ((List.range (r.elems - n)).map (n + ·)) with
        | a :: rest => (z.s.setWindow cl i { w with got := z.got, busy := true }).copyAsk l c r.ssz a rest (.combData cl)
        | [] => z.s.windowDone cl i w none
      | none => z.s.windowDone cl i w (if z.bad then none else some z.got)

/-- A window closes; one that has closed goes on with its fetch. -/
def State.combineClose (s : State) (cl i : Nat) : State :=
  match (s.cluster cl).wins[i]? with
  | none => s
  | some w =>
    if w.closed then s.windowFetch cl i w
    else if !s.windowDue cl w then s
    else
      let live := s.windowLive w
      let ws := match live.head? with
        | some l => (((s.core l).cq.find? fun c => c.comb == 1).map CCmd.words).getD []
        | none => []
      let w := { w with closed := true, mem := live, words := ws }
      (s.setWindow cl i w).windowFetch cl i w

/-- Data of a combined fetch have come to the opener: the fetch goes on, or its members go on alone. -/
def State.onCombData (s : State) (l cl : Nat) (r : Resp) : State :=
  match (s.cluster cl).wins.findIdx? fun w => w.closed && w.busy && w.mem.head? == some l with
  | none => s
  | some i =>
    match (s.cluster cl).wins[i]? with
    | some w =>
      if r.cause ≠ 0 then s.windowDone cl i w none else s.setWindow cl i { w with got := w.got ++ r.data, busy := false }
    | none => s

def execCopyCommandStart (core : Nat) (s : State) : Result := .next (s.copyStart core)
def execCopySegmentEnd (core : Nat) (s : State) : Result := .next (s.copySegment core)
def execCopyComplete (core : Nat) (s : State) : Result := .next (s.copyComplete core)
def execCombineRequest (core : Nat) (s : State) : Result := .next (s.combineRequest core)
def execCombineWindowClose (cluster k : Nat) (s : State) : Result := .next (s.combineClose cluster k)

end Sys2Proof.Machine
end

