-- ==== Sys2Proof/Machine/Accept.lean ====
section
/-! DEFINITION. How an NI takes the messages that reach it (R215, R352, R379, R380, R393): in sequence, into its buffers, into a
parked-message ring, or not at all; and how refused messages are sent again. -/

namespace Sys2Proof.Machine

/-! ## What reaches an agent -/

/-- Messages of VC 0, VC 2 and VC 3 under way to an agent of the panel. -/
def State.arriving (s : State) (a : Nat) : List Msg :=
  s.net.filter fun m => m.dest == a && m.dpanel == s.panelId && (m.vc == 0 || m.vc == 2 || m.vc == 3)

/-- The messages of a list with no earlier one of the same source and channel: routes keep the order of a pair (R228). -/
def firsts (key : Msg → Nat × Nat × Nat) : List (Nat × Nat × Nat) → List Msg → List Msg
  | _, [] => []
  | seen, m :: t => if seen.contains (key m) then firsts key seen t else m :: firsts key (key m :: seen) t

/-- The messages that an agent's NI could take next. -/
def State.heads (s : State) (a : Nat) : List Msg := firsts (fun m => (m.spanel, m.src, m.vc)) [] (s.arriving a)

/-- A message taken off the mesh. -/
def State.unsend (s : State) (m : Msg) : State := { s with net := s.net.erase m }

/-- A refusal of a message by an NI, which is a response on VC 1. -/
def State.nack (s : State) (a : Nat) (m : Msg) (r : Resp) : State :=
  s.post { dpanel := m.spanel, dest := m.src, spanel := s.panelId, src := a, vc := 1, kind := 0, seq := m.seq, ctx := m.ctx,
           body := if m.vc = 2 then .credNack (if r.cause ≠ 0 then 1 else if r.info ≠ 0 then 2 else 0) else .resp m.vc r }

/-- The slot and the PC that a posted write names. -/
def Msg.sender (m : Msg) : Nat × Addr :=
  match m.body with
  | .vsend _ _ _ _ _ slot apc => (slot, apc)
  | .mem _ _ slot apc => (slot, apc)
  | .ringPush _ _ _ _ _ slot _ apc => (slot, apc)
  | _ => (16, 0)

/-- The copy of a posted write dropped (R358): its thread holds the signal that it is performed. -/
def State.dropPosted (s : State) (a : Nat) (p : Posted) : State :=
  let s := s.modNi a fun n => { n with posted := n.posted.filter fun q => q.id != p.id }
  if a < 8192 && p.slot < 16 then
    s.modSlot a (Fin.ofNat 16 p.slot) fun t => { t with outst := t.outst.filter fun o => o.id != p.id || o.vc != 2 }
  else s

/-- The copy of the posted write that a message is. -/
def State.copyOf (s : State) (a panel dest seq : Nat) : Option Posted :=
  (s.ni a).posted.find? fun p => p.msg.dest == dest && p.msg.dpanel == panel && p.msg.seq == seq

/-- A message without a route, or to an absent core (R375): its master faults with 0x35. -/
def State.unrouted (s : State) (m : Msg) : State :=
  let s := s.unsend m
  if m.vc = 2 then
    match s.copyOf m.src m.dpanel m.dest m.seq with
    | some p =>
      let s := s.dropPosted m.src p
      if m.src < 8192 && p.slot < 16 then
        s.deferFault m.src (Fin.ofNat 16 p.slot) 5 m.sender.2 (mkCause 0x35 0 0)
      else s
    | none => s
  else
    s.send { dpanel := m.spanel, dest := m.src, spanel := m.dpanel, src := m.dest, vc := 1, kind := 0, seq := m.seq,
             ctx := m.ctx, body := .resp m.vc { cause := 0x35 } }

/-- Whether a message can reach its destination. -/
def State.reachable (s : State) (m : Msg) : Bool :=
  m.spanel != s.panelId ||
    ((m.dest ≥ 8192 || s.present m.dest) &&
      (((s.dead.isEmpty && s.dies.all fun d => d.2.links.all fun k => !k.down)) || s.routed m.src m.dest 0))

/-! ## Parked-message rings (R352) -/

/-- The bytes that a message takes in a parked-message ring. -/
def ringBytes (ms : List Msg) : Nat := ms.foldl (fun n m => n + m.logged) 64

/-- The number of the save block of a context's core: by context and packed CCN. -/
def saveKey (ctx ccn : Nat) : Nat := ctx * 65536 + ccn

/-- The save block that holds, or will hold, core `l` of a context. -/
def State.saveOf (s : State) (ctx l : Nat) : Option Nat :=
  match s.pctl.saves.find? fun e => e.1 / 65536 == ctx && e.2.lcn == l with
  | some e => some e.1
  | none => ((s.ctx ctx).ccnOf l).map (saveKey ctx)

/-- Whether the NI of core `l` diverts a message of a context (R351, R352): its message thread has stopped for the context's pre-emption,
or the context is saved. Answers are diverted from the core's acknowledgement on: its engines wait for those that come before. -/
def State.diverts (s : State) (l : Nat) (m : Msg) : Bool :=
  let c := s.core l
  l < 8192 && (((if m.vc = 1 then c.acked else c.diverted) && c.ctxid == m.ctx) || (s.ctx m.ctx).st == .saved)

/-- A message that the parked-message engine takes, or refuses when the ring is full or its page is uncorrectable (R352, R359);
whether it was taken. -/
def State.divert (s : State) (l : Nat) (m : Msg) : State × Bool :=
  match s.saveOf m.ctx l with
  | none => (s, false)
  | some k =>
    let b := Fmap.get {} s.pctl.saves k
    if b.bad then (if m.vc = 1 then s else (s.unsend m).nack l m { cause := 0x33 }, false)
    else if ringBytes (b.ring ++ [m]) > 262144 then
      (if m.vc = 1 then s else (s.unsend m).nack l m { retry := true, info := 1 }, false)
    else
      let s := (s.unsend m).modPctl fun p => { p with saves := Fmap.set p.saves k { b with ring := b.ring ++ [m], lcn := l } }
      (s.modStill l m.ctx fun w => { w with rcvd := w.rcvd + 1 }, true)

/-! ## Acceptance (R379, R380) -/

/-- The capacity of an NI's request buffer and of its posted buffer. -/
def inboundMax : Nat := 64

/-- The answer that a home still holds of a request that it has served (R380): in the send log of a checkpointed context, or
among its last 64 answers. -/
def State.keptAnswer (s : State) (a : Nat) (m : Msg) : Option Msg :=
  let mine (x : Msg) : Bool := x.vc == 1 && x.dest == m.src && x.dpanel == m.spanel && x.seq == m.seq &&
    match x.body with
    | .resp 0 _ => true
    | _ => false
  let logged := if s.logs a m.ctx then (s.core a).ckpt.slog.find? mine else none
  logged.orElse fun _ => (s.ni a).resps.find? mine

/-- Whether a home still holds the first copy of a request unanswered: in its buffer, in a wait table, under a gather. -/
def State.holdsCopy (s : State) (a : Nat) (m : Msg) : Bool :=
  let same (x : Msg) : Bool := x.src == m.src && x.spanel == m.spanel && x.vc == m.vc && x.seq == m.seq
  let mine (r : Reply) : Bool := r.src == m.src && r.panel == m.spanel && r.vc == m.vc && r.seq == m.seq
  (s.ni a).inq.any same || a < 8192 &&
    ((s.core a).links.ringWait.any same || (s.core a).meng.holds.any (fun h => same h.msg) ||
      (s.core a).waits.any fun w => match w.kind with
        | .ldw r | .ldt r | .stw r _ | .lrq r _ _ | .stagePut r _ | .arm _ (some r) => mine r
        | .handle x | .group x => same x
        | _ => false)

/-- Whether a posted message's credit leaves when it is applied, not when it is accepted: a write that its bank holds (R117, R215), a
push that a full deque may refuse (R33), a re-fire at a memory bridge, which may be down (R285). -/
def State.creditsLate (s : State) (a : Nat) (m : Msg) : Bool :=
  match m.body with
  | .push .. => true
  | .ctl _ _ (.refire ..) => 8192 ≤ a || (s.writesOf m).any fun p => s.gathered a p.1 p.2
  | _ => decide (a < 8192) && (s.writesOf m).any fun p => s.gathered a p.1 p.2

/-- Whether the credit of a posted message that agent `a` holds is still to come. -/
def State.owesCredit (s : State) (a : Nat) (m : Msg) : Bool :=
  let same (x : Msg) : Bool := x.src == m.src && x.spanel == m.spanel && x.vc == m.vc && x.seq == m.seq && x.late
  (s.ni a).inq.any same || decide (a < 8192) && (s.core a).meng.holds.any fun h => same h.msg

/-- How far a sequence number stands from the one expected: 0 as expected, below 2^20 newer, else older. -/
def seqGap (got want : Nat) : Nat := (got + 2 ^ 21 - want) % 2 ^ 21

/-- The number expected of a peer's next message of a kind; a read of a line is expected always. -/
def SeqEnt.want (e : SeqEnt) (m : Msg) : Nat := if m.isLine then m.seq else if m.seeks then e.rxs else if m.vc = 0 then e.rx0 else e.rx2

/-- The entry once a message has been accepted; the numbers of searches may have gaps. -/
def SeqEnt.took (e : SeqEnt) (m : Msg) : SeqEnt :=
  let n := (m.seq + 1) % 2 ^ 21
  if m.isLine then e else if m.seeks then { e with rxs := n } else if m.vc = 0 then { e with rx0 := n } else { e with rx2 := n }

/-- Whether a system message asks for no answer. -/
def Msg.oneWay (m : Msg) : Bool :=
  match m.body with
  | .packet _ | .range _ | .commit _ _ _ | .checkpoint | .groupPart _ | .groupReport _ _ | .groupDown _ => true
  | .transfer n _ => n < 2
  | _ => false

/-- A message as the NI of agent `a` takes it. -/
def State.accept (s : State) (a : Nat) (m : Msg) : State :=
  if !s.reachable m then s.unrouted m
  else if a < 8192 && (s.core a).health.iso then
    (if m.vc = 3 then (if m.oneWay then s.unsend m else (s.unsend m).nack a m { cause := 0x33 }) else (s.unsend m).nack a m { cause := 0x33, retry := true })
  else if m.vc = 3 then
    (s.unsend m).modNi a fun n => { n with inq := n.inq ++ [m] }
  else if a < 8192 && (s.core a).ckpt.chk.isSome then s
  else
    let e := Fmap.get {} (s.ni a).seqs (peerKey m.spanel m.src)
    let gap := seqGap m.seq (e.want m)
    if gap ≥ 2 ^ 20 then
      let s := s.unsend m
      if m.vc = 2 then (if s.owesCredit a m then s else s.answer a m.reply {})
      else match s.keptAnswer a m with
        | some r => s.send r
        | none => if s.holdsCopy a m then s else if m.seeks then s.answer a m.reply { none_ := true } else s.nack a m { cause := 0x33 }
    else if gap ≠ 0 && !m.seeks then (s.unsend m).nack a m { retry := true }
    else
      let next (s : State) : State :=
        s.modNi a fun n =>
          let e := Fmap.get {} n.seqs (peerKey m.spanel m.src)
          { n with seqs := Fmap.set n.seqs (peerKey m.spanel m.src) (e.took m) }
      let late := m.vc == 2 && s.creditsLate a m
      let credit (s : State) : State := if m.vc = 2 && !late then s.answer a m.reply {} else s
      if s.diverts a m then
        let t := s.divert a m
        if t.2 then credit (next t.1) else t.1
      else if ((s.ni a).inq.filter fun x => x.vc == m.vc).length ≥ inboundMax then
        (if m.vc = 2 then (s.unsend m).nack a m { retry := true } else s)
      else
        let s := (next (s.unsend m)).modNi a fun n => { n with inq := n.inq ++ [{ m with late }] }
        credit (if m.search then s else s.modStill a m.ctx fun w => { w with rcvd := w.rcvd + 1 })

/-- MESSAGE_ACCEPT (R380): the k-th message that agent `a`'s NI could take. -/
def execMessageAccept (agent k : Nat) (s : State) : Result :=
  .next (match (s.heads agent)[k]? with
    | some m => if s.diverts agent m && m.vc ≠ 3 then s else s.accept agent m
    | none => s)

/-- MESSAGE_DIVERT (R352): the first message for a stopped core, an answer included. -/
def execMessageDivert (core : Nat) (s : State) : Result :=
  .next (match (firsts (fun m => (m.spanel, m.src, m.vc)) []
      (s.net.filter fun m => m.dest == core && m.dpanel == s.panelId && m.vc < 3 && s.diverts core m)).head? with
    | some m => if m.vc = 1 then (s.divert core m).1 else s.accept core m
    | none => s)

/-! ## Credits and re-sends (R352, R358, R379) -/

/-- Whether a message is a credit, or the NACK of a posted write. -/
def Msg.isCredit (m : Msg) : Bool :=
  match m.body with
  | .credit | .credNack _ => true
  | _ => false

/-- The first credit or NACK under way to an agent. -/
def State.creditFor (s : State) (a : Nat) : Option Msg :=
  s.net.find? fun m => m.dest == a && m.dpanel == s.panelId && m.vc == 1 && !s.diverts a m && m.isCredit

/-- POSTED_CREDIT_RETURN (R215, R358): a credit drops the copy; a NACK sets the time of the next attempt. -/
def execPostedCreditReturn (core : Nat) (s : State) : Result :=
  .next (match s.creditFor core with
    | none => s
    | some m =>
      let s := (s.unsend m).modStill core m.ctx fun w => { w with rcvd := w.rcvd + 1 }
      if core < 8192 && (s.core core).health.iso then s
      else match s.copyOf core m.spanel m.src m.seq with
        | none => s
        | some p =>
          match m.body with
          | .credNack why =>
            if why = 1 then s
            else
              let at_ := s.time + if why = 2 then 4096 else 256
              let s := match p.msg.body with
                | .push r _ _ => if why = 3 && !p.told then s.agentPacket core m.ctx 5 (mkCause 0x10 0 r) else s
                | _ => s
              s.modNi core fun n => { n with posted := n.posted.map fun q =>
                if q.id = p.id then { q with resend := some at_, ring := why = 2, again := why = 3, told := q.told || why = 3 } else q }
          | _ => let s := s.dropPosted core p; if core < 8192 then s.pumpCore core else s)

/-- A copy of a posted write sent again as it was. -/
def State.resendPosted (s : State) (a : Nat) (p : Posted) : State :=
  (s.modNi a fun n => { n with posted := n.posted.map fun q =>
    if q.id = p.id then { q with resend := none, ring := false } else q }).inject p.msg

/-- Whether a time has come. -/
def State.due (s : State) (t : Option Nat) : Bool := t.any fun n => n ≤ s.time

/-- Whether a message is a deque push. -/
def Msg.isPush (m : Msg) : Bool :=
  match m.body with
  | .push .. => true
  | _ => false

/-- A posted message that was accepted and not applied, sent again under a new number. -/
def State.sendAgain (s : State) (a : Nat) (p : Posted) : State :=
  let n := (s.ni a).nextId
  let s := (s.dropPosted a p).postedWrite 16 p.msg.dest p.msg
  s.modNi a fun x => { x with posted := x.posted.map fun q => if q.id = n then { q with told := p.told } else q }

/-- POSTED_RETRY_RESEND (R285, R379): the k-th posted write that a full buffer, or a bridge that is down, refused, after 256 cycles. -/
def execPostedRetryResend (core k : Nat) (s : State) : Result :=
  .next (match ((s.ni core).posted.filter fun p => p.resend.isSome && !p.ring && !(p.msg.isPush && p.again))[k]? with
    | some p => if s.due p.resend then (if p.again then s.sendAgain core p else s.resendPosted core p) else s
    | none => s)

/-- PARKED_RING_RETRY_RESEND (R352): the k-th posted write or request that a full parked-message ring refused, after
4,096 cycles. -/
def execParkedRingRetryResend (core k : Nat) (s : State) : Result :=
  let ps := (s.ni core).posted.filter fun p => p.resend.isSome && p.ring
  .next (match ps[k]? with
    | some p => if s.due p.resend then s.resendPosted core p else s
    | none =>
      match ((s.core core).reqs.filter fun q => q.resend.isSome)[k - ps.length]? with
      | some q =>
        if s.due q.resend then
          (s.modCore core fun c => { c with reqs := c.reqs.map fun x => if x.id = q.id then { x with resend := none } else x }).inject q.msg
        else s
      | none => s)

/-! ## Deque pushes (R33) -/

/-- DEQUE_PUSH (R33): the push at the head of an NI's buffer; a request's answer, or the credit of a posted push. -/
def State.servePush (s : State) (l : Nat) (m : Msg) : State :=
  match m.body with
  | .push r pri dom =>
    let q := s.push l ⟨r, pri, dom⟩ false
    match q.2 with
    | none => q.1.answer l m.reply {}
    | some i =>
      if m.vc = 2 then q.1.answer l m.reply { retry := true }
      else q.1.answer l m.reply { cause := 0x10, info := word i }
  | _ => s

/-- DEQUE_PUSH_RETRY (R33): the k-th held push of an agent, after 256 cycles: of its own full deque, or refused elsewhere. -/
def execDequePushRetry (agent k : Nat) (s : State) : Result :=
  let hs := if agent < 8192 then (s.core agent).pushes else []
  .next (match hs[k]? with
    | some h =>
      if h.at_ > s.time then s
      else
        let q := s.push agent h.ent false
        q.1.modCore agent fun c => { c with pushes := match q.2 with
          | none => c.pushes.erase h
          | some _ => c.pushes.map fun x => if x = h then { x with at_ := s.time + 256 } else x }
    | none =>
      match ((s.ni agent).posted.filter fun p => p.resend.isSome && p.msg.isPush && p.again)[k - hs.length]? with
      | some p => if s.due p.resend then s.sendAgain agent p else s
      | none => s)

end Sys2Proof.Machine
end

