-- ==== Sys2Proof/Machine/Threads.lean ====
section
/-! DEFINITION. What the hardware of the slots does by itself: the end of a sleep, fetches, local pops, record loads,
the steal search (R27, R32-R36, R46, R108, R340), the L2 TLB and the walkers (R381-R383). -/

namespace Sys2Proof.Machine

/-! ## Answers to requests: finding the request (R215, R380) -/

/-- Whether a message answers a request of core `l`, and which. -/
def State.requestOf (s : State) (l : Nat) (m : Msg) : Option (Req × Resp) :=
  match m.body with
  | .resp vc r =>
    ((s.core l).reqs.find? fun q => q.msg.vc == vc && q.msg.seq == m.seq &&
      (vc == 4 || (q.msg.dest == m.src && q.msg.dpanel == m.spanel))).map fun q => (q, r)
  | _ => none

/-- A request slot freed: the request and its thread's account of it are gone; pushes that waited for it go on (R228). -/
def State.dropReq (s : State) (l : Nat) (q : Req) : State :=
  let s := s.modCore l fun c => { c with reqs := c.reqs.filter fun x => x.id != q.id }
  if q.slot < 16 then
    let k := Fin.ofNat 16 q.slot
    let s := s.modSlot l k fun t => { t with outst := t.outst.filter fun o => o.id != q.id || o.vc == 2 }
    s.flushN l k (s.slot l k).late.length
  else s

/-- The answers under way to core `l` that a request slot awaits. -/
def State.answers (s : State) (l : Nat) : List (Msg × Req × Resp) :=
  (s.net.filter fun m => m.dest == l && m.dpanel == s.panelId && m.vc == 1 && !s.diverts l m).filterMap fun m =>
    (s.requestOf l m).map fun x => (m, x)

/-- An answer taken off the mesh, with its request slot. -/
def State.takeAnswer (s : State) (l : Nat) (m : Msg) (q : Req) (r : Resp) : State :=
  let s := (s.unsend m).dropReq l q
  let local_ := match m.body with
    | .resp 4 _ => true
    | _ => false
  if local_ || r.none_ then s else s.modStill l m.ctx fun w => { w with rcvd := w.rcvd + 1 }

/-! ## The issue place of a slot that executes nothing -/

/-- A fault of slot `k` at its PC, or while it loads a record. -/
def State.faultSlot (s : State) (l : Nat) (k : Fin 16) (c : Cause) : State :=
  (s.modSlot l k fun t => { t with iss := { b := t.pc, first := t.pc, last := t.pc } }).takeFaultAt l k c

/-! ## SLEEPUNTIL (R108) -/

/-- SLEEP_TIME_REACHED: the time of a SLEEPUNTIL has come. -/
def execSleepTimeReached (core slot : Nat) (s : State) : Result :=
  let k := Fin.ofNat 16 slot
  let t := s.slot core k
  .next (match t.nap with
    | none => s
    | some w =>
      if t.state ≠ .parked || s.gtb.toNat < t.until_.toNat then s
      else
        let s := (s.modSlot core k fun t => { t with nap := none }).onSlot core k
        match w with
        | none => s.completed core k
        | some a => s.enqueue { va := a, bytes := 8, perm := .rw, op := .mem .readFe, apc := t.iss.b, cont := .sleep false a })

/-! ## LINE_FETCH (R44, R46) -/

/-- The PC whose line slot `k` needs next: its own, then that of a target that it waits for (R45). -/
def State.fetchPc (s : State) (l : Nat) (k : Fin 16) : Addr :=
  let t := s.slot l k
  if ((s.core l).line? t.pc).isNone then t.pc else t.want.getD t.pc

/-- The line of a PC cannot be had for slot `k`: the thread faults at it, unless it is the target of a transfer, which then executes
(R45, R61). -/
def State.noLine (s : State) (l : Nat) (k : Fin 16) (pc : Addr) (c : Cause) : State :=
  if pc = (s.slot l k).pc then (s.modSlot l k fun t => { t with reread := none }).faultSlot l k c
  else s.modSlot l k fun t => { t with want := none, lost := some pc, reread := none }

/-- A line that has arrived for slot `k`: when the parity of its line word is wrong it is read once more (R44). -/
def State.gotLine (s : State) (l : Nat) (k : Fin 16) (pc : Addr) (x : Line) : State :=
  if x.bad / 2 ^ 56 % 256 ≠ 0 || lparOk x.data then s.modCore l fun c => c.putLine x
  else if (s.slot l k).reread = some pc then s.noLine l k pc ⟨0x06, 0, 0⟩
  else s.modSlot l k fun t => { t with reread := some pc }

/-- Whether slot `k` waits for a line. -/
def State.wantsLine (s : State) (l : Nat) (k : Fin 16) : Bool :=
  (s.slot l k).state == .running && ((s.core l).line? (s.fetchPc l k)).isNone &&
    !(s.core l).reqs.any fun q => q.slot == k.val && match q.cont with
      | .line _ => true
      | _ => false

/-- LINE_FETCH: the line that a Running slot needs is read from its core's slice, or asked for (R46, R215). -/
def execLineFetch (core slot : Nat) (s : State) : Result :=
  let k := Fin.ofNat 16 slot
  .next (if !s.wantsLine core k then s
    else
      let pc := s.fetchPc core k
      let r := s.readLine core pc
      match r.2 with
      | .line v bad => r.1.gotLine core k pc { va := lineOf pc, data := v, bad }
      | .bad c => r.1.noLine core k pc c
      | .away p pa =>
        if !(p == s.panelId && homeOf pa == core) && r.1.freeSlots core = 0 then r.1
        else r.1.sendAccess core slot pc (word (lineOf pc)) p pa 0x01 64 (.mem pa .fetch slot pc) (.line (word (lineOf pc))))

/-- A line has arrived; a slot that has gone elsewhere drops it. -/
def State.onLine (s : State) (l : Nat) (q : Req) (r : Resp) (va : Word) : State :=
  let pc := s.fetchPc l q.k
  if (s.slot l q.k).state ≠ .running || lineOf pc ≠ va.toNat then s
  else if r.cause ≠ 0 then s.noLine l q.k pc (mkCause r.cause r.info.toNat (pc.zeroExtend 64))
  else s.gotLine l q.k pc { va := lineOf pc, data := BitVec.ofNat 512 (ofBytes r.data), bad := r.info.toNat }

/-! ## Records (R27, R32, Table 2.2) -/

/-- Whether the worker slots of a core may take records. -/
def State.loads (s : State) (l : Nat) : Bool :=
  let c := s.core l
  s.present l && !c.health.iso && c.health.contain == .live && c.stopping.isNone && c.ckpt.chk.isNone && !c.flt.frozen

/-- A slot that looks for a record. -/
def Slot.seeks (t : Slot) : Bool := t.state == .idle && t.load.isNone

/-- The first slot of a core that looks for a record. -/
def Core.seeker (c : Core) : Option (Fin 16) :=
  ((List.range 15).map (Fin.ofNat 16)).find? fun k => (c.slot k).seeks

/-- LOCAL_POP (R32): a slot takes the record that the steal search has obtained, or pops its core's deque. -/
def execLocalPop (core slot : Nat) (s : State) : Result :=
  let k := Fin.ofNat 16 slot
  let c := s.core core
  .next (if slot ≥ 15 || !s.loads core || !(c.slot k).seeks then s
    else match c.steal.got with
      | some e =>
        if c.seeker ≠ some k then s
        else s.setCore core (({ c with steal := { c.steal with got := none } } : Core).modSlot k fun t => { t with load := some e })
      | none =>
        let q := s.dqPop core
        match q.2 with
        | some e => q.1.modSlot core k fun t => { t with load := some e }
        | none => q.1)

/-- RECORD_LOAD (R27, R28): the load of the record that a slot took goes to the record's home. -/
def execRecordLoad (core slot : Nat) (s : State) : Result :=
  let k := Fin.ofNat 16 slot
  let t := s.slot core k
  .next (if slot ≥ 15 || t.state ≠ .idle || !s.loads core then s
    else match t.load with
      | none => s
      | some e =>
        let ra := e.record
        if (s.core core).reqs.any fun q => q.slot == slot && match q.cont with
            | .recordLoaded _ _ => true
            | _ => false then s
        else if ra.toNat % 64 ≠ 0 then s.faultSlot core k ⟨0x11, 0, ra⟩
        else
          let r := s.tr core (s.core core).ctxid ra.toNat .rw .record
          match r.2 with
          | .bad c i => r.1.faultSlot core k (mkCause c i ra)
          | .ok p pa =>
            if !(p == s.panelId && homeOf pa == core) && r.1.freeSlots core == 0 then r.1
            else r.1.sendAccess core slot 0 ra p pa 0x10 64 (.ctl pa ra (.load core slot)) (.recordLoaded slot ra))

/-- The registers of a slot that starts a record (Table 2.2). -/
def startRegs (ctxBase ra : Word) (ws : List Word) : Regs :=
  let x : Vector Word 32 := Vector.replicate 32 0
  { x := ((((((((x.set 2 (nth 0 ws 1)).set 3 ctxBase).set 4 ra).set 8 (nth 0 ws 1)).set 10 (nth 0 ws 2)).set 11
      (nth 0 ws 3)).set 12 (nth 0 ws 4)).set 13 (nth 0 ws 5)) }

/-- A record has been loaded, or its load failed: the slot is then Frozen and loads the same record at its resume (R40). -/
def State.onRecordLoaded (s : State) (l : Nat) (r : Resp) (slot : Nat) (ra : Word) : State :=
  let k := Fin.ofNat 16 slot
  if r.cause ≠ 0 then s.faultSlot l k ⟨r.cause, r.info, ra⟩
  else
    let ws := wordsOf 8 r.data
    let c := s.core l
    let ctrl := nth 0 ws 7
    let pc : Addr := (nth 0 ws 0).setWidth 48
    s.modSlot l k fun t =>
      { state := if c.flt.frozen then .frozen else .running
        pc
        regs := startRegs (c.sys 2) ra ws
        lfsr := lfsrSeed (c.sys 0xA) ra pc
        ev := t.ev &&& 0x8000
        record := some ra
        fresh := !Ctrl.res ctrl
        pri := Fin.ofNat 4 (Ctrl.pri ctrl)
        lastIssue := t.lastIssue }

/-! ## Stealing (R35, R36, R340) -/

/-- Whether two cores lie in the same block of a level. -/
def sameBlock (level a b : Nat) : Bool :=
  if level = 0 then a == b else if level = 1 then clusterOf a == clusterOf b else if level = 2 then dieOf a == dieOf b
  else if level = 3 then quadOf (dieOf a) == quadOf (dieOf b) else true

/-- The members of a level for core `l`, ascending. -/
def State.stealMembers (s : State) (l level : Nat) : List Nat :=
  (s.ctxCores (s.core l).ctxid).filter fun m => sameBlock level l m && !sameBlock (level - 1) l m

/-- The last level of a core's search. -/
def Core.stealLimit (c : Core) : Nat := min 4 (c.sys 3).toNat

/-- The search of a core goes on: it asks the next member, climbs, or waits 256 cycles. -/
def State.stealNext (s : State) (l : Nat) : Nat → State
  | 0 => s
  | n + 1 =>
    let c := s.core l
    let st := c.steal
    if st.level > c.stealLimit then
      s.setCore l { c with steal := { st with active := false, busy := false, level := 1, asked := 0, wait := some (s.time + 256) } }
    else
      let ms := s.stealMembers l st.level
      if st.asked ≥ ms.length then
        State.stealNext (s.setCore l { c with steal := { st with level := st.level + 1, asked := 0 } }) l n
      else if s.freeSlots l = 0 then s
      else
        let p := st.ptrs[st.level]?.getD 0
        let m := (ms.find? fun m => p ≤ m).getD (ms.headD 0)
        let s := s.setCore l { c with steal := { st with asked := st.asked + 1, busy := true, ptrs := st.ptrs.setIfInBounds st.level (m + 1) } }
        s.request l 16 0 0 m .stolen (s.reqMsg l s.panelId m 0 0x0F 8 (.steal st.level))

/-- Whether a core's die holds an active card of its context with records undealt (R340). -/
def State.dealable (s : State) (l : Nat) : Bool :=
  (s.die (dieOf l)).cards.any fun c => c.ctx == (s.core l).ctxid && c.lo < c.hi

/-- A search begins: with a deal request on a dealable core. -/
def State.stealStart (s : State) (l : Nat) : State :=
  let s := s.modCore l fun c => { c with steal := { c.steal with active := true, busy := false, dealt := true, level := 1, asked := 0, wait := none } }
  if s.dealable l then
    if s.freeSlots l = 0 then s.modCore l fun c => { c with steal := { c.steal with dealt := false } }
    else
      (s.modCore l fun c => { c with steal := { c.steal with busy := true } }).request l 16 0 0 (Config.srcDie (dieOf l)) .dealt
        (s.reqMsg l s.panelId (Config.srcDie (dieOf l)) 0 0x0F 8 .dealReq)
  else s.stealNext l 8

/-- Whether a core searches for work: it has an Idle slot and nothing of its own to put into it, and STEALLIM allows a search (R102). -/
def State.hungry (s : State) (l : Nat) : Bool :=
  let c := s.core l
  s.loads l && c.stealLimit != 0 && c.seeker.isSome && c.dq.hw.isEmpty && c.dq.spill.isEmpty && c.steal.got.isNone

/-- STEAL_SEARCH (R35): a search starts, or goes on when a request slot is free. -/
def execStealSearch (core : Nat) (s : State) : Result :=
  let st := (s.core core).steal
  .next (if st.busy || st.wait.isSome then s
    else if st.active then (if !st.dealt then s.stealStart core else s.stealNext core 8)
    else if s.hungry core then s.stealStart core else s)

/-- STEAL_RETRY_WAIT (R36): the wait after a fruitless search ends. -/
def execStealRetryWait (core : Nat) (s : State) : Result :=
  let st := (s.core core).steal
  .next (if s.due st.wait then
      let s := s.modCore core fun c => { c with steal := { c.steal with wait := none } }
      if s.hungry core then s.stealStart core else s
    else s)

/-- STEAL_REQUEST (R32, R34, R35): a victim gives its entry, or "none"; the pops of its own Idle slots come first. -/
def execStealRequest (core : Nat) (s : State) : Result :=
  let popsFirst := s.loads core && (s.core core).seeker.isSome && !(s.core core).dq.hw.isEmpty
  .next (s.handle core (fun m => (m.body matches .steal _) && !popsFirst) fun s m =>
    match m.body with
    | .steal level =>
      let q := if m.ctx = (s.core core).ctxid then s.dqSteal core level else (s, none)
      match q.2 with
      | some e => q.1.answer core m.reply { w := e.record }
      | none => q.1.answer core m.reply { none_ := true }
    | _ => s)

/-- The record that a search has obtained goes to the first Idle slot. -/
def State.stolen (s : State) (l : Nat) (ra : Word) : State :=
  s.modCore l fun c =>
    let c := { c with steal := { c.steal with active := false, busy := false } }
    match c.seeker with
    | some k => c.modSlot k fun t => { t with load := some ⟨ra, 0, 0⟩ }
    | none => { c with steal := { c.steal with got := some ⟨ra, 0, 0⟩ } }

/-- Whether a continuation is a search's. -/
def Cont.search (c : Cont) : Bool :=
  match c with
  | .stolen | .dealt => true
  | _ => false

/-- STEAL_RESPONSE (R36, R340): the answer to a search's request. A record ends the search, and so does a deal; else it goes
on, unless the core has stopped it. -/
def execStealResponse (core : Nat) (s : State) : Result :=
  .next (match (s.answers core).find? fun a => a.2.1.cont.search && !a.2.2.retry with
    | none => s
    | some (m, q, r) =>
      let s := s.takeAnswer core m q r
      let s := if r.none_ then
          s.modCore core fun c => { c with ckpt := { c.ckpt with slog := c.ckpt.slog.filter fun x =>
            !(x.seeks && x.dest == q.msg.dest && x.seq == q.msg.seq) } }
        else s
      if r.cause = 0 && !r.none_ && q.cont == .stolen then s.stolen core r.w
      else
        let s := s.modCore core fun c => { c with steal := { c.steal with busy := false } }
        if r.cause = 0 && !r.none_ || !(s.core core).steal.active || !s.loads core then
          s.modCore core fun c => { c with steal := { c.steal with active := false } }
        else s.stealNext core 8)

/-- DEQUE_PUSH (R33): the push at the head of an NI's buffer. -/
def execDequePush (core : Nat) (s : State) : Result := .next (s.handle core Msg.isPush fun s m => s.servePush core m)

/-! ## The L2 TLB and the walkers (R382, R383) -/

/-- The access at the head of a slot's memory path that stands at `st`. -/
def State.headAt (s : State) (l : Nat) (k : Fin 16) (st : PathSt) : Option (Acc × List Acc) :=
  match (s.slot l k).path with
  | a :: rest => if a.st = st then some (a, rest) else none
  | [] => none

/-- L2_TLB_LOOKUP (R382): a hit returns to the L1; a miss waits for a walk. -/
def execL2TlbLookup (core slot : Nat) (s : State) : Result :=
  let k := Fin.ofNat 16 slot
  .next (match s.headAt core k .l2 with
    | none => s
    | some (a, rest) =>
      let ctx := (s.core core).ctxid
      match s.l2 (dieOf core) ctx a.va.toNat with
      | some e =>
        let e := { e with ctx := ctx, vpn := a.va.toNat / 65536 }
        ((s.modCore core fun c => { c with tlb := tlbPut 96 c.tlb e }).modSlot core k fun t =>
          { t with path := { a with st := .queued } :: rest }).pump core k
      | none => s.modSlot core k fun t => { t with path := { a with st := .walk } :: rest })

/-- The slots of a die whose accesses wait for the walk of a page of a context, a core's message thread before its other slots (R240). -/
def State.walkers (s : State) (d ctx vpn : Nat) : List (Nat × Fin 16) :=
  (dieCores d).flatMap fun l =>
    if (s.core l).ctxid ≠ ctx then []
    else ((15 :: (List.finRange 16).dropLast).filter fun k => match s.headAt l k .walk with
      | some (a, _) => a.va.toNat / 65536 == vpn
      | none => false).map fun k => (l, k)

/-- PAGE_WALK (R381-R383): a walk ends; every access that waits for its page goes on, or faults. -/
def execPageWalk (core slot : Nat) (s : State) : Result :=
  let k := Fin.ofNat 16 slot
  .next (match s.headAt core k .walk with
    | none => s
    | some (a, _) =>
      let ctx := (s.core core).ctxid
      let d := dieOf core
      let ws := s.walkers d ctx (a.va.toNat / 65536)
      let r := s.walk d ctx a.va.toNat
      match r.2 with
      | .inl e =>
        ws.foldl (fun s w =>
          let s := s.modCore w.1 fun c => { c with tlb := tlbPut 96 c.tlb e }
          match s.headAt w.1 w.2 .walk with
          | some (a, rest) => (s.modSlot w.1 w.2 fun t => { t with path := { a with st := .queued } :: rest }).pump w.1 w.2
          | none => s) (r.1.modDie d fun x => { x with l2 := l2Put x.l2 e })
      | .inr f =>
        ws.foldl (fun s w =>
          match s.headAt w.1 w.2 .walk with
          | some (a, rest) => s.pathFault w.1 w.2 a rest f.1 f.2
          | none => s) r.1)

end Sys2Proof.Machine
end

