-- ==== Sys2Proof/Machine/VecEngine.lean ====
section
/-! DEFINITION. The vector engine (R170-R188, R193, R194, R204-R208, R210): starts, accesses, results. -/

namespace Sys2Proof.Machine

/-! ## The queue -/

/-- What a command reads at its start. -/
def State.venv (s : State) (l : Nat) (c : VCmd) : VEnv :=
  let t := s.slot l (Fin.ofNat 16 c.slot)
  { v := t.regs.v, tags := t.regs.vtag, bs := (s.core l).bs, xs := c.xs.map fun x => x.getD 0, lfsr := c.lfsr }

/-- The result of a command without accesses (R174-R185). -/
def VEnv.eval (e : VEnv) (op : Instr) : VOut :=
  match op with
  | .vadd a => e.binary a fun x y => vAdd x y a.mode
  | .vsub a => e.binary a fun x y => vAdd x (vNeg y) a.mode
  | .vmul a => e.binary a vMul
  | .vmin a => e.binary a fun x y => (vMin x y, false)
  | .vmax a => e.binary a fun x y => (vMax x y, false)
  | .vfma a s3 => e.fma a s3
  | .vabs a => e.unary a vAbs
  | .vneg a => e.unary a vNeg
  | .vand _ d s1 src => e.logic d s1 src (· &&& ·)
  | .vor _ d s1 src => e.logic d s1 src (· ||| ·)
  | .vxor _ d s1 src => e.logic d s1 src (· ^^^ ·)
  | .vshl _ d s1 src => e.shift d s1 src VEnv.shl
  | .vshr _ lgc d s1 src => e.shift d s1 src (VEnv.shr lgc)
  | .vcmp _ c d s1 src => e.cmp c d s1 src maskTag
  | .vsel _ d s1 s2 s3 => e.sel d s1 s2 s3
  | .vperm _ d s1 s2 => e.perm d s1 s2
  | .vslide _ d s1 src => e.slide d s1 src
  | .vbcast _ d src mode => e.bcast d src mode
  | .vmovx _ d s1 src => e.movx d s1 src
  | .vins _ d s1 src _ => e.ins d s1 src
  | .vred _ o mode d s1 m => e.red o mode d s1 m
  | .vsettag _ d s1 src => .ok { vds := [(d, e.v[s1], (e.scalar src).setWidth 16)] }
  | .vgettag _ d s1 => .ok { xd := some (d, (e.tags[s1]).zeroExtend 64) }
  | .vcvt _ mode part d s1 t => e.cvt mode part.val d s1 t
  | .vqnt _ mode d s1 s3 t => e.qnt mode d s1 s3 t
  | .vdqnt _ mode d s1 _ t => e.dqnt mode d s1 t
  | _ => .ok {}

/-- The head of the vector queue changed. -/
def State.setHead (s : State) (l : Nat) (c : VCmd) : State :=
  s.modCore l fun k => { k with veng := { k.veng with q := c :: k.veng.q.drop 1 } }

/-- The head of the vector queue has left it. -/
def State.popVec (s : State) (l : Nat) (c : VCmd) : State :=
  (s.modCore l fun k => { k with veng := { k.veng with q := k.veng.q.drop 1 } }).cmdDone l c.slot

/-- The detector of a vector command's faults: 1 the vector engine, 2 the Reed array. -/
def VCmd.eng (c : VCmd) : Nat :=
  match c.op with
  | .cxop .. | .cxload .. | .cxdrop .. => 2
  | _ => 1

/-- The slot of a command, also when its record has left it. -/
def VCmd.k (c : VCmd) : Fin 16 := Fin.ofNat 16 c.slot

/-- Events of a command counted in its slot, or in the context counters when its record has left it (R167); a
threshold that they cross faults (R168). -/
def State.vecCount (s : State) (l : Nat) (c : VCmd) (n : Counts) : State :=
  s.threshold (if c.slot < 16 then s.countSlot l c.k n else s.countCtx l n) l c.k c.eng c.apc

/-- The command at the head faults: it stays there (R238), `keep` when it is tried again at a resume. -/
def State.vecFault (s : State) (l : Nat) (c : VCmd) (f : Cause) (keep : Bool := false) : State :=
  (s.setHead l { c with flt := true, keep, started := false, elems := [], data := [], busy := false }).deferFault l c.k c.eng
    c.apc f

/-- A result of the head command: written later in queue order, or a fault, before which its events count (R166). -/
def State.vecResult (s : State) (l : Nat) (c : VCmd) (r : VOut) : State :=
  match r with
  | .error f => s.vecFault l c f
  | .ok r =>
    match r.flt with
    | some f => (s.vecCount l c r.cnt).vecFault l c f
    | none => s.setHead l { c with started := true, res := some r, busy := false }

/-- The registers of a result written (R170), in a slot whose record is still there. -/
def State.deliver (s : State) (l : Nat) (c : VCmd) (r : VResult) : State :=
  if c.slot ≥ 16 then s
  else
    let k := c.k
    let s := r.vds.foldl (fun s p => s.deliverV l k p.1 p.2.1 p.2.2) s
    let s := match r.xd with
      | some p => s.deliverX l k p.1 p.2
      | none => s
    match r.gd with
    | some p => s.deliverG l k p.1 p.2
    | none => s

/-- The result of the head command written; then its events count (R168). -/
def State.vecWrite (s : State) (l : Nat) (reed : Bool) : State :=
  match (s.core l).veng.q with
  | c :: _ =>
    match c.res with
    | some r => if (c.eng == 2) == reed then ((s.popVec l c).deliver l c r).vecCount l c r.cnt else s
    | none => s
  | [] => s

/-! ## Memory commands (R186-R188) -/

/-- The address and length of each element, in lane order; or a fault of the command. -/
def VEnv.elems (e : VEnv) (op : Instr) : Except Cause (List (Word × Nat)) :=
  let strided (t : Tag) : List (Word × Nat) :=
    (List.range (Tag.lanes t)).map fun i => (e.x 0 + word i * e.x 1, Tag.width t / 8)
  let indexed (t : Tag) (s2 : Fin 16) : Except Cause (List (Word × Nat)) := do
    let u := e.tags[s2]
    e.plain u 2 false
    orFault (Tag.cls u == 4 || Tag.cls u == 5) (bad23 7 2)
    orFault (Tag.lanes u ≤ Tag.lanes t) (bad23 2 2)
    return (lanesOf e.v[s2] (Tag.width u)).map fun x =>
      (e.x 0 + BitVec.ofInt 64 (slow (Tag.width u) (word x)), Tag.width t / 8)
  match op with
  | .vld _ _ _ off t => do e.plain t 0 true; return [(e.x 0 + sext32 off, 64)]
  | .vlds _ _ _ _ t => do e.plain t 0 true; return strided t
  | .vldx _ _ _ s2 t => do e.plain t 0 true; indexed t s2
  | .vst _ s3 _ off => do e.plain e.tags[s3] 3 true; return [(e.x 0 + sext32 off, 64)]
  | .vsts _ s3 _ _ => do e.plain e.tags[s3] 3 true; return strided e.tags[s3]
  | .vstx _ s3 _ s2 => do e.plain e.tags[s3] 3 true; indexed e.tags[s3] s2
  | _ => .ok []

/-- Whether a memory command stores, and its data register. -/
def vecStores : Instr → Option (Fin 16)
  | .vst _ s3 _ _ | .vsts _ s3 _ _ | .vstx _ s3 _ _ => some s3
  | _ => none

/-- Addresses translated in order (R187): the accesses, or the first failure. -/
def State.trAll (s : State) (l : Nat) (perm : Perm) (lane : Nat) : List (Word × Nat) → State × (List VElem ⊕ Cause)
  | [] => (s, .inl [])
  | (va, n) :: t =>
    let r := s.tr l (s.core l).ctxid va.toNat perm .vec
    match r.2 with
    | .bad c i => (r.1, .inr (mkCause c i va))
    | .ok p pa =>
      let q := State.trAll r.1 l perm (lane + 1) t
      match q.2 with
      | .inl es => (q.1, .inl (⟨lane, va, p, pa, n⟩ :: es))
      | .inr f => (q.1, .inr f)

/-- Whether everything that a thread put into its memory path before has been sent, and its posted writes performed
(R188, R228). -/
def Slot.pathClear (t : Slot) : Bool := t.path.isEmpty && t.outst.all fun o => o.vc != 2

/-- The next access of the head command sent, when it goes home or a request slot is free (R187, R215). -/
def State.vecSend (s : State) (l : Nat) (c : VCmd) : State :=
  match c.elems with
  | e :: rest =>
    if c.busy || (if s.isLocal l e.panel e.pa then s.landing l e.pa e.len else s.freeSlots l == 0) then s
    else
      let op : MemOp := match vecStores c.op with
        | some _ => .store (c.data.take e.len)
        | none => .load e.len
      let data := if (vecStores c.op).isSome then c.data.drop e.len else c.data
      (s.setHead l { c with elems := rest, data, busy := true }).sendAccess l 17 c.apc e.va e.panel e.pa op.kind e.len
        (.mem e.pa op c.slot c.apc) (.velem e.lane)
  | [] => s

/-- The start of a memory command: every address is checked and translated before the first access. -/
def State.vecMemStart (s : State) (l : Nat) (c : VCmd) : State :=
  let t := s.slot l c.k
  if !t.pathClear then s
  else
    let e := s.venv l c
    match e.elems c.op with
    | .error f => s.vecFault l c f
    | .ok as =>
      match as.findSome? fun a => addrStop a.1 a.2 with
      | some f => s.vecFault l c f
      | none =>
        let r := s.trAll l (if (vecStores c.op).isSome then .w else .r) 0 as
        match r.2 with
        | .inr f => r.1.vecFault l c f true
        | .inl es =>
          if c.slot = 15 && es.any fun x => !s.isLocal l x.panel x.pa then r.1.vecFault l c (mkCause 0x1A 2 0)
          else
            let data := match vecStores c.op with
              | some s3 => toBytes 64 e.v[s3].toNat
              | none => []
            let c := { c with started := true, elems := es, data }
            (r.1.setHead l c).vecSend l c

/-- The register that a finished load writes: its lanes, zeros beyond the indexed ones; bound-checked (R165). -/
def VEnv.loaded (e : VEnv) (op : Instr) (bs : List Byte) : VOut :=
  match op with
  | .vld _ d _ _ t | .vlds _ d _ _ t | .vldx _ d _ _ t => e.out d t (unpack (Tag.width t) (Tag.lanes t) bs)
  | _ => .ok {}

/-- The lane that a memory error names: that of the access, or that of the first poisoned word of a block. -/
def State.failedLane (s : State) (e : VEnv) (q : Req) (op : Instr) (i : Nat) : Nat :=
  let block (w : Nat) : Nat :=
    match q.msg.body with
    | .mem pa _ _ _ => (((wordsIn pa 64).findIdx? s.mem.poisoned).getD 0) * 64 / w
    | _ => 0
  match op with
  | .vld _ _ _ _ t => block (Tag.width t)
  | .vst _ s3 _ _ => block (Tag.width e.tags[s3])
  | _ => i

/-- The answer to an access of the head command. -/
def State.onVelem (s : State) (l : Nat) (q : Req) (r : Resp) (i : Nat) : State :=
  match (s.core l).veng.q with
  | c :: _ =>
    if r.cause ≠ 0 then
      s.vecFault l c ⟨r.cause, if r.cause = 0x0E || r.cause = 0x0D then r.info else word (s.failedLane (s.venv l c) q c.op i), q.va⟩
    else
      let c := { c with busy := false, data := if (vecStores c.op).isSome then c.data else c.data ++ r.data }
      if c.elems.isEmpty then s.vecResult l c ((s.venv l c).loaded c.op c.data) else (s.setHead l c).vecSend l c
  | [] => s

/-! ## Endpoints (R193, R194) -/

/-- Whether `n` words can be popped at once. -/
def State.canPopN (s : State) (l : Nat) (b : Bind) (n : Nat) : Bool :=
  n ≤ s.epCount l b.ep && (match b.ep with
      | .ringC d => !s.ringGathered d []
      | _ => true) && (!b.pf || match b.ep with
    | .link d => n ≤ (s.core l).links.credit[opposite d]
    | _ => true)

def State.popN (s : State) (l : Nat) (k : Fin 16) (b : Bind) : Nat → State
  | 0 => s
  | n + 1 => State.popN (s.epPop l k b) l k b n

/-- VQPOP at the queue's head. DESIGN CHOICE: the 8 words are taken also where the bound check of the result traps (log 141). -/
def State.vqpopStart (s : State) (l : Nat) (c : VCmd) (d : Fin 16) (r : Fin 32) : State :=
  match (s.slot l c.k).bind r with
  | none => s.vecFault l c bind10
  | some b =>
    if b.push then s.vecFault l c bind10
    else if !s.canPopN l b 8 then s
    else
      let ws := (s.epWords l b.ep).take 8
      let e := s.venv l c
      let q := s.epCheck l b 8
      if q.2 ≠ 0 then q.1.vecFault l c (mkCause q.2 0 0)
      else if ws.any QWord.mark then s.vecFault l c (mkCause 0x21 4 0)
      else match e.valid b.tag 0 true with
        | .error f => s.vecFault l c f
        | .ok _ =>
          let v := vecOf 64 (ws.map fun q => q.w.toNat)
          ((q.1.popN l c.k b 8).flush l).vecResult l c (e.out d b.tag (lanesOf v (Tag.width b.tag)))

/-- Words pushed to an endpoint that has room for them all; to a remote ring in one message. -/
def State.pushN (s : State) (l : Nat) (k : Fin 16) (r : Nat) (b : Bind) (ws : List Word) (apc : Addr) : State :=
  match b.ep with
  | .ringP d =>
    let s := s.modSlot l k fun t =>
      { t with binds := t.binds.setIfInBounds (r - 24) (some { b with rsv := b.rsv - ws.length }) }
    if sliceLcn d = l then s.ringPut d (peerKey s.panelId l, k.val, r) false ws
    else s.posted l k.val (sliceLcn d) 0x18 (s.core l).ctxid (8 * ws.length) (.ringPush d ws 0 0 [] k.val r apc)
  | .link d =>
    ws.foldl (fun s w => s.epPush l k r { b with ep := .link d } ⟨w, false⟩) s
  | _ => ws.foldl (fun s w => s.epPush l k r b ⟨w, false⟩) s

/-- Whether the NI of a core can take `n` more posted writes (R358). -/
def State.postRoom (s : State) (l n : Nat) : Bool := (s.ni l).posted.length + n ≤ postedMax

/-- VQPUSH at the queue's head. -/
def State.vqpushStart (s : State) (l : Nat) (c : VCmd) (s3 : Fin 16) (r : Fin 32) : State :=
  match (s.slot l c.k).bind r with
  | none => s.vecFault l c bind10
  | some b =>
    let e := s.venv l c
    let t := e.tags[s3]
    if !b.push then s.vecFault l c bind10
    else match e.valid t 3 true with
    | .error f => s.vecFault l c f
    | .ok _ =>
    if Tag.cls b.tag ≠ 0 && t.toNat % 4096 ≠ b.tag.toNat % 4096 then s.vecFault l c (mkCause 0x21 3 0)
    else if Tag.cls b.tag = 0 && Tag.cls t = 8 && Tag.scm t ≠ 0 then s.vecFault l c (bad23 3 3)
    else if s.epRoom l b < 8 || !(s.slot l c.k).pathClear || s.ringBlocked l c.k b 8 || !s.postRoom l 1 then s
    else
      let q := s.epCheck l b 8
      if q.2 ≠ 0 then q.1.vecFault l c (mkCause q.2 0 0)
      else (q.1.pushN l c.k r.val b ((lanesOf e.v[s3] 64).map word) c.apc).vecResult l c (.ok {})

/-- The tags of a VSEND checked (R194). -/
def VEnv.sendTags (e : VEnv) (t wt mt : Tag) : Except Cause Unit := do
  e.valid t 3 true
  e.valid wt 0 true
  e.valid mt 0 true
  orFault (Tag.scm t == 0 && Tag.scm mt == 0) (mkCause 0x21 2 0)
  orFault (Tag.kind t == Tag.kind wt && Tag.kind wt == Tag.kind mt) (mkCause 0x21 1 0)

/-- Runs of consecutive destination words at one home: the home, the first word's number, the panel and address of
each. -/
def homeRuns (es : List VElem) : List (Nat × Nat × List (Nat × Nat)) :=
  es.foldl (fun acc e =>
    let key := homeKey e.panel e.pa
    match acc.getLast? with
    | some (k, i, ps) => if k = key then acc.dropLast ++ [(k, i, ps ++ [(e.panel, e.pa)])] else acc ++ [(key, e.lane, [(e.panel, e.pa)])]
    | none => [(key, e.lane, [(e.panel, e.pa)])]) []

/-- The message of a VSEND to a buffer for one home. -/
def State.vsendMsg (s : State) (l : Nat) (c : VCmd) (wt mt : Tag) (q : List Nat × List Nat × Counts)
    (r : Nat × Nat × List (Nat × Nat)) : Msg :=
  let per := 64 / Tag.width mt
  let i := r.2.1 * per
  let n := r.2.2.length * per
  let data := wireBytes wt q.1 q.2.1 i n
  let a := nth (0, 0) r.2.2 0
  { s.reqMsg l a.1 (homeOf a.2) 2 0x02 data.length
      (.vsend (r.2.2.map (·.2)) wt mt data (if Tag.scm wt = 0 then 0 else i % Tag.block wt) c.slot c.apc) with mtag := mt }

/-- VSEND at the queue's head. -/
def State.vsendStart (s : State) (l : Nat) (c : VCmd) (s3 : Fin 16) (r : Fin 32) (wt : Tag) (imm : BitVec 32) : State :=
  let e := s.venv l c
  let t := e.tags[s3]
  let ring := if c.xs.isEmpty then (s.slot l c.k).bind r else none
  match ring, c.xs.isEmpty with
  | none, true => s.vecFault l c bind10
  | some b, _ =>
    match b.ep with
    | .ringP d =>
      match e.sendTags t wt b.tag with
      | .error f => s.vecFault l c f
      | .ok _ =>
        let words := (Tag.lanes t * Tag.width b.tag + 63) / 64
        let z := s.epCheck l b words
        if b.rsv < words || !(s.slot l c.k).pathClear || s.ringBlocked l c.k b words || !s.postRoom l 1 then s
        else if z.2 ≠ 0 then z.1.vecFault l c (mkCause z.2 0 0)
        else
          let s := z.1
          let q := wireOf t wt (lanesOf e.v[s3] (Tag.width t))
          let data := wireBytes wt q.1 q.2.1 0 (Tag.lanes t)
          let s := s.modSlot l c.k fun x =>
            { x with binds := x.binds.setIfInBounds (r.val - 24) (some { b with rsv := b.rsv - words }) }
          let s := if sliceLcn d = l then s.ringVsend d (peerKey s.panelId l, c.slot, r.val) words wt data
            else s.posted l c.slot (sliceLcn d) 0x18 (s.core l).ctxid data.length
              (.ringPush d (List.replicate words 0) wt b.tag data c.slot r.val c.apc)
          s.vecResult l c (.ok { cnt := q.2.2 })
    | _ => s.vecFault l c bind10
  | none, false =>
    let mt : Tag := imm.setWidth 16
    match e.sendTags t wt mt with
    | .error f => s.vecFault l c f
    | .ok _ =>
      let words := (Tag.lanes t * Tag.width mt + 63) / 64
      let as := (List.range words).map fun i => (e.x 0 + word (8 * i), 8)
      match as.findSome? fun a => addrStop a.1 a.2 with
      | some f => s.vecFault l c f
      | none =>
        let tr := s.trAll l .w 0 as
        match tr.2 with
        | .inr f => tr.1.vecFault l c f true
        | .inl es =>
          let runs := homeRuns es
          if !(s.slot l c.k).path.isEmpty || !s.postRoom l runs.length ||
              (s.slot l c.k).outst.any (fun o => o.vc == 0 && runs.any fun x => x.1 == o.home) ||
              es.any (fun e => s.isLocal l e.panel e.pa && s.landing l e.pa e.len) then s
          else
            let q := wireOf t wt (lanesOf e.v[s3] (Tag.width t))
            let s := runs.foldl (fun s x =>
              let m := s.vsendMsg l c wt mt q x
              if m.dpanel = s.panelId && m.dest = l && !((s.writesOf m).any fun p => s.gathered l p.1 p.2) then s.serveVsend l m
              else s.postedWrite c.slot x.1 m) tr.1
            s.vecResult l c (.ok { cnt := q.2.2 })

/-! ## Graph loads (R201, R205, R207) -/

/-- A load of opcode `n` into graph slot `k`, once no sector is to come from another panel (`cxHead`): entry and image read, checked
and installed. The answer is 0, or the cause with its information. -/
def State.cxInstall (s : State) (l : Nat) (k : Fin 4) (n : Nat) : State × Nat × Nat :=
  let fail (s : State) : State :=
    s.modCore l fun c =>
      let g := c.veng.gs[k]
      let g := { g with graph := none, load := false, away := false, proj := if g.proj = some n then none else g.proj,
                        head := if g.proj = some n then none else g.head }
      { c with veng := { c.veng.setSlot k g with far := [] } }
  let ent := s.engRead l ((s.core l).cxEntry n).toNat 8
  match ent.2 with
  | .away .. => (fail ent.1, 0x07, 0)
  | .bad c i => (fail ent.1, c, i)
  | .bytes e =>
    let w := word (ofBytes e)
    if !cxEntryOk w then (fail ent.1, 0x1D, 1)
    else
      let img := ent.1.engRead l (bits w 47 0) (bits w 59 48)
      match img.2 with
      | .away .. => (fail img.1, 0x07, 0)
      | .bad c i => (fail img.1, c, i)
      | .bytes bs =>
        let why := graphReason bs w n (s.core l).bs
        if why ≠ 0 then (fail img.1, 0x1D, why)
        else
          let g := Graph.ofImage bs
          (img.1.modCore l fun c =>
            let old := c.veng.gs[k]
            let new := { old with graph := some g, load := false, away := false, head := if old.proj = some n then some g else old.head }
            { c with veng := { c.veng.setSlot k new with far := [] } }, 0, 0)

/-- A queued CXLOAD at the head has read its entry and image: it installs the graph or faults. The graphs of a restored core are loaded
first: one that fails leaves its slot invalid (R208). -/
def State.cxloadInstall (s : State) (l : Nat) : State :=
  match (s.core l).veng.reload with
  | (k, n) :: t =>
    match (s.cxHead l n).2 with
    | some a => s.cxAsk l 0 a
    | none => (s.cxInstall l k n).1.modCore l fun c => { c with veng := { c.veng with reload := t } }
  | [] =>
    match (s.core l).veng.q with
    | c :: _ =>
      match c.op, c.started with
      | .cxload .., true =>
        let n := (nth none c.xs 0 |>.getD 0).toNat
        match (s.cxHead l n).2 with
        | some a => s.cxAsk l c.apc a
        | none =>
          let r := s.cxInstall l (Fin.ofNat 4 c.cxslot) n
          if r.2.1 = 0 then (r.1.popVec l c).arrived l c.k
          else r.1.vecFault l c (mkCause r.2.1 r.2.2 0)
      | _, _ => s
    | [] => s

/-- RLSTAT with a result. -/
def rlDone (r : Nat) : Word := word (r * 256)

/-- The victim of a load on a frozen core (R207): as for a CXLOAD, but it takes effect at once, so that no slot is free whose graph a
queued CXOP still needs or that a queued CXLOAD is to fill. -/
def VEng.victimNow (v : VEng) : Option (Fin 4) :=
  let free := (List.finRange 4).filter fun k => !v.refers k && !v.gs[k].load
  (free.find? fun k => v.gs[k].proj.isNone).orElse fun _ => free.find? fun k => free.all fun j => v.gs[j].age ≤ v.gs[k].age

/-- A load that the loader asked for on the frozen core (R207). -/
def State.rlLoad (s : State) (l : Nat) : State :=
  match (s.core l).veng.rlcmd with
  | some (n, true) =>
    let v := (s.core l).veng
    let fin (s : State) (r : Nat) : State :=
      s.modCore l fun c => { c with veng := { c.veng with rlcmd := none, rlstat := rlDone r } }
    match (s.core l).cxAt n with
    | some k => fin (s.modCore l fun c => { c with veng := c.veng.touch k }) 0
    | none =>
      match v.victimNow with
      | none => fin s 0xFE
      | some k =>
        match (s.cxHead l n).2 with
        | some a => s.cxAsk l 0 a
        | none =>
          let r := (s.cxTake l k n).cxInstall l k n
          fin r.1 (if r.2.1 = 0 then 0 else if r.2.1 = 0x1D then r.2.2 else 0xFF)
  | _ => s

/-- A drop that the loader asked for. -/
def State.rlDrop (s : State) (l : Nat) : State :=
  match (s.core l).veng.rlcmd with
  | some (n, false) =>
    s.modCore l fun c =>
      let v := match c.cxAt n with
        | some k => c.veng.setSlot k { c.veng.gs[k] with proj := none, head := none, graph := none }
        | none => c.veng
      { c with veng := { v with rlcmd := none, rlstat := rlDone 0 } }
  | _ => s

/-! ## Starts -/

/-- CXOP at its start (R206). -/
def State.cxopStart (s : State) (l : Nat) (c : VCmd) (mode : RMode) (d s1 s2 s3 : Fin 16) (n : Nat) : State :=
  match ((s.core l).veng.gs.toList.filterMap GSlot.graph).find? fun g => g.opn == n with
  | none => s.vecFault l c (mkCause 0x1C n 0) true
  | some g => s.vecResult l c ((s.venv l c).cx g mode d [s1, s2, s3])

/-- BNDSET at the queue's head (R210). -/
def State.bndsetStart (s : State) (l : Nat) (c : VCmd) (k : Fin 16) (clr : Bool) (mode : BitVec 2) : State :=
  if (s.core l).meng.q.any fun q => q.no < c.no then s
  else
    let w := (s.venv l c).x 0
    let old := (s.core l).bs[k]
    let b : Bound := if clr then { old with v := false }
      else { v := true, mode, lo := w.extractLsb' 0 32, hi := w.extractLsb' 32 32 }
    if !clr && !b.ok then s.vecFault l c (mkCause 0x2B k.val 0)
    else (s.modCore l fun x => { x with bs := x.bs.set k b }).popVec l c

/-- The command at the head executes, its guard being true. -/
def State.vecBegin (s : State) (l : Nat) (c : VCmd) : State :=
  match c.op with
  | .vld .. | .vst .. | .vlds .. | .vsts .. | .vldx .. | .vstx .. => s.vecMemStart l c
  | .vqpop _ d r => s.vqpopStart l c d r
  | .vqpush _ s3 r => s.vqpushStart l c s3 r
  | .vsend _ s3 r wt imm => s.vsendStart l c s3 r wt imm
  | .cxop _ mode d s1 s2 s3 n _ => s.cxopStart l c mode d s1 s2 s3 n.toNat
  | .cxload .. => s.setHead l { c with started := true }
  | .cxdrop .. =>
    let n := ((nth none c.xs 0).getD 0).toNat
    let k : Fin 4 := Fin.ofNat 4 c.cxslot
    let g := (s.core l).veng.gs[k]
    let g := if g.graph.any (fun h => h.opn == n) && g.proj != some n then { g with graph := none } else g
    (s.modCore l fun x => { x with veng := x.veng.setSlot k g }).popVec l c
  | .bndset _ k clr mode _ => s.bndsetStart l c k clr mode
  | op => s.vecResult l c ((s.venv l c).eval op)

/-- The command at the head of the vector queue starts, is discarded, or sends its next access (R55, R170). Nothing
starts on a frozen core (R237). -/
def State.vecStart (s : State) (l : Nat) : State :=
  match (s.core l).veng.q with
  | [] => s
  | c :: _ =>
    if c.flt then s
    else if c.started then s.vecSend l c
    else if (s.core l).flt.frozen || (s.core l).stopping.isSome then s
    else match c.gd with
      | .pend _ _ => s
      | .known false =>
        (s.modCore l fun k => { k with veng := { k.veng with q := k.veng.q.drop 1 } }).discardCmd l c.slot c.op
      | .known true => match c.bad with
        | some f => s.vecFault l c f
        | none => s.vecBegin l c

def execVectorCommandStart (core : Nat) (s : State) : Result := .next (s.vecStart core)
def execVectorResultWrite (core : Nat) (s : State) : Result := .next (s.vecWrite core false)
def execReedResult (core : Nat) (s : State) : Result := .next (s.vecWrite core true)
def execCxloadInstall (core : Nat) (s : State) : Result := .next (s.cxloadInstall core)
def execRlcmdLoad (core : Nat) (s : State) : Result := .next (s.rlLoad core)
def execRlcmdDrop (core : Nat) (s : State) : Result := .next (s.rlDrop core)

end Sys2Proof.Machine
end

