-- ==== Sys2Proof/Machine/Window.lean ====
section
/-! DEFINITION. The debug window (R136, R137, Tables 5.10, 5.11, 7.13): what its words show and what writes to them do. -/

namespace Sys2Proof.Machine

/-! ## Codes (Tables 2.1, 2.9) -/

def SState.code : SState → Nat
  | .idle => 0
  | .running => 1
  | .parked => 2
  | .frozen => 3
  | .saved => 4

def SState.ofCode (n : Nat) : Option SState := [SState.idle, .running, .parked, .frozen, .saved][n]?

def Park.code : Park → Nat
  | .none => 0
  | .marker => 1
  | .guard => 2
  | .qEmpty => 3
  | .qFull => 4
  | .home => 5
  | .events => 6
  | .sleep => 7
  | .reqSlot => 8
  | .engQueue => 9
  | .supcall => 0xA
  | .response => 0xB
  | .fence => 0xC
  | .barrier => 0xD
  | .group => 0xE
  | .quiesce => 0xF
  | .chkpt => 0x10
  | .cxSlot => 0x11
  | .posted => 0x12
  | .heldPublish => 0x13

def Park.ofCode (n : Nat) : Park :=
  nth .none [.none, .marker, .guard, .qEmpty, .qFull, .home, .events, .sleep, .reqSlot, .engQueue, .supcall, .response,
    .fence, .barrier, .group, .quiesce, .chkpt, .cxSlot, .posted, .heldPublish] n

/-- A list of bits as a number, the first lowest. -/
def packBits : List Bool → Nat
  | [] => 0
  | b :: t => (if b then 1 else 0) + 2 * packBits t

/-- Fields of given widths packed from bit 0 on. -/
def packFields : List (Nat × Nat) → Nat
  | [] => 0
  | (n, v) :: t => v % 2 ^ n + 2 ^ n * packFields t

/-! ## Fault packets (Table 8.8) -/

/-- The eight words of a fault packet. -/
def Packet.words (p : Packet) : List Word :=
  [word (packFields [(6, p.cause), (5, 0), (4, p.slot), (1, if p.frz then 1 else 0), (1, if p.deff then 1 else 0), (4, p.eng),
      (13, p.lcn), (12, p.ctx), (2, p.priv)]),
    p.pc.zeroExtend 64, p.apc.zeroExtend 64, p.faddr, p.info, p.gtb, word (p.src % 2 ^ 22),
    word (packFields [(48, p.record.toNat), (16, p.fcnt)])]

/-- The packet that eight words are the words of. -/
def Packet.ofWords (ws : List Word) : Packet :=
  let h := nth 0 ws 0
  { priv := bits h 47 46, ctx := bits h 45 34, lcn := bits h 33 21, eng := bits h 20 17, deff := bit h 16, frz := bit h 15
    slot := bits h 14 11, cause := bits h 5 0, pc := (nth 0 ws 1).setWidth 48, apc := (nth 0 ws 2).setWidth 48, faddr := nth 0 ws 3
    info := nth 0 ws 4, gtb := nth 0 ws 5, src := bits (nth 0 ws 6) 21 0, record := word (bits (nth 0 ws 7) 47 0)
    fcnt := bits (nth 0 ws 7) 63 48 }

/-! ## Slot blocks (Table 5.11) -/

/-- What a loop level holds. -/
def Loop.nums (l : Loop) : List Nat :=
  [if l.active then 1 else 0, l.count.toNat, l.init.toNat, l.start.toNat, l.endpc.toNat,
    match l.idx with
    | some d => d.val
    | none => 32, l.step.toNat]

/-- What a binding holds. -/
def Bind.num (b : Option Bind) : Nat :=
  match b with
  | none => 0
  | some b => packFields [(1, 1), (1, if b.push then 1 else 0), (1, if b.pf then 1 else 0), (3, match b.ep with
      | .link _ => 0
      | .pqF _ => 1
      | .pqR _ => 2
      | .ringC _ => 3
      | .ringP _ => 4), (2, match b.ep with
      | .link d => d.val
      | .pqF q => q.val
      | .pqR q => q.val
      | _ => 0)]

/-- The word of a slot block at an offset. -/
def Slot.view (t : Slot) (o : Nat) : Word :=
  let w := o / 8
  if o < 0x100 then t.rx (Fin.ofNat 32 w)
  else if o < 0x180 then t.regs.vtag[Fin.ofNat 16 w].zeroExtend 64
  else if o = 0x180 then t.pc.zeroExtend 64
  else if o = 0x188 then word (t.state.code + (if t.state = .parked then t.park.code else 0) * 256)
  else if o = 0x190 then
    word (packBits (true :: (t.regs.g.toList.drop 1)) + packBits (t.regs.gp.toList.map fun p => p.n != 0) * 2 ^ 16)
  else if o = 0x198 then
    word (packBits (t.regs.xp.toList.map fun p => p.n != 0) + packBits (t.regs.vp.toList.map fun p => p.n != 0) * 2 ^ 32)
  else if o < 0x1E0 then Config.freeView 0 (o % 32) (t.loops[Fin.ofNat 2 (o / 32 - 0xD)].nums)
  else if o = 0x1E0 then t.ev.zeroExtend 64
  else if o = 0x1E8 then Config.freeView 1 0 (t.binds.toList.map Bind.num)
  else if o = 0x1F0 then t.record.getD 0
  else if o = 0x1F8 then t.lfsr.zeroExtend 64
  else if 0x200 ≤ o && o < 0x220 then
    word (if w % 4 = 0 then t.ctr.sat else if w % 4 = 1 then t.ctr.nan else if w % 4 = 2 then t.ctr.bso else t.ctr.bnd)
  else if o = 0x220 then word (bits (t.held.getD 0) 47 0)
  else if 0x400 ≤ o then word (t.regs.v[Fin.ofNat 16 ((o - 0x400) / 64)].toNat / 2 ^ (64 * (w % 8)))
  else 0

/-- Pending marks set and cleared as the bits of a number say. -/
def Pend.put (p : Pend) (b : Bool) : Pend := if b then (if p.n = 0 then { p with n := 1 } else p) else { p with n := 0 }

/-- A word of a slot block written. -/
def Slot.poke (t : Slot) (o : Nat) (w : Word) : Slot :=
  let i := o / 8
  if o < 0x100 then t.setX (Fin.ofNat 32 i) w
  else if o < 0x180 then { t with regs := { t.regs with vtag := t.regs.vtag.set (Fin.ofNat 16 i) (w.setWidth 16) } }
  else if o = 0x180 then { t with pc := w.setWidth 48 }
  else if o = 0x188 then
    match SState.ofCode (bits w 2 0) with
    | none => t
    | some .idle => { t with state := .idle, park := .none, record := none, load := none }
    | some .parked => { t with state := .parked, park := Park.ofCode (bits w 15 8), again := t.again || t.state != .parked }
    | some st => { t with state := st, park := .none }
  else if o = 0x190 then
    let gs : Vector Bool 16 := Vector.ofFn fun k => w.getLsbD k.val
    let gp : Vector Pend 16 := Vector.ofFn fun k => t.regs.gp[k].put (w.getLsbD (16 + k.val))
    { t with regs := { t.regs with g := gs.set 0 t.regs.g[0], gp := gp.set 0 {} } }
  else if o = 0x198 then
    let xp : Vector Pend 32 := Vector.ofFn fun k => t.regs.xp[k].put (w.getLsbD k.val)
    let vp : Vector Pend 16 := Vector.ofFn fun k => t.regs.vp[k].put (w.getLsbD (32 + k.val))
    { t with regs := { t.regs with xp := xp.set 0 {}, vp } }
  else if o < 0x1E0 then
    let k := Fin.ofNat 2 (o / 32 - 0xD)
    { t with loops := t.loops.set k ((Config.freeLoop (o % 32) t.loops[k] w).getD t.loops[k]) }
  else if o = 0x1E0 then { t with ev := w.setWidth 16 }
  else if o = 0x1E8 then
    let bs := Config.freeBinds t.binds.toList w
    { t with binds := Vector.ofFn fun k => nth none bs k.val }
  else if o = 0x1F0 then { t with record := if w = 0 then none else some w }
  else if o = 0x1F8 then { t with lfsr := w.setWidth 32 }
  else if 0x200 ≤ o && o < 0x220 then
    let n := w.toNat % 2 ^ 32
    let c := t.ctr
    { t with ctr := if i % 4 = 0 then { c with sat := n } else if i % 4 = 1 then { c with nan := n }
        else if i % 4 = 2 then { c with bso := n } else { c with bnd := n } }
  else if o = 0x220 then { t with held := if w = 0 then none else some w }
  else if 0x400 ≤ o then
    let d := Fin.ofNat 16 ((o - 0x400) / 64)
    let sh := 64 * (i % 8)
    let old := t.regs.v[d]
    let new := (old &&& ~~~(BitVec.ofNat 512 (2 ^ 64 - 1) <<< sh)) ||| (w.setWidth 512 <<< sh)
    { t with regs := { t.regs with v := t.regs.v.set d new } }
  else t

/-! ## Handle entries (Tables 5.4, 10.2) -/

/-- A handle entry's 64 bytes as a number. -/
def Handle.image (e : Handle) : Nat :=
  packFields [(1, if e.v then 1 else 0), (1, if e.stop then 1 else 0), (1, if e.final then 1 else 0), (1, if e.pubb then 1 else 0),
    (20, e.offa.toNat), (20, e.offb.toNat), (4, 0), (16, e.size - 1), (32, e.version.toNat), (32, e.stopat.toNat), (12, e.ctx),
    (4, e.subs.length), (336, packFields (e.subs.map fun r => (42, r.toNat))), (8, e.ack.toNat), (18, 0), (4, e.sset),
    (1, if e.ssv then 1 else 0), (1, if e.pace then 1 else 0)]

/-- The entry that an image holds; NSUB above 8 counts as 8. -/
def Handle.ofImage (n : Nat) : Handle :=
  let f (hi lo : Nat) : Nat := n / 2 ^ lo % 2 ^ (hi + 1 - lo)
  { v := f 0 0 = 1, stop := f 1 1 = 1, final := f 2 2 = 1, pubb := f 3 3 = 1, offa := BitVec.ofNat 20 (f 23 4),
    offb := BitVec.ofNat 20 (f 43 24), size := if n % 2 ^ 64 = 0 then 0 else f 63 48 + 1, version := BitVec.ofNat 32 (f 95 64),
    stopat := BitVec.ofNat 32 (f 127 96), ctx := f 139 128,
    subs := (List.range (min 8 (f 143 140))).map fun k => BitVec.ofNat 42 (n / 2 ^ (144 + 42 * k)),
    ack := BitVec.ofNat 8 (f 487 480), sset := f 509 506, ssv := f 510 510 = 1, pace := f 511 511 = 1 }

/-- A number of 64-bit words with word `k` replaced. -/
def putWord (n k : Nat) (w : Word) : Nat := n - n / 2 ^ (64 * k) % 2 ^ 64 * 2 ^ (64 * k) + w.toNat * 2 ^ (64 * k)

/-! ## The core's other blocks (Table 5.10) -/

/-- What a wait table holds, as the window's free view takes it. -/
def Waiter.nums (w : Waiter) : List Nat :=
  w.at_ :: match w.kind with
    | .ldw r => [1, r.panel, r.src, r.seq]
    | .ldt r => [2, r.panel, r.src, r.seq]
    | .stw r v => [3, r.panel, r.src, r.seq, v.toNat]
    | .lrq r a b => [4, r.panel, r.src, r.seq, a, b]
    | .await rec c l a f => [5, rec.toNat, c, l, if a then 1 else 0, if f then 1 else 0]
    | .holder a b => [6, a, b]
    | .handle m => [7, m.src, m.seq]
    | .stagePut r v => [8, r.panel, r.src, r.seq, v.toNat]
    | .arm rec h => [9, rec.toNat, if h.isSome then 1 else 0]
    | .group m => [10, m.src, m.seq]

/-- A slot of the Reed array as RSLOTk shows it. -/
def GSlot.view (g : GSlot) : Word :=
  word (packFields [(24, 0), (8, match g.graph with
    | some x => x.lat
    | none => 0), (8, g.age), (8, 0), (8, match g.graph with
    | some x => x.opn
    | none => g.proj.getD 0), (6, 0), (1, if g.load then 1 else 0), (1, if g.graph.isSome then 1 else 0)])

/-- The configuration words of a graph as RCFGk shows them: header, cells, routing. -/
def Graph.words32 (g : Graph) (i : Nat) : Nat :=
  if i < 16 then g.hdr[Fin.ofNat 8 (i / 2)].toNat / 2 ^ (32 * (i % 2)) % 2 ^ 32
  else if 16 ≤ i && i < 48 then g.cells[Fin.ofNat 32 (i - 16)].toNat
  else if 48 ≤ i && i < 80 then g.routes[Fin.ofNat 32 (i - 48)].toNat else 0

/-- The word at an index of a list of queue words. -/
def qAt (l : List QWord) (k : Nat) : Word := ((l[k]?).map QWord.w).getD 0

/-- A list of queue words with word `k` written; the one behind the last is appended. -/
def qPut (l : List QWord) (k : Nat) (w : Word) : List QWord :=
  if k < l.length then l.set k ⟨w, false⟩ else if k = l.length && k < 32 then l ++ [⟨w, false⟩] else l

/-- DBGCTL as it reads. -/
def Core.dbgctl (c : Core) : Word :=
  word (packFields [(4, c.flt.ctlslot), (4, c.flt.ctlcmd), (1, if c.flt.frozen then 1 else 0), (1, if c.flt.disc then 1 else 0)])

/-- The word of the window of core `l` at an offset. -/
def State.view (s : State) (l o : Nat) : Word :=
  let c := s.core l
  if o < 0x8000 then (c.slot (Fin.ofNat 16 (o / 0x800))).view (o % 0x800)
  else if o < 0x9000 then
    let n := (o - 0x8000) / 8
    if (sysReadLevel n).isSome then s.sysRead l n else 0
  else if o < 0xA000 then
    let z := c.meng.tiles[Fin.ofNat 8 (c.sys 0x10).toNat]
    let i := (o - 0x9000) / 4
    word (z.e[Fin.ofNat 1024 i].toNat + z.e[Fin.ofNat 1024 (i + 1)].toNat * 2 ^ 32)
  else if o < 0xB000 then word ((c.handle ((o - 0xA000) / 64)).image / 2 ^ (64 * (o % 64 / 8)))
  else if o < 0xB800 then Config.freeView 2 (o - 0xB000) ((c.waits.take 128).flatMap Waiter.nums)
  else if o < 0xBA00 then ((c.dq.hw[(o - 0xB800) / 8]?).map DqEnt.word).getD 0
  else if o < 0xBB00 then word (c.meng.sh[Fin.ofNat 8 ((o - 0xBA00) / 32)].toNat / 2 ^ (64 * (o % 32 / 8)))
  else if o < 0xBC00 then
    Config.freeView 3 (o - 0xBB00) (c.links.credit.toList ++ (c.links.fifo.toList ++ c.links.pqF.toList ++ c.links.pqR.toList).map
      List.length ++ c.slots.toList.flatMap fun t => t.binds.toList.map Bind.num)
  else if 0xC000 ≤ o && o < 0xC400 then qAt c.links.fifo[Fin.ofNat 4 ((o - 0xC000) / 0x100)] (o % 0x100 / 8)
  else if 0xC400 ≤ o && o < 0xCC00 then
    let q := Fin.ofNat 4 ((o - 0xC400) / 0x200)
    qAt (if (o - 0xC400) / 0x100 % 2 = 0 then c.links.pqF[q] else c.links.pqR[q]) (o % 0x100 / 8)
  else if 0xD000 ≤ o && o < 0xD020 then c.veng.gs[Fin.ofNat 4 (o / 8)].view
  else if o = 0xD028 then c.veng.rlstat ||| (if c.veng.rlcmd.isSome then 1 else 0)
  else if 0xD400 ≤ o && o < 0xDC00 then
    match c.veng.gs[Fin.ofNat 4 ((o - 0xD400) / 0x200)].graph with
    | some g => let i := o % 0x200 / 4; word (g.words32 i + g.words32 (i + 1) * 2 ^ 32)
    | none => 0
  else if o = 0xE000 then c.dbgctl
  else if 0xE040 ≤ o && o < 0xE080 then
    match c.flt.last with
    | some p => nth 0 p.words ((o - 0xE040) / 8)
    | none => 0
  else 0

/-- Deque entries after a write of the address of entry `k`. -/
def dqPut (l : List DqEnt) (k : Nat) (w : Word) : List DqEnt :=
  if k < l.length then (if w = 0 then l.eraseIdx k else l.modify k fun e => { e with record := setBits w 5 0 0, pri := bits w 4 3 })
  else if k = l.length && w ≠ 0 then l ++ [⟨setBits w 5 0 0, bits w 4 3, Config.freeEntry w % 5⟩]
  else l

/-- A write discarded: DBGCTL[9]. -/
def Core.discard (c : Core) : Core := { c with flt := { c.flt with disc := true } }

/-- A word of the window of a frozen core written, the system registers and DBGCTL apart. -/
def Core.poke (c : Core) (o : Nat) (w : Word) : Core :=
  if o < 0x8000 then c.modSlot (Fin.ofNat 16 (o / 0x800)) fun t => t.poke (o % 0x800) w
  else if 0x9000 ≤ o && o < 0xA000 then
    let k := Fin.ofNat 8 (c.sys 0x10).toNat
    let z := c.meng.tiles[k]
    let i := (o - 0x9000) / 4
    let e := (z.e.set (Fin.ofNat 1024 i) (w.setWidth 32)).set (Fin.ofNat 1024 (i + 1)) (w.extractLsb' 32 32)
    { c with meng := { c.meng with tiles := c.meng.tiles.set k { z with e } } }
  else if 0xA000 ≤ o && o < 0xB000 then
    let h := (o - 0xA000) / 64
    { c with handles := c.handles.setIfInBounds h (Handle.ofImage (putWord (c.handle h).image (o % 64 / 8) w)) }
  else if 0xB000 ≤ o && o < 0xB800 then { c with waits := Config.freeWaits (o - 0xB000) c.waits w }
  else if 0xB800 ≤ o && o < 0xBA00 then { c with dq := { c.dq with hw := dqPut c.dq.hw ((o - 0xB800) / 8) w } }
  else if 0xBA00 ≤ o && o < 0xBB00 then
    let k := Fin.ofNat 8 ((o - 0xBA00) / 32)
    { c with meng := { c.meng with sh := c.meng.sh.set k (BitVec.ofNat 256 (putWord c.meng.sh[k].toNat (o % 32 / 8) w)) } }
  else if 0xBB00 ≤ o && o < 0xBC00 then { c with links := (Config.freeLinks (o - 0xBB00) c.links w).getD c.links }
  else if 0xC000 ≤ o && o < 0xC400 then
    let d := Fin.ofNat 4 ((o - 0xC000) / 0x100)
    { c with links := { c.links with fifo := c.links.fifo.set d (qPut c.links.fifo[d] (o % 0x100 / 8) w) } }
  else if 0xC400 ≤ o && o < 0xCC00 then
    let q := Fin.ofNat 4 ((o - 0xC400) / 0x200)
    let k := o % 0x100 / 8
    if (o - 0xC400) / 0x100 % 2 = 0 then { c with links := { c.links with pqF := c.links.pqF.set q (qPut c.links.pqF[q] k w) } }
    else { c with links := { c.links with pqR := c.links.pqR.set q (qPut c.links.pqR[q] k w) } }
  else if o = 0xD020 then
    let cmd := bits w 9 8
    if cmd = 1 || cmd = 2 then { c with veng := { c.veng with rlcmd := some (bits w 23 16, cmd == 1) } } else c.discard
  else if 0xE040 ≤ o && o < 0xE080 then
    let ws := (c.flt.last.map Packet.words).getD (List.replicate 8 0)
    { c with flt := { c.flt with last := some (Packet.ofWords (ws.set ((o - 0xE040) / 8) w)) } }
  else c

/-- Whether a write to the window takes effect (R137): on a frozen core, or in the slot block of a slot parked in supervisor
call. -/
def Core.pokeable (c : Core) (o : Nat) : Bool :=
  c.flt.frozen || (o < 0x8000 &&
    let t := c.slot (Fin.ofNat 16 (o / 0x800))
    t.state == .parked && t.park == .supcall)

/-- Whether a master may access the window of core `l` (R136, R444). -/
def State.mayView (s : State) (l : Nat) (m : Msg) : Bool :=
  let c := s.core l
  let k := s.ctx c.ctxid
  m.level == 2 || (m.level == 1 && m.ctx == c.ctxid && m.spanel == s.panelId &&
    (k.lcnOf k.sup == some m.src || k.lcnOf k.loader == some m.src))

/-! ## The message that a control-space access is -/

/-- The offset in a debug window of an access to it, and the datum that it writes. -/
def Msg.windowAccess (m : Msg) : Option (Nat × Option Word) :=
  match m.body with
  | .mem pa op _ _ =>
    if spaceOf pa = 15 && pa % 2 ^ 44 < 8192 * 0x10000 then
      match op with
      | .store d => some (pa % 0x10000, some (word (ofBytes d)))
      | _ => some (pa % 0x10000, none)
    else none
  | _ => none

/-- A write to DBGCTL and its command. -/
def Msg.command (m : Msg) : Option (Nat × Nat) :=
  match m.windowAccess with
  | some (0xE000, some w) => some (bits w 7 4, bits w 3 0)
  | _ => none

/-- A write to a system register through the window. -/
def Msg.regWrite (m : Msg) : Option (Nat × Word) :=
  match m.windowAccess with
  | some (o, some w) => if 0x8000 ≤ o && o < 0x9000 then some ((o - 0x8000) / 8, w) else none
  | _ => none

/-- An access to a window served after its master was admitted (R444). -/
def State.admitted (s : State) (l : Nat) (m : Msg) (k : State → State × Word) : State :=
  if !s.mayView l m then s.answer l m.reply { cause := 0x04 }
  else
    let r := k s
    r.1.answer l m.reply { w := r.2, data := toBytes 8 r.2.toNat }

/-- DEBUG_WINDOW_ACCESS (R137): reads, and writes that have no event of their own. -/
def execDebugWindowAccess (core : Nat) (s : State) : Result :=
  .next (s.handle core (fun m => m.windowAccess.isSome && m.regWrite.isNone && m.command.all fun c => c.1 == 0) fun s m =>
    s.admitted core m fun s =>
      match m.windowAccess with
      | some (o, none) => (s, s.view core o)
      | some (o, some w) =>
        if o = 0xE000 then
          (s.modCore core fun c => { c with flt := { c.flt with disc := false, ctlslot := bits w 3 0, ctlcmd := 0 } }, 0)
        else if (s.core core).pokeable o then (s.modCore core fun c => c.poke o w, 0)
        else (s.modCore core Core.discard, 0)
      | none => (s, 0))

/-- A command of DBGCTL (R137). -/
def State.dbgCommand (s : State) (core : Nat) (cmd : Nat → Bool) (k : State → Fin 16 → State) : Result :=
  .next (s.handle core (fun m => m.command.any fun c => cmd c.1) fun s m =>
    s.admitted core m fun s =>
      match m.command with
      | some (n, slot) =>
        (k (s.modCore core fun c => { c with flt := { c.flt with disc := false, ctlslot := slot, ctlcmd := n } }) (Fin.ofNat 16 slot), 0)
      | none => (s, 0))

/-- DBGCTL_RESUME (R241). -/
def execDbgctlResume (core : Nat) (s : State) : Result :=
  s.dbgCommand core (· == 1) fun s _ => (s.resumeCore core).pumpCore core

/-- DBGCTL_SINGLE_STEP (R241). -/
def execDbgctlSingleStep (core : Nat) (s : State) : Result :=
  s.dbgCommand core (· == 2) fun s k => (s.stepSlot core k).pump core k

/-- DBGCTL_RELEASE_SUPCALL (R111, R137). -/
def execDbgctlReleaseSupcall (core : Nat) (s : State) : Result :=
  s.dbgCommand core (· == 4) fun s k =>
    let t := s.slot core k
    if t.state = .parked && t.park = .supcall then s.completed core k else s

/-- DBGCTL_INVALID_COMMAND (R137). -/
def execDbgctlInvalidCommand (core : Nat) (s : State) : Result :=
  s.dbgCommand core (5 ≤ ·) fun s _ => s.modCore core Core.discard

/-! ## Retire (R241) -/

/-- The held reservation of a slot released, as by RELQ. -/
def State.releaseHeld (s : State) (l : Nat) (k : Fin 16) : State :=
  match (s.slot l k).held with
  | none => s
  | some a =>
    let pa := a.toNat % 2 ^ 48
    s.sendAccess l 16 0 a (a.toNat / 2 ^ 48) pa 0x0A 8 (.mem pa .relq k.val 0) .done

/-- A waiter of a request that is withdrawn. -/
def Waiter.isOf (w : Waiter) (panel src : Nat) (seqs : List Nat) : Bool :=
  let f (r : Reply) : Bool := r.panel == panel && r.src == src && seqs.contains r.seq
  match w.kind with
  | .ldw r => f r
  | .ldt r => f r
  | .stw r _ => f r
  | .lrq r _ _ => f r
  | .stagePut r _ => f r
  | .handle m => m.spanel == panel && m.src == src && seqs.contains m.seq
  | _ => false

/-- The wait-table entries of a slot withdrawn, at every home of the panel, with the requests that made them. -/
def State.withdraw (s : State) (l : Nat) (k : Fin 16) : State :=
  let qs := (s.core l).reqs.filter fun q => q.slot == k.val
  let at_ (q : Req) : Nat := if q.msg.vc = 4 then l else q.msg.dest
  let gone := qs.filter fun q => (s.core (at_ q)).waits.any fun w => w.isOf s.panelId l [q.msg.seq]
  let s := gone.foldl (fun s q =>
    s.modCore (at_ q) fun c => { c with waits := c.waits.filter fun w => !w.isOf s.panelId l [q.msg.seq] }) s
  s.modCore l fun c => { c with reqs := c.reqs.filter fun q => !gone.contains q }

/-- The engine commands of a slot that have not started, discarded (R241). -/
def State.discardUnstarted (s : State) (l : Nat) (k : Fin 16) : State :=
  let s := ((s.core l).meng.q.filter fun q => q.slot == k.val && !q.started).foldl (fun s q => s.dropMat l q) s
  let c := s.core l
  let n := (c.veng.q.filter fun q => q.slot == k.val && (!q.started || q.flt)).length +
    (c.cq.filter fun q => q.slot == k.val && !q.started).length
  let s := s.setCore l
    { c with veng := { c.veng with q := c.veng.q.filter fun q => !(q.slot == k.val && (!q.started || q.flt)) }
             cq := c.cq.filter fun q => !(q.slot == k.val && !q.started) }
  (List.range n).foldl (fun s _ => s.cmdDone l k.val) s

/-- A slot's record retired through the debug window (Table 2.5, R241): its slot goes Idle. -/
def State.retireSlot (s : State) (l : Nat) (k : Fin 16) : State :=
  let t := s.slot l k
  if k = 15 || (t.state ≠ .parked && t.state ≠ .frozen && !(t.state == .running && (s.core l).flt.frozen)) then s
  else
    let s := match t.record with
      | some ra => s.attempt l (s.core l).ctxid ra .retire
      | none => s
    let s := s.releaseHeld l k
    let s := s.withdraw l k
    let s := (List.range 8).foldl (fun s i => s.qfree l k (Fin.ofNat 32 (24 + i))) s
    let s := s.discardUnstarted l k
    let s := s.modNi l fun n => { n with posted := n.posted.map fun p => if p.slot = k.val then { p with slot := 16 } else p }
    let drop (q : Req) : Req := if q.slot = k.val then { q with slot := 16, cont := .done } else q
    let off (x : Coll) : Coll := if x.slot = k.val then { x with slot := 17 } else x
    s.modCore l fun c =>
      let c := { c.orphan k with reqs := c.reqs.map drop, colls := c.colls.map off }
      c.modSlot k Slot.left

/-- DBGCTL_RETIRE (R241). -/
def execDbgctlRetire (core : Nat) (s : State) : Result := s.dbgCommand core (· == 3) fun s k => s.retireSlot core k

/-! ## Register writes (R137, R444) -/

/-- A write of a system register through the window: its level, and what WRSYS checks. -/
def State.windowReg (s : State) (l n lvl : Nat) (w : Word) : State :=
  let c := s.core l
  if !c.flt.frozen then s.setCore l c.discard
  else match sysWriteLevel n with
    | none => s.setCore l c.discard
    | some need => if lvl < need || !c.sysOk l n w then s.setCore l c.discard else s.setCore l (c.sysWrite n w)

end Sys2Proof.Machine
end

