-- ==== Sys2Proof/Machine/Handlers.lean ====
section
/-! DEFINITION. The built-in handlers of the message thread (R129, Table 5.7), program handlers (R130), fault packets (R240),
the die agents' control blocks (R248, R332, R375, R444). -/

namespace Sys2Proof.Machine

/-! ## Accesses (R218, R221, R224) -/

/-- The operation of a message that is an access to a slice, a window or HBM. -/
def Msg.access (m : Msg) : Option MemOp :=
  match m.body with
  | .mem pa op _ _ => if spaceOf pa = 15 then none else some op
  | _ => none

/-- A handler of accesses at a core. -/
def State.memEvent (s : State) (l : Nat) (p : MemOp → Bool) : Result :=
  .next (s.handle l (fun m => m.access.any p) fun s m => s.serveMem l m)

/-- LOAD_HANDLER (R129). -/
def execLoadHandler (core : Nat) (s : State) : Result :=
  s.memEvent core fun o => match o with
    | .load _ | .readFe | .peekFe | .fetch => true
    | _ => false
/-- STORE_HANDLER (R129): stores, and the stores of a VSEND (R194); accesses of the core to their words go on behind them. -/
def execStoreHandler (core : Nat) (s : State) : Result :=
  .next (s.handle core (fun m => (m.body matches .vsend ..) || m.access.any fun o => o matches .store _) fun s m =>
    (match m.body with
     | .vsend .. => s.serveVsend core m
     | _ => s.serveMem core m).pumpCore core)
/-- ATOMIC_HANDLER (R224). -/
def execAtomicHandler (core : Nat) (s : State) : Result := s.memEvent core fun o => o matches .amo _ _ _ _
def execLdwHandler (core : Nat) (s : State) : Result := s.memEvent core (· == .ldw)
def execLdtHandler (core : Nat) (s : State) : Result := s.memEvent core (· == .ldt)
def execStfHandler (core : Nat) (s : State) : Result := s.memEvent core fun o => o matches .stf _
def execStwHandler (core : Nat) (s : State) : Result := s.memEvent core fun o => o matches .stw _
def execLrqHandler (core : Nat) (s : State) : Result := s.memEvent core (· == .lrq)
def execScqHandler (core : Nat) (s : State) : Result := s.memEvent core fun o => o matches .scq _
def execRelqHandler (core : Nat) (s : State) : Result := s.memEvent core (· == .relq)

/-! ## Waits and records (R37, R38, R99, R100) -/

/-- A message that core `l` serves as it serves its own accesses. -/
def State.serveEvent (s : State) (l : Nat) (p : Msg → Bool) : Result := .next (s.handle l p fun s m => s.serveLocal l m)

/-- AWAIT_REGISTRATION (R99): the waiter's core is the message's source. -/
def execAwaitRegistration (core : Nat) (s : State) : Result :=
  .next (s.handle core (fun m => m.body matches .awaitReg _ _) fun s m =>
    match m.body with
    | .awaitReg pa r =>
      let q := s.awaitAt core pa m.ctx m.level r m.src
      q.1.answer core m.reply q.2
    | _ => s)

/-- JOIN_ARMING (R37). -/
def execJoinArming (core : Nat) (s : State) : Result := s.serveEvent core fun m => m.body matches .joinArm _ _

/-- JOIN_DECREMENT (R38). -/
def execJoinDecrement (core : Nat) (s : State) : Result := s.serveEvent core fun m => m.body matches .joinDec _

/-- ARMING_END (R100). -/
def execArmingEnd (core : Nat) (s : State) : Result :=
  .next (s.handle core (fun m => m.body matches .armEnd _ _) fun s m =>
    match m.body with
    | .armEnd pa r => s.armEndAt core pa r
    | _ => s)

/-- The message that an agent serves next: a core's as R129 orders them, any other agent's in order of acceptance. -/
def State.headOf (s : State) (a : Nat) : Option Msg := if a < 8192 then s.headMsg a else if 8192 ≤ a && a < 8448 && (s.die (a - 8192)).failed then none else (s.ni a).inq.head?

/-- The message at the head of an agent's buffer, if it is one that `mine` picks, served. -/
def State.serve (s : State) (a : Nat) (mine : Msg → Bool) (k : State → Msg → State) : State :=
  match s.headOf a with
  | some m => if mine m && m.len ≤ 256 then k (s.takeMsg a m) m else s
  | none => s

/-- Whether a message is a re-fire. -/
def Msg.isRefire (m : Msg) : Bool := m.body matches .ctl _ _ (.refire _ _ _)

/-- CONTROL_WORD_TRANSITION (R28). -/
def execControlWordTransition (agent : Nat) (s : State) : Result :=
  .next (s.serve agent (fun m => (m.body matches .ctl _ _ _) && !m.isRefire) fun s m => s.serveCtl agent m)

/-- REFIRE (R272). -/
def execRefire (agent : Nat) (s : State) : Result := .next (s.serve agent Msg.isRefire fun s m => s.serveCtl agent m)

/-- EVENT_SIGNAL (R105). -/
def execEventSignal (core : Nat) (s : State) : Result :=
  .next (s.handle core (fun m => (m.body matches .sigev _ _) || (m.body matches .refired _ _)) fun s m =>
    match m.body with
    | .sigev k mask => s.signal core k mask
    | .refired k va => s.refired core k va
    | _ => s)

/-! ## Rings (R128, R189) -/

/-- RING_RESERVATION (R189): slots set aside, or given back unused. -/
def execRingReservation (core : Nat) (s : State) : Result :=
  .next (s.handle core (fun m => (m.body matches .ringReserve _ _ _ _) || (m.body matches .ringReturn _ _)) fun s m =>
    match m.body with
    | .ringReturn _ _ => s.serveRing core m
    | _ => s.serveLocal core m)

/-- RING_PUSH (R128): words as they are, or the elements of a VSEND converted (R132). -/
def execRingPush (core : Nat) (s : State) : Result :=
  .next (s.handle core (fun m => m.body matches .ringPush ..) fun s m => s.serveRing core m)

/-- RING_CREDIT (R128): to the binding of the ring, or back to the ring's home where the register is bound to it no more. -/
def execRingCredit (core : Nat) (s : State) : Result :=
  .next (s.handle core (fun m => m.body matches .ringCredit ..) fun s m =>
    match m.body with
    | .ringCredit desc slot reg n => (s.takeCredit core slot reg n desc).flush core
    | _ => s)

/-! ## Pages (R121) -/

/-- PAGE_OWNER_WRITE (R121, R134): by a system-level master. -/
def execPageOwnerWrite (core : Nat) (s : State) : Result :=
  .next (s.handle core (fun m => m.body matches .pageOwner _ _) fun s m =>
    match m.body with
    | .pageOwner k v =>
      let n := 0x20 + k % 16
      if m.level ≠ 2 then s.answer core m.reply { cause := 0x04 }
      else if !(s.core core).sysOk core n v then s.answer core m.reply { cause := 0x1B, info := word (n + 4096) }
      else (s.modCore core fun c => c.sysWrite n v).answer core m.reply {}
    | _ => s)

/-! ## Program handlers (R129, R130) -/

/-- Whether a message names no handler: a reserved KIND, a payload that its KIND does not have, a length above 256. -/
def Msg.invalid (m : Msg) : Bool :=
  m.len > 256 || match m.body with
    | .raw _ => m.kind < 0x40
    | .program _ => m.kind < 0x40
    | _ => false

/-- The payload of a message for a program handler. -/
def Msg.payload (m : Msg) : List Byte :=
  match m.body with
  | .program d => d.take m.len
  | .raw d => d.take m.len
  | .packet p => bytesOf p.words
  | _ => []

/-- The entry of a handler in the table at AMTBASE: its PC, or the cause with which it cannot be read, 0 for an invalid
entry. -/
def State.handlerEntry (s : State) (l kind : Nat) : State × (Addr ⊕ Nat) :=
  let c := s.core l
  let r := s.tr l c.ctxid (c.sys 6 + word (8 * (kind - 0x40))).toNat .r .vec
  match r.2 with
  | .bad k _ => (r.1, .inr k)
  | .ok p pa =>
    if p ≠ s.panelId then (r.1, .inr 0x07)
    else
      let q := r.1.readPa pa 8 c.ctxid c.level
      let w := word (ofBytes q.2.2.2)
      if q.2.1 ≠ 0 then (q.1, .inr q.2.1)
      else if bit w 63 && bits w 62 48 = 0 then (q.1, .inl (w.setWidth 48)) else (q.1, .inr 0)

/-- The message thread at the entry of a program handler (R130, R152). -/
def handlerSlot (c : Core) (m : Msg) (pc : Addr) (last : Option Nat) : Slot :=
  let ws := wordsOf 4 ((m.payload ++ List.replicate 32 0).take 32)
  let x : Vector Word 32 := Vector.replicate 32 0
  { state := .running
    pc
    regs := { x := (((((((x.set 3 (c.sys 2)).set 4 (word (bits (c.sys 7) 19 8 * 256))).set 5 (word m.len)).set 6 (word m.src)).set 10
      (nth 0 ws 0)).set 11 (nth 0 ws 1)).set 12 (nth 0 ws 2)).set 13 (nth 0 ws 3) }
    lfsr := lfsrSeed (c.sys 0xA) (word (m.src * 2 ^ 21 + m.seq)) pc
    lastIssue := last }

/-- The payload buffer of a core (Table 5.9). -/
def State.msgBuf (s : State) (l : Nat) : Nat := slicePa l (bits ((s.core l).sys 7) 19 8 * 256)

/-- A program handler starts: the payload goes into the buffer, then the entry's registers; accesses of the handler before it are still
in the thread's path. A buffer that cannot be written is a deferred fault of the message thread (log 129). -/
def State.startHandler (s : State) (l : Nat) (m : Msg) (pc : Addr) : State :=
  let q := s.writeOwned (s.msgBuf l) ((m.payload ++ List.replicate 256 0).take 256) (s.core l).ctxid (s.core l).level none
  let s := q.1.modCore l fun c => ({ c with mt := some { msg := m } } : Core).modSlot 15 fun t =>
    { handlerSlot c m pc t.lastIssue with path := t.path, outst := t.outst }
  if q.2 = 0 then s else s.deferFault l 15 6 pc (mkCause q.2 0 0)

/-- A message discarded and reported (R129, R130); a request's sender is answered with the same cause. -/
def State.discardMsg (s : State) (l : Nat) (m : Msg) (reason cause : Nat) : State :=
  let s := s.report l Config.srcPctl 6 (mkCause 0x32 (reason + cause * 256) 0)
  if m.vc = 0 || m.vc = 3 then s.answer l m.reply { cause := 0x32, info := word (reason + cause * 256) } else s

/-- PROGRAM_HANDLER (R130). -/
def execProgramHandler (core : Nat) (s : State) : Result :=
  .next (match s.headMsg core with
    | none => s
    | some m =>
      if s.gathered core (s.msgBuf core) 256 then s
      else if m.invalid then (s.takeMsg core m).discardMsg core m 1 0
      else if !m.forProgram then s
      else
        let r := (s.takeMsg core m).handlerEntry core m.kind
        match r.2 with
        | .inl pc => r.1.startHandler core m pc
        | .inr c =>
          if m.kind = 0xFF then (r.1.sendPacket Config.srcPctl (Packet.ofWords (wordsOf 8 (m.payload ++ List.replicate 64 0)))).answer core m.reply {}
          else r.1.discardMsg core m (if c = 0 then 1 else 2) c)

/-! ## Fault packets (R240, R265) -/

/-- The contexts that own a core of a cluster. -/
def State.ctxsOf (s : State) (ls : List Nat) : List Nat :=
  ((ls.filter s.present).map fun l => (s.core l).ctxid).eraseDups.filter fun c => Fmap.has s.pctl.ctxs c

/-- FAULT_PACKET_RECEIVE (R240): entry 191 of the receiver's handler table; the PCTL keeps the packet, forwards the report
of a failed matrix unit, and contains a core whose slice has failed (R120). -/
def execFaultPacketReceive (agent : Nat) (s : State) : Result :=
  .next (s.serve agent (fun m => (m.body matches .packet _) && !(agent < 8192 && s.gathered agent (s.msgBuf agent) 256)) fun s m =>
    match m.body with
    | .packet p =>
      if agent < 8192 then
        let r := s.handlerEntry agent 0xFF
        match r.2 with
        | .inl pc => r.1.startHandler agent m pc
        | .inr _ => r.1.sendPacket Config.srcPctl p
      else
        let s := s.modPctl fun x => { x with packets := x.packets ++ [p] }
        if p.cause = 0x3A then s.modCore p.lcn fun c => { c with health := { c.health with trigger := true } }
        else if p.cause = 0x3B && p.ctx = 0 then
          let cl := p.info.toNat % 1024
          (s.ctxsOf ((List.range 8).map (memberLcn cl))).foldl (fun s c =>
            match (s.ctx c).lcnOf (s.ctx c).sup with
            | some d => s.sendPacket d { p with ctx := c }
            | none => s) s
        else s
    | _ => s)

/-! ## HBM (R384) -/

/-- HBM_ACCESS (R384): the access at the head of a memory bridge's buffer. -/
def execHbmAccess (bridge : Nat) (s : State) : Result :=
  let a := Config.srcMem bridge
  .next (s.serve a (fun m => (m.body matches .mem ..) || (m.body matches .vsend ..)) fun s m =>
    match m.body with
    | .mem pa op slot apc =>
      let q := s.applyHbm pa op
      q.1.reply a m slot apc q.2
    | .vsend .. => s.serveVsend a m
    | _ => s)

/-! ## The die agents' control blocks (R248, R332, R375, R444) -/

/-- The cores of a cluster. -/
def clusterCores (n : Nat) : List Nat := (List.range 8).map (memberLcn n)

/-- The logical core that a physical core serves. -/
def State.lcnOfPhys (s : State) (p : Nat) : Option Nat := (dieCores (p / 36)).find? fun l => s.present l && s.physOf l == p

/-- A word of a CMU control block (Table 9.3). -/
def State.cmuView (s : State) (n o : Nat) : Word :=
  let k := s.cluster n
  if o = 0 then k.cmuwt.zeroExtend 64
  else if o = 8 then
    word (packFields [(1, if k.mabs then 1 else 0), (1, if k.cmboff then 1 else 0), (6, 0),
      (8, packBits ((List.range 8).map (s.presBit n)))])
  else if o = 0x10 then
    word (packFields ((List.range 8).map fun m => (4, ((s.die (n / 4)).cmumap[Fin.ofNat 32 (n % 4 * 8 + m)]).toNat)))
  else 0

/-- The members of a cluster that are marked absent have empty queues (R244). -/
def State.emptyQueues (s : State) (n : Nat) : State :=
  (List.range 8).foldl (fun s m =>
    if s.memberOn n m then s
    else
      let l := memberLcn n m
      let s := (s.core l).meng.q.foldl (fun s c => s.dropMat l c) s
      let s := s.modCluster n fun k => { k with grant := k.grant.filter (· != m) }
      s.releaseHolds n) s

/-- A write to a CMU control block by a system-level agent: with a zero field nonzero it is ignored as a whole; CMBOFF and MABS are
read-only. -/
def State.cmuPoke (s : State) (n o : Nat) (w : Word) : State :=
  if o = 0 && w.toNat < 2 ^ 32 && (List.range 8).all (fun m => !bit w (4 * m + 3)) then
    s.modCluster n fun k => { k with cmuwt := w.setWidth 32 }
  else if o = 8 && w.toNat < 2 ^ 16 && bits w 7 2 = 0 then (s.modCluster n fun k => { k with pres := some (w.extractLsb' 8 8) }).emptyQueues n
  else if o = 0x10 && w.toNat < 2 ^ 32 then
    (s.modDie (n / 4) fun d =>
      { d with cmumap := (List.range 8).foldl (fun (v : Vector (BitVec 4) 32) m =>
          v.set (Fin.ofNat 32 (n % 4 * 8 + m)) (w.extractLsb' (4 * m) 4)) d.cmumap }).emptyQueues n
  else s

/-- A stage entry as the governor shows it (Table 13.4). -/
def Stage.words (g : Stage) : List Word :=
  [g.ring, g.entry.zeroExtend 64, word (packFields [(32, g.cores.toNat), (16, g.hi), (16, g.lo)]),
    word (packFields [(8, g.min), (1, if g.unit_ then 1 else 0)])]

/-- The LPT entries of a half as a word. -/
def Die.lptWord (d : Die) (half : Bool) : Word :=
  word (packFields ((List.range 16).map fun i => (4, (d.lpt[Fin.ofNat 32 (i + if half then 16 else 0)]).toNat)))

/-- Bits for the four die edges with a link that is down. -/
def Die.ldown (d : Die) : Nat :=
  let any (a n : Nat) : Bool := (List.range n).any fun i => d.links[a + i]?.any Link.down
  packBits [any 0 9, any 9 4, any 13 9, any 22 4]

/-- A word of a die control block (Table 13.1). -/
def State.dieView (s : State) (d o : Nat) : Word :=
  let k := s.die d
  if o = 0 then k.hmap.zeroExtend 64
  else if o = 8 then k.lptWord false
  else if o = 0x10 then k.lptWord true
  else if o = 0x18 then word (packFields [(4, k.ldown), (4, 0), (6, k.cards.length), (2, 0), (8, k.waitq.length)])
  else if 0x40 ≤ o && o < 0x110 then
    match k.links[(o - 0x40) / 8]? with
    | some x => word (packFields [(16, x.replays), (8, x.retrains), (1, if x.down then 1 else 0)])
    | none => 0
  else if 0x200 ≤ o && o < 0x300 then nth 0 (k.stages[Fin.ofNat 8 ((o - 0x200) / 32)]).words (o % 32 / 8)
  else 0

/-- A write to a die control block: HMAP and LPT, by the PCTL. -/
def State.diePoke (s : State) (d o : Nat) (w : Word) : State :=
  if o = 0 then s.modDie d fun k => { k with hmap := w.setWidth 36 }
  else if o = 8 || o = 0x10 then
    s.modDie d fun k =>
      { k with lpt := (List.range 16).foldl (fun (v : Vector (BitVec 4) 32) i =>
          v.set (Fin.ofNat 32 (i + if o = 8 then 0 else 16)) (w.extractLsb' (4 * i) 4)) k.lpt }
  else s

/-- A word of a router control block (Table 15.1). A router without a core of its own shows no channel state. -/
def State.routerView (s : State) (p o : Nat) : Word :=
  if o < 0x2000 then word (packFields ((List.range 8).map fun i => (8, s.rmapOf (o + i))))
  else if o = 0x2000 then
    word (packFields [(1, if s.dead.contains p then 1 else 0), (1, match s.lcnOfPhys p with
      | some l => if (s.core l).health.iso then 1 else 0
      | none => 0), (1, if s.rlyf.contains p then 1 else 0)])
  else if 0x2040 ≤ o && o < 0x2080 then
    match s.lcnOfPhys p with
    | none => 0
    | some l =>
      let b := (s.core l).bars[Fin.ofNat 4 ((o - 0x2040) / 16)]
      if o % 16 = 0 then b.brect.zeroExtend 64
      else word (packFields [(1, if b.g then 1 else 0), (1, if b.ls then 1 else 0), (1, if b.v then 1 else 0), (1, if b.wd then 1 else 0),
        (1, if b.memb then 1 else 0), (27, 0), (32, b.rc.toNat)])
  else 0

/-- The block that a control-space access names at a die agent: 0 CMU, 1 die, 2 router; its number and the offset in it. -/
def ctlBlock (pa : Nat) : Option (Nat × Nat × Nat) :=
  let o := pa % 2 ^ 44
  if 0x10_0000_0000 ≤ o && o < 0x10_0000_0000 + 1024 * 0x100 then some (0, (o - 0x10_0000_0000) / 0x100, o % 0x100)
  else if 0x20_0000_0000 ≤ o && o < 0x20_0000_0000 + 256 * 0x1000 then some (1, (o - 0x20_0000_0000) / 0x1000, o % 0x1000)
  else if 0x30_0000_0000 ≤ o && o < 0x30_0000_0000 + 9216 * 0x4000 then some (2, (o - 0x30_0000_0000) / 0x4000, o % 0x4000)
  else none

/-- Whether a master may read a block of a die agent; writes need level 2. -/
def State.mayRead (s : State) (kind n : Nat) (m : Msg) : Bool :=
  let owned (ls : List Nat) : Bool := ls.any fun l => s.present l && (s.core l).ctxid == m.ctx
  m.level == 2 || (m.level == 1 && owned (if kind = 0 then clusterCores n else if kind = 1 then dieCores n else (s.lcnOfPhys n).toList))

/-- A word of a block. -/
def State.blockView (s : State) (kind n o : Nat) : Word :=
  if kind = 0 then s.cmuView n o else if kind = 1 then s.dieView n o else s.routerView n o

/-- The access that a message makes to a block of a die agent: kind, number, offset, the datum of a write. -/
def Msg.block (m : Msg) : Option (Nat × Nat × Nat × Option Word) :=
  match m.body with
  | .mem pa op _ _ =>
    if spaceOf pa = 15 then
      (ctlBlock pa).map fun b => (b.1, b.2.1, b.2.2, match op with
        | .store d => some (word (ofBytes d))
        | _ => none)
    else none
  | _ => none

/-- Whether Table 15.1 does not mark an offset of a router block read-only: word 1 of a Causeway channel. -/
def routerWritable (o : Nat) : Bool := 0x2040 ≤ o && o < 0x2080 && o % 16 == 8

/-- Word 1 of a Causeway channel written; the channel and the register of the router's core are one state (R389; log 133). -/
def State.routerPoke (s : State) (p o : Nat) (w : Word) : State :=
  match s.lcnOfPhys p with
  | none => s
  | some l =>
    let k := Fin.ofNat 4 ((o - 0x2040) / 16)
    s.modCore l fun c =>
      { c with bars := c.bars.set k { c.bars[k] with g := bit w 0, ls := bit w 1, v := bit w 2, wd := bit w 3, memb := bit w 4, rc := w.extractLsb' 32 32 } }

/-- Whether a message is a write that changes a register of a block: the tables of a die are the PCTL's to write (R332). -/
def Msg.blockWrite (m : Msg) : Bool :=
  match m.block with
  | some (k, _, o, some _) =>
    ((o == 0 || o == 8 || o == 0x10) && (k == 0 || (k == 1 && m.src == Config.srcPctl))) || (k == 2 && routerWritable o)
  | _ => false

/-- Whether an offset of a block is one that its map lists: what the map of a die or a router lists, and may not be written, refuses every
write (R332, R444). -/
def ctlListed (kind o : Nat) : Bool :=
  if kind = 1 then o < 0x20 || (0x40 ≤ o && o < 0x110) || (0x200 ≤ o && o < 0x300)
  else kind == 2 && (o < 0x2008 || (0x2040 ≤ o && o < 0x2080))

/-- A read of a die's harvest tables served by its agent (R333). -/
def State.serveHarvest (s : State) (a : Nat) : State :=
  let die := a - Config.srcDie 0
  match (s.ni a).inq.find? fun m => (m.body matches .rdhmap) || (m.body matches .rdlpt _) with
  | none => s
  | some m =>
    let w := match m.body with
      | .rdlpt h => (s.die die).lptWord h
      | _ => (s.die die).hmap.zeroExtend 64
    (s.takeMsg a m).answer a m.reply { w }

/-- CONTROL_SPACE_ACCESS (R444): reads of a block, and writes to what cannot be written; the reads of RDHMAP and RDLPT. -/
def execControlSpaceAccess (agent : Nat) (s : State) : Result :=
  if (s.headOf agent).all fun m => m.block.isNone then .next (if agent < 8192 then s else s.serveHarvest agent)
  else
  .next (s.serve agent (fun m => m.block.isSome && !m.blockWrite) fun s m =>
    match m.block with
    | some (k, n, o, none) =>
      if s.mayRead k n m then
        let w := s.blockView k n o
        s.answer agent m.reply { w, data := toBytes 8 w.toNat }
      else s.answer agent m.reply { cause := 0x04 }
    | some (k, _, o, some _) => s.answer agent m.reply { cause := if m.level = 2 && !ctlListed k o then 0 else 0x04 }
    | none => s)

/-- REGISTER_WRITE (R137, R444): a system register through a debug window; a register of a die agent's block. -/
def execRegisterWrite (agent : Nat) (s : State) : Result :=
  if agent < 8192 then
    .next (s.handle agent (fun m => m.regWrite.isSome) fun s m =>
      s.admitted agent m fun s =>
        match m.regWrite with
        | some (n, w) => (s.windowReg agent n m.level w, 0)
        | none => (s, 0))
  else
    .next (s.serve agent Msg.blockWrite fun s m =>
      match m.block with
      | some (k, n, o, some w) =>
        if m.level ≠ 2 then s.answer agent m.reply { cause := 0x04 }
        else (if k = 0 then s.cmuPoke n o w else if k = 1 then s.diePoke n o w else s.routerPoke n o w).answer agent m.reply {}
      | _ => s)

end Sys2Proof.Machine
end

