-- ==== Sys2Proof/Machine/Die.lean ====
section
/-! DEFINITION. The die's instructions and its dealer (R333-R342, R359, R360): launches, shares, chunks, deal requests. -/

namespace Sys2Proof.Machine

/-! ## Agents' own translations -/

/-- A translation made by an agent of die `d`, through the die's L2 TLB and walkers. -/
def State.trDie (s : State) (d ctx va : Nat) (perm : Perm) (sup : Sup) : State × Tr :=
  if va ≥ 2 ^ 48 then (s, .bad 0x09 1)
  else match s.l2 d ctx va with
    | some e => (s, e.check perm sup va s.panelId)
    | none =>
      let r := s.walk d ctx va
      match r.2 with
      | .inl e => (r.1.modDie d fun x => { x with l2 := l2Put x.l2 e }, e.check perm sup va s.panelId)
      | .inr (c, k) => (r.1, .bad c k)

/-- A fault of cause 0x11 with a reason of Table 13.10. -/
def bad11 (r : Nat) (va : Word) : Cause := mkCause 0x11 r va

/-- An instruction that sends a request and so may not be issued by a handler (R130, R220). -/
def State.noMtSend (s : State) (k : State → State) : State :=
  if s.cur.slot = 15 then s.takeFault (mkCause 0x1A 2 0) else k s

/-- A request on VC 0 to a die agent whose result is a variable-latency result of the memory path. -/
def State.askDie (s : State) (d dest : Nat) (len : Nat) (b : Body) (cont : Cont) : State :=
  let l := s.cur.lcn
  let a := Config.srcDie dest
  if s.freeSlots l = 0 then s.stopWith (.retry .reqSlot)
  else (s.awaitX (Fin.ofNat 32 d)).request l s.cur.slot.val s.here 0 a cont (s.reqMsg l s.panelId a 0 0x01 len b)

/-! ## RDHMAP, RDLPT (R333) -/

/-- A read of a die's harvest tables. -/
def State.readDie (s : State) (i : Instr) (d s1 : Fin 32) (b : Body) : Result :=
  s.run i fun s => s.noMtSend fun s =>
    let w := s.rx s1
    if w.toNat ≥ 256 then s.takeFault (bad11 0x2D w)
    else match s.orderStop false with
      | some c => s.stopWith c
      | none => s.askDie d.val w.toNat 8 b (.value d)

def execRdhmap (gd : Guard) (d s1 : Fin 32) (s : State) : Result := s.readDie (.rdhmap gd d s1) d s1 .rdhmap
def execRdlpt (gd : Guard) (d s1 : Fin 32) (half : Bool) (s : State) : Result :=
  s.readDie (.rdlpt gd d s1 half) d s1 (.rdlpt half)

/-! ## Job cards (Table 13.2) -/

def cardArgs (ws : List Word) : Word := nth 0 ws 1
def cardRcount (ws : List Word) : Nat := bits (nth 0 ws 2) 63 32
def cardRsize (ws : List Word) : Nat := bits (nth 0 ws 2) 31 16
def cardMinch (ws : List Word) : Nat := bits (nth 0 ws 2) 15 0
def cardCwa (ws : List Word) : Word := nth 0 ws 4
def cardRarea (ws : List Word) : Nat := (nth 0 ws 5).toNat
def cardCrnl (ws : List Word) : Nat := bits (nth 0 ws 6) 23 20
def cardSsv (ws : List Word) : Bool := bit (nth 0 ws 6) 19
def cardSset (ws : List Word) : Nat := bits (nth 0 ws 6) 18 15
def cardDom (ws : List Word) : Nat := bits (nth 0 ws 6) 14 12
def cardRdom (ws : List Word) : Nat := bits (nth 0 ws 6) 11 9
def cardPri (ws : List Word) : Nat := bits (nth 0 ws 6) 8 7
def cardNowave (ws : List Word) : Bool := bit (nth 0 ws 6) 0

/-- The reason with which a card is refused (Table 13.10), its completion word's space apart. -/
def cardReason (ws : List Word) : Option Nat :=
  let hi (i : Nat) : Bool := bits (nth 0 ws i) 63 48 != 0
  if hi 0 || hi 1 || hi 4 || hi 5 || bits (nth 0 ws 6) 63 24 != 0 || bits (nth 0 ws 6) 6 1 != 0 || nth 0 ws 7 != 0 then some 0x21
  else if cardRcount ws = 0 || cardMinch ws = 0 then some 0x22
  else if cardDom ws < 2 || cardDom ws > 4 || cardRdom ws > 4 || cardCrnl ws < 5 || cardCrnl ws > 12 then some 0x23
  else if (cardCwa ws).toNat % 8 ≠ 0 || cardRarea ws % 64 ≠ 0 then some 0x24
  else none

/-- The participating dies of a card (R335), ascending, with their present cores of the context. -/
def State.participants (s : State) (ctx l dom : Nat) : List (Nat × Nat) :=
  let cs := s.ctxCores ctx
  let ds := sortNat ((cs.map dieOf).eraseDups.filter fun d =>
    if dom = 2 then d == dieOf l else if dom = 3 then quadOf d == quadOf (dieOf l) else true)
  ds.map fun d => (d, (cs.filter fun x => dieOf x == d).length)

/-- The shares of `r` records among dies with their numbers of cores (R335): whole parts, then one record each to those
with the largest remainders, the lower die first. -/
def shares (r : Nat) (ds : List (Nat × Nat)) : List Nat :=
  let n := ds.foldl (fun a d => a + d.2) 0
  let rem (d : Nat × Nat) : Nat := r * d.2 % n
  let left := r - ds.foldl (fun a d => a + r * d.2 / n) 0
  ds.map fun d =>
    let before := (ds.filter fun e => rem e > rem d || (rem e == rem d && e.1 < d.1)).length
    r * d.2 / n + if before < left then 1 else 0

/-! ## LAUNCH (R336) -/

/-- LAUNCH (R336): the card is read first. -/
def execLaunch (gd : Guard) (d s1 : Fin 32) (s : State) : Result :=
  s.run (.launch gd d s1) fun s => s.notOnMt (.launch gd d s1) fun s =>
    let va := s.rx s1
    if va.toNat % 64 ≠ 0 then s.takeFault (bad11 0x20 va)
    else s.access va 64 .r (.mem (.load 64)) (.card d va) true false fun s => s.stopWith (.wait .response)

/-- A precise fault of the parked thread of a request. -/
def State.faultHere (s : State) (l : Nat) (q : Req) (c : Cause) : State := s.takeFaultAt l q.k c

/-- The card's words have returned: its checks, its completion word's translation, ENTRY; then it leaves for the die
agent. -/
def State.checkCard (s : State) (l : Nat) (q : Req) (d : Fin 32) (va : Word) (ws : List Word) : State :=
  match cardReason ws with
  | some r => s.faultHere l q (bad11 r va)
  | none =>
    let c := s.core l
    let cw := cardCwa ws
    let t : State × Option Cause :=
      if cw = 0 then (s, none)
      else
        let r := s.tr l c.ctxid cw.toNat .w .record
        match r.2 with
        | .ok p pa => (r.1, if p = s.panelId && spaceOf pa = 1 then none else some (bad11 0x24 va))
        | .bad k i => (r.1, some (if k = 0x07 || k = 0x0F then bad11 0x24 va else mkCause k i cw))
    match t.2 with
    | some k => t.1.faultHere l q k
    | none =>
      if (s.participants c.ctxid l (cardDom ws)).isEmpty then t.1.faultHere l q (bad11 0x26 va)
      else
        let r := t.1.targetStop (nth 0 ws 0)
        match r.2 with
        | some (.fault k) => r.1.faultHere l q k
        | some (.line pc) => (r.1.unpark l q.k).modSlot l q.k fun t => t.awaitLine pc
        | some _ => r.1
        | none =>
          let a := Config.srcDie (dieOf l)
          r.1.request l q.slot q.apc va a (.card d va) (r.1.reqMsg l s.panelId a 0 0x02 64 (.launch va ws))

/-- The answers of a LAUNCH: the card, then the number of participating dies. -/
def State.onCard (s : State) (l : Nat) (q : Req) (r : Resp) (d : Fin 32) (va : Word) : State :=
  if r.cause ≠ 0 then s.refusedWait l q r
  else match q.msg.body with
    | .launch _ _ => s.completedX l q.k d r.w
    | _ => s.checkCard l q d va (wordsOf 8 r.data)

/-- A card in a free dealer slot of a die (R339): at its first activation it deals the initial wave. -/
def State.activate (s : State) (d : Nat) (c : Card) : State :=
  let wave := if c.waved || cardNowave c.words then [] else (s.ctxCores c.ctx).filter fun l => dieOf l == d
  s.modDie d fun x => { x with cards := x.cards ++ [{ c with waved := true, wave := if c.waved then c.wave else wave, since := s.time }] }

/-- The oldest waiting card takes a free slot. -/
def State.fillSlots (s : State) (d : Nat) : Nat → State
  | 0 => s
  | n + 1 =>
    match (s.die d).waitq with
    | c :: t => if (s.die d).cards.length < 32 then State.fillSlots ((s.modDie d fun x => { x with waitq := t }).activate d c) d n else s
    | [] => s

/-- The launch of a context with a number. -/
def State.modLaunch (s : State) (ctx id : Nat) (f : Launch → Launch) : State :=
  s.modCtx ctx fun c => { c with launches := c.launches.map fun x => if x.id = id then f x else x }

/-- A LAUNCH at the issuer's die agent: the shares go to the participating dies. -/
def State.startLaunch (s : State) (die : Nat) (m : Msg) (va : Word) (ws : List Word) : State :=
  let ds := s.participants m.ctx m.src (cardDom ws)
  let sh := shares (cardRcount ws) ds
  let id := s.pctl.nextLaunch
  let s := s.modPctl fun p => { p with nextLaunch := id + 1 }
  let s := s.modCtx m.ctx fun c =>
    { c with launches := c.launches ++ [{ id, words := ws, va, cwa := (cardCwa ws).toNat, dies := ds.map Prod.fst,
                                          left := ds.map Prod.fst, reply := some m.reply,
                                          who := (c.ccnOf m.src).getD 0 }] }
  (List.range ds.length).foldl (fun s p =>
    let d := nth (0, 0) ds p
    let lo := (sh.take p).foldl (· + ·) 0
    s.system (Config.srcDie die) (Config.srcDie d.1) 0x02 m.ctx
      (.range { va, words := ws, ctx := m.ctx, pos := p, lo, hi := lo + nth 0 sh p, nd := d.2, launch := id })) s

/-- A die's share accepted: in a dealer slot or the waiting queue. The last acceptance answers the LAUNCH. An empty range
holds no slot (R341). -/
def State.acceptRange (s : State) (die : Nat) (c : Card) : State :=
  let x := s.die die
  let c := { c with order := x.nextCard }
  let s := s.modDie die fun x => { x with nextCard := x.nextCard + 1 }
  let s := if c.lo ≥ c.hi then s
    else if x.cards.length < 32 then s.activate die c
    else s.modDie die fun x => { x with waitq := x.waitq ++ [c] }
  let s := s.modLaunch c.ctx c.launch fun y => { y with left := y.left.filter (· != die) }
  match (s.ctx c.ctx).launches.find? fun y => y.id == c.launch with
  | some y =>
    match y.reply with
    | some r =>
      if y.left.isEmpty then
        (s.modLaunch c.ctx c.launch fun y => { y with reply := none }).answer (Config.srcDie (dieOf r.src)) r { w := word y.dies.length }
      else s
    | none => s
  | none => s

/-- CARD_ACCEPTANCE (R336): the next launch or share at a die agent; a share waits while the waiting queue is full. -/
def execCardAcceptance (die : Nat) (s : State) : Result :=
  if (s.die die).failed then .next s else
  let a := Config.srcDie die
  .next (match (s.ni a).inq.find? fun m => (m.body matches .launch _ _) || (m.body matches .range _) with
    | none => s
    | some m =>
      match m.body with
      | .launch va ws => (s.takeMsg a m).startLaunch die m va ws
      | .range c =>
        if (s.die die).cards.length ≥ 32 && (s.die die).waitq.length ≥ 256 then s else (s.takeMsg a m).acceptRange die c
      | _ => s)

/-! ## The dealer (R337-R341) -/

/-- The size of the next chunk of a card (R337). -/
def Card.chunk (c : Card) : Nat :=
  let r := c.hi - c.lo
  min r (max (cardMinch c.words) ((r + 2 * c.nd - 1) / (2 * c.nd)))

/-- The address of the record slot of a card's next chunk. -/
def Card.slotVa (c : Card) : Nat :=
  cardRarea c.words + 64 * (c.pos * 2 ^ cardCrnl c.words + c.c % 2 ^ cardCrnl c.words)

/-- The record of a card's next chunk. -/
def Card.record (c : Card) : List Byte :=
  bytesOf [nth 0 c.words 0, nth 0 c.words 3, word c.lo, word c.chunk,
    word (((cardArgs c.words).toNat + c.lo * cardRsize c.words) % 2 ^ 48), c.va, 0,
    Ctrl.fresh c.ctx (cardRdom c.words) (cardPri c.words)]

def State.modCard (s : State) (d order : Nat) (f : Card → Card) : State :=
  s.modDie d fun x => { x with cards := x.cards.map fun c => if c.order = order then f c else c }

/-- A card that has dealt its range leaves its slot. -/
def State.endCards (s : State) (d : Nat) : State :=
  (s.modDie d fun x => { x with cards := x.cards.filter fun c => c.lo < c.hi || c.target.isSome }).fillSlots d 256

/-- A chunk taken from a card (R337). -/
def Card.take (c : Card) : Card := { c with lo := c.lo + c.chunk, c := c.c + 1 }

/-- The STATE of the record slot of a card's next chunk, or the cause with which it cannot be reached. -/
def State.slotState (s : State) (d : Nat) (c : Card) : State × (Nat × Nat ⊕ Nat × Nat) :=
  let r := s.trDie d c.ctx c.slotVa .rw .record
  match r.2 with
  | .bad k i => (r.1, .inr (k, i))
  | .ok p pa =>
    if p ≠ s.panelId then (r.1, .inr (0x0F, 1))
    else
      let q := r.1.readOwned (pa + 0x38) 8 c.ctx 0
      if q.2.1 ≠ 0 then (q.1, .inr (q.2.1, 0)) else (q.1, .inl (Ctrl.state (word (ofBytes q.2.2)), pa))

/-- A card that cannot write its chunk record stops on the die (R359): it gives up its slot and is held aside. -/
def State.stopCard (s : State) (d : Nat) (c : Card) (k i : Nat) : State :=
  let s := s.modDie d fun x =>
    { x with cards := x.cards.filter (fun y => y.order != c.order), aside := x.aside ++ [{ c with target := none, asked := none, reread := none }] }
  let s := match c.asked with
    | some r => s.answer (Config.srcDie d) r { none_ := true }
    | none => s
  (s.agentPacket (Config.srcDie d) c.ctx 7 (mkCause k i (word c.slotVa))).fillSlots d 256

/-- One deal of a card to a core (R337): the record slot must be free; the record is written and pushed. -/
def State.dealTo (s : State) (d : Nat) (c : Card) (l : Nat) : State :=
  let r := s.slotState d c
  match r.2 with
  | .inr (k, i) => r.1.stopCard d c k i
  | .inl (st, pa) =>
    if st ≠ 0 && st ≠ 4 then r.1.modCard d c.order fun c => { c with target := some l, reread := some (s.time + 256) }
    else
      let q := r.1.writeOwned pa c.record c.ctx 0 none
      if q.2 ≠ 0 then q.1.stopCard d c q.2 0
      else
        let a := Config.srcDie d
        let s := q.1.posted a 16 l 0x0E c.ctx 16 (.push (word c.slotVa) (cardPri c.words) (cardRdom c.words))
        let s := s.modCard d c.order fun c => { c.take with target := none, asked := none, reread := none }
        let s := match c.asked with
          | some r => s.answer a r { info := 1 }
          | none => s
        s.endCards d

/-- The deal that a dealer makes next: one under way whose record slot is free, else one of an initial wave of a context
that `runs`. -/
def Die.nextDeal (d : Die) (runs : Nat → Bool) : Option (Card × Nat) :=
  match d.cards.find? fun c => c.target.isSome && c.reread.isNone with
  | some c => some (c, c.target.getD 0)
  | none =>
    (d.cards.find? fun c => runs c.ctx && !c.wave.isEmpty && c.lo < c.hi && c.target.isNone).map fun c => (c, c.wave.headD 0)

/-- DEAL_CHUNK (R337, R339). -/
def execDealChunk (die : Nat) (s : State) : Result :=
  if (s.die die).failed then .next s else
  .next (match (s.die die).nextDeal (fun c => (s.ctx c).st == .running) with
    | none => s
    | some (c, l) =>
      if c.target.isSome then s.dealTo die c l
      else
        let w := { c with wave := c.wave.drop 1 }
        let s := s.modCard die c.order fun _ => w
        if s.present l && (s.core l).ctxid = c.ctx then s.dealTo die w l else s)

/-- Whether a card may be dealt from: its initial wave is over (R339), no deal of it is under way (R337). -/
def Card.open_ (c : Card) : Bool := c.wave.isEmpty && c.target.isNone

/-- The card that a deal on request takes (R338): the highest PRI of the context, the earliest accepted. -/
def Die.bestCard (d : Die) (ctx : Nat) : Option Card :=
  let cs := d.cards.filter fun c => c.ctx == ctx && c.lo < c.hi && c.open_
  let p := cs.foldl (fun n c => max n (cardPri c.words)) 0
  let cs := cs.filter fun c => cardPri c.words == p
  let o := cs.foldl (fun n c => min n c.order) ((cs.map Card.order).headD 0)
  cs.find? fun c => c.order == o

/-- Whether a card of a context has records left and a deal or its wave under way. -/
def Die.dealBusy (d : Die) (ctx : Nat) : Bool := d.cards.any fun c => c.ctx == ctx && c.lo < c.hi && !c.open_

/-- The card that serves a deal request at a die: none while the context does not run. -/
def State.cardFor (s : State) (die : Nat) (m : Msg) : Option Card :=
  if (s.ctx m.ctx).st = .running then (s.die die).bestCard m.ctx else none

/-- Whether a deal request waits: its context has records on the die, and each card with one has a deal or its wave under way. -/
def State.dealWaits (s : State) (die : Nat) (m : Msg) : Bool :=
  (s.cardFor die m).isNone && (s.ctx m.ctx).st = .running && (s.die die).dealBusy m.ctx

/-- DEAL_REQUEST (R340): a chunk for the asking core, or "none", for the first request that does not wait. -/
def execDealRequest (die : Nat) (s : State) : Result :=
  if (s.die die).failed then .next s else
  let a := Config.srcDie die
  .next (match (s.ni a).inq.find? fun m => (m.body matches .dealReq) && !s.dealWaits die m with
    | none => s
    | some m =>
      match s.cardFor die m with
      | some c =>
        let s := (s.takeMsg a m).modCard die c.order fun c => { c with target := some m.src, asked := some m.reply }
        s.dealTo die { c with target := some m.src, asked := some m.reply } m.src
      | none => (s.takeMsg a m).answer a m.reply { none_ := true })

/-- DEAL (R342). -/
def execDeal (gd : Guard) (d s1 : Fin 32) (s : State) : Result :=
  s.run (.deal gd d s1) fun s => s.notOnMt (.deal gd d s1) fun s =>
    match s.orderStop false with
    | some c => s.stopWith c
    | none => s.askDie d.val (dieOf s.cur.lcn) 8 (.deal (s.rx s1)) (.value d)

/-- The card that a DEAL names at a die, with records left. -/
def Die.dealCard (d : Die) (va : Word) (ctx : Nat) : Option Card :=
  (d.cards ++ d.waitq).find? fun c => c.va == va && c.ctx == ctx && c.lo < c.hi

/-- Whether a message is a DEAL that does not wait for its card's wave, or for a chunk of it under way (R337, R339). -/
def Die.takesDeal (d : Die) (m : Msg) : Bool :=
  match m.body with
  | .deal va => (d.dealCard va m.ctx).all Card.open_
  | _ => false

/-- Whether a card at an address was accepted on a die: a launch of the context whose acceptance there has come (R342). -/
def State.dealKnown (s : State) (die ctx : Nat) (va : Word) : Bool :=
  (s.ctx ctx).launches.any fun y => y.va == va && y.dies.contains die && !y.left.contains die

/-- DEAL_HOME (R342): the chunk taken without a record. -/
def execDealHome (die : Nat) (s : State) : Result :=
  if (s.die die).failed then .next s else
  let a := Config.srcDie die
  .next (match (s.ni a).inq.find? (s.die die).takesDeal with
    | none => s
    | some m =>
      match m.body with
      | .deal va =>
        let s := s.takeMsg a m
        match (s.die die).dealCard va m.ctx with
        | some c =>
          let put (y : Card) : Card := if y.order = c.order then y.take else y
          let s := s.modDie die fun x => { x with cards := x.cards.map put, waitq := (x.waitq.map put).filter fun c => c.lo < c.hi }
          (s.answer a m.reply { w := word (c.chunk * 2 ^ 32 + c.lo) }).endCards die
        | none =>
          s.answer a m.reply { w := if s.dealKnown die m.ctx va then 0 else BitVec.allOnes 64 }
      | _ => s)

/-- DEALER_SLOT_REREAD (R337): every 256 cycles a busy record slot is read again. -/
def execDealerSlotReread (die : Nat) (s : State) : Result :=
  if (s.die die).failed then .next s else
  .next (match (s.die die).cards.find? fun c => s.due c.reread with
    | none => s
    | some c =>
      let r := s.slotState die c
      match r.2 with
      | .inr (k, i) => r.1.stopCard die c k i
      | .inl (st, _) =>
        r.1.modCard die c.order fun c => { c with reread := if st = 0 || st = 4 then none else some (s.time + 256) })

/-- DEALER_SLOT_ROTATION (R341): the k-th active card gives its slot to the oldest waiting card. -/
def execDealerSlotRotation (die k : Nat) (s : State) : Result :=
  if (s.die die).failed then .next s else
  let x := s.die die
  .next (match x.cards[k]? with
    | some c =>
      if x.waitq.isEmpty || c.target.isSome || s.time < c.since + 150000 then s
      else (s.modDie die fun x => { x with cards := x.cards.filter fun y => y.order != c.order, waitq := x.waitq ++ [c] }).fillSlots die 1
    | none => s)

end Sys2Proof.Machine
end

