-- ==== Sys2Proof/Machine/Stages.lean ====
section
/-! DEFINITION. Stage pipelines and the governor (R347-R349, R359). -/

namespace Sys2Proof.Machine

/-! ## GOVSET (R347) -/

/-- A request on VC 0 to the die agent of the executing core, for whose answer the thread parks. -/
def State.govAsk (s : State) (l : Nat) (q : Req) (d : Fin 32) (k : Nat) (en : Bool) (ws : List Word) : State :=
  let a := Config.srcDie (dieOf l)
  s.request l q.slot q.apc q.va a (.stage d k) (s.reqMsg l s.panelId a 0 0x03 40 (.govset k en ws))

/-- GOVSET (R347): with EN the stage entry is read first. -/
def execGovset (gd : Guard) (d s1 s2 : Fin 32) (s : State) : Result :=
  s.run (.govset gd d s1 s2) fun s => s.noMtSend fun s =>
    let w := s.rx s1
    let k := bits w 2 0
    if bits w 63 9 ≠ 0 || bits w 7 3 ≠ 0 then s.takeFault (bad11 0x29 w)
    else if bit w 8 then
      s.access (s.rx s2) 32 .r (.mem (.load 32)) (.stage d k) true false fun s => s.stopWith (.wait .response)
    else if s2 ≠ 0 then s.takeFault (bad11 0x29 (s.rx s2))
    else match s.orderStop true with
      | some c => s.stopWith c
      | none =>
        let l := s.cur.lcn
        let a := Config.srcDie (dieOf l)
        if s.freeSlots l = 0 then s.stopWith (.retry .reqSlot)
        else
          (s.stopWith (.wait .response)).request l s.cur.slot.val s.here 0 a (.stage d k)
            (s.reqMsg l s.panelId a 0 0x03 8 (.govset k false []))

/-- The answers of a GOVSET: the entry, then the stage's previous cores. -/
def State.onStage (s : State) (l : Nat) (q : Req) (r : Resp) (d : Fin 32) (k : Nat) : State :=
  match q.msg.body with
  | .govset _ _ _ =>
    if r.cause ≠ 0 then (s.completed l q.k).refused l q r else s.completedX l q.k d r.w
  | _ => if r.cause ≠ 0 then s.refusedWait l q r else s.govAsk l q d k true (wordsOf 4 r.data)

/-- The stage that an entry asks for; its ring's physical address is found apart. -/
def stageOf (ws : List Word) (pa : Nat) : Stage :=
  { en := true, ring := nth 0 ws 0, ringPa := pa, entry := (nth 0 ws 1).setWidth 48, lo := bits (nth 0 ws 2) 63 48,
    hi := bits (nth 0 ws 2) 47 32, cores := (nth 0 ws 2).setWidth 32, unit_ := bit (nth 0 ws 3) 8, min := bits (nth 0 ws 3) 7 0 }

/-- The cores of a die in a mask. -/
def coresOf (d : Nat) (m : BitVec 32) : List Nat := ((List.range 32).filter fun i => m.getLsbD i).map (lcnAt d)

/-- Whether a stage entry is valid for stage `k` of die `d` (R347). -/
def State.stageOk (s : State) (d k ctx : Nat) (ws : List Word) (g : Stage) : Bool :=
  let x := s.die d
  let others := (List.range 8).filter fun i => i != k && (x.stages[Fin.ofNat 8 i]).en
  bits (nth 0 ws 0) 63 48 == 0 && bits (nth 0 ws 1) 63 48 == 0 && bits (nth 0 ws 3) 63 9 == 0 &&
    g.lo < g.hi && g.hi ≤ s.ringSize g.ringPa &&
    (coresOf d g.cores).all (fun l => s.present l && (s.core l).ctxid == ctx) &&
    others.all (fun i => (x.stages[Fin.ofNat 8 i]).cores &&& g.cores == 0) &&
    spaceOf g.ringPa == 1 && dieOf (sliceLcn g.ringPa) == d && s.ringValid g.ringPa && !bit (s.mem.read64 (g.ringPa + 0x30)) 4 &&
    (others.isEmpty || x.gctx == some ctx)

/-- GOVSET_APPLY (R347): the next request at the die's governor. -/
def execGovsetApply (die : Nat) (s : State) : Result :=
  if (s.die die).failed then .next s else
  let a := Config.srcDie die
  .next (match (s.ni a).inq.find? fun m => m.body matches .govset _ _ _ with
    | none => s
    | some m =>
      match m.body with
      | .govset k en ws =>
        let s := s.takeMsg a m
        let i := Fin.ofNat 8 k
        let old := (s.die die).stages[i]
        let held := (s.die die).stages.toList.any Stage.en && (s.die die).gctx != some m.ctx
        let prev : Resp := { w := old.cores.zeroExtend 64 }
        let bad : Resp := { cause := 0x11, info := 0x29 }
        if !en then
          if held then s.answer a m.reply bad
          else
            (s.modDie die fun x =>
              let st := x.stages.set i {}
              { x with stages := st, gctx := if st.toList.any Stage.en then x.gctx else none }).answer a m.reply prev
        else
          let r := s.trDie die m.ctx (nth 0 ws 0).toNat .rw .sync
          match r.2 with
          | .bad _ _ => r.1.answer a m.reply bad
          | .ok p pa =>
            let g := stageOf ws pa
            if p ≠ s.panelId || held || !r.1.stageOk die k m.ctx ws g then r.1.answer a m.reply bad
            else
              (r.1.modDie die fun x =>
                { x with stages := x.stages.set i g, gctx := some m.ctx,
                         govAt := if x.govAt = 0 then s.time + 1024 else x.govAt }).answer a m.reply prev
      | _ => s)

/-! ## The governor (R348) -/

/-- Items in a stage's ring, or none when the ring is no longer valid (R359). -/
def State.occupancy (s : State) (ctx : Nat) (g : Stage) : State × Option Nat :=
  let q := s.readOwned g.ringPa 64 ctx 0
  (q.1, if q.2.1 ≠ 0 || !q.1.ringValid g.ringPa then none else some (q.1.ringCount g.ringPa))

/-- The clusters of a die whose present cores of the context all lie in a mask, with those cores' bits; the highest first. -/
def State.wholeClusters (s : State) (d ctx : Nat) (m : BitVec 32) : List (List Nat) :=
  ([3, 2, 1, 0].map fun q =>
    (List.range 32).filter fun i =>
      let l := lcnAt d i
      clusterOf l == d * 4 + q && s.present l && (s.core l).ctxid == ctx).filter fun is => !is.isEmpty && is.all fun i => m.getLsbD i

/-- The unit that a stage gives up: its highest core, or its highest whole cluster. -/
def State.unitOf (s : State) (d ctx : Nat) (byCluster : Bool) (m : BitVec 32) : List Nat :=
  if byCluster then (s.wholeClusters d ctx m).headD [] else (((List.range 32).reverse).find? fun i => m.getLsbD i).toList

/-- The number of one bits of a mask. -/
def maskCount (m : BitVec 32) : Nat := ones 32 m.toNat

/-- The stage that takes cores, among the enabled ones with their occupancies: the fullest at or above its threshold. -/
def takerOf (l : List (Nat × Stage × Nat)) : Option (Nat × Stage × Nat) :=
  l.foldl (fun best x =>
    if x.2.2 < x.2.1.hi then best
    else match best with
      | some b => if x.2.2 > b.2.2 then some x else best
      | none => some x) none

/-- The stage that gives a unit: the emptiest at or below its threshold that can spare it. -/
def State.giverOf (s : State) (d ctx : Nat) (taker : Nat × Stage × Nat) (l : List (Nat × Stage × Nat)) : Option (Nat × Stage × Nat) :=
  l.foldl (fun best x =>
    let u := (s.unitOf d ctx taker.2.1.unit_ x.2.1.cores).length
    if x.1 == taker.1 || x.2.2 > x.2.1.lo || u == 0 || maskCount x.2.1.cores < u + x.2.1.min then best
    else match best with
      | some b => if x.2.2 < b.2.2 then some x else best
      | none => some x) none

/-- A mask of bits. -/
def maskOf (l : List Nat) : BitVec 32 := l.foldl (fun m i => m ||| (1#32 <<< i)) 0

/-- One decision of the governor of a die. -/
def State.govern (s : State) (d : Nat) : State :=
  let ctx := (s.die d).gctx.getD 0
  let r := (List.range 8).foldl (fun (acc : State × List (Nat × Stage × Nat)) k =>
    let g := (acc.1.die d).stages[Fin.ofNat 8 k]
    if !g.en then acc
    else
      let q := acc.1.occupancy ctx g
      match q.2 with
      | some o => (q.1, acc.2 ++ [(k, g, o)])
      | none =>
        ((q.1.modDie d fun x => { x with stages := x.stages.set (Fin.ofNat 8 k) {} }).agentPacket (Config.srcDie d) ctx 7
          (mkCause 0x11 0x29 g.ring), acc.2)) (s, [])
  match takerOf r.2 with
  | none => r.1
  | some t =>
    match r.1.giverOf d ctx t r.2 with
    | none => r.1
    | some g =>
      let u := maskOf (r.1.unitOf d ctx t.2.1.unit_ g.2.1.cores)
      r.1.modDie d fun x =>
        { x with stages := (x.stages.set (Fin.ofNat 8 g.1) { g.2.1 with cores := g.2.1.cores &&& ~~~u }).set (Fin.ofNat 8 t.1)
                   { t.2.1 with cores := t.2.1.cores ||| u } }

/-- GOVERNOR_TICK (R348): every 1,024 cycles. -/
def execGovernorTick (die : Nat) (s : State) : Result :=
  if (s.die die).failed then .next s else
  let x := s.die die
  .next (if x.stages.toList.any Stage.en && (x.gctx.all fun c => (s.ctx c).st == .running) && x.govAt ≤ s.time then
      (s.modDie die fun x => { x with govAt := s.time + 1024 }).govern die
    else s)

/-! ## RINGGET and RINGPUT (R349) -/

/-- The stages of the executing core's die, if its context holds the governor. -/
def State.stages (s : State) (l : Nat) : Vector Stage 8 :=
  let x := s.die (dieOf l)
  if x.gctx = some (s.core l).ctxid then x.stages else Vector.replicate 8 {}

/-- The bit of a core in its die's masks. -/
def Stage.has (g : Stage) (l : Nat) : Bool := g.en && g.cores.getLsbD (lptIdx l).val

/-- A result for x[d] and the guard of a RINGGET that the core itself delivers, as a result of variable latency. -/
def State.laterGet (s : State) (d : Fin 32) (gm : Fin 16) (w : Word) : State :=
  let l := s.cur.lcn
  let m := { s.reqMsg l s.panelId l 4 0 0 .credit with seq := (s.ni l).nextId }
  (((s.awaitX d).modThr fun t => t.markG .path gm).request l s.cur.slot.val s.here 0 l (.stageGet d gm) m).answer l m.reply { w }

/-- A disabled stage (R349, R360): a deferred fault. -/
def State.noStage (s : State) (w : Word) : State := s.deferFault s.cur.lcn s.cur.slot 5 s.here (bad11 0x2A w)

/-- The items of a ring that RINGGETs under way are to take. -/
def State.getsOut (s : State) (d : Nat) : Nat :=
  (s.cores.map fun e =>
    (e.2.reqs.filter fun q => q.msg.body == .stageGet d).length +
      (e.2.slots.toList.map fun t => (t.path.filter fun a => a.op == .stageGet && a.st == .ready s.panelId d).length).sum).sum

/-- What a RINGGET of core `l` answers that takes no item: the stage that the core is in with its entry, 0 when it is in none (R349). -/
def State.elsewhere (s : State) (l : Nat) : Word :=
  match (List.range 8).find? fun k => ((s.stages l)[Fin.ofNat 8 k]).has l with
  | some k => word (k * 2 ^ 48 + ((s.stages l)[Fin.ofNat 8 k]).entry.toNat)
  | none => 0

/-- RINGGET (R349): it parks while no item is left for it. -/
def execRingget (gd : Guard) (d : Fin 32) (gm : Fin 16) (s1 : Fin 32) (s : State) : Result :=
  s.run (.ringget gd d gm s1) fun s => s.notOnMt (.ringget gd d gm s1) fun s =>
    let w := s.rx s1
    let l := s.cur.lcn
    let st := s.stages l
    if w.toNat > 7 then s.takeFault (bad11 0x2A w)
    else
      let g := st[Fin.ofNat 8 w.toNat]
      if !g.en then s.noStage w
      else if g.has l then
        if s.ringCount g.ringPa ≤ s.getsOut g.ringPa then s.stopWith (.retry .qEmpty)
        else match s.orderStop false with
          | some c => s.stopWith c
          | none =>
            ((s.awaitX d).modThr fun t => t.markG .path gm).enqueue
              { va := g.ring, bytes := 8, perm := .rw, op := .stageGet, apc := s.here, st := .ready s.panelId g.ringPa,
                cont := .stageGet d gm }
      else s.laterGet d gm (s.elsewhere l)

/-- The answer of a RINGGET: an item, with the guard true. From a ring that another consumer has emptied it asks again, while the
core is in the stage. -/
def State.onStageGet (s : State) (l : Nat) (q : Req) (r : Resp) (d : Fin 32) (gm : Fin 16) : State :=
  if r.cause ≠ 0 then s.refusedDst l q r [.x d, .g gm]
  else match q.msg.body with
    | .stageGet pa =>
      if r.info ≠ 0 then (s.deliverX l q.k d r.w).deliverG l q.k gm true
      else if (s.stages l).toList.any fun g => g.ringPa == pa && g.has l then
        (s.modSlot l q.k fun t =>
          { t with path := { va := q.va, bytes := 8, perm := .rw, op := .stageGet, apc := q.apc, st := .ready s.panelId pa,
                             cont := .stageGet d gm } :: t.path }).pump l q.k
      else (s.deliverX l q.k d (s.elsewhere l)).deliverG l q.k gm false
    | _ => (s.deliverX l q.k d r.w).deliverG l q.k gm false

/-- RINGPUT (R349). -/
def execRingput (gd : Guard) (s3 s1 : Fin 32) (s : State) : Result :=
  s.run (.ringput gd s3 s1) fun s => s.notOnMt (.ringput gd s3 s1) fun s =>
    let w := s.rx s1
    let st := s.stages s.cur.lcn
    if w.toNat > 7 then s.takeFault (bad11 0x2A w)
    else
      let g := st[Fin.ofNat 8 w.toNat]
      if !g.en then s.noStage w
      else match s.orderStop false with
        | some c => s.stopWith c
        | none =>
          s.enqueue { va := g.ring, bytes := 8, perm := .rw, op := .stagePut (s.rx s3), apc := s.here,
                      st := .ready s.panelId g.ringPa, cont := .done }

/-- An item pushed into a stage's ring at its home; it has no producer to credit. -/
def State.stagePush (s : State) (d : Nat) (v : Word) : State :=
  let l := sliceLcn d
  let a := s.ringAt d (s.ringTail d)
  let s := (s.modMem fun m => m.store a (toBytes 8 v.toNat)).watched l a 8 none
  let s := s.ringSet d 0x18 (s.ringTail d + 1)
  s.modCore l fun c => { c with links := { c.links with rings := Fmap.set c.links.rings d (Fmap.get [] c.links.rings d ++ [(0, 16, 0)]) } }

/-- The checks of a push of one item at a stage ring's home (R119-R121). -/
def State.stageCheck (s : State) (d ctx lvl : Nat) : State × Nat :=
  let q := s.ringCheck d ctx lvl true []
  if q.2 ≠ 0 || !s.ringValid d then q else s.ringCheck d ctx lvl true [s.ringAt d (s.ringTail d)]

/-- The RINGPUTs that wait at a ring, as far as they fit. -/
def State.serveStage (s : State) (l d : Nat) : Nat → State
  | 0 => s
  | n + 1 =>
    match (s.core l).waits.find? fun w => w.at_ == d && (w.kind matches .stagePut _ _) with
    | some w =>
      match w.kind with
      | .stagePut r v =>
        if s.ringFits d 1 then
          let s := s.modCore l fun c => { c with waits := c.waits.erase w }
          let q := s.stageCheck d r.ctx 0
          State.serveStage (if q.2 = 0 then (q.1.stagePush d v).answer l r {} else q.1.answer l r { cause := q.2 }) l d n
        else s
      | _ => s
    | none => s

/-- A RINGPUT at its ring's home: pushed, or held while the ring is full. -/
def State.stagePutAt (s : State) (l : Nat) (m : Msg) (d : Nat) (v : Word) : State :=
  let q := s.stageCheck d m.ctx m.level
  if q.2 ≠ 0 then q.1.answer l m.reply { cause := q.2 }
  else if !q.1.ringValid d then q.1.answer l m.reply { cause := 0x11, info := 0x29 }
  else if q.1.ringFits d 1 && !((q.1.core l).waits.any fun w => w.at_ == d && (w.kind matches .stagePut _ _)) then
    (q.1.stagePush d v).answer l m.reply {}
  else
    let z := q.1.wait l ⟨d, .stagePut m.reply v⟩
    if z.2 then z.1 else z.1.answer l m.reply { cause := 0x13 }

/-- A RINGGET at its ring's home: the oldest item, if there is one. -/
def State.stageGetAt (s : State) (l : Nat) (m : Msg) (d : Nat) : State :=
  let q := s.ringCheck d m.ctx m.level false (if s.ringCount d = 0 then [] else [s.ringAt d (s.ringHead d)])
  if q.2 ≠ 0 then q.1.answer l m.reply { cause := q.2 }
  else if q.1.ringCount d = 0 then q.1.answer l m.reply {}
  else
    let w := q.1.mem.read64 (q.1.ringAt d (q.1.ringHead d))
    let s := ((q.1.ringTake d 1).answer l m.reply { w, info := 1 })
    s.serveStage l d (s.core l).waits.length

/-- RINGPUT_HOME (R349): pushes and pops of stage rings at their home. -/
def execRingputHome (core : Nat) (s : State) : Result :=
  .next (s.handle core (fun m => (m.body matches .stagePut _ _) || (m.body matches .stageGet _)) fun s m =>
    s.unlessHeld core m fun s =>
    match m.body with
    | .stagePut d v => s.stagePutAt core m d v
    | .stageGet d => s.stageGetAt core m d
    | _ => s)

end Sys2Proof.Machine
end

