-- ==== Sys2Proof/Machine/Still.lean ====
section
/-! DEFINITION. The still-water tree (R343-R346), settle sets (R279-R282, R312), the ends of launches, QUIESCE. -/

namespace Sys2Proof.Machine

/-! ## What a core reports (Table 13.3, R280, R344) -/

/-- Whether an operation writes. -/
def PathOp.writes : PathOp → Bool
  | .mem op => op.bytes.2
  | .stagePut _ => true
  | _ => false

/-- Whether a request is a store that is not known to be performed. -/
def Req.writes (q : Req) : Bool :=
  match q.msg.body with
  | .mem _ op _ _ => op.bytes.2
  | .stagePut _ _ => true
  | _ => false

/-- STOUT of a core: stores and posted writes issued and not yet performed. -/
def State.stout (s : State) (l : Nat) : Nat :=
  let c := s.core l
  c.slots.toList.foldl (fun n t => n + (t.path.filter fun a => a.op.writes).length) 0 + (c.reqs.filter Req.writes).length +
    (s.ni l).posted.length

/-- Whether a Parked slot waits in a way that counts as idle (R344). -/
def Park.idles : Park → Bool
  | .home | .events | .quiesce => true
  | _ => false

/-- Whether a core has no record in its deque or on its way from there to a slot, no handler to run for a message that it has accepted
(log 14), and no engine command (R344). -/
def State.enginesIdle (s : State) (l : Nat) : Bool :=
  let c := s.core l
  c.dq.hw.isEmpty && c.dq.spill.isEmpty && c.mt.isNone && c.steal.got.isNone && c.veng.q.isEmpty && c.meng.q.isEmpty && c.cq.isEmpty &&
    (s.ni l).inq.all fun m => m.vc == 3 || m.search

/-- Whether a core is idle for its context (R344). -/
def State.coreIdle (s : State) (l : Nat) : Bool :=
  let c := s.core l
  s.enginesIdle l && (c.slots.toList.take 15).all fun t =>
    t.load.isNone && match t.state with
      | .running => false
      | .frozen => t.record.isNone
      | .parked => t.park.idles
      | _ => true

/-- Whether a slot waits in SETTLEW. -/
def Core.settles (c : Core) (k : Nat) : Bool :=
  c.reqs.any fun q => q.slot == k && (q.cont matches .settled _)

/-- Whether a core reports no work of its context to the settle sets (R280, condition 3). -/
def State.noWork (s : State) (l : Nat) : Bool :=
  let c := s.core l
  s.enginesIdle l && (c.waits.all fun w => !(w.kind matches .handle _)) &&
    (List.range 15).all fun k =>
      let t := c.slot (Fin.ofNat 16 k)
      t.load.isNone && match t.state with
        | .running => false
        | .frozen => t.record.isNone
        | .parked => t.park == .home && c.settles k
        | _ => true

/-- The record's STATE as the PCTL sees it, if it can be read. -/
def State.recordState (s : State) (ctx : Nat) (va : Word) : Option Nat :=
  match (s.walk 0 ctx va.toNat).2 with
  | .inl e =>
    match e.check .r .record va.toNat s.panelId with
    | .ok p pa => if p = s.panelId then some (Ctrl.state (s.mem.read64 (pa + 0x38))) else none
    | .bad _ _ => none
  | .inr _ => none

/-- The member handles of a settle set (R279). -/
def State.members (s : State) (ctx set : Nat) : List Handle :=
  (s.ctxCores ctx).flatMap fun l => (s.core l).handles.toList.filter fun h => h.v && h.ctx == ctx && h.ssv && h.sset == set

/-- Conditions 1 and 2 of R280 for a set. -/
def State.setFinal (s : State) (ctx : Nat) (k : Nat) (e : SetEnt) : Bool :=
  let hs := s.members ctx k
  hs.length == e.nh && hs.all Handle.final &&
    hs.all fun h => h.subs.all fun r => match s.recordState ctx (word (r.toNat * 64)) with
      | some n => n != 1 && n != 2
      | none => true

/-- The agents besides cores that keep counts of a context: die agents and bridges. -/
def State.countingAgents (s : State) : List Nat := (s.nis.map Prod.fst).filter fun a => 8192 ≤ a

/-- Whether a core answers a sweep. -/
def State.answersSweep (s : State) (l : Nat) : Bool := !(s.core l).health.iso && !(s.die (dieOf l)).failed

/-- The sums of a context at one instant: SENT, RCVD, ISS, CMPL, STOUT, whether every core reports that it is idle, and
that it is without work (1 or 0), and for each settle set whether its members are final (1 or 0). -/
def State.sums (s : State) (ctx : Nat) : List Nat :=
  let ls := s.ctxCores ctx
  let cnt := ls.map (fun l => Fmap.get {} (s.core l).sw ctx) ++ s.countingAgents.map fun a => Fmap.get {} (s.ni a).sw ctx
  let sum (f : Still → Word) : Nat := (cnt.foldl (fun n c => n + f c) 0).toNat
  let yes (b : Bool) : Nat := if b then 1 else 0
  let sets := (s.ctx ctx).sets
  [sum Still.sent, sum Still.rcvd, sum Still.iss, sum Still.cmpl, ls.foldl (fun n l => n + s.stout l) 0,
    yes (ls.all fun l => s.answersSweep l && s.coreIdle l), yes (ls.all fun l => s.answersSweep l && s.noWork l)] ++
    (List.range 16).map fun k => yes ((sets[Fin.ofNat 16 k]).arm && s.setFinal ctx k sets[Fin.ofNat 16 k])

/-! ## Sweeps (R344) -/

/-- The contexts that run. -/
def State.runningCtxs (s : State) : List Nat := (s.pctl.ctxs.filter fun e => e.2.st == .running).map Prod.fst

/-- The QUIESCE requests that have reached the PCTL join their contexts: only a sweep that starts from now on counts. -/
def State.takeQuiesce (s : State) : State :=
  ((s.ni Config.srcPctl).inq.filter fun m => m.body matches .quiesce).foldl (fun s m =>
    (s.takeMsg Config.srcPctl m).modCtx m.ctx fun c => { c with quiesce := c.quiesce ++ [⟨m.reply, s.time⟩] }) s

/-- Whether every die has dealt its whole share of a launch. -/
def State.dealtOut (s : State) (id : Nat) : Bool :=
  s.dies.all (fun d => (d.2.cards ++ d.2.waitq ++ d.2.aside).all fun c => c.launch != id) &&
    s.pctl.savedCards.all fun c => c.2.launch != id

/-- The launches of some contexts that every participating die has accepted and dealt out. -/
def State.dealtLaunches (s : State) (cs : List Nat) : List Nat :=
  ((cs.flatMap fun c => (s.ctx c).launches).filter fun y => y.left.isEmpty && s.dealtOut y.id).map Launch.id

/-- SWEEP (R344): when the GTB is a multiple of 3,000, and none is under way. Every core takes its snapshot. -/
def execSweep (s : State) : Result :=
  .next (if s.gtb.toNat % 3000 ≠ 0 || s.pctl.sweep.isSome then s
    else
      let s := s.takeQuiesce
      let cs := s.runningCtxs
      let s := (cs.flatMap s.ctxCores).foldl (fun s l =>
        let n := if s.answersSweep l || (s.core l).health.contain != .live then 0 else (s.core l).health.missed + 1
        if n = (s.core l).health.missed then s else s.modCore l fun c => { c with health := { c.health with missed := n } }) s
      s.modPctl fun p => { p with sweep := some { at_ := s.time, sums := cs.map fun c => (c, s.sums c), dealt := s.dealtLaunches cs } })

/-- The counts of a snapshot that must stay equal from sweep to sweep. -/
def sumCounts (l : List Nat) : List Nat := l.take 5

/-- Whether a snapshot's counts balance. -/
def sumsBalance (l : List Nat) : Bool := nth 0 l 0 == nth 0 l 1 && nth 0 l 2 == nth 0 l 3 && nth 0 l 4 == 0

/-- A word of a context filled by the PCTL (R281, R345), if its address still translates into a slice. -/
def State.fillVa (s : State) (ctx va : Nat) (w : Word) : State :=
  match s.walk 0 ctx va with
  | (s, .inl e) =>
    match e.check .w .record va s.panelId with
    | .ok p pa => if p = s.panelId && spaceOf pa = 1 then (s.fillAt pa w ctx 2).1 else s
    | .bad _ _ => s
  | (s, .inr _) => s

/-- A launch ended (R345). -/
def State.endLaunch (s : State) (ctx : Nat) (y : Launch) : State :=
  let s := s.modCtx ctx fun c => { c with launches := c.launches.filter fun x => x.id != y.id }
  if y.cwa = 0 then s else s.fillVa ctx y.cwa (word (cardRcount y.words))

/-- A context confirmed quiet at a sweep (R345, R346): its launches that had been dealt out by then end. -/
def State.confirmed (s : State) (ctx at_ : Nat) (dealt : List Nat) : State :=
  let s := (s.ctx ctx).launches.foldl (fun s y => if cardSsv y.words || !dealt.contains y.id then s else s.endLaunch ctx y) s
  (s.ctx ctx).quiesce.foldl (fun s q =>
    if q.at_ ≤ at_ then
      (s.modCtx ctx fun c => { c with quiesce := c.quiesce.erase q }).answer Config.srcPctl q.reply { w := word at_ }
    else s) s

/-- Launches in rising order of the first die that deals them. -/
def byDie (ys : List Launch) : List Launch :=
  let key (y : Launch) : Nat := y.dies.foldl min 256
  let rec ins (y : Launch) : List Launch → List Launch
    | [] => [y]
    | z :: t => if key y < key z then y :: z :: t else z :: ins y t
  ys.foldl (fun l y => ins y l) []

/-- A set that has settled (R281): its word, ARM, the completion words of its cards. -/
def State.settleSet (s : State) (ctx : Nat) (k : Fin 16) (e : SetEnt) : State :=
  let s := s.fillVa ctx e.swa (word e.nh)
  let s := s.modCtx ctx fun c => { c with sets := c.sets.set k { e with arm := false, prev := none } }
  ((byDie (s.ctx ctx).launches).filter fun y => cardSsv y.words && cardSset y.words = k.val).foldl (fun s y => s.endLaunch ctx y) s

/-- What the PCTL judges of a context from a sweep's sums. -/
def State.judge (s : State) (ctx at_ : Nat) (dealt l : List Nat) : State :=
  let c := s.ctx ctx
  let quiet := sumsBalance l && nth 0 l 5 == 1
  let s := if quiet && c.quiet == some (sumCounts l) then s.confirmed ctx at_ dealt else s
  let s := s.modCtx ctx fun c => { c with quiet := if quiet then some (sumCounts l) else none }
  (List.finRange 16).foldl (fun s k =>
    let e := (s.ctx ctx).sets[k]
    if !e.arm then s
    else
      let cond := sumsBalance l && nth 0 l 6 == 1 && nth 0 l (7 + k.val) == 1
      if cond && e.prev == some (sumCounts l) then s.settleSet ctx k e
      else s.modCtx ctx fun c => { c with sets := c.sets.set k { e with prev := if cond then some (sumCounts l) else none } }) s

/-- SWEEP_RESULT (R344): the sums reach the PCTL. -/
def execSweepResult (s : State) : Result :=
  .next (match s.pctl.sweep with
    | none => s
    | some w =>
      w.sums.foldl (fun s x => if (s.ctx x.1).st = .running then s.judge x.1 w.at_ w.dealt x.2 else s)
        (s.modPctl fun p => { p with sweep := none }))

/-- SETTLE_ARM (R312): the settle word emptied, the set armed. -/
def execSettleArm (s : State) : Result :=
  let a := Config.srcPctl
  .next (match (s.ni a).inq.find? fun m => m.body matches .settleArm _ _ _ with
    | none => s
    | some m =>
      match m.body with
      | .settleArm k nh swa =>
        let s := s.takeMsg a m
        let i := Fin.ofNat 16 k
        if ((s.ctx m.ctx).sets[i]).arm then s.answer a m.reply { cause := 0x2E, info := 10 }
        else
          match s.walk 0 m.ctx swa with
          | (s, .inr (c, r)) => s.answer a m.reply { cause := c, info := word r }
          | (s, .inl e) =>
            match e.check .rw .sync swa s.panelId with
            | .bad c r => s.answer a m.reply { cause := c, info := word r }
            | .ok _ pa =>
              let q := s.writeOwned pa (toBytes 8 0) m.ctx 0 none
              if q.2 ≠ 0 then q.1.answer a m.reply { cause := q.2 }
              else
                let s := (q.1.modMem fun x => x.setFull pa false).settle (sliceLcn pa) pa
                (s.modCtx m.ctx fun c => { c with sets := c.sets.set i { arm := true, nh, swa } }).answer a m.reply {}
      | _ => s)

/-! ## QUIESCE (R346) -/

/-- QUIESCE: the thread parks until its context is confirmed quiet. -/
def execQuiesce (gd : Guard) (d : Fin 32) (s : State) : Result :=
  s.run (.quiesce gd d) fun s => s.notOnMt (.quiesce gd d) fun s =>
    let s := s.ask Config.srcPctl 0x21 8 0 .quiesce (.valueWait d)
    if s.thr.ctl.stopped then s else s.modThr fun t => { t with park := .quiesce }

end Sys2Proof.Machine
end

