-- ==== Sys2Proof/Machine/Reloc.lean ====
section
/-! DEFINITION. The state of a context moved to other cores (R353-R355): every name of a core of the context in what is saved
of it, which the save area holds by CCN, follows the placement. `f` gives the new logical core of an old one. -/

namespace Sys2Proof.Machine

/-- A physical address of panel `own`'s memory, moved with its core. -/
def relPa (f : Nat → Nat) (pa : Nat) : Nat :=
  if spaceOf pa = 1 then slicePa (f (sliceLcn pa)) (sliceOff pa)
  else if spaceOf pa = 3 then pa - winLcn pa * 2 ^ 22 + f (winLcn pa) * 2 ^ 22
  else pa

/-- A source number. -/
def relSrc (f : Nat → Nat) (a : Nat) : Nat := if a < 8192 then f a else a

/-- A peer of panel `own`. -/
def relPeer (f : Nat → Nat) (own k : Nat) : Nat := if k / 65536 = own then peerKey own (relSrc f (k % 65536)) else k

/-- A home's key. -/
def relKey (f : Nat → Nat) (own k : Nat) : Nat :=
  if k < 8192 then f k else if k / 2 ^ 32 = own then own * 2 ^ 32 + relSrc f (k % 2 ^ 32) else k

/-- A place as panel and physical address in one number. -/
def relAt (f : Nat → Nat) (own a : Nat) : Nat := if a / 2 ^ 48 = own then own * 2 ^ 48 + relPa f (a % 2 ^ 48) else a

def Reply.rel (f : Nat → Nat) (own : Nat) (r : Reply) : Reply := if r.panel = own then { r with src := relSrc f r.src } else r

def CtlOp.rel (f : Nat → Nat) (own : Nat) : CtlOp → CtlOp
  | .load l k => .load (f l) k
  | .wake l => .wake (f l)
  | .refire v b l => .refire v b (f l)
  | .back pc rs k a => .back pc rs (match k with
      | .suspendJ w => .suspendJ (relAt f own w)
      | .await w => .await (relAt f own w)
      | k => k) a
  | .retire => .retire

def Endpoint.rel (f : Nat → Nat) : Endpoint → Endpoint
  | .ringC d => .ringC (relPa f d)
  | .ringP d => .ringP (relPa f d)
  | e => e

def Bind.rel (f : Nat → Nat) (b : Bind) : Bind := { b with ep := b.ep.rel f }

def Susp.rel (f : Nat → Nat) (own : Nat) : Susp → Susp
  | .suspendJ w => .suspendJ (relAt f own w)
  | .await w => .await (relAt f own w)
  | k => k

def Cont.rel (f : Nat → Nat) (own : Nat) : Cont → Cont
  | .forked ra d w => .forked ra (f d) w
  | .ringReserved d b => .ringReserved d (b.rel f)
  | .amcall d k n => .amcall (f d) k n
  | .armed k => .armed (k.rel f own)
  | .backed k a => .backed (k.rel f own) a
  | c => c

/-- A partial result of a collective. -/
def GPart.rel (f : Nat → Nat) (own : Nat) (g : GPart) : GPart :=
  { g with key := relAt f own g.key }

def Coll.rel (f : Nat → Nat) (own : Nat) (k : Coll) : Coll :=
  { k with key := relAt f own k.key }

/-- A payload; `here` says that the addresses in it are of this panel. -/
def Body.rel (f : Nat → Nat) (own : Nat) (here : Bool) (b : Body) : Body :=
  let p (pa : Nat) : Nat := if here then relPa f pa else pa
  match b with
  | .mem pa op k apc => .mem (p pa) op k apc
  | .ctl pa va op => .ctl (p pa) va (op.rel f own)
  | .joinDec pa => .joinDec (p pa)
  | .joinArm pa r => .joinArm (p pa) r
  | .awaitReg pa r => .awaitReg (p pa) r
  | .armEnd pa r => .armEnd (p pa) r
  | .ringReserve pa n t k => .ringReserve (p pa) n t k
  | .ringPush pa ws w m bs k r apc => .ringPush (p pa) ws w m bs k r apc
  | .ringCredit d k r n => .ringCredit (p d) k r n
  | .ringReturn pa n => .ringReturn (p pa) n
  | .vsend pas w m d n k apc => .vsend (pas.map p) w m d n k apc
  | .ctlRead pa => .ctlRead (p pa)
  | .ctlWrite pa v => .ctlWrite (p pa) v
  | .stageGet pa => .stageGet (p pa)
  | .stagePut pa v => .stagePut (p pa) v
  | .group pa op => .group (p pa) op
  | .groupPart g => .groupPart (g.rel f own)
  | .groupReport pa g => .groupReport (p pa) (g.rel f own)
  | .groupDown g => .groupDown (g.rel f own)
  | b => b

def Msg.rel (f : Nat → Nat) (own : Nat) (m : Msg) : Msg :=
  { m with dest := if m.dpanel = own then relSrc f m.dest else m.dest
           src := if m.spanel = own then relSrc f m.src else m.src
           body := m.body.rel f own (m.dpanel == own) }

def Req.rel (f : Nat → Nat) (own : Nat) (q : Req) : Req := { q with msg := q.msg.rel f own, cont := q.cont.rel f own }

def Posted.rel (f : Nat → Nat) (own : Nat) (p : Posted) : Posted := { p with msg := p.msg.rel f own }

def Acc.rel (f : Nat → Nat) (own : Nat) (a : Acc) : Acc :=
  { a with cont := a.cont.rel f own
           op := match a.op with
             | .ctl o => .ctl (o.rel f own)
             | o => o
           st := match a.st with
             | .ready p pa => .ready p (if p = own then relPa f pa else pa)
             | .failed => .failed
             | _ => .queued }

def Slot.rel (f : Nat → Nat) (own : Nat) (t : Slot) : Slot :=
  { t with watch := t.watch.map (relPa f), binds := t.binds.map (Option.map (Bind.rel f)), path := t.path.map (Acc.rel f own),
           held := t.held.map fun a => word (relAt f own a.toNat)
           outst := t.outst.map fun o => { o with home := relKey f own o.home } }

def WaitKind.rel (f : Nat → Nat) (own : Nat) : WaitKind → WaitKind
  | .ldw r => .ldw (r.rel f own)
  | .ldt r => .ldt (r.rel f own)
  | .stw r v => .stw (r.rel f own) v
  | .lrq r l k => .lrq (r.rel f own) (relPeer f own l) k
  | .await v c l a b => .await v c (f l) a b
  | .holder l k => .holder (relPeer f own l) k
  | .handle m => .handle (m.rel f own)
  | .stagePut r v => .stagePut (r.rel f own) v
  | .arm v h => .arm v (h.map (Reply.rel f own))
  | .group m => .group (m.rel f own)

def Waiter.rel (f : Nat → Nat) (own : Nat) (w : Waiter) : Waiter :=
  { at_ := match w.kind with
      | .handle _ => w.at_
      | _ => relPa f w.at_
    kind := w.kind.rel f own }

def Links.rel (f : Nat → Nat) (own : Nat) (k : Links) : Links :=
  { k with marks := k.marks.map (relPa f), ringWait := k.ringWait.map (Msg.rel f own)
           rings := k.rings.map fun e => (relPa f e.1, e.2.map fun p => (relPeer f own p.1, p.2)) }

def MCmd.rel (f : Nat → Nat) (c : MCmd) : MCmd :=
  { c with pages := c.pages.map (fun p => (p.1, relPa f p.2))
           wins := c.wins.map fun w => f (w / 64) * 64 + w % 64 }

/-- The state of a core moved. -/
def Core.rel (f : Nat → Nat) (own : Nat) (c : Core) : Core :=
  { c with slots := c.slots.map (Slot.rel f own), waits := c.waits.map (Waiter.rel f own), links := c.links.rel f own
           pushes := c.pushes.map fun h => { h with dest := relSrc f h.dest }
           meng := { c.meng with q := c.meng.q.map (MCmd.rel f)
                                 holds := c.meng.holds.map fun h => ⟨relPa f h.pa, h.len, h.msg.rel f own⟩ }
           mt := c.mt.map fun h => { h with msg := h.msg.rel f own }
           reqs := c.reqs.map (Req.rel f own), colls := c.colls.map (Coll.rel f own), gparts := c.gparts.map (GPart.rel f own)
           ckpt := { c.ckpt with slog := c.ckpt.slog.map (Msg.rel f own) } }

def Card.rel (f : Nat → Nat) (own : Nat) (c : Card) : Card := { c with asked := c.asked.map (Reply.rel f own) }

/-- What the PCTL holds of a context, moved. -/
def Ctx.rel (f : Nat → Nat) (own : Nat) (c : Ctx) : Ctx :=
  { c with quiesce := c.quiesce.map fun q => { q with reply := q.reply.rel f own }
           launches := c.launches.map fun y => { y with reply := y.reply.map (Reply.rel f own) } }

end Sys2Proof.Machine
end

