-- ==== Sys2Proof/Machine/Preempt.lean ====
section
/-! DEFINITION. Pre-emption and restore of a context (R208, R264, R282, R350-R355, R389): PREEMPT, RESUME, the stop of its
engines, the save area, the restore onto a placement. -/

namespace Sys2Proof.Machine

/-! ## The instructions (R350) -/

/-- PREEMPT and RESUME: releases, a request to the PCTL. -/
def State.askCtx (s : State) (i : Instr) (d s1 : Fin 32) (why : Nat) (own : Bool) (b : Nat → Body) : Result :=
  s.run i fun s => s.notOnMt i fun s =>
    let w := s.rx s1
    if w.toNat ≥ 4096 || (own && w.toNat == s.me.ctxid) then s.takeFault (bad11 why w)
    else match s.orderStop true with
      | some c => s.stopWith c
      | none => s.ask Config.srcPctl 0x22 8 w (b w.toNat) (.valueWait d)

/-- PREEMPT (R350). -/
def execPreempt (gd : Guard) (d s1 : Fin 32) (s : State) : Result :=
  s.askCtx (.preempt gd d s1) d s1 0x2B true .preempt

/-- RESUME (R350). -/
def execResume (gd : Guard) (d s1 : Fin 32) (s : State) : Result :=
  s.askCtx (.resume gd d s1) d s1 0x2C false .resume

/-! ## The stop (R351, R352) -/

/-- The packed CCNs of a context's placement whose cores are present, ascending. -/
def State.ccns (s : State) (ctx : Nat) : List Nat := sortNat ((s.ctxCores ctx).filterMap (s.ctx ctx).ccnOf)

/-- The base of the save block of core `l` (R353): the blocks stand in the order of the CCNs (log 132). -/
def State.blockBase (s : State) (ctx l : Nat) : Nat :=
  (s.ctx ctx).area + ((s.ccns ctx).findIdx fun k => (s.ctx ctx).lcnOf k == some l) * 0x180000

/-- A context that begins to stop: a save block for each of its cores. -/
def State.stopCtx (s : State) (ctx : Nat) (r : Option Reply) : State :=
  let open_ (s : State) (l : Nat) : State := match (s.ctx ctx).ccnOf l with
    | some k => s.modPctl fun p => { p with saves := Fmap.set p.saves (saveKey ctx k) { base := s.blockBase ctx l, lcn := l } }
    | none => s
  ((s.ctxCores ctx).foldl open_ s).modCtx ctx fun c => { c with st := .stopping, waiter := r }

/-- The PREEMPT requests that have reached the PCTL: a context that does not run cannot be pre-empted. -/
def State.takePreempts (s : State) : State :=
  ((s.ni Config.srcPctl).inq.filter fun m => m.body matches .preempt _).foldl (fun s m =>
    let s := s.takeMsg Config.srcPctl m
    match m.body with
    | .preempt c =>
      if (s.ctx c).st = .running then s.stopCtx c (some m.reply)
      else s.answer Config.srcPctl m.reply { cause := 0x11, info := 0x2B }
    | _ => s) s

/-- A core whose message thread has ended its handler diverts what comes for the context (R352), what its NI holds
unserved before it. -/
def State.divertCore (s : State) (l ctx : Nat) : State :=
  let mine (m : Msg) : Bool := m.ctx == ctx && (m.vc == 0 || m.vc == 2)
  let ms := (s.ni l).inq.filter mine
  let s := s.modCore l fun c => { c with diverted := true }
  match s.saveOf ctx l with
  | none => s
  | some k =>
    let s := s.modNi l fun n => { n with inq := n.inq.filter fun m => !mine m }
    s.modPctl fun p =>
      let b := Fmap.get {} p.saves k
      { p with saves := Fmap.set p.saves k { b with ring := b.ring ++ ms, lcn := l } }

/-- One core of a context that stops; its message thread stops when its handler has ended, on a frozen core at once. -/
def State.stopCore (s : State) (l ctx : Nat) : State :=
  let c := s.core l
  let s := s.modCore l fun c => { c.leaveWindow with stopping := some ctx, steal := { c.steal with active := false, wait := none } }
  if c.diverted || (c.mt.isSome && !c.mtStopped && !c.flt.frozen) then s else s.divertCore l ctx

/-- A deal that waits for a record slot has not begun: the card keeps its range, and the asking core gets none. -/
def State.stopDeals (s : State) (d ctx : Nat) : State :=
  ((s.die d).cards.filter fun c => c.ctx == ctx && c.target.isSome && c.reread.isSome).foldl (fun s c =>
    let s := s.modCard d c.order fun c => { c with target := none, asked := none, reread := none }
    match c.asked with
    | some r => s.answer (Config.srcDie d) r { none_ := true }
    | none => s) s

/-- The contexts that are being stopped. -/
def State.stoppingCtxs (s : State) : List Nat := (s.pctl.ctxs.filter fun e => e.2.st == .stopping).map Prod.fst

/-! ## Acknowledgements (R351, Table 13.5) -/

/-- Whether nothing that core `l` sent is still on its way to a home, and no answer to it: what a home, a parked-message ring
or a full ring keeps back does not count. -/
def State.netQuiet (s : State) (l ctx : Nat) : Bool :=
  (s.net.all fun m => !(m.ctx == ctx && ((m.src == l && m.spanel == s.panelId) ||
      (m.dest == l && m.dpanel == s.panelId && m.vc == 1)))) &&
    (s.nis.all fun n => n.2.inq.all fun m => !(m.ctx == ctx && m.src == l && m.spanel == s.panelId) || (m.body matches .quiesce)) &&
    (s.core l).reqs.all fun q => q.msg.dpanel == s.panelId || q.resend.isSome

/-- Whether every engine of a core that stops has reached its unit of Table 13.5, and every answer to the core has come. -/
def State.unitsDone (s : State) (l ctx : Nat) : Bool :=
  let c := s.core l
  c.ckpt.chk.isNone && (c.veng.q.head?.all fun q => !q.started) && (s.cluster (clusterOf l)).grant != some (memberOf l) &&
    (c.meng.q.all fun q => !q.done) && (c.cq.head?.all fun q => !q.busy && (!q.started || q.done)) &&
    c.bars.all (fun b => b.rel.isNone) && s.netQuiet l ctx

/-- A core that stops acknowledges once its engines have stopped; one that a fault has frozen does so at once (R351). -/
def State.ackCore (s : State) (l ctx : Nat) : State :=
  let c := s.core l
  if c.stopping == some ctx && c.diverted && (c.flt.frozen || s.unitsDone l ctx) then s.modCore l fun c => { c with acked := true } else s

/-- The stop of one core of a context: it stops, and acknowledges when it can. -/
def State.stopTurn (s : State) (l ctx : Nat) : State := (s.stopCore l ctx).ackCore l ctx

/-- PREEMPT_STOP (R351): the PCTL takes the requests; the collector of a die stops what is on its die, and gathers the
acknowledgements. -/
def execPreemptStop (die : Nat) (s : State) : Result :=
  let s := s.takePreempts
  .next (s.stoppingCtxs.foldl (fun s ctx =>
    (((s.ctxCores ctx).filter fun l => dieOf l == die && (s.core l).ctxid == ctx).foldl (fun s l => s.stopTurn l ctx) s).stopDeals
      die ctx) s)

/-- Whether a core has acknowledged the stop, or is held in its containment (R393). -/
def State.acknowledged (s : State) (l ctx : Nat) : Bool :=
  let c := s.core l
  (c.health.iso && (c.health.contain == .isolated || c.health.contain == .held)) || (c.stopping == some ctx && c.acked)

/-- Whether a context has stopped on every die: its cores, its dealers' deals. -/
def State.ctxStopped (s : State) (ctx : Nat) : Bool :=
  (s.ctxCores ctx).all (fun l => s.acknowledged l ctx) &&
    s.dies.all fun d => d.2.cards.all fun c => c.ctx != ctx || c.target.isNone

/-! ## The save (R264, R353) -/

/-- The number of a message that will be sent again under a new one is given back to its pair. -/
def State.takeBack (s : State) (m : Msg) : State :=
  s.modNi m.src fun n =>
    let k := peerKey m.dpanel m.dest
    let e := Fmap.get {} n.seqs k
    let back (tx : Nat) : Nat := if seqGap tx m.seq < 2 ^ 20 then m.seq % 2 ^ 21 else tx
    { n with seqs := Fmap.set n.seqs k (if m.apart then { e with txs := back e.txs } else if m.vc = 0 then { e with tx0 := back e.tx0 } else { e with tx2 := back e.tx2 }) }

/-- What a slot is in when it is saved (Table 2.1). -/
def SState.switchedOut (x : SState) : SState :=
  match x with
  | .running | .parked => .saved
  | x => x

/-- A core whose own pages are those that the context owns: what stands on the pages of other contexts stays with the core (R13). -/
def Core.onPage (c : Core) (ctx a : Nat) : Bool := c.owns (sliceOff a) 1 ctx 0

/-- Whether a waiter belongs to a context: its word lies on one of its pages, its handle is one of its own. -/
def Core.waitOf (c : Core) (ctx : Nat) (w : Waiter) : Bool :=
  match w.kind with
  | .handle _ => (c.handle w.at_).ctx == ctx
  | _ => c.onPage ctx w.at_

/-- The queue endpoints of one context, or those of the others. -/
def Core.linksOf (c : Core) (ctx : Nat) (mine : Bool) : Links :=
  { (if mine then c.links else {}) with
    marks := c.links.marks.filter fun a => c.onPage ctx a == mine
    rings := c.links.rings.filter fun e => c.onPage ctx e.1 == mine
    ringWait := c.links.ringWait.filter fun m => (m.ctx == ctx) == mine }

/-- The page owners of a core whose entries of one context come from `c` and the rest from `old`. -/
def Core.owners (c old : Core) (ctx : Nat) (r : Vector Word 72) : Vector Word 72 :=
  (List.range 16).foldl (fun r i =>
    let w := c.sys (0x20 + i)
    r.setIfInBounds (0x20 + i) (if bit w 12 && bits w 11 0 == ctx then w else old.sys (0x20 + i))) r

/-- What of a core is saved (Table 13.6): what is the context's. -/
def Core.toSave (c : Core) (ctx : Nat) : Core :=
  { c with tlb := [], lines := [], stopping := none, diverted := false, acked := false, health := {}, steal := { got := c.steal.got }
           slots := c.slots.map fun t => { t with state := t.state.switchedOut }
           waits := c.waits.filter (c.waitOf ctx)
           handles := c.handles.map fun h => if h.ctx = ctx then h else {}
           links := c.linksOf ctx true
           reqs := c.reqs.map fun q => if q.cont matches .copyData then { q with cont := .done } else q
           meng := { c.meng with q := c.meng.q.map (MCmd.unlatch c.meng), holds := [] }
           cq := c.cq.map fun q => { q with fetched := none, got := [], busy := false } }

/-- A core that its context has left: what belongs to the core, or to other contexts' pages on it, stays (R13). -/
def Core.vacated (c : Core) (ctx : Nat) : Core :=
  let others : Vector Word 72 := (List.range 16).foldl (fun r i =>
    let w := c.sys (0x20 + i)
    if bits w 11 0 = ctx then r else r.setIfInBounds (0x20 + i) w) Core.reset.sysr
  { health := c.health, sw := Fmap.del c.sw ctx
    sysr := (List.range 4).foldl (fun r i => r.setIfInBounds (0xC + i) (c.sys (0xC + i))) others
    waits := c.waits.filter fun w => !c.waitOf ctx w
    handles := c.handles.map fun h => if h.ctx = ctx then {} else h
    links := c.linksOf ctx false
    meng := { holds := c.meng.holds.filter fun h => h.msg.ctx != ctx } }

/-- What other contexts have on a core joined to the state of the context that it takes over. -/
def Core.joined (c old : Core) (ctx : Nat) : Core :=
  { c with sysr := c.owners old ctx c.sysr
           waits := c.waits ++ old.waits
           handles := Vector.ofFn fun k => if c.handles[k].v then c.handles[k] else old.handles[k]
           links := { c.links with marks := c.links.marks ++ old.links.marks, rings := c.links.rings ++ old.links.rings
                                   ringWait := c.links.ringWait ++ old.links.ringWait }
           meng := { c.meng with holds := old.meng.holds } }

/-- The slice image of a save block (Table 13.6), written to HBM: the pages of core `l` that the context owns. -/
def State.saveImage (s : State) (ctx l base : Nat) : State :=
  let c := s.core l
  let inside (a : Nat) : Bool := base ≤ a && a < base + 0x100000 && c.owns (a - base) 1 ctx 0
  let mine (a : Nat) : Bool := spaceOf a == 1 && sliceLcn a == l && c.onPage ctx a
  let cells : List Host.Cell := (s.mem.bytes.filter fun x => mine x.1).map fun x => (base + sliceOff x.1, x.2)
  let s := s.modMem fun m =>
    { m.fill inside cells with single := m.single.filter fun a => !inside a, double := m.double.filter fun a => !inside a }
  { s with bridges := s.bridges.map fun b => (b.1, { b.2 with poison := b.2.poison.filter fun k => !inside (k * 64) }) }

/-- The bytes of the image of a save block by offset. -/
def State.imageOf (s : State) (base : Nat) : List Host.Cell :=
  (s.mem.bytes.filter fun x => base ≤ x.1 && x.1 < base + 0x100000).map fun x => (x.1 - base, x.2)

/-- One core of a stopped context saved into its block. -/
def State.saveCore (s : State) (ctx l : Nat) : State :=
  match s.saveOf ctx l with
  | none => s
  | some k =>
    let c := s.core l
    let mine (a : Nat) : Bool := spaceOf a == 1 && sliceLcn a == l && c.onPage ctx a
    let marks (m : List Nat) : List Nat := (m.filter mine).map sliceOff
    let b := Fmap.get {} s.pctl.saves k
    let b : Save := { b with base := s.blockBase ctx l, core := c.toSave ctx, was := c.slots.toList.map Slot.state, lcn := l
                             posted := (s.ni l).posted.filter (fun p => p.msg.ctx == ctx), fe := marks s.mem.fe, psn := marks s.mem.psn }
    let s := s.saveImage ctx l b.base
    let s := (c.reqs.filter fun q => q.resend.isSome && q.msg.vc == 0).foldl (fun s q => s.takeBack q.msg) s
    let s := (b.posted.filter fun p => p.resend.isSome).foldl (fun s p => s.takeBack p.msg) s
    let s := s.modPctl fun p => { p with saves := Fmap.set p.saves k b }
    let s := s.modNi l fun n => { n with posted := n.posted.filter fun p => p.msg.ctx != ctx }
    (s.modCluster (clusterOf l) fun n =>
      { n with grant := if n.grant = some (memberOf l) then none else n.grant
               wins := n.wins.map fun w => { w with mem := w.mem.filter (· != l) } }).setCore l (c.vacated ctx)

/-- The cards and stages of a context leave its dies. -/
def State.saveDies (s : State) (ctx : Nat) : State :=
  let ranges (ms : List Msg) : List Card := ms.filterMap fun m => match m.body with
    | .range c => if c.ctx = ctx then some c else none
    | _ => none
  let isRange (m : Msg) : Bool := match m.body with
    | .range c => c.ctx == ctx
    | _ => false
  let flying := ranges s.net ++ s.nis.flatMap fun n => ranges n.2.inq
  let nis : Fmap Ni := s.nis.map fun (n : Nat × Ni) => (n.1, { n.2 with inq := n.2.inq.filter fun m => !isRange m })
  let s := { s with net := s.net.filter (fun m => !isRange m), nis := nis }
  let s := s.modPctl fun p => { p with savedCards := p.savedCards ++ flying.map fun c => (ctx, c) }
  (s.dies.map Prod.fst).foldl (fun s d =>
    let x := s.die d
    let mine := (x.cards ++ x.waitq ++ x.aside).filter fun c => c.ctx == ctx
    let keep (l : List Card) : List Card := l.filter fun c => c.ctx != ctx
    let s := s.modPctl fun p =>
      { p with savedCards := p.savedCards ++ mine.map (fun c => (ctx, c))
               savedStages := if x.gctx = some ctx then p.savedStages ++ [(ctx, d, x.stages)] else p.savedStages }
    let s := s.modDie d fun x =>
      { x with cards := keep x.cards, waitq := keep x.waitq, aside := keep x.aside
               stages := if x.gctx = some ctx then Vector.replicate 8 {} else x.stages
               gctx := if x.gctx = some ctx then none else x.gctx }
    s.fillSlots d 256) s

/-- Gathers of a context that stops let the writes go that they hold. -/
def State.unlatchCore (s : State) (l : Nat) : State :=
  (s.modCore l fun c => { c with meng := { c.meng with q := c.meng.q.map (MCmd.unlatch c.meng) } }).releaseHolds (clusterOf l)

/-- The save of a stopped context: every core's block, the dies' part; its sweeps are over (R282). The asking core gets the
number of cores. -/
def State.saveCtx (s : State) (ctx : Nat) : State :=
  let ls := s.ctxCores ctx
  let s := ls.foldl State.unlatchCore s
  let s := ls.foldl (fun s l => s.saveCore ctx l) s
  let s := s.saveDies ctx
  let w := (s.ctx ctx).waiter
  let s := s.modCtx ctx fun c =>
    { c with st := .saved, waiter := none, quiet := none, sets := c.sets.map fun e => { e with prev := none } }
  let s := s.modPctl fun p => { p with sweep := p.sweep.map fun w => { w with sums := Fmap.del w.sums ctx } }
  match w with
  | some r => s.answer Config.srcPctl r { w := word ls.length }
  | none => s

/-- PREEMPT_COMPLETE (R351, R353). -/
def execPreemptComplete (s : State) : Result :=
  .next (s.stoppingCtxs.foldl (fun s ctx => if s.ctxStopped ctx then s.saveCtx ctx else s) s)

/-! ## The restore (R354, R355) -/

/-- Whether a dropped core's block shows it quiet (R355). -/
def Save.quiet (b : Save) : Bool :=
  let c := b.core
  ((List.range 15).all fun k =>
      let t := c.slot (Fin.ofNat 16 k)
      t.record.isNone && t.load.isNone && t.held.isNone && t.binds.all Option.isNone) &&
    c.dq.hw.isEmpty && c.dq.spill.isEmpty && c.steal.got.isNone && c.waits.isEmpty && c.handles.all (fun h => !h.v) &&
    (c.slot 15).binds.all Option.isNone && c.veng.q.isEmpty && c.meng.q.isEmpty && c.cq.isEmpty && b.ring.isEmpty

/-- The save blocks of a context by packed CCN. -/
def State.blocks (s : State) (ctx : Nat) : List (Nat × Save) :=
  (s.pctl.saves.filter fun e => e.1 / 65536 == ctx).map fun e => (e.1 % 65536, e.2)

/-- The new logical core of an old one. -/
def State.moved (s : State) (ctx : Nat) (l : Nat) : Nat :=
  match (s.blocks ctx).find? fun b => b.2.lcn == l with
  | some b => ((s.ctx ctx).lcnOf b.1).getD l
  | none => l

/-- The stage tables of a saved context on the dies of its placement, with their masks moved; none when the cores of one
land on several dies, or two tables on one. -/
def State.movedStages (s : State) (ctx : Nat) : Option (List (Nat × Vector Stage 8)) :=
  let f := s.moved ctx
  let here := s.ctxCores ctx
  (s.pctl.savedStages.filter fun e => e.1 == ctx).foldl (fun acc e =>
    let ls := e.2.2.toList.flatMap fun g => if g.en then coresOf e.2.1 g.cores ++ [sliceLcn g.ringPa] else []
    let ds := (ls.map fun l => dieOf (f l)).eraseDups
    match acc, ds with
    | some out, d :: [] =>
      if ls.all (fun l => here.contains (f l)) && out.all (fun o => o.1 != d) then
        some (out ++ [(d, e.2.2.map fun g =>
          { g with ringPa := relPa f g.ringPa
                   cores := (coresOf e.2.1 g.cores).foldl (fun m l => m ||| (1#32 <<< (lptIdx (f l)).val)) 0 })])
      else none
    | _, _ => none) (some [])

/-- Whether a saved context can be restored onto the placement that the table holds: its supervisor and loader are there
(R355), its cores are free, every dropped core is quiet, every stage table lands on one die. -/
def State.canRestore (s : State) (ctx : Nat) : Bool :=
  let c := s.ctx ctx
  let here (ccn : Nat) : Bool := (s.ccns ctx).contains ccn
  c.st == .saved && here c.sup && here c.loader &&
    (s.ctxCores ctx).all (fun l => (s.core l).health.contain == .live) &&
    (s.ctxCores ctx).all (fun l => (s.core l).ctxid == 0 || (s.ctx (s.core l).ctxid).st == .absent) &&
    (s.blocks ctx).all (fun b => here b.1 || b.2.quiet) && (s.movedStages ctx).isSome

/-- Slice pages of a core filled from an image: bytes, full marks and poison marks by offset; words not listed are 0. -/
def State.putPages (s : State) (l : Nat) (mine : Nat → Bool) (mem : List Host.Cell) (fe psn : List Nat) : State :=
  let inside (a : Nat) : Bool := spaceOf a == 1 && sliceLcn a == l && mine (sliceOff a)
  let marks (old new : List Nat) : List Nat :=
    (new.filter mine).foldl (fun m o => Marks.ins m (slicePa l o)) (old.filter fun a => !inside a)
  s.modMem fun m =>
    { m.fill inside ((mem.filter fun x => mine x.1).map fun x => (slicePa l x.1, x.2)) with
      fe := marks m.fe fe, psn := marks m.psn psn
      single := m.single.filter fun a => !inside a, double := m.double.filter fun a => !inside a }

/-- The level of a core of a context (R135). -/
def Ctx.levelOf (c : Ctx) (l : Nat) : Nat := if c.lcnOf c.sup = some l || c.lcnOf c.loader = some l then 1 else 0

/-- A core's registers after a restore: those of the core stay, those of the context come from `from_`. -/
def Core.mergeRegs (old from_ : Core) (ctx lvl : Nat) : Vector Word 72 :=
  let r := (List.range 4).foldl (fun (r : Vector Word 72) i => r.setIfInBounds (0xC + i) (old.sys (0xC + i))) from_.sysr
  (r.set 0 (word ctx)).set 0x12 (word lvl)

/-- The graphs of a restored core reloaded from the custom-opcode table as it stands (R208): a reload that fails leaves its
slot invalid; one whose image lies on another panel waits for it, and no thread issues before. -/
def State.reloadGraphs (s : State) (l : Nat) : State :=
  (List.finRange 4).foldl (fun s k =>
    let g := (s.core l).veng.gs[k]
    match g.graph with
    | none => s
    | some x =>
      let r := s.cxHead l x.opn
      if r.2.isSome then
        s.modCore l fun c => { c with veng := { c.veng.setSlot k { g with graph := none } with reload := c.veng.reload ++ [(k, x.opn)] } }
      else
        let s := (s.cxInstall l k x.opn).1
        s.modCore l fun c => { c with veng := c.veng.setSlot k { c.veng.gs[k] with load := g.load } }) s

/-- A message that waits to be sent again takes the next number of its pair. -/
def State.renumber (s : State) (m : Msg) : State × Msg :=
  let m' := s.numbered m
  (s.counted m, m')

/-- The requests and posted writes that a full ring had refused, under new numbers. -/
def State.renumberCore (s : State) (l : Nat) : State :=
  let s := ((s.core l).reqs.filter fun q => q.resend.isSome && q.msg.vc == 0).foldl (fun s q =>
    let r := s.renumber q.msg
    r.1.modCore l fun c => { c with reqs := c.reqs.map fun x => if x.id = q.id then { x with msg := r.2 } else x }) s
  ((s.ni l).posted.filter fun p => p.resend.isSome && p.msg.vc == 2).foldl (fun s p =>
    let r := s.renumber p.msg
    r.1.modNi l fun n => { n with posted := n.posted.map fun x => if x.id = p.id then { x with msg := r.2 } else x }) s

/-- The highest number of an access of a core. -/
def Core.topId (c : Core) (ps : List Posted) : Nat :=
  ((c.reqs.map Req.id) ++ ps.map Posted.id ++ c.slots.toList.flatMap fun t => t.outst.map Out.id).foldl max 0

/-- Step 1 of R354 for a core with a block: pages and core state. -/
def State.loadBlock (s : State) (ctx l : Nat) (f : Nat → Nat) (b : Save) : State :=
  let old := s.core l
  let c : Core := b.core.rel f s.panelId
  let ps := b.posted.map (Posted.rel f s.panelId)
  let c : Core :=
    { c with sysr := old.mergeRegs b.core ctx ((s.ctx ctx).levelOf l), health := old.health, lastW := 14
             slots := Vector.ofFn fun k => { c.slot k with state := (b.was[k.val]?).getD (c.slot k).state }
             sw := Fmap.set old.sw ctx (Fmap.get {} c.sw ctx), cq := c.cq.map fun q => { q with restored := true } }
  let mine (o : Nat) : Bool := c.owns o 1 ctx 0
  let img := s.imageOf b.base
  let s := (s.setCore l (c.joined old ctx)).modNi l fun n =>
    { n with posted := n.posted ++ ps, nextId := max n.nextId (c.topId ps + 1) }
  s.putPages l mine img b.fe b.psn

/-- An added core (R355): at its reset values, with the context's registers of CCN (0, 0). -/
def State.addCore (s : State) (ctx l : Nat) : State :=
  let old := s.core l
  let zero := ((s.blocks ctx).find? fun b => b.1 == 0).map fun b => b.2.core
  let c := { Core.reset with sysr := old.mergeRegs (zero.getD Core.reset) ctx ((s.ctx ctx).levelOf l), health := old.health, sw := old.sw }
  (s.setCore l (c.joined old ctx)).putPages l (fun o => c.owns o 1 ctx 0) [] [] []

/-- The barrier registers of a restored core (R355, R389). -/
def State.restoreBars (s : State) (ctx l : Nat) (corner : Nat → Fin 4 → Bar) : State :=
  let put (c : Core) (k : Fin 4) : Bar :=
    let b := c.bars[k]
    let z := corner (brRow0 b.brect * 256 + brCol0 b.brect) k
    b.restore ((s.ctx ctx).holdsRect b.brect) z.g z.rc
  s.modCore l fun c => { c with bars := Vector.ofFn (put c) }

/-- Step 3 of R354: the parked messages in order of arrival, before any new one. -/
def State.replayRing (s : State) (l : Nat) (f : Nat → Nat) (ring : List Msg) : State :=
  ring.foldl (fun s m =>
    let m := m.rel f s.panelId
    if m.vc = 1 then s.send { m with dest := l } else s.modNi l fun n => { n with inq := n.inq ++ [{ m with dest := l }] }) s

/-- The first `n` numbers of some ranges, and the rest. -/
def splitRanges : Nat → List (Nat × Nat) → List (Nat × Nat) × List (Nat × Nat)
  | _, [] => ([], [])
  | n, (a, b) :: t =>
    if n = 0 then ([], (a, b) :: t)
    else if b - a ≤ n then
      let r := splitRanges (n - (b - a)) t
      ((a, b) :: r.1, r.2)
    else ([(a, a + n)], (a + n, b) :: t)

/-- Ranges in ascending order of their starts. -/
def insRange (r : Nat × Nat) : List (Nat × Nat) → List (Nat × Nat)
  | [] => [r]
  | x :: t => if r.1 ≤ x.1 then r :: x :: t else x :: insRange r t

/-- A card for a restored range at a die. -/
def State.addCard (s : State) (d : Nat) (c : Card) : State :=
  let x := s.die d
  let c := { c with order := x.nextCard }
  let s := s.modDie d fun x => { x with nextCard := x.nextCard + 1 }
  if x.cards.length < 32 then s.activate d c else s.modDie d fun x => { x with waitq := x.waitq ++ [c] }

/-- A card for the first part of a die position after a restore, as its initial wave stands (R339): one that has begun goes on with the
cores that it has not reached; a position that has dealt its range, or waited, keeps what it was; a new one deals its wave. -/
def waveAt (f : Nat → Nat) (cs : List Card) (old p : Nat) (c : Card) : Card :=
  match cs.find? fun x => x.pos == p with
  | some x => { c with waved := x.waved, wave := x.wave.map f }
  | none => { c with waved := p < old }

/-- The undealt ranges of one launch shared among the dies of the new placement (R354); a LAUNCH whose acceptance was still
open is answered. -/
def State.reshare (s : State) (ctx : Nat) (f : Nat → Nat) (y : Launch) : State :=
  let cs := (s.pctl.savedCards.filter fun c => c.1 == ctx && c.2.launch == y.id).map Prod.snd
  let rs := ((cs.filter fun c => c.lo < c.hi).map fun c => (c.lo, c.hi)).foldr insRange []
  let n := rs.foldl (fun a r => a + (r.2 - r.1)) 0
  let issuer := ((s.ctx ctx).lcnOf y.who).getD ((s.ctxCores ctx).headD 0)
  let ds := s.participants ctx issuer (cardDom y.words)
  let sh := shares n ds
  let parts := (sh.foldl (fun (acc : List (List (Nat × Nat)) × List (Nat × Nat)) k =>
    let q := splitRanges k acc.2
    (acc.1 ++ [q.1], q.2)) ([], rs)).1
  let s := (List.range ds.length).foldl (fun s p =>
    let d := nth (0, 0) ds p
    (nth [] parts p).zipIdx.foldl (fun s r =>
      let c : Card := { va := y.va, words := y.words, ctx, pos := p, lo := r.1.1, hi := r.1.2, nd := d.2, launch := y.id, waved := true }
      s.addCard d.1 (if r.2 = 0 then waveAt f cs y.dies.length p c else c)) s) s
  let s := s.modLaunch ctx y.id fun y => { y with dies := ds.map Prod.fst, left := [], reply := none }
  match y.reply with
  | some r => s.answer (Config.srcDie (dieOf (f r.src))) (r.rel f s.panelId) { w := word ds.length }
  | none => s

/-- The restore of a context (R354, R355): its cores in order of CCN, then its dies; the asking core gets their number. -/
def State.restoreCtx (s : State) (ctx : Nat) (r : Option Reply) : State :=
  let f := s.moved ctx
  let bs := s.blocks ctx
  let cs := s.ccns ctx
  let at_ (ccn : Nat) : Nat := ((s.ctx ctx).lcnOf ccn).getD 0
  let stages := (s.movedStages ctx).getD []
  let corner (ccn : Nat) (k : Fin 4) : Bar := ((bs.find? fun b => b.1 == ccn).map fun b => b.2.core.bars[k]).getD {}
  let s := cs.foldl (fun s ccn =>
    match bs.find? fun b => b.1 == ccn with
    | some b => s.loadBlock ctx (at_ ccn) f b.2
    | none => s.addCore ctx (at_ ccn)) s
  let s := cs.foldl (fun s ccn =>
    (((s.restoreBars ctx (at_ ccn) corner).reloadGraphs (at_ ccn)).rereadFirst (at_ ccn)).renumberCore (at_ ccn)) s
  let s := (cs.map fun ccn => clusterOf (at_ ccn)).eraseDups.foldl (fun s n => s.modCluster n fun k => { k with c := k.weights }) s
  let s := s.modPctl fun p => { p with saves := p.saves.filter fun e => e.1 / 65536 != ctx }
  let s := s.modCtx ctx fun c => { c.rel f s.panelId with st := .running }
  let s := cs.foldl (fun s ccn =>
    match bs.find? fun b => b.1 == ccn with
    | some b => s.replayRing (at_ ccn) f b.2.ring
    | none => s) s
  let s := (s.ctx ctx).launches.foldl (fun s y => s.reshare ctx f y) s
  let s := s.modPctl fun p => { p with savedCards := p.savedCards.filter fun c => c.1 != ctx
                                       savedStages := p.savedStages.filter fun e => e.1 != ctx }
  let s := stages.foldl (fun s e => s.modDie e.1 fun x => { x with stages := e.2, gctx := some ctx }) s
  match r with
  | some r => s.answer Config.srcPctl r { w := word cs.length }
  | none => s

/-- CONTEXT_RESTORE (R354): the next RESUME at the PCTL. -/
def execContextRestore (s : State) : Result :=
  let a := Config.srcPctl
  .next (match (s.ni a).inq.find? fun m => m.body matches .resume _ with
    | none => s
    | some m =>
      let s := s.takeMsg a m
      match m.body with
      | .resume ctx =>
        if s.canRestore ctx then s.restoreCtx ctx (some m.reply)
        else s.answer a m.reply { cause := 0x11, info := 0x2C }
      | _ => s)

end Sys2Proof.Machine
end

