-- ==== Sys2Proof/Machine/Ckpt.lean ====
section
/-! DEFINITION. Checkpoints and send logs (R390-R392, Table 15.11): CHKPT, the transfer to the partner's peat store, commit
notices, requests for a checkpoint. -/

namespace Sys2Proof.Machine

/-! ## Partners and peat stores (R390) -/

/-- The partner of a core. -/
def partnerOf (l : Nat) : Nat := if l % 128 = 127 then l - 1 else l + 1

/-- The slice offset of the peat store that serves core `l`, in its partner `c`. -/
def peatOff (l : Nat) (c : Core) : Nat :=
  bits (c.sys 0xE) 19 17 * 131072 + if l % 128 = 127 then 131072 else 0

/-- The slice address of the peat store that serves core `l`. -/
def State.peatPa (s : State) (l : Nat) : Nat :=
  slicePa (partnerOf l) (peatOff l (s.core (partnerOf l)))

/-- Whether the banks of a peat store work. -/
def State.peatWorks (s : State) (l : Nat) : Bool :=
  let c := s.core (partnerOf l)
  let b := peatOff l c / 65536
  !c.health.badBanks.contains b && !c.health.badBanks.contains (b + 1)

/-- The words of a peat store's header (Table 15.11); the body's length and CRC, whose bytes have no layout, are free. -/
def Peat.header (p : Peat) (n : Nat) : List Word :=
  [word ((if p.vld then 2 ^ 63 else 0) + p.ctx * 2 ^ 32 + p.e.toNat), word p.lcn, word ((Config.freeCrc (2 * n)).toNat % 131009),
    word (Config.freeCrc (2 * n + 1)).toNat, 0, 0, 0, 0]

/-- A header written. -/
def State.putHeader (s : State) (l : Nat) (p : Peat) : State :=
  let n := s.freeCtr
  let a := s.peatPa l
  { (s.modMem fun m => m.store a (bytesOf (p.header n))).tickFree with peats := Fmap.set s.peats l p }

/-- Whether a core has a committed image: its header stands in the peat store as it was written, and the store can be
read. -/
def State.image (s : State) (l : Nat) : Option Peat :=
  let p := Fmap.get {} s.peats l
  let a := s.peatPa l
  let w := s.mem.read64 a
  if p.vld && s.present (partnerOf l) && s.peatWorks l && bit w 63 && bits w 43 32 == p.ctx && bits w 31 0 == p.e.toNat &&
      (s.mem.read64 (a + 8)).toNat == l && p.ctx == (s.core l).ctxid &&
      (s.mem.double.all fun x => x < a || a + 131072 ≤ x) && (s.mem.psn.all fun x => x < a || a + 131072 ≤ x) then some p
  else none

/-! ## The descriptor (R391) -/

/-- A range of a descriptor: slice offset and length. -/
def rangeOf (w : Word) : Nat × Nat := (bits w 19 0, bits w 39 20)

/-- The checkpoint ranges of a descriptor's words, up to the first zero entry. -/
def ckptRanges (ws : List Word) : List Word := (ws.take 8).takeWhile (· != 0)

/-- The backing entries of a descriptor's words, up to the first zero entry. -/
def backEntries (ws : List Word) : List (Word × Word) :=
  ((List.range 8).map fun i => (nth 0 ws (8 + 2 * i), nth 0 ws (9 + 2 * i))).takeWhile fun e => e != (0, 0)

/-- Whether a range has the form of R391. -/
def rangeForm (w : Word) : Bool := bits w 63 40 == 0 && (rangeOf w).1 % 8 == 0 && (rangeOf w).2 % 8 == 0

/-- Whether a range has its form and lies in pages of the core's context. -/
def Core.rangeOk (c : Core) (w : Word) : Bool :=
  rangeForm w && ((rangeOf w).2 == 0 || c.regionOk (rangeOf w).1 (rangeOf w).2)

def rangeBytes (ws : List Word) : Nat := (ckptRanges ws).foldl (fun n w => n + (rangeOf w).2) 0

/-- The bytes of an image: the parts with a size, and the free value for the others. -/
def State.imageBytes (s : State) (l : Nat) (ws : List Word) : Nat :=
  let c := s.core l
  64 + 256 + rangeBytes ws + c.slogUse +
    Config.freeImage [(c.slots.toList.filter fun t => t.record.isSome).length, c.dq.hw.length + c.dq.spill.length, c.waits.length,
      (s.ni l).seqs.length]

/-- The reason with which a checkpoint fails (fault 0x3D). -/
def State.ckptBad (s : State) (l : Nat) (ws : List Word) : Option Nat :=
  let c := s.core l
  let p := partnerOf l
  if rangeBytes ws > 98304 || !(ckptRanges ws).all c.rangeOk || !(backEntries ws).all (fun e => c.rangeOk e.1) then some 1
  else if s.imageBytes l ws > 131072 then some 2
  else if !s.present p || !bit ((s.core p).sys 0xE) 0 || !bit (c.sys 0xF) 0 then some 3
  else if !(s.ctx c.ctxid).ckpt then some 4
  else none

/-! ## CHKPT (R391) -/

/-- Whether a CHKPT of a core is under way. -/
def Core.checkpoints (c : Core) : Bool :=
  c.ckpt.chk.isSome || c.reqs.any (fun q => q.cont matches .chkptDesc _) ||
    c.slots.any fun t => t.path.any fun a => a.cont matches .chkptDesc _

/-- Whether a slot has stopped at an issue boundary with its results drained; one that waits parked for an answer has. -/
def Slot.drained (t : Slot) : Bool := (t.state == .parked && !t.again) || t.quiet

/-- Whether a core that checkpoints has come to rest. -/
def Core.atRest (c : Core) (slot : Nat) : Bool :=
  c.mt.isNone && c.veng.q.isEmpty && c.meng.q.isEmpty && c.cq.isEmpty && c.veng.rlcmd.isNone &&
    (List.range 15).all fun k => k == slot || (c.slot (Fin.ofNat 16 k)).drained

/-- The first part of a CHKPT: the descriptor is read. -/
def State.chkptRead (s : State) (d s1 : Fin 32) : State :=
  if s.me.checkpoints then s.stopWith (.retry .chkpt)
  else
    let s := s.modThr fun t => { t with buf := [] }
    s.access (s.rx s1) 64 .r (.mem (.load 64)) (.chkptDesc d) true false fun s => s.stopWith (.wait .response)

/-- One of the four reads of a descriptor has returned. -/
def State.onChkptDesc (s : State) (l : Nat) (q : Req) (r : Resp) (d : Fin 32) : State :=
  if r.cause ≠ 0 then (s.modThr fun t => { t with buf := [] }).refusedWait l q r
  else
    let bs := s.thr.buf ++ r.data.take 64
    if bs.length < 256 then
      (s.modThr fun t => { t with buf := bs }).enqueue
        { va := q.va + 64, bytes := 64, perm := .r, op := .mem (.load 64), apc := q.apc, cont := .chkptDesc d }
    else
      let h : Chk := { slot := q.k.val, d, desc := wordsOf 32 bs }
      (s.modThr fun t => { t with buf := [], again := true, park := .chkpt }).modCore l fun c => { c with ckpt := { c.ckpt with chk := some h } }

/-- The second part, while the core comes to rest: the checks, and the image sent to the partner. -/
def State.chkptSend (s : State) (h : Chk) : State :=
  let l := s.cur.lcn
  let off (s : State) : State := s.modCore l fun c => { c with ckpt := { c.ckpt with chk := none } }
  if !s.me.atRest h.slot || s.freeSlots l = 0 then s.stopWith (.retry .chkpt)
  else match s.ckptBad l h.desc with
    | some r => (off s).deferFault l s.cur.slot 5 s.here (mkCause 0x3D r 0)
    | none =>
      let p := partnerOf l
      let ctx := s.me.ctxid
      let s := (s.system l p 0x1F ctx (.transfer 0 l)).system l p 0x1F ctx (.transfer 1 l)
      s.ask p 0x1F 64 0 (.transfer 2 l) (.chkptDone h.d)

/-- CHKPT (R391). Once the descriptor has been read, the instruction goes on from there whenever it issues again. -/
def execChkpt (gd : Guard) (d s1 : Fin 32) (s : State) : Result :=
  match (if s.cur.slot = 15 then none else s.me.ckpt.chk) with
  | some h => if h.slot = s.cur.slot.val then .next (s.begin.chkptSend h) else .next (s.begin.stopWith (.retry .chkpt))
  | none => s.run (.chkpt gd d s1) fun s => s.notOnMt (.chkpt gd d s1) fun s => s.chkptRead d s1

/-- The partner's answer: the core goes on with E + 1, or with fault 0x3D, reason 5. -/
def State.onChkptDone (s : State) (l : Nat) (q : Req) (r : Resp) (d : Fin 32) : State :=
  let s := s.modCore l fun c => { c with ckpt := { c.ckpt with chk := none } }
  if r.cause ≠ 0 then s.refusedWait l q { cause := 0x3D, info := 5 }
  else (s.modCore l fun c => c.setSys 0x11 r.w).completedX l q.k d r.w

/-! ## The transfer (R391) -/

/-- What an image holds of a core: no tiles, no graphs, no TLB, no snapshots; its CHKPT has returned `e`. -/
def State.imageCore (s : State) (l : Nat) (h : Chk) (e : BitVec 32) : Core :=
  let s := s.modCore l fun c => { (c.setSys 0x11 (e.zeroExtend 64)) with ckpt := { c.ckpt with chk := none }, reqs := c.reqs.filter fun q => !(q.cont matches .chkptDone _) }
  let k := Fin.ofNat 16 h.slot
  let s := s.modSlot l k fun t => { t with outst := t.outst.filter fun o => (s.core l).reqs.any (fun q => q.id == o.id) || o.vc == 2 }
  let c := (s.completedX l k h.d (e.zeroExtend 64)).core l
  { c with tlb := [], lines := [], veng := {}, meng := { sh := c.meng.sh }, cq := [], health := {}, diverted := false, acked := false, stopping := none
           steal := { got := c.steal.got } }

/-- The bytes and full marks of some ranges of a slice, by offset. -/
def State.rangesOf (s : State) (l : Nat) (rs : List (Nat × Nat)) : List Host.Cell × List Nat :=
  let mine (a : Nat) : Bool := spaceOf a == 1 && sliceLcn a == l && rs.any fun r => r.1 ≤ sliceOff a && sliceOff a < r.1 + r.2
  ((s.mem.bytes.filter fun x => mine x.1).map fun x => (sliceOff x.1, x.2), (s.mem.fe.filter mine).map sliceOff)

/-- The image of a core that checkpoints. -/
def State.peatOf (s : State) (l : Nat) (h : Chk) : Peat :=
  let c := s.core l
  let e : BitVec 32 := (c.sys 0x11).setWidth 32 + 1
  let m := s.rangesOf l ((ckptRanges h.desc).map rangeOf)
  { vld := false, ctx := c.ctxid, e, lcn := l, core := s.imageCore l h e, mem := m.1, fe := m.2, ni := s.ni l
    back := (backEntries h.desc).map fun b => ((rangeOf b.1).1, (rangeOf b.1).2, b.2) }

/-- The channels and numbers of an image's messages to a peer that are still open. -/
def Peat.openTo (p : Peat) (key : Nat) : List Nat :=
  (p.core.reqs.filter fun q => peerKey q.msg.dpanel q.msg.dest == key).map (fun q => q.msg.vc * 2 ^ 22 + q.msg.seq) ++
    (p.ni.posted.filter fun x => peerKey x.msg.dpanel x.msg.dest == key).map fun x => 2 * 2 ^ 22 + x.msg.seq

/-- The notices of a commit, to every peer in the core's sequence table (R392); their KIND is that of a checkpoint's messages (log 128). -/
def State.notices (s : State) (a l : Nat) (p : Peat) : State :=
  p.ni.seqs.foldl (fun s e =>
    s.post { dpanel := e.1 / 65536, dest := e.1 % 65536, spanel := s.panelId, src := a, vc := 3, kind := 0x1F, len := 16, ctx := p.ctx,
             body := .commit l e.2 (p.openTo e.1) }) s

/-- A step of a transfer at the partner. -/
def State.peatStep (s : State) (a : Nat) (m : Msg) (n l : Nat) : State :=
  let p := Fmap.get {} s.peats l
  if !s.peatWorks l then (if n = 2 then s.answer a m.reply { cause := 0x3D, info := 5 } else s)
  else if n = 0 then s.putHeader l { p with vld := false }
  else if n = 1 then
    match (s.core l).ckpt.chk with
    | some h =>
      let pa := s.peatPa l
      let inside (x : Nat) : Bool := pa ≤ x && x < pa + 131072
      let s := s.modMem fun x => { x with psn := x.psn.filter (fun y => !inside y), single := x.single.filter (fun y => !inside y)
                                          double := x.double.filter fun y => !inside y }
      { s with peats := Fmap.set s.peats l (s.peatOf l h) }
    | none => s
  else
    let p := { p with vld := true }
    ((s.putHeader l p).answer a m.reply { w := p.e.zeroExtend 64 }).notices a l p

/-- CHECKPOINT_TRANSFER (R391): the next step of a transfer at a partner. -/
def execCheckpointTransfer (core : Nat) (s : State) : Result :=
  .next (s.serve core (fun m => m.body matches .transfer _ _) fun s m =>
    match m.body with
    | .transfer n l => s.peatStep core m n l
    | _ => s)

/-! ## Commit notices and requests (R392) -/

/-- Whether a logged message stays in the log after a commit of its destination. -/
def Msg.keptAfter (m : Msg) (own lcn : Nat) (e : SeqEnt) (open_ : List Nat) : Bool :=
  m.dest != lcn || m.dpanel != own ||
    (if m.vc ≠ 1 then seqGap m.seq (e.want m) < 2 ^ 20
     else
       let vc := match m.body with
         | .resp v _ => v
         | _ => 2
       let next := if m.seq ≥ 2 ^ 21 then e.txs else if vc = 0 then e.tx0 else e.tx2
       seqGap m.seq next < 2 ^ 20 || open_.contains (m.seq + 2 ^ 22 * vc))

/-- COMMIT_NOTICE (R392): the entries that the destination has accepted are freed; the paths that waited for the log go on. -/
def execCommitNotice (core : Nat) (s : State) : Result :=
  .next (s.serve core (fun m => m.body matches .commit _ _ _) fun s m =>
    match m.body with
    | .commit l e open_ =>
      if core ≥ 8192 then s
      else
        (s.modCore core fun c =>
          let ps := c.ckpt.peers.filter (· != peerKey m.spanel l)
          { c with ckpt := { c.ckpt with slog := c.ckpt.slog.filter (fun x => x.keptAfter m.spanel l e open_)
                                         peers := ps, broken := c.ckpt.broken && !ps.isEmpty } }).pumpCore core
    | _ => s)

/-- Whether a worker thread of a core is parked at its send by a full log. -/
def State.logParked (s : State) (l : Nat) : Bool := (List.range 15).any fun k => s.logStalled l (s.slot l (Fin.ofNat 16 k))

/-- The request to the destination that holds the oldest entry of a full log; only a core checkpoints. -/
def State.askCheckpoint (s : State) (l : Nat) : State :=
  let s := s.modCore l fun c => { c with ckpt := { c.ckpt with ask := some (s.time + 65536) } }
  match (s.core l).ckpt.slog with
  | m :: _ =>
    if m.dest < 8192 then
      s.post { dpanel := m.dpanel, dest := m.dest, spanel := s.panelId, src := l, vc := 3, kind := 0x1F, len := 8, ctx := m.ctx, body := .checkpoint }
    else s
  | [] => s

/-- CHECKPOINT_REQUEST (R392): ev13 at the destination; else the first request of a core whose thread parks. -/
def execCheckpointRequest (core : Nat) (s : State) : Result :=
  .next (if (s.headOf core).any (fun m => m.body matches .checkpoint) then
      s.serve core (fun _ => true) fun s m =>
        if core ≥ 8192 || (s.core core).ctxid ≠ m.ctx then s else (List.range 15).foldl (fun s k => s.signal core k 0x2000) s
    else if core < 8192 && (s.core core).ckpt.ask.isNone && s.logParked core then s.askCheckpoint core else s)

/-- CHECKPOINT_REQUEST_REPEAT (R392): every 65,536 cycles while the thread stays parked. -/
def execCheckpointRequestRepeat (core : Nat) (s : State) : Result :=
  .next (if s.due (s.core core).ckpt.ask then
      (if s.logParked core then s.askCheckpoint core else s.modCore core fun c => { c with ckpt := { c.ckpt with ask := none } })
    else s)

end Sys2Proof.Machine
end

