-- ==== Sys2Proof/Machine/Fences.lean ====
section
/-! DEFINITION. Route changes and invalidations (R356, R357, R375, R377, R395, R396): die-to-die links, remap fences, RMAPSET,
TLBINV. -/

namespace Sys2Proof.Machine

/-! ## Die-to-die links (R356, R357, Table 13.9) -/

/-- The hop of a die's link: its router in the die and the router across the edge; none at the edge of the panel. -/
def linkHop (d k : Nat) : Option ((Nat × Nat) × (Nat × Nat)) :=
  let r := d / 16 * 4
  let c := d % 16 * 9
  if k < 9 then (if r = 0 then none else some ((r, c + k), (r - 1, c + k)))
  else if k < 13 then (if c + 8 = 143 then none else some ((r + k - 9, c + 8), (r + k - 9, c + 9)))
  else if k < 22 then (if r + 3 = 63 then none else some ((r + 3, c + k - 13), (r + 4, c + k - 13)))
  else if k < 26 then (if c = 0 then none else some ((r + k - 22, c), (r + k - 22, c - 1)))
  else none

/-- The other end of a link: its die and number there. -/
def linkPeer (d k : Nat) : Option (Nat × Nat) :=
  (linkHop d k).map fun h =>
    (dieAt h.2, linkNo (if k < 9 then 2 else if k < 13 then 3 else if k < 22 then 0 else 1) h.2)

def State.modLink (s : State) (d k : Nat) (f : Link → Link) : State :=
  s.modDie d fun x => { x with links := x.links.setIfInBounds k (f (x.links[k]?.getD {})) }

def State.linkOf (s : State) (d k : Nat) : Link := (s.die d).links[k]?.getD {}

/-- FLIT_REPLAY (R356): no effect but latency and the counts. -/
def execFlitReplay (die link : Nat) (s : State) : Result :=
  let x := s.linkOf die link
  let now := s.time
  .next (if x.down then s
    else s.modLink die link fun x =>
      let fresh := x.winAt + 65536 ≤ now
      { x with replays := min 0xFFFF (x.replays + 1), window := if fresh then 1 else x.window + 1, winAt := if fresh then now else x.winAt })

/-- LINK_RETRAIN (R357): after 16 replays within 65,536 cycles, or on loss of lock. -/
def execLinkRetrain (die link : Nat) (s : State) : Result :=
  let x := s.linkOf die link
  let now := s.time
  .next (if x.down || x.training.isSome then s
    else s.modLink die link fun x =>
      { x with retrains := min 0xFF (x.retrains + 1), training := some now, window := 0, winAt := now
               row := if x.row ≠ 0 && now < x.clean + 2 ^ 20 then x.row + 1 else 1 })

/-- LINK_RETRAIN_END (R357): the replay buffer is replayed in order; the traffic is clean from now on. -/
def execLinkRetrainEnd (die link : Nat) (s : State) : Result :=
  .next (if (s.linkOf die link).training.isSome then
      s.modLink die link fun x => { x with training := none, clean := s.time }
    else s)

/-- Whether the drawn route between two agents uses a hop. -/
def State.crossesHop (s : State) (h : (Nat × Nat) × (Nat × Nat)) (src dest : Nat) : Bool :=
  match s.pos src 0, s.pos dest 0 with
  | some p, some q => (hops (drawn p q)).any fun x => x == h || x == (h.2, h.1)
  | _, _ => false

/-- Every source sends again, over the new routes, what it sent over a hop and what is still open: requests that hold their
slots, posted writes without their credit (R357). Messages on the hop are lost. -/
def State.resendOver (s : State) (used : Nat → Nat → Bool) : State :=
  let own (m : Msg) : Bool := m.dpanel == s.panelId && m.spanel == s.panelId
  let s := { s with net := s.net.filter fun m => !(m.vc < 3 && own m && used m.src m.dest) }
  let again (m : Msg) : Bool := own m && (used m.src m.dest || used m.dest m.src)
  let s := s.cores.foldl (fun s c => c.2.reqs.foldl (fun s q =>
    if q.msg.vc = 0 && q.resend.isNone && again q.msg then s.inject q.msg else s) s) s
  s.nis.foldl (fun s n => n.2.posted.foldl (fun s p => if p.resend.isNone && again p.msg then s.inject p.msg else s) s) s

/-- LINK_DOWN (R357): after three retrains in a row; 0x35 to the PCTL, routes redrawn, messages sent again. -/
def execLinkDown (die link : Nat) (s : State) : Result :=
  .next (match linkHop die link with
    | none => s
    | some h =>
      if (s.linkOf die link).down || (s.linkOf die link).row < 3 then s
      else
        let t := s.modLink die link fun x => { x with down := true, training := none }
        let t := match linkPeer die link with
          | some p => t.modLink p.1 p.2 fun x => { x with down := true, training := none }
          | none => t
        let a := Config.srcDie die
        let t := t.sendPacket Config.srcPctl
          { priv := 2, ctx := 0, lcn := 0, eng := 7, deff := true, frz := false, slot := 0, cause := 0x35, pc := 0, apc := 0, faddr := 0,
            info := word link, gtb := s.gtb, src := peerKey s.panelId a, fcnt := 0, record := 0 }
        t.resendOver (s.crossesHop h))

/-! ## Agents -/

/-- Every agent with an NI: present cores, die agents, memory, host and optical bridges. -/
def State.allAgents (s : State) : List Nat :=
  (List.range 8192).filter s.present ++ (List.range Config.dies).map Config.srcDie ++ (List.range Config.memBridges).map Config.srcMem ++
    (List.range 4).map Config.srcHost ++ (List.range 12).map Config.srcOpt

/-! ## RMAPSET (R396) -/

/-- RMAPSET: a release, a request to the PCTL. -/
def State.rmapset (s : State) (i : Instr) (d s1 s2 : Fin 32) (op : Nat) : Result :=
  s.run i fun s => s.notOnMt i fun s =>
    match s.orderStop true with
    | some c => s.stopWith c
    | none => s.ask Config.srcPctl 0x23 16 (s.rx s1) (.rmapset op (s.rx s1) (s.rx s2)) (.valueWait d)

def execRmapsetRemap (gd : Guard) (d s1 s2 : Fin 32) (s : State) : Result := s.rmapset (.rmapsetRemap gd d s1 s2) d s1 s2 0
def execRmapsetMarkDead (gd : Guard) (d s1 s2 : Fin 32) (s : State) : Result := s.rmapset (.rmapsetMarkDead gd d s1 s2) d s1 s2 1
def execRmapsetClearDead (gd : Guard) (d s1 s2 : Fin 32) (s : State) : Result := s.rmapset (.rmapsetClearDead gd d s1 s2) d s1 s2 2

/-- Whether RMAPSET may map a logical core to a global column (R396). -/
def State.remapOk (s : State) (l col : Nat) : Bool :=
  (col == 255 || (col / 9 == lcnCol l / 8 && !s.dead.contains (physAt (lcnRow l) col))) &&
    (!s.present l || s.rmapOf l == 255 || (s.core l).health.iso)

/-- The routers of the live cores. -/
def State.liveAt (s : State) : List (Nat × Nat) :=
  (List.range 8192).filterMap fun l => if s.present l && s.rmapOf l ≠ 255 && !(s.core l).health.iso then some (lcnRow l, s.rmapOf l) else none

/-- Whether some pair of live cores has both of two routers on its drawn route, the first one first. -/
def bothOn (live : List (Nat × Nat)) (a b : Nat × Nat) : Bool :=
  let west (x y : Nat) : Bool := x ≤ y
  let inRow := a.1 == b.1 &&
    ((live.any fun p => p.1 == a.1 && west p.2 (min a.2 b.2)) && (live.any fun q => west (max a.2 b.2) q.2) ||
     (live.any fun p => p.1 == a.1 && west (max a.2 b.2) p.2) && (live.any fun q => west q.2 (min a.2 b.2)))
  let inCol := a.2 == b.2 &&
    ((live.any fun q => q.2 == a.2 && west q.1 (min a.1 b.1)) && (live.any fun p => west (max a.1 b.1) p.1) ||
     (live.any fun q => q.2 == a.2 && west (max a.1 b.1) q.1) && (live.any fun p => west p.1 (min a.1 b.1)))
  let bend (a b : Nat × Nat) : Bool :=
    (live.any fun p => p.1 == a.1 && (if b.2 ≤ a.2 then a.2 ≤ p.2 else p.2 ≤ a.2)) &&
      live.any fun q => q.2 == b.2 && (if b.1 ≤ a.1 then q.1 ≤ b.1 else b.1 ≤ q.1)
  inRow || inCol || bend a b || bend b a

/-- Whether a router can be marked dead without leaving a pair of live cores without route (R375, R396). -/
def State.mayDie (s : State) (p : Nat) : Bool :=
  let live := s.liveAt
  p < 9216 && !(live.contains (routerAt p)) && !crowded s.dead p &&
    s.dead.all fun d => d == p || !bothOn live (routerAt d) (routerAt p)

/-- A fence begun by the PCTL (R377). -/
def State.fence (s : State) (op : FenceOp) (set : List Nat) (r : Option Reply) : State :=
  let left := s.allAgents
  s.modPctl fun p => { p with fences := p.fences ++ [{ op, set, left, reply := r }] }

/-- One RMAPSET request at the PCTL. A dead mark concerns every logical core, since some source's row or column route to each
crosses the router. -/
def State.takeRmapset (s : State) (m : Msg) : State :=
  let a := Config.srcPctl
  let bad (r : Nat) : State := s.answer a m.reply { cause := 0x11, info := word r }
  let every := (List.range 8192).filter s.present
  match m.body with
  | .rmapset op x y =>
    let l := bits x 12 0
    let p := bits x 13 0
    let col := bits y 7 0
    if op = 0 then (if s.remapOk l col then s.fence (.remap l col) [l] (some m.reply) else bad 0x31)
    else if op = 1 then (if s.mayDie p then s.fence (.markDead p) every (some m.reply) else bad 0x32)
    else s.fence (.clearDead p) every (some m.reply)
  | _ => s

/-- The RMAPSET requests that have reached the PCTL; fences run one after the other. -/
def State.takeRmapsets (s : State) : State :=
  match (s.ni Config.srcPctl).inq.find? fun m => m.body matches .rmapset _ _ _ with
  | some m => if s.pctl.fences.isEmpty then (s.takeMsg Config.srcPctl m).takeRmapset m else s
  | none => s

/-! ## Remap fences (R377) -/

def FenceOp.isFabric : FenceOp → Bool
  | .fabric _ _ => true
  | _ => false

/-- Whether an agent has nothing open to a set of logical cores: every request has its response and every posted write its
credit; what an isolated core has NACKed is held. -/
def State.drained (s : State) (a : Nat) (set : List Nat) : Bool :=
  let mine (m : Msg) : Bool := m.dpanel == s.panelId && set.contains m.dest
  let open_ (m : Msg) (r : Option Nat) : Bool :=
    mine m && r.isNone && (!(s.core m.dest).health.iso || s.net.contains m)
  (a ≥ 8192 || (s.core a).reqs.all fun q => !(q.msg.vc == 0 && open_ q.msg q.resend)) &&
    (s.ni a).posted.all fun p => !open_ p.msg p.resend

/-- REMAP_FENCE_START (R377): the PCTL takes a request; an agent's NI stops injecting to the set and acknowledges once it has
drained. -/
def execRemapFenceStart (agent : Nat) (s : State) : Result :=
  let s := s.takeRmapsets
  .next (match s.pctl.fences with
    | f :: t =>
      if f.op.isFabric || !f.left.contains agent then s
      else
        let s := s.modNi agent fun n => { n with fenced := f.set }
        if s.drained agent f.set then s.modPctl fun p => { p with fences := { f with left := f.left.filter (· != agent) } :: t } else s
    | [] => s)

/-- The messages that an NI held, injected in their order. -/
def State.release (s : State) (a : Nat) (mine : Msg → Bool) : State :=
  let ms := (s.ni a).held.filter mine
  (ms.foldl (fun s m => s.inject m)) (s.modNi a fun n => { n with held := n.held.filter fun m => !mine m })

/-- What a fence changes at its end. -/
def State.applyFence (s : State) (op : FenceOp) : State :=
  match op with
  | .remap l col => { s with rmap := Fmap.set s.rmap l col }
  | .substitute l col => { s with rmap := Fmap.set s.rmap l col }
  | .markDead p => { s with dead := Marks.ins s.dead p }
  | .clearDead p => { s with dead := Marks.del s.dead p }
  | .fabric p mask => s.modFab fun f => { f with pmap := f.pmap.setIfInBounds p mask }

/-- REMAP_FENCE_END (R377): the routers are rewritten, the NIs go on, and RMAPSET returns the time. Messages whose route a dead
router carried are sent again (R394). -/
def execRemapFenceEnd (s : State) : Result :=
  .next (match s.pctl.fences with
    | f :: t =>
      if f.op.isFabric || !f.left.isEmpty then s
      else
        let old := s
        let s := s.applyFence f.op
        let s := s.modPctl fun p => { p with fences := t }
        let nis : Fmap Ni := (s.nis.map fun (n : Nat × Ni) => (n.1, { n.2 with fenced := [] })).filter fun n => n.2 != {}
        let s := { s with nis := nis }
        let s := match f.op with
          | .markDead p => s.resendOver fun a b =>
              match old.pos a 0, old.pos b 0 with
              | some x, some y => (drawn x y).contains (routerAt p)
              | _, _ => false
          | _ => s
        let s := (s.nis.map Prod.fst).foldl (fun s a => s.release a fun m => m.dpanel == s.panelId && f.set.contains m.dest) s
        match f.reply with
        | some r => s.answer Config.srcPctl r { w := s.gtb }
        | none => s
    | [] => s)

/-! ## TLBINV (R395) -/

/-- Whether an invalidation covers an entry. -/
def Inv.covers (v : Inv) (e : TlbEnt) : Bool :=
  if v.scope = 0 then (e.ctx == bits v.b 11 0 || Pte.sh e.pte) && e.covers (bits v.a 47 0 / 65536)
  else if v.scope = 1 then e.ctx == bits v.b 11 0
  else v.scope == 2

/-- TLBINV (R395): a release; the request goes to every core and die, and the thread parks until all have finished. -/
def execTlbinv (gd : Guard) (s1 s2 : Fin 32) (scope : Fin 4) (s : State) : Result :=
  s.run (.tlbinv gd s1 s2 scope) fun s => s.notOnMt (.tlbinv gd s1 s2 scope) fun s =>
    match s.orderStop true with
    | some c => s.stopWith c
    | none =>
      let l := s.cur.lcn
      let a := s.rx s1
      let b := s.rx s2
      let m := { s.reqMsg l s.panelId l 4 0x24 16 (.tlbinv a b scope.val) with seq := (s.ni l).nextId }
      let left := (List.range 8192).filter s.present ++ (List.range Config.dies).map Config.srcDie
      ((s.stopWith (.wait .response)).request l s.cur.slot.val s.here a l .wait m).modPctl fun p =>
        { p with invs := p.invs ++ [{ a, b, scope := scope.val, core := l, reply := m.reply, left }] }

/-- The numbers of the accesses of a core that are open. -/
def Core.openIds (c : Core) : List Nat :=
  ((c.slots.toList.flatMap fun t => t.outst.map Out.id) ++ c.reqs.map Req.id).eraseDups

/-- An agent begins an invalidation: its covered entries go, walks in progress start again, and the accesses that are open
are noted. -/
def State.invBegin (s : State) (a : Nat) (v : Inv) : State :=
  if a < 8192 then
    let again (x : Acc) : Acc := { x with st := match x.st with
      | .failed => .failed
      | .queued => .queued
      | .ready p pa => if v.scope = 3 then .ready p pa else (match x.op with
          | .handle _ | .stageGet | .stagePut _ | .group _ => .ready p pa
          | _ => .queued)
      | _ => .queued }
    (s.modCore a fun c => { c with tlb := c.tlb.filter (fun e => !v.covers e), slots := c.slots.map fun t => { t with path := t.path.map again } }).pumpCore a
  else
    let pg := v.a.toNat / 16384 * 16384
    s.modDie (a - Config.srcDie 0) fun d =>
      { d with l2 := d.l2.filter (fun e => !v.covers e), poison := if v.scope = 3 then d.poison.filter (· != pg) else d.poison }

/-- Whether the accesses and engine commands that an agent noted have ended. -/
def State.invEnded (s : State) (a : Nat) (n : List Nat × Nat) : Bool :=
  a ≥ 8192 || ((s.core a).openIds.all (fun i => !n.1.contains i) && (s.core a).doneBelow n.2)

/-- TLBINV_REQUEST (R395): an agent takes part in the oldest invalidation that it has not finished; the last one to finish
answers. -/
def execTlbinvRequest (agent : Nat) (s : State) : Result :=
  .next (match s.pctl.invs.find? fun v => v.left.contains agent with
    | none => s
    | some v =>
      let put (s : State) (w : Inv) : State :=
        s.modPctl fun p => { p with invs := p.invs.map fun x => if x.reply = v.reply then w else x }
      match v.pend.find? fun e => e.1 == agent with
      | none =>
        let ids := if agent < 8192 then ((s.core agent).openIds.filter fun i => !(agent == v.core && i == v.reply.seq), (s.core agent).cmdNo)
          else ([], 0)
        let s := s.invBegin agent v
        put s { v with pend := v.pend ++ [(agent, ids)] }
      | some e =>
        if !s.invEnded agent e.2 then s
        else
          let left := v.left.filter (· != agent)
          if left.isEmpty then
            (s.modPctl fun p => { p with invs := p.invs.filter fun x => x.reply != v.reply }).answer v.core v.reply {}
          else put s { v with left })

end Sys2Proof.Machine
end

