-- ==== Sys2Proof/Machine/Contain.lean ====
section
/-! DEFINITION. Containment of a logical core (R266, R331, R393, R394, Table 15.9) and the failures that the hardware finds: banks
(R120), die agents (R359), HBM stacks (R385), parity (R242). -/

namespace Sys2Proof.Machine

/-! ## Spares (R330, R331) -/

/-- The spare of a core's row: the good physical column that no LPT entry of the row names. A failed die has none (R359). -/
def State.spareOf (s : State) (l : Nat) : Option Nat :=
  let d := s.die (dieOf l)
  let r := lcnRow l % 4
  if d.failed then none
  else (List.range 9).find? fun p =>
    d.hmap.getLsbD (r * 9 + p) && (List.range 8).all fun i => (d.lpt[Fin.ofNat 32 (r * 8 + i)]).toNat != p

/-- The place of a member in its die's CMUMAP (R244). -/
def cmuIdx (l : Nat) : Fin 32 := Fin.ofNat 32 (clusterOf l % 4 * 8 + memberOf l)

/-- HMAP, LPT and CMUMAP with a failed core replaced by physical column `p`, 15 for none. -/
def State.replaceCore (s : State) (l p : Nat) : State :=
  let old := lcnRow l % 4 * 9 + s.pcol l
  s.modDie (dieOf l) fun d =>
    { d with hmap := d.hmap &&& ~~~(1#36 <<< old), lpt := d.lpt.set (lptIdx l) (BitVec.ofNat 4 p)
             cmumap := d.cmumap.set (cmuIdx l) (BitVec.ofNat 4 p) }

/-! ## Isolation (Table 15.9) -/

def State.modHealth (s : State) (l : Nat) (f : CoreHealth → CoreHealth) : State :=
  s.modCore l fun c => { c with health := f c.health }

/-- The report of a contained core: from the PCTL, naming the core (R393). -/
def State.packet36 (s : State) (l reason : Nat) : Packet :=
  { priv := 0, ctx := (s.core l).ctxid, lcn := l, eng := 7, deff := false, frz := false, slot := 0, cause := 0x36, pc := 0, apc := 0,
    faddr := 0, info := word reason, gtb := s.gtb, src := peerKey s.panelId Config.srcPctl, fcnt := 0, record := 0 }

/-- The report to the supervisor of the core's context, or to system software when the supervisor cannot take it. -/
def State.tellSupervisor (s : State) (l : Nat) : State :=
  let p := s.packet36 l 0
  let k := s.ctx p.ctx
  match k.lcnOf k.sup with
  | some d =>
    if s.present d && !(s.core d).mtStopped && !(s.core d).health.iso then s.sendPacket d p
    else s.modPctl fun x => { x with packets := x.packets ++ [p] }
  | none => s.modPctl fun x => { x with packets := x.packets ++ [p] }

/-- What a failed core takes with it: its queue at the matrix unit and its tiles (Table 9.5), its grant, its place in combining
windows, the images that its peat store held (R394). -/
def State.lose (s : State) (l : Nat) : State :=
  let cl := clusterOf l
  let s := s.clearMat l
  let s := s.modCluster cl fun n =>
    { n with grant := if n.grant = some (memberOf l) then none else n.grant
             wins := n.wins.map fun w => { w with mem := w.mem.filter (· != l) } }
  let s := s.releaseHolds cl
  { s with peats := s.peats.filter fun e => partnerOf e.1 != l }

/-- CONTAINMENT_TRIGGER (R393): a trigger on a live core isolates it; a trigger during a substitution is the failure of the
spare. The self-check of a core may fail at any time. -/
def execContainmentTrigger (core : Nat) (s : State) : Result :=
  .next (if !s.present core then s
    else match (s.core core).health.contain with
      | .live =>
        let s := s.modHealth core fun h => { h with contain := .isolated, iso := true, trigger := false, missed := 0 }
        (s.lose core).tellSupervisor core
      | .isolated | .held => s
      | _ => s.modHealth core fun h => { h with trigger := true })

/-! ## Hold (Table 15.9) -/

/-- The image from which a core can be restored: its context runs checkpointed with a whole chain. -/
def State.usable (s : State) (l : Nat) : Option Peat :=
  let c := s.core l
  if (s.ctx c.ctxid).ckpt && (s.ctx c.ctxid).st == .running && !c.ckpt.broken then s.image l else none

/-- Whether the spare of a core, or its partner, has failed. -/
def State.spareFails (s : State) (l : Nat) : Bool :=
  let p := s.core (partnerOf l)
  (s.core l).health.trigger || p.health.contain == .isolated || p.health.contain == .held || !s.present (partnerOf l)

/-- A core held: its context is pre-empted, with this core counted as acknowledged, and system software is told. -/
def State.holdCore (s : State) (l reason : Nat) : State :=
  let ctx := (s.core l).ctxid
  let p := s.packet36 l reason
  let s := s.modHealth l fun h => { h with contain := .held, iso := true, trigger := false }
  let s := if (s.ctx ctx).st = .running then s.stopCtx ctx none else s
  s.modPctl fun x => { x with packets := x.packets ++ [p] }

/-- CONTAINMENT_HOLD (Table 15.9): an isolated core without an image (reason 2) or without a spare (reason 1), which is absent from
now on (R331); a substitution whose spare or partner fails. -/
def execContainmentHold (core : Nat) (s : State) : Result :=
  .next (match (s.core core).health.contain with
    | .isolated =>
      if (s.usable core).isNone then s.holdCore core 2
      else if (s.spareOf core).isNone then
        let s := s.holdCore core 1
        let s := { s with rmap := Fmap.set s.rmap core 255 }
        s.replaceCore core 15
      else s
    | .substituting | .restoring | .replaying => if s.spareFails core then s.holdCore core 2 else s
    | _ => s)

/-! ## Substitution (R331, R377) -/

/-- SPARE_SUBSTITUTION (Table 15.9): HMAP, LPT and CMUMAP are rewritten, and a remap fence maps the core to the spare. -/
def execSpareSubstitution (core : Nat) (s : State) : Result :=
  .next (if (s.core core).health.contain ≠ .isolated || (s.usable core).isNone then s
    else match s.spareOf core with
      | none => s
      | some p =>
        let s := { s with rmap := Fmap.set s.rmap core (s.rmapOf core) }
        let s := s.replaceCore core p
        (s.modHealth core fun h => { h with contain := .substituting }).fence (.substitute core (lcnCol core / 8 * 9 + p)) [core] none)

/-! ## Restore (Table 15.9) -/

/-- Whether every router holds the new entry of a substituted core. -/
def State.substituted (s : State) (l : Nat) : Bool :=
  s.pctl.fences.all fun f => match f.op with
    | .substitute x _ => x != l
    | _ => true

/-- One backing entry refilled by the spare's copy engine: the bytes of HBM into the slice. What cannot be read is reported to the
supervisor and stays 0. -/
def State.refill (s : State) (l ctx : Nat) (b : Nat × Nat × Word) : State :=
  if b.2.1 = 0 then s
  else
    let r := s.tr l ctx b.2.2.toNat .r .record
    match r.2 with
    | .bad c i => r.1.agentPacket l ctx 4 (mkCause c i b.2.2)
    | .ok p pa =>
      if p ≠ s.panelId || spaceOf pa ≠ 2 then r.1.agentPacket l ctx 4 (mkCause 0x0F 1 b.2.2)
      else
        let q := r.1.readHbm pa b.2.1
        if q.2.1 ≠ 0 then q.1.agentPacket l ctx 4 (mkCause q.2.1 0 b.2.2)
        else q.1.modMem fun m => m.store (slicePa l b.1) q.2.2

/-- Whether a peer logs what it sends for a context, so that a replay repeats it. -/
def State.replays (s : State) (ctx key : Nat) : Bool := key / 65536 == s.panelId && s.logs (key % 65536) ctx

/-- The sequence table of a restored core: the image's, and what the core expected last of peers that keep no log; the numbers of requests
for work and of reads of lines go on, so that no answer of before meets them (log 142). -/
def State.seqsBack (s : State) (ctx : Nat) (img now : Fmap SeqEnt) : Fmap SeqEnt :=
  let merged : Fmap SeqEnt := img.map fun (e : Nat × SeqEnt) =>
    let n := Fmap.get e.2 now e.1
    if s.replays ctx e.1 then (e.1, { e.2 with txs := n.txs })
    else (e.1, { e.2 with rx0 := n.rx0, rx2 := n.rx2, rxs := n.rxs, txs := n.txs })
  merged ++ (now.filter fun e => !Fmap.has img e.1).map fun e =>
    (e.1, if s.replays ctx e.1 then { txs := e.2.txs } else { e.2 with tx0 := 0, tx2 := 0 })

/-- The image copied into the spare. -/
def State.restoreImage (s : State) (l : Nat) (p : Peat) : State :=
  let old := s.core l
  let ctx := p.ctx
  let corner (b : Bar) (k : Fin 4) : Bar :=
    match (s.ctx ctx).lcnOf (brRow0 b.brect * 256 + brCol0 b.brect) with
    | some z => if s.present z then s.bar z k else old.bars[k]
    | none => old.bars[k]
  let put (k : Fin 4) : Bar :=
    let b := p.core.bars[k]
    let z := corner b k
    b.restore ((s.ctx ctx).holdsRect b.brect) z.g z.rc
  let c := { p.core with sysr := old.mergeRegs p.core ctx ((s.ctx ctx).levelOf l), bars := Vector.ofFn put, lastW := 14
                         health := { contain := .restoring, iso := true } }
  let seqs := s.seqsBack ctx p.ni.seqs (s.ni l).seqs
  let s := (s.setCore l c).modNi l fun n =>
    { p.ni with seqs, fenced := n.fenced, fpanel := n.fpanel, held := [], nextId := max n.nextId p.ni.nextId }
  let s := s.putPages l (fun _ => true) p.mem p.fe []
  p.back.foldl (fun s b => s.refill l ctx b) s

/-- CONTAINMENT_RESTORE (Table 15.9): once every router holds the new entry. -/
def execContainmentRestore (core : Nat) (s : State) : Result :=
  .next (if (s.core core).health.contain ≠ .substituting || !s.substituted core || s.spareFails core then s
    else match s.image core with
      | some p => s.restoreImage core p
      | none => s.modHealth core fun h => { h with trigger := true })

/-! ## Replay (R394) -/

/-- The messages of an agent to a core that are open and stand in no log: they were refused under containment. -/
def State.unlogged (s : State) (a l : Nat) : List Msg :=
  let mine (m : Msg) : Bool := m.dest == l && m.dpanel == s.panelId && !s.logs m.src m.ctx && !s.net.contains m
  (if a < 8192 then (s.core a).reqs.filterMap fun q => if q.msg.vc = 0 && mine q.msg then some q.msg else none else []) ++
    (s.ni a).posted.filterMap fun p => if p.resend.isNone && mine p.msg then some p.msg else none

/-- One sender's replay: its log entries for the core, in order, then what it holds for the core unlogged. -/
def State.replayTo (s : State) (a l : Nat) : State :=
  let ms := ((s.core a).ckpt.slog.filter fun m => m.dest == l && m.dpanel == s.panelId) ++ s.unlogged a l
  ms.foldl (fun s m => s.inject m) s

/-- The open messages of a restored core sent again as they were (R380, R394). -/
def State.sendOpen (s : State) (l : Nat) : State :=
  let c := s.core l
  let s := (c.reqs.filter fun q => q.msg.vc == 0 && q.resend.isNone).foldl (fun s q => s.inject q.msg) s
  ((s.ni l).posted.filter fun p => p.resend.isNone).foldl (fun s p => s.inject p.msg) s

/-- CONTAINMENT_REPLAY (R394): image and refill are performed; the spare's message thread starts, and every sender replays. -/
def execContainmentReplay (core : Nat) (s : State) : Result :=
  .next (if (s.core core).health.contain ≠ .restoring || s.spareFails core then s
    else
      let s := s.modHealth core fun h => { h with contain := .replaying, iso := false }
      let as := sortNat ((s.cores.map Prod.fst ++ s.nis.map Prod.fst).eraseDups.filter (· != core))
      (as.foldl (fun s a => s.replayTo a core) s).sendOpen core)

/-- Whether the replay of every sender is done: what their logs hold for the core has been accepted. -/
def State.replayed (s : State) (l : Nat) : Bool :=
  s.cores.all fun e => e.2.ckpt.slog.all fun m =>
    m.dest != l || m.dpanel != s.panelId || m.vc == 1 ||
      let x := Fmap.get {} (s.ni l).seqs (peerKey s.panelId e.1)
      seqGap m.seq (x.want m) ≥ 2 ^ 20

/-- CONTAINMENT_LIVE (Table 15.9): the restored worker slots issue. -/
def execContainmentLive (core : Nat) (s : State) : Result :=
  .next (if (s.core core).health.contain = .replaying && s.replayed core && !s.spareFails core then
      (s.modHealth core fun h => { h with contain := .live }).pumpCore core
    else s)

/-! ## Failures that the hardware finds -/

/-- Whether a bank has returned uncorrectable results on 8 distinct sectors within 2^20 cycles (R120). -/
def Core.bankFails (c : Core) (bank : Nat) : Bool :=
  let mine := c.health.uncorr.filter fun u => u.1 * 64 / 65536 % 16 == bank
  mine.any fun t => 8 ≤ ((mine.filter fun u => t.2 ≤ u.2 && u.2 < t.2 + 2 ^ 20).map Prod.fst).eraseDups.length

/-- BANK_FAILED (R120). -/
def execBankFailed (core bank : Nat) (s : State) : Result :=
  let c := s.core core
  .next (if s.present core && bank < 16 && !c.health.badBanks.contains bank && c.bankFails bank then
      (s.modHealth core fun h => { h with badBanks := h.badBanks ++ [bank] }).report core Config.srcPctl 5 (mkCause 0x3A bank 0)
    else s)

/-- DIE_AGENT_FAILURE (R359): every core of the die is treated as failed; its cards wait for the next RESUME. -/
def execDieAgentFailure (die : Nat) (s : State) : Result :=
  .next (if die ≥ 256 || (s.die die).failed then s
    else
      let aside (c : Card) : Card := { c with target := none, asked := none, reread := none }
      let s := s.modDie die fun d =>
        { d with failed := true, cards := [], waitq := [], aside := d.aside ++ (d.cards ++ d.waitq).map aside }
      ((dieCores die).filter s.present).foldl (fun s l =>
        if (s.core l).health.contain = .held then s else s.modHealth l fun h => { h with trigger := true }) s)

/-- HBM_STACK_FAILURE (R385): a stack fails training, or loses channels. -/
def execHbmStackFailure (bridge : Nat) (channels : BitVec 32) (s : State) : Result :=
  .next (if bridge ≥ 24 then s
    else
      let a := Config.srcMem bridge
      (s.modBridge bridge fun m => { m with failed := m.failed ||| channels }).system a Config.srcPctl 0xFF 0 (.packet
        { priv := 2, ctx := 0, lcn := 0, eng := 7, deff := false, frz := false, slot := 0, cause := 0x34, pc := 0, apc := 0, faddr := 0,
          info := 0, gtb := s.gtb, src := peerKey s.panelId a, fcnt := 0, record := 0 }))

/-- CORE_LOGIC_CHECK (R242): parity finds a soft error; a deferred fault of the slot. -/
def execCoreLogicCheck (core slot : Nat) (s : State) : Result :=
  let k := Fin.ofNat 16 slot
  .next (if s.present core && !(s.core core).health.iso then s.deferFault core k 0 (s.slot core k).pc (mkCause 0x3C 0 0) else s)

/-! ## Neighbour links (R126) -/

/-- A message of the neighbour links taken off them. -/
def State.takeLink (s : State) (l : Nat) (p : Msg → Bool) (k : State → Msg → State) : State :=
  match s.net.find? fun m => m.vc == 5 && m.dest == l && p m with
  | some m => k (s.unsend m) m
  | none => s

/-- NEIGHBOUR_LINK_WORD (R126): the next word enters the inbound FIFO of its side. -/
def execNeighbourLinkWord (core : Nat) (s : State) : Result :=
  .next (s.takeLink core (fun m => m.body matches .linkWord _ _) fun s m =>
    match m.body with
    | .linkWord d w =>
      s.modCore core fun c => { c with links := { c.links with fifo := c.links.fifo.set d (c.links.fifo[d] ++ [{ w }]) } }
    | _ => s)

/-- NEIGHBOUR_LINK_CREDIT (R126): a credit returns, and results that waited for room are pushed. -/
def execNeighbourLinkCredit (core : Nat) (s : State) : Result :=
  .next (s.takeLink core (fun m => m.body matches .linkCredit _) fun s m =>
    match m.body with
    | .linkCredit d =>
      (s.modCore core fun c => { c with links := { c.links with credit := c.links.credit.set d (c.links.credit[d] + 1) } }).flush core
    | _ => s)

end Sys2Proof.Machine
end

