-- ==== Sys2Proof/Machine/Fabric.lean ====
section
/-! DEFINITION. The fabric (R409-R417): Welkin ports, the panel map, ingress, the time master, FREMAP. -/

namespace Sys2Proof.Machine

/-! ## Ports (R409, R416) -/

def State.port? (s : State) (k : Nat) : Port := s.fab.ports[k]?.getD {}

def State.modPort (s : State) (k : Nat) (f : Port → Port) : State :=
  s.modFab fun x => { x with ports := x.ports.setIfInBounds k (f (x.ports[k]?.getD {})) }

/-- WELKIN_FLIT_REPLAY (R409): no effect but latency and the count. -/
def execWelkinFlitReplay (port : Nat) (s : State) : Result :=
  .next (if (s.port? port).down then s else s.modPort port fun p => { p with replays := min 0xFFFF (p.replays + 1) })

/-- WELKIN_PORT_RETRAIN (R357, R416): after repeated replays, or on loss of lock. -/
def execWelkinPortRetrain (port : Nat) (s : State) : Result :=
  let x := s.port? port
  let now := s.time
  .next (if x.down || x.training.isSome then s
    else s.modPort port fun p => { p with training := some now, row := if p.row ≠ 0 && now < p.clean + 2 ^ 20 then p.row + 1 else 1 })

/-- WELKIN_RETRAIN_END (R416): the replay buffer is replayed in order. -/
def execWelkinRetrainEnd (port : Nat) (s : State) : Result :=
  .next (if (s.port? port).training.isSome then s.modPort port fun p => { p with training := none, clean := s.time } else s)

/-- A report of an optical bridge to the PCTL: cause 0x37 with its reason. -/
def State.bridgeReport (s : State) (b reason : Nat) : State :=
  let a := Config.srcOpt b
  s.system a Config.srcPctl 0xFF 0 (.packet
    { priv := 2, ctx := 0, lcn := 0, eng := 7, deff := true, frz := false, slot := 0, cause := 0x37, pc := 0, apc := 0, faddr := 0,
      info := word reason, gtb := s.gtb, src := peerKey s.panelId a, fcnt := 0, record := 0 })

/-- Messages in the queue of a port refused with a retry indication: their sources hold them. Answers are lost. -/
def State.unqueue (s : State) (k : Nat) (mine : Msg → Bool) : State :=
  let ms := (s.port? k).q.filter mine
  let s := s.modPort k fun p => { p with q := p.q.filter fun m => !mine m }
  s.modFab fun f => { f with held := f.held ++ (ms.filter fun m => m.vc != 1).map fun m => ⟨m.src, m, s.time⟩ }

/-- WELKIN_PORT_DOWN (R416): after three retrains in a row. -/
def execWelkinPortDown (port : Nat) (s : State) : Result :=
  let x := s.port? port
  .next (if port ≥ 48 || x.down || x.row < 3 then s
    else ((s.modPort port fun p => { p with down := true, training := none }).unqueue port fun _ => true).bridgeReport (port / 4) 5)

/-- A message of this panel that cannot be delivered: its master faults, deferred. -/
def State.failMsg (s : State) (m : Msg) (c i : Nat) : State :=
  if m.vc = 2 then
    match s.copyOf m.src m.dpanel m.dest m.seq with
    | some p =>
      let s := s.dropPosted m.src p
      if m.src < 8192 && p.slot < 16 then s.deferFault m.src (Fin.ofNat 16 p.slot) 5 m.sender.2 (mkCause c i 0)
      else s.agentPacket m.src m.ctx 7 (mkCause c i 0)
    | none => s
  else
    s.send { dpanel := s.panelId, dest := m.src, spanel := m.dpanel, src := m.dest, vc := 1, kind := 0, seq := m.seq, ctx := m.ctx,
             body := .resp m.vc { cause := c, info := word i } }

/-- FABRIC_HOLD_TIMEOUT (R416): the k-th message that an agent holds, after 2^24 cycles. -/
def execFabricHoldTimeout (agent k : Nat) (s : State) : Result :=
  .next (match (s.fab.held.filter fun h => h.src == agent)[k]? with
    | some h =>
      if s.time < h.at_ + 2 ^ 24 then s
      else (s.modFab fun f => { f with held := f.held.erase h }).failMsg h.msg 0x37 6
    | none => s)

/-! ## Ingress (R412) -/

/-- The channel of a message: its entry of the channel table. -/
def State.channelOf (s : State) (m : Msg) : Option ChanEnt :=
  (s.fab.chans.find? fun e => e.1 < 1024 && e.2.v && e.2.spanel == m.spanel && e.2.sctx == m.ctx).map Prod.snd

/-- A refusal of a far panel's message: the master takes 0x37 with a reason. -/
def State.refuseFar (s : State) (m : Msg) (reason : Nat) : State :=
  let w := word (m.sender.2.toNat * 32 + m.sender.1 % 32)
  let r : Msg := { dpanel := m.spanel, dest := m.src, spanel := s.panelId, src := m.dest, vc := 1, kind := 0, seq := m.seq, ctx := m.ctx,
                   body := .resp m.vc { cause := 0x37, info := word reason, w } }
  let s := if m.vc = 2 then s.inject { r with body := .credit } else s
  s.inject r

/-- The core that a message of a far panel is for: a collective's names it by its packed CCN. -/
def State.farDest (s : State) (m : Msg) (lctx : Nat) : Nat :=
  match m.body with
  | .groupPart _ | .groupDown _ => ((s.ctx lctx).lcnOf m.dest).getD m.dest
  | _ => m.dest

/-- INGRESS_LOOKUP (R412): the k-th message that can be taken at an optical bridge. -/
def execIngressLookup (bridge k : Nat) (s : State) : Result :=
  let a := Config.srcOpt bridge
  .next (match (firsts (fun m => (m.spanel, m.src, m.vc)) [] (s.ni a).inq)[k]? with
    | none => s
    | some m =>
      let s := s.takeMsg a m
      match s.channelOf m with
      | some e => if e.frz then s.refuseFar m 3 else s.send { m with ctx := e.lctx, dest := s.farDest m e.lctx, via := some bridge }
      | none => s.refuseFar m 2)

/-! ## Time (R414) -/

/-- Whether an offset is within 64 ticks. -/
def isLocked (o : Int) : Bool := o.natAbs ≤ 64

/-- The port that leads nearest to the time master: the fewest hops, the lowest neighbour; none on the time master itself. -/
def Fabric.reference (f : Fabric) : Option Nat :=
  let ps := (List.range 48).filter fun k => f.ports[k]?.any fun p => !p.down && p.peer.isSome
  let key (k : Nat) : Nat := match f.ports[k]? with
    | some p => p.hops * 64 + p.peer.getD 0
    | none => 0
  let best := ps.foldl (fun (b : Option Nat) k => match b with
    | some x => if key k < key x then some k else some x
    | none => some k) none
  match best with
  | some k => if f.ports[k]?.any fun p => p.hops == 0 then none else some k
  | none => none

/-- TIME_EXCHANGE (R414): the neighbour behind a port, the hops from this panel to the time master by it (0: this panel is the
time master), the neighbour's GTB at its departure and the one-way delay. -/
def execTimeExchange (port panel hops : Nat) (their delay : Word) (s : State) : Result :=
  let x := s.port? port
  .next (if port ≥ 48 || x.down || x.training.isSome then s
    else
      let s := s.modPort port fun p => { p with peer := some panel, hops }
      let r := s.fab.reference
      s.modFab fun f =>
        if r = some port then
          let o : Int := (their + delay - s.gtb).toInt
          { f with refPort := r, offset := o, locked := isLocked o }
        else if r.isNone then { f with refPort := none, offset := 0, locked := true }
        else { f with refPort := r })

/-- GTB_SLEW (R414): one tick added, or held, toward the reference: in each interval of 1,024 cycles within 64 ticks, of 16 cycles
beyond. -/
def execGtbSlew (s : State) : Result :=
  let f := s.fab
  let now := s.time
  .next (if f.refPort.isNone || f.offset = 0 || now < f.slewAt then s
    else
      let o := if f.offset > 0 then f.offset - 1 else f.offset + 1
      let s := s.modFab fun x =>
        { x with offset := o, locked := isLocked o, slewAt := now + (if isLocked f.offset then 1024 else 16)
                 skip := if f.offset > 0 then x.skip else x.skip + 1 }
      if f.offset > 0 then { s with time := s.time + 1 } else s)

/-! ## FREMAP (R417) -/

/-- FREMAP: a release, a request to the PCTL. -/
def execFremap (gd : Guard) (d s1 s2 : Fin 32) (s : State) : Result :=
  s.run (.fremap gd d s1 s2) fun s => s.notOnMt (.fremap gd d s1 s2) fun s =>
    let p := s.rx s1
    let m := s.rx s2
    if p.toNat ≥ 64 || p.toNat = s.panelId then s.takeFault (bad11 0x33 p)
    else if m.toNat ≥ 2 ^ 48 then s.takeFault (bad11 0x33 m)
    else match s.orderStop true with
      | some c => s.stopWith c
      | none => s.ask Config.srcPctl 0x28 16 p (.fremap p.toNat (m.setWidth 48)) (.valueWait d)

/-- The next FREMAP request at the PCTL, when no fence is in progress. -/
def State.takeFremap (s : State) : State :=
  let a := Config.srcPctl
  match (s.ni a).inq.find? fun m => m.body matches .fremap _ _ with
  | some m =>
    if !s.pctl.fences.isEmpty then s
    else match m.body with
      | .fremap p mask => (s.takeMsg a m).fence (.fabric p mask) [p] (some m.reply)
      | _ => s
  | none => s

/-- Whether an agent has nothing open to a panel: what was NACKed with a retry indication is held. -/
def State.drainedFar (s : State) (a p : Nat) : Bool :=
  let quiet (m : Msg) (r : Option Nat) : Bool := m.dpanel != p || r.isSome || s.fab.held.any fun h => h.msg == m
  (a ≥ 8192 || (s.core a).reqs.all fun q => q.msg.vc != 0 || quiet q.msg q.resend) && (s.ni a).posted.all fun x => quiet x.msg x.resend

/-- FABRIC_FENCE_START (R417, steps 1 to 3): the PCTL takes a request; an NI stops its traffic to the panel and acknowledges once it
has drained; a bridge NACKs what stands in its queues. -/
def execFabricFenceStart (agent : Nat) (s : State) : Result :=
  let s := s.takeFremap
  .next (match s.pctl.fences with
    | f :: t =>
      match f.op with
      | .fabric p _ =>
        if !f.left.contains agent then s
        else
          let b := agent - Config.srcOpt 0
          let s := if agent < Config.srcOpt 0 then s
            else (List.range 4).foldl (fun s j => s.unqueue (4 * b + j) fun m => m.dpanel == p && m.vc != 1) s
          let s := s.modNi agent fun n => { n with fpanel := some p }
          if s.drainedFar agent p then s.modPctl fun x => { x with fences := { f with left := f.left.filter (· != agent) } :: t } else s
      | _ => s
    | [] => s)

/-- FABRIC_FENCE_END (R417, steps 4 and 5): the map is written; NACKed messages go first, then those held; with an empty mask they
stay held. -/
def execFabricFenceEnd (s : State) : Result :=
  .next (match s.pctl.fences with
    | f :: t =>
      match f.op with
      | .fabric p mask =>
        if !f.left.isEmpty then s
        else
          let s := (s.applyFence f.op).modPctl fun x => { x with fences := t }
          let nis : Fmap Ni := s.nis.map fun (n : Nat × Ni) => (n.1, { n.2 with fpanel := none })
          let s := { s with nis := nis }
          let s :=
            if mask = 0 then s
            else
              let hs := s.fab.held.filter fun h => h.msg.dpanel == p
              hs.foldl (fun s h => s.toPort h.msg) (s.modFab fun x => { x with held := x.held.filter fun h => h.msg.dpanel != p })
          let s := (s.nis.map Prod.fst).foldl (fun s a =>
            if mask = 0 then
              let ms := (s.ni a).held.filter fun m => m.dpanel == p
              (s.modNi a fun n => { n with held := n.held.filter fun m => m.dpanel != p }).modFab fun x =>
                { x with held := x.held ++ ms.map fun m => ⟨a, m, s.time⟩ }
            else s.release a fun m => m.dpanel == p) s
          match f.reply with
          | some r => s.answer Config.srcPctl r { w := s.gtb }
          | none => s
      | _ => s
    | [] => s)

end Sys2Proof.Machine
end

