-- ==== Sys2Proof/Machine/Host.lean ====
section
/-! DEFINITION. The host bridges (R424-R430): queue pairs and keys, RDMA WRITE, READ and SEND, frames, failures. -/

namespace Sys2Proof.Machine

/-! ## Queue pairs (R425, Table 17.5) -/

def State.qp (s : State) (qpn : Nat) : Qp := Fmap.get {} s.fab.qps (qpn - 0x10)

def State.modQp (s : State) (qpn : Nat) (f : Qp → Qp) : State :=
  s.modFab fun x => { x with qps := Fmap.set x.qps (qpn - 0x10) (f (s.qp qpn)) }

/-- The bridge that serves a queue pair. -/
def Qp.bridge (q : Qp) : Nat := q.port / 2

/-- The die at whose corner a host bridge attaches (Table 15.1). -/
def hostDie (b : Nat) : Nat := nth 0 [0, 15, 240, 255] b

/-- The queue pair to which a request of the host comes: a valid one whose port and bridge work. One operation at a time: the
packets of a queue pair apply in order (R427). -/
def State.hostQp (s : State) (qpn : Nat) : Option Qp :=
  let q := s.qp qpn
  if qpn < 0x10 || qpn > 0x100F || !q.v || q.pmtu > 2 || !(s.fab.eth[q.port]?.getD false) || (s.fab.hostBad[q.bridge]?.getD true) ||
      s.fab.hostOps.any (fun o => o.qpn == qpn) then none
  else some q

def State.hostSays (s : State) (a : HostAnswer) : State := s.modFab fun f => { f with answers := f.answers ++ [a] }

/-- A remote access error (R426): the answer, the queue pair frozen, the packet to the supervisor. -/
def State.hostFreeze (s : State) (qpn reason va : Nat) : State :=
  let q := s.qp qpn
  ((s.modQp qpn fun q => { q with frz := true }).hostSays (.nakAccess qpn)).agentPacket (Config.srcHost q.bridge) q.ctx 7
    (mkCause 0x39 (reason + qpn * 256) (word va))

/-! ## Accesses (R426) -/

/-- The reason of fault 0x39 for the cause of a refused access (Table 17.7). -/
def hostReason (cause : Nat) : Nat :=
  if cause = 0x0D || cause = 0x0E then 4 else if cause = 0x30 || cause = 0x31 || cause = 0x33 then 5 else 3

/-- An address translated through a context's tables, with the checks of its page; a KIND 3 page fails. -/
def State.hostTr (s : State) (b ctx va : Nat) (perm : Perm) : State × Tr :=
  let r := s.walk (hostDie b) ctx va
  match r.2 with
  | .inr (c, i) => (r.1, .bad c i)
  | .inl e => (r.1, e.check perm .vec va s.panelId)

/-- The bytes of a transfer by the words that they lie in. -/
def hostParts (va n : Nat) : List (Nat × Nat) :=
  (wordsIn va n).map fun w => (max va w, min (va + n) (w + 8) - max va w)

/-- An access of a host bridge at a home of this panel (R121, R122). -/
def State.hostAccess (s : State) (pa : Nat) (op : MemOp) (ctx : Nat) : State × Resp :=
  match (if spaceOf pa = 3 then s.window pa op.bytes.1 ctx 0 op.bytes.2 else .inl pa) with
  | .inr why => (s, { cause := 0x0E, info := word why })
  | .inl a =>
    if spaceOf a = 1 then
      let q := s.applySlice (homeOf a) a op 16 ctx 0 none ⟨s.panelId, Config.srcPctl, 0, 0, ctx, none⟩
      (q.1, q.2.getD {})
    else s.applyHbm a op

/-- Whether a core is stopped for the pre-emption of a context (R13, R352). -/
def Core.stoppedFor (c : Core) (ctx : Nat) : Bool := c.diverted && c.ctxid == ctx

/-- Whether an access must wait: its home is held back, stopped for a pre-emption of the context, or under a matrix gather; or writes
that the home has accepted come before it. -/
def State.hostBlocked (s : State) (pa n ctx : Nat) (write : Bool) : Bool :=
  if spaceOf pa = 2 then s.landing (homeOf pa) pa n
  else
    let c := s.core (homeOf pa)
    c.health.iso || c.stoppedFor ctx || match (if spaceOf pa = 3 then s.window pa n ctx 0 write else .inl pa) with
      | .inl a => write && s.gathered (homeOf a) a n || s.landing (homeOf a) a n
      | .inr _ => false

/-- A transfer under way: what it has gathered, what another panel has not answered, the place and the reason of its failure. -/
structure HostRun where
  s    : State
  i    : Nat := 0
  got  : List (List Byte) := []
  wait : List (Nat × Msg) := []
  bad  : Option (Nat × Nat) := none
  deriving DecidableEq, Repr

/-- One part of a transfer. -/
def HostRun.one (q : Qp) (data : Option (List Byte)) (z : HostRun) (p : Nat × Nat) : HostRun :=
  if z.bad.isSome then z
  else
    let t := z.s.hostTr q.bridge q.ctx p.1 (if data.isSome then .w else .r)
    let op : MemOp := match data with
      | some bs => .store ((bs.drop z.got.flatten.length).take p.2)
      | none => .load p.2
    match t.2 with
    | .bad c _ => { z with s := t.1, bad := some (hostReason c, p.1) }
    | .ok panel pa =>
      if panel ≠ z.s.panelId then
        let m : Msg := { dpanel := panel, dest := homeOf pa, spanel := z.s.panelId, src := Config.srcHost q.bridge, vc := 0,
                         kind := op.kind, len := p.2, ctx := q.ctx, body := .mem pa op 16 0 }
        { z with s := t.1.post m, i := z.i + 1, got := z.got ++ [List.replicate p.2 0], wait := z.wait ++ [(z.i, t.1.numbered m)] }
      else if spaceOf pa != 2 && !t.1.present (homeOf pa) then { z with s := t.1, bad := some (3, p.1) }
      else
        let r := t.1.hostAccess pa op q.ctx
        if r.2.cause ≠ 0 then { z with s := r.1, bad := some (hostReason r.2.cause, p.1) }
        else
          let d := match op with
            | .store d => d
            | _ => r.2.data
          { z with s := r.1, i := z.i + 1, got := z.got ++ [d] }

/-- The end of a transfer: the answer to the host. -/
def State.hostEnd (s : State) (qpn : Nat) (write : Bool) (got : List (List Byte)) : State :=
  s.hostSays (if write then .ack qpn else .data qpn got.flatten)

/-- A transfer of a host with its checks (R426). -/
def State.hostTransfer (s : State) (qpn : Nat) (rkey : BitVec 32) (va n : Nat) (data : Option (List Byte)) : State :=
  match s.hostQp qpn with
  | none => s
  | some q =>
    let k := Fmap.get {} s.fab.keys (rkey.toNat % 8192)
    if q.frz then s.hostSays (.nakAccess qpn)
    else if !k.v || k.ktag.toNat ≠ rkey.toNat / 8192 || k.ctx ≠ q.ctx then s.hostFreeze qpn 1 va
    else if va < k.base || k.base + k.len < va + n || va + n > 2 ^ 48 || !(if data.isSome then k.w else k.r) then s.hostFreeze qpn 2 va
    else
      let stopped := (s.ctx q.ctx).st == .saved || (s.ctx q.ctx).st == .stopping
      let blocked := (hostParts va n).any fun p => match (s.hostTr q.bridge q.ctx p.1 (if data.isSome then .w else .r)).2 with
        | .ok panel pa => panel == s.panelId && s.hostBlocked pa p.2 q.ctx data.isSome
        | .bad _ _ => false
      if stopped || blocked then s
      else
        let z := (hostParts va n).foldl (HostRun.one q data) { s }
        match z.bad with
        | some (r, a) => z.s.hostFreeze qpn r a
        | none =>
          if z.wait.isEmpty then z.s.hostEnd qpn data.isSome z.got
          else z.s.modFab fun f => { f with hostOps := f.hostOps ++ [{ qpn, va, write := data.isSome, got := z.got, wait := z.wait }] }

/-- RDMA_WRITE (R426, R427). -/
def execRdmaWrite (qpn : Nat) (rkey : BitVec 32) (va : Word) (data : List Byte) (s : State) : Result :=
  .next (s.hostTransfer qpn rkey va.toNat data.length (some data))

/-- RDMA_READ (R426, R427): every earlier WRITE of the queue pair is performed. -/
def execRdmaRead (qpn : Nat) (rkey : BitVec 32) (va : Word) (len : Nat) (s : State) : Result :=
  .next (s.hostTransfer qpn rkey va.toNat len none)

/-- An answer of another panel to a host bridge. -/
def State.hostAnswered (s : State) (m : Msg) (r : Resp) : State :=
  let same (w : Nat × Msg) : Bool := w.2.seq == m.seq && w.2.dest == m.src && w.2.dpanel == m.spanel
  match s.fab.hostOps.find? fun o => o.wait.any same with
  | none => s.unsend m
  | some o =>
    match o.wait.find? same with
    | none => s.unsend m
    | some w =>
      let s := s.unsend m
      let drop (s : State) : State := s.modFab fun f => { f with hostOps := f.hostOps.filter fun x => x.qpn != o.qpn }
      if r.retry then (if r.cause ≠ 0 then s else s.inject w.2)
      else if r.cause ≠ 0 then (drop s).hostFreeze o.qpn (hostReason r.cause) (if w.1 = 0 then o.va else (o.va / 8 + w.1) * 8)
      else
        let o' : HostOp := { o with got := o.got.set w.1 (if o.write then [] else r.data), wait := o.wait.erase w }
        if o'.wait.isEmpty then (drop s).hostEnd o.qpn o.write o'.got
        else s.modFab fun f => { f with hostOps := f.hostOps.map fun x => if x.qpn = o.qpn then o' else x }

/-! ## SEND (R428) -/

/-- The descriptor of the ring that a queue pair names, or the reason with which the access fails. -/
def State.qpRing (s : State) (q : Qp) : State × (Nat ⊕ Nat) :=
  let t := s.hostTr q.bridge q.ctx q.ring.toNat .rw
  match t.2 with
  | .bad _ _ => (t.1, .inr 3)
  | .ok panel pa =>
    if panel ≠ s.panelId || spaceOf pa ≠ 1 || !s.present (homeOf pa) || pa % 64 ≠ 0 then (t.1, .inr 3)
    else
      let r := t.1.readOwned pa 64 q.ctx 0
      if r.2.1 ≠ 0 then (r.1, .inr (hostReason r.2.1)) else if !r.1.ringValid pa then (r.1, .inr 3) else (r.1, .inl pa)

/-- The words of a ring that a queue pair pushed. -/
def State.hostHeld (s : State) (qpn d : Nat) : Nat :=
  ((Fmap.get [] (s.core (sliceLcn d)).links.rings d).filter fun p => p.2.1 == 16 && p.2.2 == qpn).length

/-- The reservation of 32 slots made, if it is not and the ring can take it. -/
def State.reserveQp (s : State) (qpn : Nat) : State :=
  let q := s.qp qpn
  if !q.v || q.ring = 0 || q.rsv ≠ 0 then s
  else
    let r := s.qpRing q
    match r.2 with
    | .inl d => if r.1.ringFits d 32 then (r.1.ringSet d 0x20 (word (r.1.ringResv d + 32))).modQp qpn fun q => { q with rsv := 32 } else r.1
    | .inr _ => r.1

/-- The reservation of a queue pair given back. -/
def State.unreserveQp (s : State) (qpn : Nat) : State :=
  let q := s.qp qpn
  if q.rsv = 0 then s
  else
    let r := s.qpRing q
    let s := r.1.modQp qpn fun q => { q with rsv := 0 }
    match r.2 with
    | .inl d =>
      let n := q.rsv - s.hostHeld qpn d
      let clear (p : Nat × Nat × Nat) : Nat × Nat × Nat := if p.2.1 = 16 && p.2.2 = qpn then (p.1, 16, 0) else p
      let s := s.modCore (sliceLcn d) fun c =>
        { c with links := { c.links with rings := Fmap.set c.links.rings d ((Fmap.get [] c.links.rings d).map clear) } }
      s.ringReturnAt (sliceLcn d) d n
    | .inr _ => s

/-- System software writes an entry of the queue-pair table. -/
def State.writeQp (s : State) (i : Nat) (e : Qp) : State :=
  let old := s.qp (i + 0x10)
  if old.v && e.v && old.ring = e.ring && old.ctx = e.ctx then (s.modQp (i + 0x10) fun q => { e with rsv := q.rsv }).reserveQp (i + 0x10)
  else ((s.unreserveQp (i + 0x10)).modQp (i + 0x10) fun _ => { e with rsv := 0 }).reserveQp (i + 0x10)

/-- RDMA_SEND (R428). -/
def execRdmaSend (qpn : Nat) (data : List Byte) (s : State) : Result :=
  let n := data.length
  .next (match s.hostQp qpn with
    | none => s
    | some q =>
      if q.frz then s.hostSays (.nakAccess qpn)
      else if n < 8 || n > 248 || n % 8 ≠ 0 || q.ring = 0 then s.hostSays (.nakInvalid qpn)
      else
        let r := s.qpRing q
        match r.2 with
        | .inr why => r.1.hostFreeze qpn why q.ring.toNat
        | .inl d =>
          let c := r.1.core (sliceLcn d)
          if (s.ctx q.ctx).st == .saved || (s.ctx q.ctx).st == .stopping || c.health.iso || c.stoppedFor q.ctx then s
          else
            let s := r.1.reserveQp qpn
            if (s.qp qpn).rsv < s.hostHeld qpn d + 1 + n / 8 then s.hostSays (.rnr qpn)
            else
              let len := word (n + q.dqpn * 2 ^ 16)
              let ws := s.ringWords d (s.ringTail d) (1 + n / 8)
              let z := s.ringCheck d q.ctx 0 true ws
              if s.ringGathered d ws then s
              else if z.2 ≠ 0 then z.1.hostFreeze qpn (hostReason z.2) q.ring.toNat
              else (z.1.ringPut d (peerKey s.panelId (Config.srcHost q.bridge), 16, qpn) false (len :: wordsOf (n / 8) data)).hostSays (.ack qpn))

/-- RDMA_UNSUPPORTED (R425): the queue pair is not frozen by it. -/
def execRdmaUnsupported (qpn : Nat) (s : State) : Result :=
  .next (match s.hostQp qpn with
    | none => s
    | some q => s.hostSays (if q.frz then .nakAccess qpn else .nakInvalid qpn))

/-! ## Frames and failures (R424, R425, R430) -/

/-- Whether frames of a port reach its bridge. -/
def State.ethLive (s : State) (port : Nat) : Bool :=
  (s.fab.eth[port]?.getD false) && !(s.fab.hostBad[port / 2]?.getD true)

/-- FRAME_DROP (R424). -/
def execFrameDrop (port : Nat) (s : State) : Result :=
  .next (if s.ethLive port then s.modFab fun f => { f with dropped := f.dropped + 1 } else s)

/-- MANAGEMENT_FRAME (R425): it reaches the PCTL. -/
def execManagementFrame (data : List Byte) (s : State) : Result := .next (s.modFab fun f => { f with mgmt := f.mgmt ++ [data] })

/-- ETHERNET_LINK_LOSS (R430). -/
def execEthernetLinkLoss (port : Nat) (s : State) : Result :=
  .next (s.modFab fun f => { f with eth := f.eth.setIfInBounds port false })

/-- The queue pairs that a bridge serves. -/
def State.qpsOf (s : State) (b : Nat) : List Nat :=
  (s.fab.qps.filter fun e => e.2.v && e.2.bridge == b && e.1 < 4096).map fun e => e.1 + 0x10

/-- HOST_BRIDGE_FAILURE (R430): its ports stop; its queue pairs are frozen and reported. -/
def execHostBridgeFailure (bridge : Nat) (s : State) : Result :=
  .next (if bridge ≥ 4 || s.fab.hostBad[bridge]?.getD true then s
    else
      let qs := s.qpsOf bridge
      let s := s.modFab fun f => { f with hostBad := f.hostBad.setIfInBounds bridge true, hostOps := f.hostOps.filter fun o => !qs.contains o.qpn }
      qs.foldl (fun s n =>
        (s.modQp n fun q => { q with frz := true }).agentPacket (Config.srcHost bridge) (s.qp n).ctx 7 (mkCause 0x39 (6 + n * 256) 0)) s)

end Sys2Proof.Machine
end

