-- ==== Sys2Proof/Machine/Groups.lean ====
section
/-! DEFINITION. Groups and collectives (R418-R423): the group record at its anchor, joins and leaves, the fixed tree. -/

namespace Sys2Proof.Machine

/-! ## The group record (Tables 17.2 and 17.3) -/

/-- The bytes of a group record. -/
def recordSize : Nat := 2112

/-- A group record as read. -/
structure GroupRec where
  gen  : Nat
  nm   : Nat
  coll : Nat
  nst  : Nat
  mems : List Word
  deriving DecidableEq, Repr

def memV (w : Word) : Bool := bit w 63
def memJn (w : Word) : Bool := bit w 62
def memLv (w : Word) : Bool := bit w 61
def memWd (w : Word) : Bool := bit w 60

/-- The member that a word names: panel, context and CCN, as panel * 2^28 + context * 2^16 + CCN. -/
def memWho (w : Word) : Nat := bits w 55 38 * 2 ^ 16 + bits w 15 0

/-- Whether a used member word has its zero fields. -/
def memForm (w : Word) : Bool := memV w && bits w 59 56 == 0 && bits w 37 28 == 0 && bits w 19 16 == 0

/-- A record's words as a record; none when it is invalid (R418). -/
def groupRec (ws : List Word) : Option GroupRec :=
  let w0 := nth 0 ws 0
  let w1 := nth 0 ws 1
  let r : GroupRec := { gen := bits w0 31 0, nm := bits w0 40 32, coll := bits w1 63 32, nst := bits w1 8 0, mems := (ws.drop 8).take 256 }
  if bits w0 63 41 != 0 || r.nm > 256 || bits w1 31 9 != 0 || ((ws.drop 2).take 6).any (· != 0) ||
      !(r.mems.take r.nm).all (fun w => memForm w && !memJn w) || (r.mems.drop r.nm).any (fun w => memV w && !memJn w) then none
  else some r

/-- The words of a record. -/
def GroupRec.words (r : GroupRec) : List Word :=
  [word (r.nm * 2 ^ 32 + r.gen), word (r.coll * 2 ^ 32 + r.nst), 0, 0, 0, 0, 0, 0] ++ (r.mems ++ List.replicate 256 0).take 256

/-- A member word put in order of its member. -/
def insMem (w : Word) : List Word → List Word
  | [] => [w]
  | x :: t => if memWho w ≤ memWho x then w :: x :: t else x :: insMem w t

/-- A collective boundary (R419); `ends` says that it ends a collective. -/
def GroupRec.boundary (r : GroupRec) (ends : Bool) : GroupRec :=
  let ms := ((r.mems.filter fun w => memV w && !memLv w).map fun w => setBits w 62 62 0).foldr insMem []
  { gen := if r.nst = 0 then r.gen else (r.gen + 1) % 2 ^ 32, nm := ms.length, coll := if ends then (r.coll + 1) % 2 ^ 32 else r.coll
    nst := 0, mems := ms }

/-- The current members' words. -/
def GroupRec.table (r : GroupRec) : List Word := r.mems.take r.nm

/-- A record at its anchor: read with its checks, or the refusal. -/
def State.readGroup (s : State) (pa ctx lvl : Nat) : State × (GroupRec ⊕ Resp) :=
  if pa % 65536 + recordSize > 65536 then (s, .inr { cause := 0x2F, info := 8 })
  else
    let q := s.readOwned pa recordSize ctx lvl
    if q.2.1 ≠ 0 then (q.1, .inr { cause := q.2.1 })
    else match groupRec (wordsOf 264 q.2.2) with
      | some r => (q.1, .inl r)
      | none => (q.1, .inr { cause := 0x2F, info := 8 })

def State.writeGroup (s : State) (pa : Nat) (r : GroupRec) : State := (s.writeAt pa (bytesOf r.words) none).1

/-! ## The anchor (R421) -/

/-- A join staged: the record, or the reason of fault 0x38. -/
def GroupRec.join (r : GroupRec) (who : Nat) (area : Word) : GroupRec ⊕ Nat :=
  if r.mems.any fun w => memV w && memWho w == who then .inr 1
  else match r.mems.findIdx? fun w => !memV w with
    | none => .inr 2
    | some i =>
      let w := word (3 * 2 ^ 62 + who / 2 ^ 16 * 2 ^ 38 + bits area 19 12 * 2 ^ 20 + who % 2 ^ 16)
      .inl { r with mems := r.mems.set i w, nst := r.nst + 1 }

/-- A leave staged, with the member's index. -/
def GroupRec.leave (r : GroupRec) (who : Nat) : (GroupRec × Nat) ⊕ Nat :=
  match r.table.findIdx? fun w => memWho w == who with
  | none => .inr 3
  | some i =>
    let w := nth 0 r.mems i
    if memLv w then .inr 4 else .inl ({ r with mems := r.mems.set i (setBits w 61 60 3), nst := r.nst + 1 }, i)

def bad38 (r : Nat) : Resp := { cause := 0x38, info := word r }

/-- A member's request for a collective: its index and the table; none while its join is staged. -/
def GroupRec.admission (r : GroupRec) (who : Nat) : Option Resp :=
  match r.table.findIdx? fun w => memWho w == who with
  | some i => some (if memWd (nth 0 r.mems i) then bad38 3 else { w := word i, data := bytesOf r.table })
  | none => if r.mems.any fun w => memV w && memJn w && memWho w == who then none else some (bad38 3)

/-- The requests of joining members that a boundary has admitted. -/
def State.admitN (s : State) (l pa : Nat) (r : GroupRec) : List Waiter → State
  | [] => s
  | w :: t =>
    match w.kind with
    | .group m =>
      match m.body with
      | .group _ (.coll who) =>
        match (if w.at_ = pa then r.admission (m.spanel * 2 ^ 28 + who) else none) with
        | some x => State.admitN ((s.modCore l fun c => { c with waits := c.waits.erase w }).answer l m.reply x) l pa r t
        | none => State.admitN s l pa r t
      | _ => State.admitN s l pa r t
    | _ => State.admitN s l pa r t

/-- A request to a group at its anchor. -/
def State.groupAt (s : State) (l : Nat) (m : Msg) (pa : Nat) (op : GroupOp) : State :=
  let q := s.readGroup pa m.ctx m.level
  let s := q.1
  match q.2 with
  | .inr e => s.answer l m.reply e
  | .inl r =>
    match op with
    | .join who area =>
      match r.join (m.spanel * 2 ^ 28 + who) area with
      | .inr e => s.answer l m.reply (bad38 e)
      | .inl r' =>
        let r' := if r.nm = 0 then r'.boundary false else r'
        let s := (s.writeGroup pa r').answer l m.reply { w := word ((r.gen + 1) % 2 ^ 32) }
        s.admitN l pa r' (s.core l).waits
    | .leave who =>
      match r.leave (m.spanel * 2 ^ 28 + who) with
      | .inr e => s.answer l m.reply (bad38 e)
      | .inl (r', i) => (s.writeGroup pa r').answer l m.reply { w := word i, data := bytesOf r.table }
    | .coll who =>
      match r.admission (m.spanel * 2 ^ 28 + who) with
      | some x => s.answer l m.reply x
      | none =>
        let z := s.wait l ⟨pa, .group m⟩
        if z.2 then z.1 else z.1.answer l m.reply { cause := 0x13 }

/-- GROUP_MEMBERSHIP_REQUEST (R421): the next request at an anchor. -/
def execGroupMembershipRequest (core : Nat) (s : State) : Result :=
  .next (s.handle core (fun m => m.body matches .group _ _) fun s m =>
    match m.body with
    | .group pa op => s.groupAt core m pa op
    | _ => s)

/-! ## Issue (R420) -/

/-- The group that an instruction names, or the fault. -/
def State.groupName (s : State) (va : Word) : State × (Nat × Nat ⊕ Cause) :=
  if va.toNat % 64 ≠ 0 then (s, .inr (mkCause 0x2F 8 va))
  else
    let r := s.trNow va .rw .sync
    match r.2 with
    | .inl p => (r.1, .inl p)
    | .inr c => (r.1, .inr (if c.cause = 0x0A then c else mkCause 0x2F 8 va))

/-- A place in one number. -/
def groupKey (panel pa : Nat) : Nat := panel * 2 ^ 48 + pa

/-- The group that a message to an anchor names. -/
def Msg.groupKey? (m : Msg) : Option Nat :=
  match m.body with
  | .group pa _ => some (groupKey m.dpanel pa)
  | _ => none

/-- Whether a group instruction on a group is under way on a core. -/
def Core.groupBusy (c : Core) (key : Nat) : Bool :=
  c.colls.any (fun k => k.key == key && k.slot < 16) || c.reqs.any (fun q => q.msg.groupKey? == some key) ||
    c.slots.any fun t => t.path.any fun a => match a.op, a.st with
      | .group _, .ready p pa => groupKey p pa == key
      | _, _ => false

/-- The context and CCN of the executing core. -/
def State.groupWho (s : State) : Nat := s.me.ctxid * 2 ^ 16 + s.ccn s.cur.lcn

/-- A group instruction: its name, the wait for another one on the group; then the request to the anchor, and `k`. -/
def State.groupIssue (s : State) (i : Instr) (s1 : Fin 32) (release : Bool) (op : State → GroupOp) (cont : Cont) (stop : State → Option Cause)
    (k : State → Nat → State) : Result :=
  s.run i fun s => s.notOnMt i fun s =>
    let va := s.rx s1
    let r := s.groupName va
    let s := r.1
    match r.2 with
    | .inr c => s.takeFault c
    | .inl (p, pa) =>
      match stop s with
      | some c => s.takeFault c
      | none =>
        if s.me.groupBusy (groupKey p pa) then s.stopWith (.retry .group)
        else match s.orderStop release with
          | some c => s.stopWith c
          | none =>
            (k (s.stopWith (.wait .group)) (groupKey p pa)).enqueue
              { va, bytes := 8, perm := .rw, op := .group (op s), apc := s.here, st := .ready p pa, cont }

/-- GRPJOIN (R421). -/
def execGrpjoin (gd : Guard) (d s1 s2 : Fin 32) (s : State) : Result :=
  s.groupIssue (.grpjoin gd d s1 s2) s1 false (fun s => .join s.groupWho (s.rx s2)) (.group (some d))
    (fun s =>
      let a := s.rx s2
      if bits a 63 20 ≠ 0 || a.toNat % 4096 ≠ 0 || !s.me.regionOk a.toNat 4096 then some (mkCause 0x2F 9 a) else none)
    fun s _ => s

/-- GRPLEAVE (R421). -/
def execGrpleave (gd : Guard) (s1 : Fin 32) (s : State) : Result :=
  s.groupIssue (.grpleave gd s1) s1 false (fun s => .leave s.groupWho) (.group none) (fun _ => none) fun s _ => s

/-- A collective of the executing thread. -/
def State.collIssue (s : State) (i : Instr) (s1 : Fin 32) (op : State → CollOp) (d : Option (Fin 16)) (stop : State → Option Cause)
    (tag : State → Tag) (vals : State → List (Option Nat)) : Result :=
  s.groupIssue i s1 true (fun s => .coll s.groupWho) (.collective d) stop fun s key =>
    s.modMe fun c => { c with colls := c.colls ++ [{ key, slot := s.cur.slot.val, op := op s, d, tag := tag s, vals := vals s }] }

/-- The tag of a contribution: valid, with a format, unscaled (R422). -/
def contribStop (s : State) (r : Fin 16) : Option Cause :=
  let t := s.thr.regs.vtag[r]
  match tagReason s.me.bs t true with
  | some n => some (bad22 n 2)
  | none => if Tag.scm t ≠ 0 then some (bad23 3 2) else none

def Red3.collOp (op : Red3) (t : Tag) : CollOp := .red op (t &&& 0x0FFF)

/-- GRPRED (R422). -/
def execGrpred (gd : Guard) (op : Red3) (d : Fin 16) (s1 : Fin 32) (s2 : Fin 16) (s : State) : Result :=
  let tag (s : State) : Tag := s.thr.regs.vtag[s2]
  s.collIssue (.grpred gd op d s1 s2) s1 (fun s => Red3.collOp op (tag s)) (some d) (fun s => contribStop s s2) tag fun s =>
    (lanesOf s.thr.regs.v[s2] (Tag.width (tag s))).map some

/-- GRPBC (R422): what S2 holds is used on the root alone. -/
def execGrpbc (gd : Guard) (d : Fin 16) (s1 : Fin 32) (s2 : Fin 16) (root : BitVec 8) (s : State) : Result :=
  s.collIssue (.grpbc gd d s1 s2 root) s1 (fun _ => .bc root.toNat) (some d) (fun _ => none) (fun s => s.thr.regs.vtag[s2]) fun s =>
    [some s.thr.regs.v[s2].toNat]

/-- GRPBAR (R422). -/
def execGrpbar (gd : Guard) (s1 : Fin 32) (s : State) : Result :=
  s.collIssue (.grpbar gd s1) s1 (fun _ => .bar) none (fun _ => none) (fun _ => 0) fun _ => []

/-! ## The tree (R422) -/

/-- One lane of a combination: a code, or an empty element. -/
def combLane (op : Red3) (t : Tag) (a b : Option Nat) : Option Nat × Counts :=
  let v (c : Nat) : Val := decodeElem t c
  match op with
  | .sum =>
    let z (c : Option Nat) : Val × Nat := match c with
      | some c => (v c, c)
      | none => (.fin false 0 1, 0)
    let q := VEnv.sumStep t .rne (fun _ => 0) 0 (z a) (z b)
    (some q.1.2, q.2)
  | op =>
    let node (c : Option Nat) (i : Nat) : Option VEnv.Node := c.map fun c => (v c, c, i)
    ((VEnv.pick (op == .max) (node a 0) (node b 1)).map fun n => n.2.1, {})

/-- The lanes of two partial results combined; the shorter list's missing lanes are the identity. -/
def combLanes (op : Red3) (t : Tag) (n : Nat) (a b : List (Option Nat)) : List (Option Nat) × Counts :=
  (List.range n).foldl (fun acc i =>
    let r := combLane op t (nth none a i) (nth none b i)
    (acc.1 ++ [r.1], acc.2.add r.2)) ([], {})

/-- A child's partial result combined into the one of its parent's subtree so far, with the events counted. -/
def GPart.comb (a b : GPart) : GPart × Counts :=
  if a.wd && b.wd then (a, {})
  else
    let lead := if a.wd then b else a
    let agree := a.wd || b.wd || a.op == b.op
    let r : GPart := { a with op := lead.op, tag := lead.tag, wd := false, ok := a.ok && b.ok && agree }
    if !agree then ({ r with vals := a.vals }, {})
    else match lead.op with
      | .red op _ =>
        let q := combLanes op lead.tag (Tag.lanes lead.tag) a.vals b.vals
        ({ r with vals := q.1 }, q.2)
      | .bc _ => ({ r with vals := if a.vals.isEmpty then b.vals else a.vals, tag := if a.vals.isEmpty then b.tag else a.tag }, {})
      | .bar => ({ r with vals := [] }, {})

/-- What a member contributes: a relay nothing, a broadcast only at the root. -/
def Coll.own (k : Coll) (i : Nat) : GPart :=
  { key := k.key, tab := k.tab, from_ := i, to_ := (i - 1) / 2, op := k.op, wd := k.slot == 16, tag := k.tag
    ok := match k.op with
      | .bc r => r < k.tab.length || k.slot == 16
      | _ => true
    vals := match k.op with
      | .bc r => if r = i then k.vals else []
      | _ => k.vals }

/-- The children of an index. -/
def childrenOf (i n : Nat) : List Nat := [2 * i + 1, 2 * i + 2].filter (· < n)

/-- The empty lanes of a result, and its NaNs, as R182 gives them. -/
def finalLanes (op : CollOp) (t : Tag) (vs : List (Option Nat)) : List (Option Nat) :=
  match op with
  | .red .sum _ => vs
  | .red o _ => vs.map fun c => match c with
    | none => some (VEnv.emptyCode t (o == .max))
    | some c => some (if (decodeElem t c).isNan then (Tag.fmt t).nanCode else c)
  | _ => vs

/-- A message of a collective to the member with a word of the table: by its core, on another panel by its CCN. -/
def State.toMember (s : State) (l ctx : Nat) (w : Word) (b : Body) : State :=
  let p := bits w 55 50
  if p = s.panelId then
    match (s.ctx (bits w 49 38)).lcnOf (bits w 15 0) with
    | some d => s.posted l 16 d 0x06 (bits w 49 38) 72 b
    | none => s
  else
    s.postedWrite 16 (homeKey p 0)
      { dpanel := p, spanel := s.panelId, dest := bits w 15 0, src := l, vc := 2, kind := 0x06, len := 72, ctx, body := b }

/-- Events of a combination, at the thread or at a withdrawn member's core. -/
def State.collCount (s : State) (l : Nat) (k : Coll) (n : Counts) : State :=
  if k.slot < 16 then s.threshold (s.countSlot l (Fin.ofNat 16 k.slot) n) l (Fin.ofNat 16 k.slot) 5 (s.slot l (Fin.ofNat 16 k.slot)).iss.b
  else s.countCtx l n

def State.modColl (s : State) (l : Nat) (k : Coll) (f : Coll → Coll) : State :=
  s.modCore l fun c => { c with colls := c.colls.map fun x => if x.key = k.key && x.slot = k.slot then f x else x }

def State.dropColl (s : State) (l : Nat) (k : Coll) : State :=
  s.modCore l fun c => { c with colls := c.colls.filter fun x => !(x.key == k.key && x.slot == k.slot) }

/-- The result of the whole tree as the root reports it. A broadcast whose root has withdrawn delivers a free value, of the membership and the
root alone: R422 puts the results of collectives inside R14. -/
def GPart.result (g : GPart) : GPart :=
  match g.op with
  | .bc r =>
    if g.vals.isEmpty then
      { g with vals := [some (Config.freeVec g.tab r 0).toNat], tag := (Config.freeVec g.tab r 1).setWidth 16 }
    else g
  | _ => { g with vals := finalLanes g.op g.tag g.vals }

/-- A collective that has its index and the partial results of its children: it combines and sends on, the root to the anchor. -/
def State.collStep (s : State) (l : Nat) (k : Coll) : State :=
  match k.idx with
  | none => s
  | some i =>
    let ch := childrenOf i k.tab.length
    let mine (p : GPart) : Bool := p.key == k.key && p.to_ == i && ch.contains p.from_
    let ps := (s.core l).gparts.filter mine
    if k.sent || ps.length < ch.length then s
    else
      let q := ch.foldl (fun (acc : GPart × Counts) n =>
        match ps.find? fun p => p.from_ == n with
        | some p =>
          let r := acc.1.comb p
          (r.1, acc.2.add r.2)
        | none => acc) (k.own i, {})
      let s := s.modCore l fun c => { c with gparts := c.gparts.filter fun p => !mine p }
      let s := (s.modColl l k fun x => { x with sent := true }).collCount l k q.2
      let ctx := (s.core l).ctxid
      if i = 0 then
        let p := k.key / 2 ^ 48
        let pa := k.key % 2 ^ 48
        s.postedWrite 16 (homeKey p pa)
          { dpanel := p, spanel := s.panelId, dest := homeOf pa, src := l, vc := 2, kind := 0x06, len := 72, ctx, body := .groupReport pa q.1.result }
      else s.toMember l ctx (nth 0 k.tab ((i - 1) / 2)) (.groupPart q.1)

/-- The group engine of a core takes up what it can of a group. -/
def State.groupGo (s : State) (l key : Nat) : State :=
  match (s.core l).colls.find? fun k => k.key == key && k.idx.isSome && !k.sent with
  | some k => s.collStep l k
  | none => s

/-- A partial result enters the group area of its receiver. -/
def State.takePart (s : State) (l : Nat) (p : GPart) : State :=
  (s.modCore l fun c => { c with gparts := c.gparts ++ [p] }).groupGo l p.key

/-- GROUP_PARTIAL_ARRIVAL (R422). -/
def execGroupPartialArrival (core : Nat) (s : State) : Result :=
  .next (s.handle core (fun m => m.body matches .groupPart _) fun s m =>
    match m.body with
    | .groupPart p => s.takePart core p
    | _ => s)

/-! ## The boundary and the release (R419, R422, R423) -/

/-- The root's report at the anchor: the boundary is closed, and the result goes to index 0. -/
def State.closeBoundary (s : State) (l : Nat) (m : Msg) (pa : Nat) (p : GPart) : State :=
  let q := s.readGroup pa m.ctx 2
  match q.2 with
  | .inr _ => q.1.toMember l m.ctx (nth 0 p.tab 0) (.groupDown { p with to_ := 0 })
  | .inl r =>
    let r' := r.boundary true
    let s := (q.1.writeGroup pa r').toMember l m.ctx (nth 0 p.tab 0) (.groupDown { p with to_ := 0 })
    s.admitN l pa r' (s.core l).waits

/-- COLLECTIVE_BOUNDARY (R419). -/
def execCollectiveBoundary (core : Nat) (s : State) : Result :=
  .next (s.handle core (fun m => m.body matches .groupReport _ _) fun s m =>
    match m.body with
    | .groupReport pa p => s.closeBoundary core m pa p
    | _ => s)

/-- The result at one member: v[D] bound-checked under the member's own tag, a broadcast's under the root's; a disagreement is a
precise fault. -/
def State.collEnd (s : State) (l : Nat) (k : Coll) (p : GPart) : State :=
  let n := Fin.ofNat 16 k.slot
  let s := s.dropColl l k
  if k.slot ≥ 16 then s
  else if !p.ok then s.takeFaultAt l n (mkCause 0x38 5 0)
  else match k.d with
    | none => s.completed l n
    | some d =>
      let apc := (s.slot l n).iss.b
      let bc : Bool := k.op matches .bc _
      let t := if bc then p.tag else k.tag
      let w := Tag.width t
      let codes := if bc then lanesOf (BitVec.ofNat 512 ((nth none p.vals 0).getD 0)) w else p.vals.map fun c => c.getD 0
      let r : List Nat × Counts × Option Nat :=
        if Tag.bs t ≠ 0 && !((s.core l).bs[Tag.bs t]?.getD {}).ok then (codes, {}, none)
        else boundAll (s.core l).bs t (codes.map fun c => (c, none))
      let s := s.collCount l k r.2.1
      match r.2.2 with
      | some i => (s.completed l n).deferFault l n 5 apc (mkCause 0x25 i 0)
      | none => (s.modSlot l n fun x => x.setV d (vecOf w r.1) t).completed l n

/-- The release at one member: it passes down, and the member's collective ends. -/
def State.takeDown (s : State) (l ctx : Nat) (p : GPart) : State :=
  match (s.core l).colls.find? fun k => k.key == p.key && k.sent with
  | none => s
  | some k =>
    let s := (childrenOf p.to_ k.tab.length).foldl (fun s n => s.toMember l ctx (nth 0 k.tab n) (.groupDown { p with to_ := n })) s
    s.collEnd l k p

/-- COLLECTIVE_RELEASE (R422). -/
def execCollectiveRelease (core : Nat) (s : State) : Result :=
  .next (s.handle core (fun m => m.body matches .groupDown _) fun s m =>
    match m.body with
    | .groupDown p => s.takeDown core m.ctx p
    | _ => s)

/-! ## Answers of the anchor -/

/-- A group instruction refused: its own causes are precise. -/
def State.groupRefused (s : State) (l : Nat) (q : Req) (r : Resp) : State :=
  if r.cause = 0x2F || r.cause = 0x38 then s.refusedHere l q r else s.refusedWait l q r

/-- The answer to a GRPJOIN or a GRPLEAVE; a core that has withdrawn relays until the next boundary. -/
def State.onGroup (s : State) (l : Nat) (q : Req) (r : Resp) (d : Option (Fin 32)) : State :=
  if r.cause ≠ 0 then s.groupRefused l q r
  else match d with
    | some d => s.completedX l q.k d r.w
    | none =>
      let key := (q.msg.groupKey?).getD 0
      let k : Coll := { key, slot := 16, op := .bar, d := none, tag := 0, vals := [], tab := wordsOf 256 r.data, idx := some r.w.toNat }
      let k := { k with tab := k.tab.take (r.data.length / 8) }
      ((s.modCore l fun c => { c with colls := c.colls ++ [k] }).completed l q.k).groupGo l key

/-- The answer to a collective's request: the table and the member's index. -/
def State.onCollective (s : State) (l : Nat) (q : Req) (r : Resp) : State :=
  let key := (q.msg.groupKey?).getD 0
  match (s.core l).colls.find? fun k => k.key == key && k.slot == q.slot with
  | none => s
  | some k =>
    if r.cause ≠ 0 then (s.dropColl l k).groupRefused l q r
    else
      let tab := (wordsOf 256 r.data).take (r.data.length / 8)
      (s.modColl l k fun x => { x with tab, idx := some r.w.toNat }).groupGo l key

end Sys2Proof.Machine
end

