-- ==== Sys2Proof/Machine/Power.lean ====
section
/-! DEFINITION. Resets, self-test, attestation, power and cooling (R118, R330, R374, R397, R398, Table 15.10). -/

namespace Sys2Proof.Machine

/-! ## Self-test (R330, R397) -/

/-- The harvest map of die `d` when the physical cores `bad` have failed the self-test. -/
def hmapOf (bad : List Nat) (d : Nat) : BitVec 36 :=
  BitVec.ofNat 36 (ofFields ((List.range 36).map fun i => !bad.contains (d * 36 + i)))
where
  /-- Bits, the lowest first, as a number. -/
  ofFields : List Bool → Nat
    | [] => 0
    | b :: t => (if b then 1 else 0) + 2 * ofFields t

/-- The LPT that a die builds from its harvest map (R330). -/
def lptOf (h : BitVec 36) : Vector (BitVec 4) 32 :=
  Vector.ofFn fun i =>
    let good := (List.range 9).filter fun p => h.getLsbD (i.val / 8 * 9 + p)
    BitVec.ofNat 4 (nth 15 good (i.val % 8))

/-- CMUMAP as the LPT gives it (R244). -/
def cmumapOf (l : Vector (BitVec 4) 32) : Vector (BitVec 4) 32 :=
  Vector.ofFn fun i =>
    let q := i.val / 8
    let m := i.val % 8
    l[Fin.ofNat 32 ((q / 2 * 2 + m / 4) * 8 + q % 2 * 4 + m % 4)]

/-- A die after its self-test. -/
def dieAfter (bad : List Nat) (d : Nat) : Die :=
  let h := hmapOf bad d
  { hmap := h, lpt := lptOf h, cmumap := cmumapOf (lptOf h) }

/-- The cluster of a physical core, by its row and column. -/
def clusterAt (p : Nat) : Nat := p / 36 * 4 + p % 36 / 9 / 2 * 2 + min 1 (p % 9 / 4)

/-- The clusters whose cores and matrix unit all passed. -/
def passed (cores cmus : List Nat) : List Nat :=
  (List.range Config.clusters).filter fun n => !cmus.contains n && !(cores.any fun p => clusterAt p == n)

/-- The attestation report of a panel as it stands (Table 15.10). -/
def State.attest (s : State) (pass : List Nat) : Report :=
  { gtb := s.gtb, locked := s.fab.locked, flags := s.pctl.flags, pass
    dies := (List.range Config.dies).flatMap fun d => [(s.die d).hmap.zeroExtend 64, (s.die d).lptWord false, (s.die d).lptWord true]
    links := (List.range Config.dies).map fun d => hmapOf.ofFields ((s.die d).links.toList.map Link.down)
    stackChans := (List.range Config.memBridges).map fun b =>
      let m := s.bridge b
      word (1 + (if m.failed = 0 then 0 else 2) + m.failed.toNat % 256 * 256 + m.poison.length * 2 ^ 32) }

/-! ## Resets (R397) -/

/-- The panel after a self-test. `bad` names what failed it: physical cores, then Causeway relays from 9,216 on, then matrix units
from 18,432 on. HBM keeps its contents on request. Reports of failed cores go to the PCTL. -/
def State.selfTest (s : State) (bad : List Nat) (keep : Bool) : State :=
  let cores := bad.filter (· < 9216)
  let relays := (bad.filter fun n => 9216 ≤ n && n < 18432).map (· - 9216)
  let cmus := (bad.filter fun n => 18432 ≤ n && n < 19456).map (· - 18432)
  let hbm (a : Nat) : Bool := keep && spaceOf a == 2
  let dies := sortNat ((cores.map (· / 36)).eraseDups)
  let clusters : Fmap Cluster := cmus.map fun n => (n, { mabs := true, cmboff := true })
  let report (p : Nat) : Packet :=
    { priv := 2, ctx := 0, lcn := 0, eng := 7, deff := false, frz := false, slot := 0, cause := 0x3E, pc := 0, apc := 0, faddr := 0,
      info := word p, gtb := 0, src := peerKey s.panelId Config.srcPctl, fcnt := 0, record := 0 }
  let mem : Mem :=
    { bytes := s.mem.bytes.filter (fun x => hbm x.1), single := s.mem.single.filter hbm, double := s.mem.double.filter hbm }
  let t : State :=
    { panelId := s.panelId, mem, dies := dies.map (fun d => (d, dieAfter cores d)), clusters, rlyf := sortNat relays.eraseDups
      agenda := s.agenda, turn := s.turn, freeCtr := s.freeCtr
      pctl := { packets := cores.map report, flags := s.pctl.flags } }
  t.modPctl fun p => { p with report := some (t.attest (passed cores cmus)), flags := [] }

/-- POWER_ON_RESET (R397): the contents of HBM are not kept. -/
def execPowerOnReset (bad : List Nat) (s : State) : Result := .next (s.selfTest bad false)

/-- WARM_RESET (R397): every step but the verification of the firmware. -/
def execWarmReset (bad : List Nat) (s : State) : Result := .next (s.selfTest bad true)

/-! ## Power and cooling (R398) -/

/-- Cycles of the 1.5 GHz clock in 100 ms and in 10 s. -/
def holdAfter : Nat := 150000000
def resumeAfter : Nat := 15000000000

/-- An event for the next attestation report. -/
def State.flag (s : State) : State := s.modPctl fun p => { p with flags := p.flags ++ [(s.time, Config.srcPctl)] }

/-- ENVIRONMENT_SAMPLE (R398): inlet in °C, flow in L/min, input in V, the hottest die in °C. -/
def execEnvironmentSample (inlet flow volt die : Nat) (s : State) : Result :=
  let now := s.time
  let bad := inlet > 45 || flow < 16 || volt < 50
  let s := s.modPctl fun p =>
    { p with env := some (inlet, flow, volt, die)
             badAt := if bad then some (p.badAt.getD now) else none
             goodAt := if bad then none else some (p.goodAt.getD now) }
  .next (if die ≥ 105 || volt < 46 then { s.flag with stopped := true } else s)

/-- THERMAL_HOLD (R398): a condition held for 100 ms pre-empts every context. -/
def execThermalHold (s : State) : Result :=
  .next (if s.pctl.hold || !(s.pctl.badAt.any fun n => n + holdAfter ≤ s.time) then s
    else
      let cs := s.runningCtxs
      let s := s.flag.modPctl fun p => { p with hold := true, held := cs }
      cs.foldl (fun s c => s.stopCtx c none) s)

/-- THERMAL_RESUME (R398): the condition has cleared for 10 s, and every context that was held is saved; they go on where their
placement allows. -/
def execThermalResume (s : State) : Result :=
  .next (if !s.pctl.hold || !(s.pctl.goodAt.any fun n => n + resumeAfter ≤ s.time) ||
      s.pctl.held.any (fun c => (s.ctx c).st == .stopping) then s
    else
      let cs := s.pctl.held
      let s := s.modPctl fun p => { p with hold := false, held := [] }
      cs.foldl (fun s c => if s.canRestore c then s.restoreCtx c none else s) s)

end Sys2Proof.Machine
end

