-- ==== Sys2Proof/Machine/Return.lean ====
section
/-! DEFINITION. The answers that return to an agent (R215): what each does with the request that it answers. -/

namespace Sys2Proof.Machine

/-- A value for a register that no thread parks for. -/
def State.onValue (s : State) (l : Nat) (q : Req) (r : Resp) (d : Fin 32) : State :=
  if r.cause ≠ 0 then s.refusedDst l q r [.x d] else s.deliverX l q.k d r.w

/-- A value for a register for which the thread parks. -/
def State.onValueWait (s : State) (l : Nat) (q : Req) (r : Resp) (d : Fin 32) : State :=
  if r.cause ≠ 0 then s.refusedWait l q r else s.completedX l q.k d r.w

/-- An access that gives nothing back: a refusal is its instruction's deferred fault, or a packet when no thread has it. -/
def State.onDone (s : State) (l : Nat) (q : Req) (r : Resp) : State :=
  if r.cause = 0 then s
  else if q.slot < 16 then s.refused l q r
  else s.agentPacket l (s.core l).ctxid 5 (q.cause r)

/-- What an answer does. The executing thread is the request's. -/
def State.onAnswer (s : State) (l : Nat) (q : Req) (r : Resp) : State :=
  match q.cont with
  | .load d n sgn acq => s.onLoad l q r d n sgn acq
  | .done => s.onDone l q r
  | .amo d w acq => s.onAmo l q r d w acq
  | .sync d => s.onSync l q r d
  | .lrq d => s.onLrq l q r d
  | .sleep hit a => s.onSleep l q r hit a
  | .settled d => s.onSync l q r (some d)
  | .forked ra dest w => s.onForked l q r ra dest w
  | .pushed => s.onPushed l q r
  | .exitJoin => s.onExitJoin l q r
  | .joinDec exit => s.onJoinDec l q r exit
  | .armed k => s.onArmed l q r k
  | .backed k armed => s.onBacked l q r k armed
  | .armEnded => s
  | .stolen => s
  | .dealt => s
  | .recordLoaded slot ra => s.onRecordLoaded l r slot ra
  | .line va => s.onLine l q r va
  | .velem i => s.onVelem l q r i
  | .ringReserved d b => s.onRingReserved l q r d b
  | .hcfgRead name => s.onHcfgRead l q r name
  | .handle d g => s.onHandle l q r d g
  | .amcall dest kind len => s.onAmcall l q r dest kind len
  | .copyRec d multi ra => s.onCopyRec l q r d multi ra
  | .copyData => s.onCopyData l q r
  | .copyPub => s.onCopyPub l q r
  | .copyAgain ra => s.onCopyAgain l q r ra
  | .combData cl => s.onCombData l cl r
  | .mshld no => s.onMshld l q r no
  | .graph va => s.onGraph l r va
  | .cprom d _ => s.onCprom l q r d
  | .card d ra => s.onCard l q r d ra
  | .value d => s.onValue l q r d
  | .valueWait d => s.onValueWait l q r d
  | .settleArm w swa => s.onSettleArm l q r w swa
  | .stage d k => s.onStage l q r d k
  | .stageGet d gm => s.onStageGet l q r d gm
  | .wait => if r.cause ≠ 0 then s.refusedWait l q r else s.completed l q.k
  | .group d => s.onGroup l q r d
  | .collective _ => s.onCollective l q r
  | .chkptDesc d => s.onChkptDesc l q r d
  | .chkptDone d => s.onChkptDone l q r d

/-- A NACK with a retry indication (R352, R380, R393): a request out of its turn is sent again at once; one that a full
parked-message ring refused, after 4,096 cycles; one to a contained core waits for the core's restore. -/
def State.onRetry (s : State) (l : Nat) (m : Msg) (q : Req) (r : Resp) : State :=
  let s := (s.unsend m).modStill l m.ctx fun w => { w with rcvd := w.rcvd + 1 }
  if r.cause ≠ 0 then s
  else if r.info = 0 then s.inject q.msg
  else
    let at_ := s.time + 4096
    s.modCore l fun c => { c with reqs := c.reqs.map fun x => if x.id = q.id then { x with resend := some at_ } else x }

/-- The refusal of a posted write of a core: a deferred fault of the thread that sent it; a copy ends with it. -/
def State.onPostedRefused (s : State) (l : Nat) (m : Msg) (r : Resp) : State :=
  let s := (s.unsend m).modStill l m.ctx fun w => { w with rcvd := w.rcvd + 1 }
  let slot := r.w.toNat % 32
  let apc : Addr := BitVec.ofNat 48 (r.w.toNat / 32)
  let f : Cause := ⟨r.cause, r.info, 0⟩
  match (s.core l).cq with
  | c :: _ =>
    if c.started && c.slot = slot && c.apc = apc then s.copyFault l c f
    else if slot < 16 then s.deferFault l (Fin.ofNat 16 slot) 5 apc f else s.agentPacket l m.ctx 5 f
  | [] => if slot < 16 then s.deferFault l (Fin.ofNat 16 slot) 5 apc f else s.agentPacket l m.ctx 5 f

/-- The answers under way to an agent, but those of a search. -/
def State.returning (s : State) (a : Nat) : List Msg :=
  s.net.filter fun m => m.dest == a && m.dpanel == s.panelId && m.vc == 1 && !s.diverts a m &&
    match m.body with
    | .resp _ r => r.retry || !((s.requestOf a m).any fun x => x.1.cont.search)
    | _ => false

/-- An answer to a core. -/
def State.returned (s : State) (l : Nat) (m : Msg) : State :=
  if (s.core l).health.iso then s.unsend m
  else match m.body with
    | .resp 2 r => s.onPostedRefused l m r
    | _ =>
      match s.requestOf l m with
      | none => s.unsend m
      | some (q, r) =>
        if r.retry then s.onRetry l m q r
        else
          let s := (s.takeAnswer l m q r).onSlot l q.k
          (s.onAnswer l q r).pumpCore l

/-- RESPONSE_RETURN (R215): the k-th answer under way to an agent. -/
def execResponseReturn (core k : Nat) (s : State) : Result :=
  .next (match (s.returning core)[k]? with
    | none => s
    | some m =>
      if core < 8192 then s.returned core m
      else match m.body with
        | .resp 0 r => if 8480 ≤ core && core < 8484 then s.hostAnswered m r else s.unsend m
        | _ => s.unsend m)

end Sys2Proof.Machine
end

