-- ==== Sys2Proof/Machine/Dispatch.lean ====
section
/-! DEFINITION. The dispatch: one arm for each constructor of `Instr`, each a direct call of its meaning. -/

namespace Sys2Proof.Machine

/-- The meaning of an instruction or a step of an agent. -/
def exec (i : Instr) (s : State) : Host.Outcome State Fault Refusal :=
  match i with
  | .nop gd => Sys2Proof.Machine.execNop gd s
  | .j gd off => Sys2Proof.Machine.execJ gd off s
  | .jal gd d off => Sys2Proof.Machine.execJal gd d off s
  | .jr gd s1 => Sys2Proof.Machine.execJr gd s1 s
  | .jalr gd d s1 => Sys2Proof.Machine.execJalr gd d s1 s
  | .br gd g2 off => Sys2Proof.Machine.execBr gd g2 off s
  | .brF gd g2 off => Sys2Proof.Machine.execBrF gd g2 off s
  | .loop gd lv s1 off => Sys2Proof.Machine.execLoop gd lv s1 off s
  | .loopi gd lv cnt off => Sys2Proof.Machine.execLoopi gd lv cnt off s
  | .loopx gd lv d s1 sr off => Sys2Proof.Machine.execLoopx gd lv d s1 sr off s
  | .trap gd code => Sys2Proof.Machine.execTrap gd code s
  | .brk gd code => Sys2Proof.Machine.execBrk gd code s
  | .supcall gd code => Sys2Proof.Machine.execSupcall gd code s
  | .rdsys gd d n => Sys2Proof.Machine.execRdsys gd d n s
  | .wrsys gd n s1 => Sys2Proof.Machine.execWrsys gd n s1 s
  | .rdtime gd d => Sys2Proof.Machine.execRdtime gd d s
  | .sleepuntil gd s1 s2 => Sys2Proof.Machine.execSleepuntil gd s1 s2 s
  | .add a => Sys2Proof.Machine.execAdd a s
  | .sub a => Sys2Proof.Machine.execSub a s
  | .and a => Sys2Proof.Machine.execAnd a s
  | .or a => Sys2Proof.Machine.execOr a s
  | .xor a => Sys2Proof.Machine.execXor a s
  | .sll a => Sys2Proof.Machine.execSll a s
  | .srl a => Sys2Proof.Machine.execSrl a s
  | .sra a => Sys2Proof.Machine.execSra a s
  | .slt a => Sys2Proof.Machine.execSlt a s
  | .sltu a => Sys2Proof.Machine.execSltu a s
  | .mul a => Sys2Proof.Machine.execMul a s
  | .mulh a => Sys2Proof.Machine.execMulh a s
  | .mulhm a => Sys2Proof.Machine.execMulhm a s
  | .mulhu a => Sys2Proof.Machine.execMulhu a s
  | .div a => Sys2Proof.Machine.execDiv a s
  | .divu a => Sys2Proof.Machine.execDivu a s
  | .rem a => Sys2Proof.Machine.execRem a s
  | .remu a => Sys2Proof.Machine.execRemu a s
  | .min a => Sys2Proof.Machine.execMin a s
  | .max a => Sys2Proof.Machine.execMax a s
  | .minu a => Sys2Proof.Machine.execMinu a s
  | .maxu a => Sys2Proof.Machine.execMaxu a s
  | .clz a => Sys2Proof.Machine.execClz a s
  | .ctz a => Sys2Proof.Machine.execCtz a s
  | .cpop a => Sys2Proof.Machine.execCpop a s
  | .li gd d imm => Sys2Proof.Machine.execLi gd d imm s
  | .addpc gd d off => Sys2Proof.Machine.execAddpc gd d off s
  | .cmp gd w c d s1 src => Sys2Proof.Machine.execCmp gd w c d s1 src s
  | .tst gd z d s1 src => Sys2Proof.Machine.execTst gd z d s1 src s
  | .glog gd d a b tbl => Sys2Proof.Machine.execGlog gd d a b tbl s
  | .grd gd d => Sys2Proof.Machine.execGrd gd d s
  | .gwr gd s1 mask => Sys2Proof.Machine.execGwr gd s1 mask s
  | .fork gd s1 jn dom pri off => Sys2Proof.Machine.execFork gd s1 jn dom pri off s
  | .spawn gd s1 t jn dom pri off => Sys2Proof.Machine.execSpawn gd s1 t jn dom pri off s
  | .joindec gd s1 => Sys2Proof.Machine.execJoindec gd s1 s
  | .suspend gd => Sys2Proof.Machine.execSuspend gd s
  | .suspendJ gd s1 => Sys2Proof.Machine.execSuspendJ gd s1 s
  | .await gd s1 => Sys2Proof.Machine.execAwait gd s1 s
  | .yield gd => Sys2Proof.Machine.execYield gd s
  | .exit gd => Sys2Proof.Machine.execExit gd s
  | .stealdom gd src => Sys2Proof.Machine.execStealdom gd src s
  | .getid gd d sel => Sys2Proof.Machine.execGetid gd d sel s
  | .waitev gd d src watch => Sys2Proof.Machine.execWaitev gd d src watch s
  | .sigev gd s1 s2 => Sys2Proof.Machine.execSigev gd s1 s2 s
  | .ld a => Sys2Proof.Machine.execLd a s
  | .ldu a => Sys2Proof.Machine.execLdu a s
  | .st a => Sys2Proof.Machine.execSt a s
  | .ldAcq a => Sys2Proof.Machine.execLdAcq a s
  | .stRel a => Sys2Proof.Machine.execStRel a s
  | .ldw a => Sys2Proof.Machine.execLdw a s
  | .ldt a => Sys2Proof.Machine.execLdt a s
  | .stf a => Sys2Proof.Machine.execStf a s
  | .stw a => Sys2Proof.Machine.execStw a s
  | .lrq a => Sys2Proof.Machine.execLrq a s
  | .scq a => Sys2Proof.Machine.execScq a s
  | .relq a => Sys2Proof.Machine.execRelq a s
  | .amo gd w op aq rl d s1 src s3 => Sys2Proof.Machine.execAmo gd w op aq rl d s1 src s3 s
  | .fence gd => Sys2Proof.Machine.execFence gd s
  | .fenceEng gd => Sys2Proof.Machine.execFenceEng gd s
  | .fenceI gd => Sys2Proof.Machine.execFenceI gd s
  | .vadd a => Sys2Proof.Machine.execVadd a s
  | .vsub a => Sys2Proof.Machine.execVsub a s
  | .vmul a => Sys2Proof.Machine.execVmul a s
  | .vfma a s3 => Sys2Proof.Machine.execVfma a s3 s
  | .vmin a => Sys2Proof.Machine.execVmin a s
  | .vmax a => Sys2Proof.Machine.execVmax a s
  | .vabs a => Sys2Proof.Machine.execVabs a s
  | .vneg a => Sys2Proof.Machine.execVneg a s
  | .vand gd d s1 src => Sys2Proof.Machine.execVand gd d s1 src s
  | .vor gd d s1 src => Sys2Proof.Machine.execVor gd d s1 src s
  | .vxor gd d s1 src => Sys2Proof.Machine.execVxor gd d s1 src s
  | .vshl gd d s1 src => Sys2Proof.Machine.execVshl gd d s1 src s
  | .vshr gd lgc d s1 src => Sys2Proof.Machine.execVshr gd lgc d s1 src s
  | .vcmp gd c d s1 src => Sys2Proof.Machine.execVcmp gd c d s1 src s
  | .vsel gd d s1 s2 s3 => Sys2Proof.Machine.execVsel gd d s1 s2 s3 s
  | .vperm gd d s1 s2 => Sys2Proof.Machine.execVperm gd d s1 s2 s
  | .vslide gd d s1 src => Sys2Proof.Machine.execVslide gd d s1 src s
  | .vbcast gd d src mode => Sys2Proof.Machine.execVbcast gd d src mode s
  | .vmovx gd d s1 src => Sys2Proof.Machine.execVmovx gd d s1 src s
  | .vins gd d s1 src s3 => Sys2Proof.Machine.execVins gd d s1 src s3 s
  | .vred gd op mode d s1 m => Sys2Proof.Machine.execVred gd op mode d s1 m s
  | .vsettag gd d s1 src => Sys2Proof.Machine.execVsettag gd d s1 src s
  | .vgettag gd d s1 => Sys2Proof.Machine.execVgettag gd d s1 s
  | .vcvt gd mode part d s1 tag => Sys2Proof.Machine.execVcvt gd mode part d s1 tag s
  | .vqnt gd mode d s1 s3 tag => Sys2Proof.Machine.execVqnt gd mode d s1 s3 tag s
  | .vdqnt gd mode d s1 s2 tag => Sys2Proof.Machine.execVdqnt gd mode d s1 s2 tag s
  | .vld gd d s1 off tag => Sys2Proof.Machine.execVld gd d s1 off tag s
  | .vst gd s3 s1 off => Sys2Proof.Machine.execVst gd s3 s1 off s
  | .vlds gd d s1 s2 tag => Sys2Proof.Machine.execVlds gd d s1 s2 tag s
  | .vsts gd s3 s1 s2 => Sys2Proof.Machine.execVsts gd s3 s1 s2 s
  | .vldx gd d s1 s2 tag => Sys2Proof.Machine.execVldx gd d s1 s2 tag s
  | .vstx gd s3 s1 s2 => Sys2Proof.Machine.execVstx gd s3 s1 s2 s
  | .qbind gd d s1 s2 => Sys2Proof.Machine.execQbind gd d s1 s2 s
  | .qfree gd d => Sys2Proof.Machine.execQfree gd d s
  | .qstat gd d s1 => Sys2Proof.Machine.execQstat gd d s1 s
  | .vqpop gd d s1 => Sys2Proof.Machine.execVqpop gd d s1 s
  | .vqpush gd s3 s1 => Sys2Proof.Machine.execVqpush gd s3 s1 s
  | .vsend gd s3 s1 wtag imm => Sys2Proof.Machine.execVsend gd s3 s1 wtag imm s
  | .amcall gd s1 s2 kind len => Sys2Proof.Machine.execAmcall gd s1 s2 kind len s
  | .cxop gd mode d s1 s2 s3 n sc => Sys2Proof.Machine.execCxop gd mode d s1 s2 s3 n sc s
  | .cxload gd s1 => Sys2Proof.Machine.execCxload gd s1 s
  | .cxdrop gd s1 => Sys2Proof.Machine.execCxdrop gd s1 s
  | .cxqry gd d s1 => Sys2Proof.Machine.execCxqry gd d s1 s
  | .cxtbl gd s1 s2 => Sys2Proof.Machine.execCxtbl gd s1 s2 s
  | .bndset gd k clr mode s1 => Sys2Proof.Machine.execBndset gd k clr mode s1 s
  | .bndget gd d k sel => Sys2Proof.Machine.execBndget gd d k sel s
  | .cntrd gd d k h jn => Sys2Proof.Machine.execCntrd gd d k h jn s
  | .cntclr gd k h jn => Sys2Proof.Machine.execCntclr gd k h jn s
  | .mshld gd d s1 off => Sys2Proof.Machine.execMshld gd d s1 off s
  | .mma gd d sa sb o => Sys2Proof.Machine.execMma gd d sa sb o s
  | .mmaSp gd d sa sb o s1 spn => Sys2Proof.Machine.execMmaSp gd d sa sb o s1 spn s
  | .mmaGa gd d sa sb o s2 mg => Sys2Proof.Machine.execMmaGa gd d sa sb o s2 mg s
  | .mmaSpga gd d sa sb o s1 spn s2 mg => Sys2Proof.Machine.execMmaSpga gd d sa sb o s1 spn s2 mg s
  | .mzero gd d tag => Sys2Proof.Machine.execMzero gd d tag s
  | .mld gd d sa tag => Sys2Proof.Machine.execMld gd d sa tag s
  | .mst gd mode s3 sa => Sys2Proof.Machine.execMst gd mode s3 sa s
  | .mrowred gd op mode part nc d s1 => Sys2Proof.Machine.execMrowred gd op mode part nc d s1 s
  | .mcnt gd clr d s1 => Sys2Proof.Machine.execMcnt gd clr d s1 s
  | .copy gd d s1 => Sys2Proof.Machine.execCopy gd d s1 s
  | .copym gd d s1 => Sys2Proof.Machine.execCopym gd d s1 s
  | .cprom gd d s1 => Sys2Proof.Machine.execCprom gd d s1 s
  | .hcfg gd s1 s2 => Sys2Proof.Machine.execHcfg gd s1 s2 s
  | .publish gd s1 => Sys2Proof.Machine.execPublish gd s1 s
  | .publishF gd s1 => Sys2Proof.Machine.execPublishF gd s1 s
  | .hsub gd s1 s2 => Sys2Proof.Machine.execHsub gd s1 s2 s
  | .hunsub gd s1 s2 => Sys2Proof.Machine.execHunsub gd s1 s2 s
  | .hver gd d s1 => Sys2Proof.Machine.execHver gd d s1 s
  | .stopref gd s1 => Sys2Proof.Machine.execStopref gd s1 s
  | .stoprefAt gd s1 s2 => Sys2Proof.Machine.execStoprefAt gd s1 s2 s
  | .refchk gd d s1 => Sys2Proof.Machine.execRefchk gd d s1 s
  | .settle gd s1 set nh => Sys2Proof.Machine.execSettle gd s1 set nh s
  | .settlew gd d s1 set nh => Sys2Proof.Machine.execSettlew gd d s1 set nh s
  | .launch gd d s1 => Sys2Proof.Machine.execLaunch gd d s1 s
  | .deal gd d s1 => Sys2Proof.Machine.execDeal gd d s1 s
  | .ringget gd d gm s1 => Sys2Proof.Machine.execRingget gd d gm s1 s
  | .ringput gd s3 s1 => Sys2Proof.Machine.execRingput gd s3 s1 s
  | .govset gd d s1 s2 => Sys2Proof.Machine.execGovset gd d s1 s2 s
  | .preempt gd d s1 => Sys2Proof.Machine.execPreempt gd d s1 s
  | .resume gd d s1 => Sys2Proof.Machine.execResume gd d s1 s
  | .rdhmap gd d s1 => Sys2Proof.Machine.execRdhmap gd d s1 s
  | .rdlpt gd d s1 half => Sys2Proof.Machine.execRdlpt gd d s1 half s
  | .quiesce gd d => Sys2Proof.Machine.execQuiesce gd d s
  | .barset gd d s1 => Sys2Proof.Machine.execBarset gd d s1 s
  | .bararr gd s1 => Sys2Proof.Machine.execBararr gd s1 s
  | .barwait gd d s1 cycles => Sys2Proof.Machine.execBarwait gd d s1 cycles s
  | .barwaitF gd s1 cycles => Sys2Proof.Machine.execBarwaitF gd s1 cycles s
  | .barwd gd s1 => Sys2Proof.Machine.execBarwd gd s1 s
  | .chkpt gd d s1 => Sys2Proof.Machine.execChkpt gd d s1 s
  | .tlbinv gd s1 s2 scope => Sys2Proof.Machine.execTlbinv gd s1 s2 scope s
  | .rmapsetRemap gd d s1 s2 => Sys2Proof.Machine.execRmapsetRemap gd d s1 s2 s
  | .rmapsetMarkDead gd d s1 s2 => Sys2Proof.Machine.execRmapsetMarkDead gd d s1 s2 s
  | .rmapsetClearDead gd d s1 s2 => Sys2Proof.Machine.execRmapsetClearDead gd d s1 s2 s
  | .grpjoin gd d s1 s2 => Sys2Proof.Machine.execGrpjoin gd d s1 s2 s
  | .grpleave gd s1 => Sys2Proof.Machine.execGrpleave gd s1 s
  | .grpred gd op d s1 s2 => Sys2Proof.Machine.execGrpred gd op d s1 s2 s
  | .grpbc gd d s1 s2 root => Sys2Proof.Machine.execGrpbc gd d s1 s2 root s
  | .grpbar gd s1 => Sys2Proof.Machine.execGrpbar gd s1 s
  | .fremap gd d s1 s2 => Sys2Proof.Machine.execFremap gd d s1 s2 s
  | .sleepTimeReached core slot => Sys2Proof.Machine.execSleepTimeReached core slot s
  | .lineFetch core slot => Sys2Proof.Machine.execLineFetch core slot s
  | .localPop core slot => Sys2Proof.Machine.execLocalPop core slot s
  | .recordLoad core slot => Sys2Proof.Machine.execRecordLoad core slot s
  | .stealSearch core => Sys2Proof.Machine.execStealSearch core s
  | .stealRequest core => Sys2Proof.Machine.execStealRequest core s
  | .stealResponse core => Sys2Proof.Machine.execStealResponse core s
  | .stealRetryWait core => Sys2Proof.Machine.execStealRetryWait core s
  | .dequePush core => Sys2Proof.Machine.execDequePush core s
  | .dequePushRetry agent k => Sys2Proof.Machine.execDequePushRetry agent k s
  | .responseReturn core k => Sys2Proof.Machine.execResponseReturn core k s
  | .postedCreditReturn core => Sys2Proof.Machine.execPostedCreditReturn core s
  | .postedRetryResend core k => Sys2Proof.Machine.execPostedRetryResend core k s
  | .parkedRingRetryResend core k => Sys2Proof.Machine.execParkedRingRetryResend core k s
  | .loadHandler core => Sys2Proof.Machine.execLoadHandler core s
  | .storeHandler core => Sys2Proof.Machine.execStoreHandler core s
  | .atomicHandler core => Sys2Proof.Machine.execAtomicHandler core s
  | .ldwHandler core => Sys2Proof.Machine.execLdwHandler core s
  | .ldtHandler core => Sys2Proof.Machine.execLdtHandler core s
  | .stfHandler core => Sys2Proof.Machine.execStfHandler core s
  | .stwHandler core => Sys2Proof.Machine.execStwHandler core s
  | .lrqHandler core => Sys2Proof.Machine.execLrqHandler core s
  | .scqHandler core => Sys2Proof.Machine.execScqHandler core s
  | .relqHandler core => Sys2Proof.Machine.execRelqHandler core s
  | .awaitRegistration core => Sys2Proof.Machine.execAwaitRegistration core s
  | .joinArming core => Sys2Proof.Machine.execJoinArming core s
  | .joinDecrement core => Sys2Proof.Machine.execJoinDecrement core s
  | .armingEnd core => Sys2Proof.Machine.execArmingEnd core s
  | .controlWordTransition agent => Sys2Proof.Machine.execControlWordTransition agent s
  | .refire agent => Sys2Proof.Machine.execRefire agent s
  | .eventSignal core => Sys2Proof.Machine.execEventSignal core s
  | .publishHome core => Sys2Proof.Machine.execPublishHome core s
  | .hsubHome core => Sys2Proof.Machine.execHsubHome core s
  | .hunsubHome core => Sys2Proof.Machine.execHunsubHome core s
  | .hverHome core => Sys2Proof.Machine.execHverHome core s
  | .stoprefHome core => Sys2Proof.Machine.execStoprefHome core s
  | .refchkHome core => Sys2Proof.Machine.execRefchkHome core s
  | .hcfgHome core => Sys2Proof.Machine.execHcfgHome core s
  | .ringReservation core => Sys2Proof.Machine.execRingReservation core s
  | .ringPush core => Sys2Proof.Machine.execRingPush core s
  | .ringCredit core => Sys2Proof.Machine.execRingCredit core s
  | .pageOwnerWrite core => Sys2Proof.Machine.execPageOwnerWrite core s
  | .debugWindowAccess core => Sys2Proof.Machine.execDebugWindowAccess core s
  | .dbgctlResume core => Sys2Proof.Machine.execDbgctlResume core s
  | .dbgctlSingleStep core => Sys2Proof.Machine.execDbgctlSingleStep core s
  | .dbgctlRetire core => Sys2Proof.Machine.execDbgctlRetire core s
  | .dbgctlReleaseSupcall core => Sys2Proof.Machine.execDbgctlReleaseSupcall core s
  | .dbgctlInvalidCommand core => Sys2Proof.Machine.execDbgctlInvalidCommand core s
  | .rlcmdLoad core => Sys2Proof.Machine.execRlcmdLoad core s
  | .rlcmdDrop core => Sys2Proof.Machine.execRlcmdDrop core s
  | .registerWrite agent => Sys2Proof.Machine.execRegisterWrite agent s
  | .controlSpaceAccess agent => Sys2Proof.Machine.execControlSpaceAccess agent s
  | .programHandler core => Sys2Proof.Machine.execProgramHandler core s
  | .faultPacketReceive agent => Sys2Proof.Machine.execFaultPacketReceive agent s
  | .vectorCommandStart core => Sys2Proof.Machine.execVectorCommandStart core s
  | .vectorResultWrite core => Sys2Proof.Machine.execVectorResultWrite core s
  | .reedResult core => Sys2Proof.Machine.execReedResult core s
  | .cxloadInstall core => Sys2Proof.Machine.execCxloadInstall core s
  | .matrixGrant cluster => Sys2Proof.Machine.execMatrixGrant cluster s
  | .matrixGrantEnd cluster => Sys2Proof.Machine.execMatrixGrantEnd cluster s
  | .matrixCommandComplete core => Sys2Proof.Machine.execMatrixCommandComplete core s
  | .matrixQueueHeadExecute core => Sys2Proof.Machine.execMatrixQueueHeadExecute core s
  | .cmuFailure cluster => Sys2Proof.Machine.execCmuFailure cluster s
  | .copyCommandStart core => Sys2Proof.Machine.execCopyCommandStart core s
  | .copySegmentEnd core => Sys2Proof.Machine.execCopySegmentEnd core s
  | .copyComplete core => Sys2Proof.Machine.execCopyComplete core s
  | .combineRequest core => Sys2Proof.Machine.execCombineRequest core s
  | .combineWindowClose cluster k => Sys2Proof.Machine.execCombineWindowClose cluster k s
  | .bankFailed core bank => Sys2Proof.Machine.execBankFailed core bank s
  | .hbmAccess bridge => Sys2Proof.Machine.execHbmAccess bridge s
  | .hbmStackFailure bridge channels => Sys2Proof.Machine.execHbmStackFailure bridge channels s
  | .l2TlbLookup core slot => Sys2Proof.Machine.execL2TlbLookup core slot s
  | .pageWalk core slot => Sys2Proof.Machine.execPageWalk core slot s
  | .tlbinvRequest agent => Sys2Proof.Machine.execTlbinvRequest agent s
  | .sweep => Sys2Proof.Machine.execSweep s
  | .sweepResult => Sys2Proof.Machine.execSweepResult s
  | .settleArm => Sys2Proof.Machine.execSettleArm s
  | .cardAcceptance die => Sys2Proof.Machine.execCardAcceptance die s
  | .dealChunk die => Sys2Proof.Machine.execDealChunk die s
  | .dealRequest die => Sys2Proof.Machine.execDealRequest die s
  | .dealHome die => Sys2Proof.Machine.execDealHome die s
  | .dealerSlotReread die => Sys2Proof.Machine.execDealerSlotReread die s
  | .dealerSlotRotation die k => Sys2Proof.Machine.execDealerSlotRotation die k s
  | .govsetApply die => Sys2Proof.Machine.execGovsetApply die s
  | .governorTick die => Sys2Proof.Machine.execGovernorTick die s
  | .ringputHome core => Sys2Proof.Machine.execRingputHome core s
  | .preemptStop die => Sys2Proof.Machine.execPreemptStop die s
  | .preemptComplete => Sys2Proof.Machine.execPreemptComplete s
  | .messageDivert core => Sys2Proof.Machine.execMessageDivert core s
  | .contextRestore => Sys2Proof.Machine.execContextRestore s
  | .flitReplay die link => Sys2Proof.Machine.execFlitReplay die link s
  | .linkRetrain die link => Sys2Proof.Machine.execLinkRetrain die link s
  | .linkRetrainEnd die link => Sys2Proof.Machine.execLinkRetrainEnd die link s
  | .linkDown die link => Sys2Proof.Machine.execLinkDown die link s
  | .remapFenceStart agent => Sys2Proof.Machine.execRemapFenceStart agent s
  | .remapFenceEnd => Sys2Proof.Machine.execRemapFenceEnd s
  | .messageAccept agent k => Sys2Proof.Machine.execMessageAccept agent k s
  | .causewaySignal core ch => Sys2Proof.Machine.execCausewaySignal core ch s
  | .causewayRelease core ch => Sys2Proof.Machine.execCausewayRelease core ch s
  | .causewayReleasePass core ch => Sys2Proof.Machine.execCausewayReleasePass core ch s
  | .barwaitTimeout core slot => Sys2Proof.Machine.execBarwaitTimeout core slot s
  | .commitNotice core => Sys2Proof.Machine.execCommitNotice core s
  | .checkpointRequest core => Sys2Proof.Machine.execCheckpointRequest core s
  | .checkpointRequestRepeat core => Sys2Proof.Machine.execCheckpointRequestRepeat core s
  | .containmentTrigger core => Sys2Proof.Machine.execContainmentTrigger core s
  | .containmentHold core => Sys2Proof.Machine.execContainmentHold core s
  | .spareSubstitution core => Sys2Proof.Machine.execSpareSubstitution core s
  | .containmentRestore core => Sys2Proof.Machine.execContainmentRestore core s
  | .containmentReplay core => Sys2Proof.Machine.execContainmentReplay core s
  | .containmentLive core => Sys2Proof.Machine.execContainmentLive core s
  | .dieAgentFailure die => Sys2Proof.Machine.execDieAgentFailure die s
  | .powerOnReset bad => Sys2Proof.Machine.execPowerOnReset bad s
  | .warmReset bad => Sys2Proof.Machine.execWarmReset bad s
  | .environmentSample inlet flow volt die => Sys2Proof.Machine.execEnvironmentSample inlet flow volt die s
  | .thermalHold => Sys2Proof.Machine.execThermalHold s
  | .thermalResume => Sys2Proof.Machine.execThermalResume s
  | .welkinFlitReplay port => Sys2Proof.Machine.execWelkinFlitReplay port s
  | .welkinPortDown port => Sys2Proof.Machine.execWelkinPortDown port s
  | .fabricHoldTimeout agent k => Sys2Proof.Machine.execFabricHoldTimeout agent k s
  | .timeExchange port panel hops their delay => Sys2Proof.Machine.execTimeExchange port panel hops their delay s
  | .ingressLookup bridge k => Sys2Proof.Machine.execIngressLookup bridge k s
  | .fabricFenceStart agent => Sys2Proof.Machine.execFabricFenceStart agent s
  | .fabricFenceEnd => Sys2Proof.Machine.execFabricFenceEnd s
  | .groupMembershipRequest core => Sys2Proof.Machine.execGroupMembershipRequest core s
  | .groupPartialArrival core => Sys2Proof.Machine.execGroupPartialArrival core s
  | .collectiveBoundary core => Sys2Proof.Machine.execCollectiveBoundary core s
  | .collectiveRelease core => Sys2Proof.Machine.execCollectiveRelease core s
  | .rdmaWrite qpn rkey va data => Sys2Proof.Machine.execRdmaWrite qpn rkey va data s
  | .rdmaRead qpn rkey va len => Sys2Proof.Machine.execRdmaRead qpn rkey va len s
  | .rdmaSend qpn data => Sys2Proof.Machine.execRdmaSend qpn data s
  | .rdmaUnsupported qpn => Sys2Proof.Machine.execRdmaUnsupported qpn s
  | .frameDrop port => Sys2Proof.Machine.execFrameDrop port s
  | .managementFrame data => Sys2Proof.Machine.execManagementFrame data s
  | .ethernetLinkLoss port => Sys2Proof.Machine.execEthernetLinkLoss port s
  | .hostBridgeFailure bridge => Sys2Proof.Machine.execHostBridgeFailure bridge s
  | .coreLogicCheck core slot => Sys2Proof.Machine.execCoreLogicCheck core slot s
  | .neighbourLinkWord core => Sys2Proof.Machine.execNeighbourLinkWord core s
  | .neighbourLinkCredit core => Sys2Proof.Machine.execNeighbourLinkCredit core s
  | .checkpointTransfer core => Sys2Proof.Machine.execCheckpointTransfer core s
  | .welkinPortRetrain port => Sys2Proof.Machine.execWelkinPortRetrain port s
  | .welkinRetrainEnd port => Sys2Proof.Machine.execWelkinRetrainEnd port s
  | .gtbSlew => Sys2Proof.Machine.execGtbSlew s

end Sys2Proof.Machine
end

