-- ==== Sys2Proof/Machine/Issue.lean ====
section
/-! DEFINITION. The issue ports (R18, R19): which slot issues, the checks of a slot or pair before it executes (R43, R44,
R48, R61), its execution (R49) and its end. -/

namespace Sys2Proof.Machine

/-! ## The end of an issue -/

/-- The end of a handler (R23, R130), from the state before its last transfer: more than 64 issues fault; its counters
go to the context counters. -/
def State.endHandler (s0 s : State) : State :=
  let l := s.cur.lcn
  match (s.core l).mt with
  | none => s
  | some h =>
    if h.iss ≥ 64 then s0.takeFault (mkCause 0x1A 1 0)
    else
      let s := s.foldCounts l 15
      s.modCore l fun c =>
        ({ c with mt := none, reqs := c.reqs.map fun q => if q.slot = 15 then { q with cont := .done } else q } : Core).modSlot 15 fun t =>
          { t with state := .idle, park := .none, ctl := .seq, pc := 0, path := t.path.map fun a => { a with cont := .done } }

/-- How an issue ends, from the state before it and the state after its instructions: a transfer, sequential flow, a loop
level's action; a fault or a park met there undoes the issue. -/
def State.finish (s0 t : State) (taken : Option Addr) : State :=
  let l := s0.cur.lcn
  let k := s0.cur.slot
  if k = 15 && taken = some 0 then s0.endHandler t
  else
    let r := t.complete l k taken
    match r.2.1 with
    | .fault c => (s0.modThr fun x => { x with iss := { x.iss with b := r.2.2 } }).takeFault c
    | .retry p => s0.modThr fun x => x.parkRetry p
    | _ => r.1

/-- The target of a transfer that ended an instruction. -/
def Ctl.taken : Ctl → Option Addr
  | .jump pc => some pc
  | _ => none

/-- Whether an instruction has ended and the thread goes on. -/
def Ctl.goes : Ctl → Bool
  | .seq => true
  | .jump _ => true
  | _ => false

/-- A single instruction issued from state `s`. -/
def State.issueOne (s : State) (i : Instr) : Result :=
  match exec i s with
  | .next t => .next (if t.thr.ctl.goes then s.finish t t.thr.ctl.taken else t)
  | r => r

/-- The executing slot becomes `b`. -/
def State.atSlot (s : State) (b : Addr) : State := s.modThr fun t => { t with iss := { t.iss with b := b } }

/-- A pair issued from state `s` (R49): the first instruction, then the second; a fault or a park of either undoes both,
but for a wait for an answer. -/
def State.issuePair (s : State) (i j : Instr) : Result :=
  let b2 := s.thr.iss.last
  match exec i s with
  | .next t =>
    if t.thr.ctl.stopped then .next t
    else
      let w := t.thr
      match exec j (t.atSlot b2) with
      | .next u =>
        match u.thr.ctl with
        | .fault c => .next ((s.atSlot b2).stopFault c)
        | .retry p => .next (s.modThr fun x => { x.parkRetry p with mark := u.thr.mark })
        | .line pc => .next (s.modThr fun x => x.awaitLine pc)
        | c =>
          if w.ctl.goes then .next (if c.goes then s.finish u c.taken else u)
          else if c.goes then
            .next (u.modThr fun x => { x with ctl := w.ctl, iss := { x.iss with taken := c.taken } })
          else .next u
      | r => r
  | r => r

/-! ## The checks of an issue (R61) -/

/-- The faults of an instruction that come before its own (R61, items 6 and 7). -/
def State.early (s : State) (i : Instr) : Option Cause :=
  let u := s.usesOf i
  match (if u.eng.isSome then s.gateEng u else s.gate u) with
  | .stop (.fault c) => if c.cause = 0x04 || c.cause = 0x05 then some c else none
  | _ => none

/-- The information of a decode fault (Table 3.10). -/
def decodeInfo (w : BitVec 96) (r : Reject) : Nat :=
  r.reason + (w.toNat / 2 ^ 88 % 256) * 256 + (w.toNat / 2 ^ 80 % 8) * 65536

/-- A fault of the slot at `b`. -/
def State.faultAt (s : State) (b : Addr) (c : Cause) : State := (s.atSlot b).takeFault c

/-- Whether a cause is the privilege fault. -/
def isPriv (c : Option Cause) : Bool := c.any fun c => c.cause == 0x04

/-- The pair at the executing slot, decoded and checked. -/
def State.checkPair (s : State) (i j : Instr) : Result :=
  let b1 := s.thr.iss.first
  let b2 := s.thr.iss.last
  if !s.me.pairOk s.cur.slot i j then .next (s.faultAt b1 (mkCause 0x02 3 0))
  else
    let e1 := s.early i
    let e2 := s.early j
    match (if isPriv e1 then (e1, b1) else if isPriv e2 then (e2, b2) else if e1.isSome then (e1, b1) else (e2, b2)) with
    | (some c, b) => .next (s.faultAt b c)
    | (none, _) => s.issuePair i j

/-- The slot or pair at the PC of the executing thread, from a snapshot of its line: the checks of R61 in its order. A slot whose parity
fails has its line read once more (R44). -/
def State.issueLine (s : State) (x : Line) : Result :=
  let pc := s.thr.pc
  let k := slotIdx pc
  let two := pairFirst (linePair x.data) k
  let b2 := if two then nextSlot pc else pc
  let swm := lineSwm x.data k || (two && lineSwm x.data (k + 1))
  let s := s.modThr fun t => { t with iss := { b := pc, first := pc, last := b2, swm := swm }, want := none }
  let memory := ((x.badAt k).map fun c => (c, pc)).orElse fun _ => if two then (x.badAt (k + 1)).map fun c => (c, b2) else none
  let badPar := if !sparOk x.data k then some pc else if two && !sparOk x.data (k + 1) then some b2 else none
  match memory, badPar with
  | some (c, b), _ => .next ((s.modMe fun c => c.dropLine pc).faultAt b (mkCause c 0 (b.zeroExtend 64)))
  | none, some b =>
    let s := s.modMe fun c => c.dropLine pc
    if s.thr.reread = some pc then .next ((s.modThr fun t => { t with reread := none }).faultAt b (mkCause 0x06 1 0))
    else .next (s.modThr fun t => { t with reread := some pc })
  | none, none =>
    let s := s.modThr fun t => { t with reread := none }
    match lineIllegal x.data with
    | some i => .next (s.takeFault (mkCause 0x02 i 0))
    | none =>
      if s.thr.fresh && !lineBtm x.data k then .next (s.takeFault (badTarget (pc.zeroExtend 64)))
      else
        match decode (lineSlot x.data k) with
        | .error r => .next (s.takeFault (mkCause 0x01 (decodeInfo (lineSlot x.data k) r) 0))
        | .ok i =>
          if !two then (s.modThr fun t => { t with fresh := false }).issueOne i
          else
            match decode (lineSlot x.data (k + 1)) with
            | .error r => .next (s.faultAt b2 (mkCause 0x01 (decodeInfo (lineSlot x.data (k + 1)) r) 0))
            | .ok j => (s.modThr fun t => { t with fresh := false }).checkPair i j

/-- The issue of slot `k` of core `l`. -/
def State.issueSlot (s : State) (l : Nat) (k : Fin 16) : Result :=
  let s := s.onSlot l k
  match s.me.line? s.thr.pc with
  | some x => s.issueLine x
  | none => .next s

/-! ## Readiness (R17, R18) -/

/-- Whether the compute dies are gated (R398): in a thermal hold, once no context is being stopped. -/
def State.gated (s : State) : Bool := s.pctl.hold && s.pctl.ctxs.all fun e => e.2.st != .stopping

/-- Whether a slot of a core may issue at all: its graphs are loaded again after a restore (R208); the core is present and live (the message thread of a spare
starts with the replay, Table 15.9), its context is neither stopped nor at a
checkpoint of another slot; a handler in progress goes on to its end (R351, R391). -/
def State.mayIssue (s : State) (l : Nat) (k : Fin 16) : Bool :=
  let c := s.core l
  s.present l && !s.gated && !c.health.iso && (c.health.contain == .live || (k == 15 && c.health.contain == .replaying)) && (k == 15 || c.stopping.isNone) &&
    (k == 15 || c.ckpt.chk.all fun h => h.slot == k.val) && c.veng.reload.isEmpty

/-- Whether the condition has cleared of a slot that is to issue its instruction again: it would not park again; of a wait for a
request slot, that one is free (R215). -/
def State.cleared (s : State) (l : Nat) (k : Fin 16) : Bool :=
  if (s.slot l k).park = .reqSlot then !s.stalled l (s.slot l k)
  else match s.issueSlot l k with
    | .next t =>
      match (t.slot l k).ctl with
      | .retry _ => false
      | _ => true
    | _ => true

/-- The transitions of a slot between Running and Parked that no issue makes (R17): a Running slot whose next access finds no free
request slot parks; a Parked one whose condition has cleared is Running. -/
def State.recheck (s : State) (l : Nat) (k : Fin 16) : State :=
  let t := s.slot l k
  match t.state with
  | .running =>
    if s.stalled l t then s.modSlot l k fun t => { t with state := .parked, park := .reqSlot, again := true, ctl := .retry .reqSlot }
    else s
  | .parked =>
    if t.again then (if s.cleared l k then s.unpark l k else s)
    else if t.park = .qFull && ((s.completed l k).slot l k).park != .qFull then s.completed l k
    else s
  | _ => s

/-- These transitions of every slot of a core. -/
def State.recheckCore (s : State) (l : Nat) : State := (List.finRange 16).foldl (fun s k => s.recheck l k) s

/-- Whether a slot is ready: Running, with its line at hand and the line of a target that it waits for. -/
def State.ready (s : State) (l : Nat) (k : Fin 16) : Bool :=
  let c := s.core l
  let t := c.slot k
  s.mayIssue l k && (k == 15 || !c.flt.frozen || c.flt.step == some k) && (t.lastIssue.all fun n => n + 4 ≤ s.time) &&
    t.state == .running && (c.line? t.pc).isSome && t.want.all fun pc => (c.line? pc).isSome

/-- The worker slot whose turn it is (R18). -/
def State.workerTurn (s : State) (l : Nat) : Option (Fin 16) :=
  ((List.range 15).map fun i => Fin.ofNat 16 (((s.core l).lastW + 1 + i) % 15)).find? fun k => s.ready l k

/-- What follows an issue: the port's rotation, the time of the issue, the end of a single step, the count of a handler's
issues. -/
def State.issued (s : State) (l : Nat) (k : Fin 16) : State :=
  s.modCore l fun c =>
    let c := if k = 15 then
        { c with mt := c.mt.map fun h => match (c.slot k).ctl with
                   | .retry _ => h
                   | _ => { h with iss := h.iss + 1 } }
      else { c with lastW := k.val, portAt := some s.time }
    let c := { c with flt := { c.flt with step := if c.flt.step = some k then none else c.flt.step } }
    c.modSlot k fun t => { t with lastIssue := some s.time }

/-- One turn of a port of core `l`: the worker port, which issues once in a cycle, or the message port (R18, R19). -/
def State.port (s : State) (l : Nat) (mt : Bool) : Result :=
  let s := s.recheckCore l
  let k? := if mt then (if (s.core l).mt.isSome && s.ready l 15 then some 15 else none)
    else if (s.core l).portAt = some s.time then none else s.workerTurn l
  match k? with
  | none => .next s
  | some k =>
    match s.issueSlot l k with
    | .next t => .next (t.issued l k)
    | r => r

end Sys2Proof.Machine
end

