-- ==== Sys2Proof/Machine/Moves.lean ====
section
/-! DEFINITION. The moves of the panel that are no instruction's and no agent's step (log 1): what the outside world does,
what system software asks of the PCTL, the default order of moves; the line that a fetch word is placed in (log 5). -/

namespace Sys2Proof.Machine

/-- A word of memory disturbed: its check bits show a single or a double error. -/
def Mem.upset (m : Mem) (pa : Nat) (double : Bool) : Mem :=
  if double then { m with double := Marks.ins m.double (wordAt pa) } else { m with single := Marks.ins m.single (wordAt pa) }

/-- The page of the parked-message ring of core `l` of a context becomes uncorrectable: the engine refuses further messages,
and the PCTL reports the context to system software (R359). -/
def State.ringFails (s : State) (ctx l : Nat) : State :=
  match s.saveOf ctx l with
  | none => s
  | some k =>
    let b := Fmap.get {} s.pctl.saves k
    let p : Packet :=
      { priv := 2, ctx, lcn := l, eng := 7, deff := false, frz := false, slot := 0, cause := 0x33, pc := 0, apc := 0, faddr := 0, info := 0,
        gtb := s.gtb, src := peerKey s.panelId Config.srcPctl, fcnt := 0, record := 0 }
    if b.bad || !((s.ctx ctx).st matches .stopping | .saved) then s
    else s.modPctl fun x => { x with saves := Fmap.set x.saves k { b with bad := true, lcn := l }, packets := x.packets ++ [p] }

/-- A context placed by the PCTL (R135, R376): a new one with its cores' CTXID and CORELVL; of a saved one only where it is to be
resumed and its table entry (R355); a running one stays. -/
def State.placeCtx (s : State) (id : Nat) (c : Ctx) : State :=
  match (s.ctx id).st with
  | .saved =>
    s.modCtx id fun k => { k with place := c.place, sup := c.sup, loader := c.loader, root := c.root, ckpt := c.ckpt, area := c.area }
  | .running | .stopping => s
  | .absent =>
    let k : Ctx := { place := c.place, sup := c.sup, loader := c.loader, root := c.root, ckpt := c.ckpt, area := c.area, st := .running }
    let s := s.modCtx id fun _ => k
    (s.ctxCores id).foldl (fun s l =>
      let lvl := if k.lcnOf k.sup = some l || k.lcnOf k.loader = some l then 1 else 0
      s.modCore l fun x => (x.setSys 0 (word id)).setSys 0x12 (word lvl)) s

/-- A message that the PCTL sends as a system-level master. -/
def State.pctlSend (s : State) (m : Msg) : State :=
  let m : Msg := { m with spanel := s.panelId, src := Config.srcPctl, wtag := 2 }
  if m.vc = 2 then s.postedWrite 16 (peerKey m.dpanel m.dest) m else if m.vc = 1 then s else s.post m

/-- What system software asks of the PCTL. -/
def State.sysReq (s : State) : SysReq → Result
  | .place id c => .next (s.placeCtx id c)
  | .contain l => .next (if s.present l && (s.core l).health.contain = .live then s.modHealth l fun h => { h with trigger := true } else s)
  | .chan i e => .next (s.modFab fun f => { f with chans := Fmap.set f.chans i e })
  | .qp i e => .next (s.writeQp i e)
  | .key i e => .next (s.modFab fun f => { f with keys := Fmap.set f.keys i e })
  | .ethUp k => .next (s.modFab fun f => { f with eth := f.eth.setIfInBounds k true })
  | .write pa bs => .next (if spaceOf pa = 1 || spaceOf pa = 2 then (s.writeAt pa bs none).1 else s)
  | .level l lvl => .next (if lvl < 3 then s.modCore l fun c => c.setSys 0x12 (word lvl) else s)
  | .send m => .next (s.pctlSend m)

/-- A message that reaches a Welkin port (R412): an answer goes to its request slot, any other message to the ingress
bridge; what is not from another panel to this one is none. -/
def State.arrive (s : State) (port : Nat) (m : Msg) : State :=
  if m.dpanel ≠ s.panelId || m.spanel = s.panelId then s
  else if m.vc = 1 then s.send m else s.modNi (Config.srcOpt (port % 48 / 4)) fun n => { n with inq := n.inq ++ [m] }

/-- The oldest message of a port's queue leaves the panel (R411, R414, R416), while the port is up and the panel locked. -/
def State.depart (s : State) (port : Nat) : State :=
  s.modFab fun f =>
    match f.ports[port]? with
    | some p =>
      if p.down || p.training.isSome || !f.locked then f
      else { f with ports := f.ports.setIfInBounds port { p with q := p.q.drop 1 } }
    | none => f

/-- Time passes, but for the ticks that GTB holds (R414). -/
def State.tick (s : State) (n : Nat) : State :=
  let k := min n s.fab.skip
  { s with time := s.time + (n - k), fab := { s.fab with skip := s.fab.skip - k } }

/-- Whether a move starts the panel again after a stop. -/
def Move.powersOn : Move → Bool
  | .ev (.powerOnReset _) => true
  | _ => false

/-! ## The default order of moves (log 1) -/

/-- The steps of a slot's hardware. -/
def slotMoves (l k : Nat) : List (State → Result) :=
  [execSleepTimeReached l k, execLineFetch l k, execLocalPop l k, execRecordLoad l k, execL2TlbLookup l k, execPageWalk l k,
   execBarwaitTimeout l k]

/-- The handlers of a core. -/
def handlerMoves (l : Nat) : List (State → Result) :=
  [execLoadHandler l, execStoreHandler l, execAtomicHandler l, execLdwHandler l, execLdtHandler l, execStfHandler l,
   execStwHandler l, execLrqHandler l, execScqHandler l, execRelqHandler l, execAwaitRegistration l, execJoinArming l,
   execJoinDecrement l, execArmingEnd l, execEventSignal l] ++
  [execPublishHome l, execHsubHome l, execHunsubHome l, execHverHome l, execStoprefHome l, execRefchkHome l, execHcfgHome l,
   execRingReservation l, execRingPush l, execRingCredit l, execPageOwnerWrite l, execDebugWindowAccess l, execDbgctlResume l,
   execDbgctlSingleStep l, execDbgctlRetire l] ++
  [execDbgctlReleaseSupcall l, execDbgctlInvalidCommand l, execRlcmdLoad l, execRlcmdDrop l, execProgramHandler l,
   execDequePush l, execRingputHome l, execGroupMembershipRequest l, execGroupPartialArrival l, execCollectiveBoundary l,
   execCollectiveRelease l, execCommitNotice l, execCheckpointRequest l, execCheckpointTransfer l, execNeighbourLinkWord l,
   execNeighbourLinkCredit l]

/-- The engines and searches of a core, its Causeway channels, its way through a containment. -/
def engineMoves (l : Nat) : List (State → Result) :=
  [execStealSearch l, execStealRequest l, execStealResponse l, execStealRetryWait l, execVectorCommandStart l,
   execVectorResultWrite l, execReedResult l, execCxloadInstall l, execMatrixCommandComplete l, execMatrixQueueHeadExecute l,
   execCopyCommandStart l, execCopySegmentEnd l, execCopyComplete l, execCombineRequest l, execCheckpointRequestRepeat l] ++
  [execContainmentHold l, execSpareSubstitution l, execContainmentRestore l, execContainmentReplay l, execContainmentLive l,
   execMatrixGrant (clusterOf l), execMatrixGrantEnd (clusterOf l)] ++
  (List.range 4).flatMap (fun ch => [execCausewaySignal l ch, execCausewayRelease l ch, execCausewayReleasePass l ch]) ++
  (List.range 8).map fun k => execCombineWindowClose (clusterOf l) k

/-- The containment of a core for which a trigger stands (R393). -/
def State.triggered (s : State) (l : Nat) : Result :=
  if (s.core l).health.trigger || 3 ≤ (s.core l).health.missed then execContainmentTrigger l s else .next s

/-- The moves of a core. -/
def coreMoves (l : Nat) : List (State → Result) :=
  [fun s => s.port l false, fun s => s.port l true, fun s => s.triggered l] ++ (List.range 16).flatMap (slotMoves l) ++ handlerMoves l ++ engineMoves l

/-- What an agent's NI does: messages taken, answers, re-sends. -/
def State.agentMoves (s : State) (a : Nat) : List (State → Result) :=
  let n := (s.ni a).posted.length + (if a < 8192 then (s.core a).reqs.length else 0)
  (List.range (s.heads a).length).map (execMessageAccept a) ++ (List.range (s.returning a).length).map (execResponseReturn a) ++
    [execPostedCreditReturn a, execMessageDivert a, execControlWordTransition a, execRefire a, execFaultPacketReceive a,
     execRegisterWrite a, execControlSpaceAccess a, execTlbinvRequest a, execRemapFenceStart a, execFabricFenceStart a] ++
    (List.range n).flatMap (fun k => [execPostedRetryResend a k, execParkedRingRetryResend a k, execDequePushRetry a k]) ++
    (List.range s.fab.held.length).map (execFabricHoldTimeout a)

/-- What a die's agent does. -/
def dieMoves (d : Nat) : List (State → Result) :=
  [execCardAcceptance d, execDealChunk d, execDealRequest d, execDealHome d, execDealerSlotReread d, execGovsetApply d,
   execGovernorTick d, execPreemptStop d] ++ (List.range 8).map (execDealerSlotRotation d) ++ (List.range 8).map (execLinkRetrainEnd d)

/-- What the PCTL, the memory bridges and the optical bridges do. -/
def State.panelMoves (s : State) : List (State → Result) :=
  [execSweep, execSweepResult, execSettleArm, execPreemptComplete, execContextRestore, execRemapFenceEnd, execFabricFenceEnd,
   execThermalHold, execThermalResume, execGtbSlew] ++ (List.range Config.memBridges).map execHbmAccess ++ (List.range 48).map execWelkinRetrainEnd ++
  (List.range 12).flatMap (fun b => (List.range (s.ni (Config.srcOpt b)).inq.length).map (execIngressLookup b)) ++
  (List.range 48).map fun port (s : State) => .next (s.depart port)

/-- The numbers of a list, each once. -/
def distinct : List Nat → List Nat
  | [] => []
  | a :: t => a :: (distinct t).filter (· != a)

/-- The agents that hold anything or that a message is for, and of the others the first that a fence or an invalidation waits
for. -/
def State.agents (s : State) : List Nat :=
  let as := distinct (s.cores.map Prod.fst ++ s.nis.map Prod.fst ++ s.net.map Msg.dest)
  let next (l : List Nat) : List Nat := (l.find? fun a => !as.contains a).toList
  distinct (as ++ next (s.pctl.fences.flatMap Fence.left) ++ next (s.pctl.invs.flatMap Inv.left))

/-- The moves that the panel can make by itself, in the default order. -/
def State.ownMoves (s : State) : List (State → Result) :=
  let as := s.agents
  (as.filter (· < 8192)).flatMap coreMoves ++ as.flatMap s.agentMoves ++ (s.dies.map Prod.fst).flatMap dieMoves ++ s.panelMoves

/-- The move of the default order: the panel's own moves in turn, and then a tick. -/
def State.ownMove (s : State) : Result :=
  let ms := s.ownMoves
  match ms[s.turn % (ms.length + 1)]? with
  | some f => f s
  | none => .next (s.tick 1)

/-- A move made. -/
def State.move (s : State) : Move → Result
  | .issue l mt => s.port l mt
  | .ev i => exec i s
  | .tick n => .next (s.tick n)
  | .inject port m => .next (s.arrive port m)
  | .egress port => .next (s.depart port)
  | .upset pa double => .next (s.modMem fun m => m.upset pa double)
  | .ringUpset ctx l => .next (s.ringFails ctx l)
  | .sys r => s.sysReq r

/-! ## A line for one slot -/

/-- The line word for a slot 0 that is a branch target, the other slots zero: their parities and the word's own. -/
def oneLineWord (slot : Nat) : Nat :=
  let w := 2 ^ 5 + (ones 96 slot % 2) * 2 ^ 16
  w + (ones 32 w % 2) * 2 ^ 21

/-- The line that holds a slot 0. -/
def oneLine (slot : Nat) : Vec := BitVec.ofNat 512 (slot % 2 ^ 96 + oneLineWord (slot % 2 ^ 96) * 2 ^ 480)

end Sys2Proof.Machine
end

