-- ==== Sys2Proof/Machine/Step.lean ====
section
/-! DEFINITION. One step of the panel: the next move of the agenda, or of the default order (log 1); and where a fetch word
is placed (log 5). -/

namespace Sys2Proof.Machine

/-- A step: on a stopped panel only a power-on reset is a move. -/
def step (s : State) : Host.Outcome State Fault Refusal :=
  match s.agenda with
  | m :: t => if s.stopped && !m.powersOn then .fault .emergencyStopped else State.move { s with agenda := t } m
  | [] => if s.stopped then .fault .emergencyStopped else State.ownMove { s with turn := s.turn + 1 }

/-- The state with a slot word where the next step fetches: slot 0 of core 0 runs at PC 0 and holds a snapshot of the line,
and the next move is an issue of core 0's worker port. -/
def State.withFetchWord (s : State) (_nbits w : Nat) : State :=
  let t := { s.slot 0 0 with state := .running, pc := 0 }
  let c := ((s.core 0).putLine { va := 0, data := oneLine w }).setSlot 0 t
  { s.setCore 0 c with agenda := .issue 0 false :: s.agenda }

end Sys2Proof.Machine
end

