-- ==== Sys2Proof/Safety.lean ====
section
/-! DEFINITION. What the statements about runs are made of: the invariant that every step keeps, and when an instruction
runs: its level, its guard, its registers and its queue are as the rules ask; when the words of an access are sound. -/

namespace Sys2Proof.Machine

/-- The invariant: memory keeps its canonical form. -/
def State.Inv (s : State) : Prop := s.mem.wf = true

/-- When an instruction that uses `u` executes: its level is high enough (R4), its guard is known and true (R54), no
register that it names has a result on its way (R52), and no x register that it names is bound to a ring or an
endpoint (R191). -/
structure State.Ready (s : State) (u : Uses) : Prop where
  level : u.lvl ≤ s.me.level
  guard : s.thr.gate u.gd = some true
  x : ∀ r ∈ u.rx ++ u.wx, r ≠ 0 → s.thr.regs.xp[r].n = 0
  v : ∀ r ∈ u.rv ++ u.wv, s.thr.regs.vp[r].n = 0
  g : ∀ r ∈ u.rg ++ u.wg, r ≠ 0 → s.thr.regs.gp[r].n = 0
  unbound : ∀ r ∈ u.rx ++ u.wx, s.thr.bind r = none

/-- When the memory path of the executing thread takes an access at once (R216, R230): no acquire is open, no vector
memory command of the thread is queued, a request slot is free, and before a release every prior access has been
performed. -/
def State.PathOpen (s : State) (release : Bool) : Prop := s.orderStop release = none

/-- The thread is a worker, not the message thread. -/
def State.Worker (s : State) : Prop := s.cur.slot ≠ 15

/-- No word that `n` bytes at `pa` of a slice touch has a failed bank, an error of its check bits, or poison, and none lies in the overflow
list of a wait table that is in use. -/
structure State.Sound (s : State) (pa n : Nat) : Prop where
  banks : (s.core (sliceLcn pa)).health.badBanks = []
  listed : (s.core (sliceLcn pa)).inOverflow (sliceOff pa) n = false
  words : ∀ w ∈ wordsIn pa n, s.mem.poisoned w = false ∧ s.mem.single.contains w = false ∧ s.mem.double.contains w = false

end Sys2Proof.Machine
end

