-- ==== Sys2Proof/Certificates/Slice0/Obligations.lean ====
section
/-! DEFINITION. The statements for the provers. -/

namespace Sys2Proof

open Machine

/-! ## What the statements are made of -/

/-- An x register of the executing thread, as the register file holds it; x0 is zero. -/
def Claim.x (s : State) (r : Fin 32) : Word := if r = 0 then 0 else s.thr.regs.x[r]

/-- The second operand of a scalar instruction: a register, or the immediate sign-extended (R78). -/
def Claim.y (s : State) : Src → Word
  | .reg r => Claim.x s r
  | .imm v => v.signExtend 64

/-- The executing thread with an x register written, as the next instruction finds it. -/
def Claim.setX (s : State) (d : Fin 32) (v : Word) : State := s.begin.modThr fun t => t.setX d v

/-- The executing thread with a guard written. -/
def Claim.setG (s : State) (d : Fin 16) (b : Bool) : State := s.begin.modThr fun t => t.setG d b

/-- A 64-bit result, or a 32-bit one sign-extended for a `.W` form (R78). -/
def Claim.width (w : Bool) (r64 : Word) (r32 : BitVec 32) : Word := if w then r32.signExtend 64 else r64

/-- One scalar instruction of two operands: ready, it writes `f64` of its operands, or `f32` of their low halves, and
changes nothing else. -/
def Claim.alu (mk : Alu → Instr) (f64 : Word → Word → Word) (f32 : BitVec 32 → BitVec 32 → BitVec 32) : Prop :=
  ∀ (a : Alu) (s : State), (mk a).wf = true → s.Ready (mk a).uses →
    exec (mk a) s = .next (Claim.setX s a.d (Claim.width a.w (f64 (Claim.x s a.s1) (Claim.y s a.src))
      (f32 ((Claim.x s a.s1).setWidth 32) ((Claim.y s a.src).setWidth 32))))

/-- One scalar instruction of one operand. -/
def Claim.un (mk : Un → Instr) (f64 : Word → Nat) (f32 : BitVec 32 → Nat) : Prop :=
  ∀ (a : Un) (s : State), s.Ready (mk a).uses →
    exec (mk a) s = .next (Claim.setX s a.d (Claim.width a.w (BitVec.ofNat 64 (f64 (Claim.x s a.s1)))
      (BitVec.ofNat 32 (f32 ((Claim.x s a.s1).setWidth 32)))))

/-- The high half of a 128-bit product. -/
def Claim.high (x y : BitVec 128) : Word := (x * y).extractLsb' 64 64

/-- The number of bits at the head of a list that are zero. -/
def Claim.zeros (l : List Bool) : Nat := (l.takeWhile (!·)).length

/-- The bits of a vector, least significant first. -/
def Claim.bits {n : Nat} (x : BitVec n) : List Bool := (List.range n).map x.getLsbD

/-! ## Scalar arithmetic (R78-R82) -/

/-- ADD, SUB, AND, OR, XOR and the shifts of Table 4.1. -/
def Part.SumsLogicShifts : Prop :=
  Claim.alu .add (· + ·) (· + ·) ∧ Claim.alu .sub (· - ·) (· - ·) ∧
  Claim.alu .and (· &&& ·) (fun a _ => a) ∧ Claim.alu .or (· ||| ·) (fun a _ => a) ∧ Claim.alu .xor (· ^^^ ·) (fun a _ => a) ∧
  Claim.alu .sll (fun a b => a <<< (b.toNat % 64)) (fun a b => a <<< (b.toNat % 32)) ∧
  Claim.alu .srl (fun a b => a >>> (b.toNat % 64)) (fun a b => a >>> (b.toNat % 32)) ∧
  Claim.alu .sra (fun a b => a.sshiftRight (b.toNat % 64)) (fun a b => a.sshiftRight (b.toNat % 32))

/-- The products and quotients of Table 4.1. -/
def Part.ProductsQuotients : Prop :=
  Claim.alu .mul (· * ·) (· * ·) ∧
  Claim.alu .mulh (fun a b => Claim.high (a.signExtend 128) (b.signExtend 128)) (fun a _ => a) ∧
  Claim.alu .mulhm (fun a b => Claim.high (a.signExtend 128) (b.zeroExtend 128)) (fun a _ => a) ∧
  Claim.alu .mulhu (fun a b => Claim.high (a.zeroExtend 128) (b.zeroExtend 128)) (fun a _ => a) ∧
  Claim.alu .div BitVec.sdiv BitVec.sdiv ∧ Claim.alu .divu BitVec.udiv BitVec.udiv ∧
  Claim.alu .rem BitVec.srem BitVec.srem ∧ Claim.alu .remu BitVec.umod BitVec.umod

/-- The comparisons, minima and maxima of Table 4.1, and the counts of bits. -/
def Part.ComparisonsCounts : Prop :=
  Claim.alu .slt (fun a b => if a.slt b then 1 else 0) (fun a b => if a.slt b then 1 else 0) ∧
  Claim.alu .sltu (fun a b => if a.ult b then 1 else 0) (fun a b => if a.ult b then 1 else 0) ∧
  Claim.alu .min (fun a b => if a.slt b then a else b) (fun a b => if a.slt b then a else b) ∧
  Claim.alu .max (fun a b => if a.slt b then b else a) (fun a b => if a.slt b then b else a) ∧
  Claim.alu .minu (fun a b => if a.ult b then a else b) (fun a b => if a.ult b then a else b) ∧
  Claim.alu .maxu (fun a b => if a.ult b then b else a) (fun a b => if a.ult b then b else a) ∧
  Claim.un .clz (fun a => Claim.zeros (Claim.bits a).reverse) (fun a => Claim.zeros (Claim.bits a).reverse) ∧
  Claim.un .ctz (fun a => Claim.zeros (Claim.bits a)) (fun a => Claim.zeros (Claim.bits a)) ∧
  Claim.un .cpop (fun a => (Claim.bits a).count true) (fun a => (Claim.bits a).count true)

/-- LI and ADDPC: the immediate; the address of the slot at an offset, or all ones outside the address space. -/
def Part.LoadImmediate : Prop :=
  (∀ (gd : Guard) (d : Fin 32) (imm : Word) (s : State), s.Ready (Instr.li gd d imm).uses →
    exec (.li gd d imm) s = .next (Claim.setX s d imm)) ∧
  (∀ (gd : Guard) (d : Fin 32) (off : BitVec 32) (s : State) (n : Nat), s.Ready (Instr.addpc gd d off).uses →
    (lin s.thr.iss.b.toNat : Int) + off.toInt = n → slotpc n < 2 ^ 48 →
    exec (.addpc gd d off) s = .next (Claim.setX s d (BitVec.ofNat 64 (slotpc n)))) ∧
  (∀ (gd : Guard) (d : Fin 32) (off : BitVec 32) (s : State) (n : Int), s.Ready (Instr.addpc gd d off).uses →
    (lin s.thr.iss.b.toNat : Int) + off.toInt = n → n < 0 ∨ 2 ^ 48 ≤ slotpc n.toNat →
    exec (.addpc gd d off) s = .next (Claim.setX s d (BitVec.allOnes 64)))

/-! ## Compares and guards (R83-R86) -/

/-- A guard of the executing thread; g0 is true (R60). -/
def Claim.g (s : State) (r : Fin 16) : Bool := r == 0 || s.thr.regs.g[r]

/-- The condition of a compare (R83). -/
def Claim.cond {n : Nat} (c : Cond) (a b : BitVec n) : Bool :=
  match c with
  | .eq => a == b
  | .ne => a != b
  | .lt => a.slt b
  | .ge => b.sle a
  | .ltu => a.ult b
  | .geu => b.ule a

/-- CMP, TST and GLOG write the guard that their rules give, and nothing else.
GRD gathers the guards into a register, GWR spreads a register over the guards of a mask. -/
def Part.Guards : Prop :=
  (∀ (gd : Guard) (w : Bool) (c : Cond) (d : Fin 16) (s1 : Fin 32) (src : Src) (s : State),
    s.Ready (Instr.cmp gd w c d s1 src).uses →
    exec (.cmp gd w c d s1 src) s = .next (Claim.setG s d
      (if w then Claim.cond c ((Claim.x s s1).setWidth 32) ((Claim.y s src).setWidth 32)
       else Claim.cond c (Claim.x s s1) (Claim.y s src)))) ∧
  (∀ (gd : Guard) (z : Bool) (d : Fin 16) (s1 : Fin 32) (src : Src) (s : State), s.Ready (Instr.tst gd z d s1 src).uses →
    exec (.tst gd z d s1 src) s = .next (Claim.setG s d
      (if z then Claim.x s s1 &&& Claim.y s src == 0 else Claim.x s s1 &&& Claim.y s src != 0))) ∧
  (∀ (gd : Guard) (d a b : Fin 16) (tbl : BitVec 4) (s : State), s.Ready (Instr.glog gd d a b tbl).uses →
    exec (.glog gd d a b tbl) s = .next (Claim.setG s d
      (tbl.getLsbD (2 * (Claim.g s a).toNat + (Claim.g s b).toNat)))) ∧
  (∀ (gd : Guard) (d : Fin 32) (s : State), s.Ready (Instr.grd gd d).uses →
    ∃ v : Word, exec (.grd gd d) s = .next (Claim.setX s d v) ∧
      ∀ i : Nat, v.getLsbD i = (decide (i < 16) && Claim.g s (Fin.ofNat 16 i))) ∧
  (∀ (gd : Guard) (s1 : Fin 32) (mask : BitVec 16) (s : State), s.Ready (Instr.gwr gd s1 mask).uses →
    ∃ gs : Vector Bool 16,
      exec (.gwr gd s1 mask) s = .next (s.begin.modThr fun t => { t with regs := { t.regs with g := gs } }) ∧
      ∀ k : Fin 16, gs[k] = if k ≠ 0 ∧ mask.getLsbD k.val then (Claim.x s s1).getLsbD k.val else s.thr.regs.g[k])

/-! ## Transfers and loops (R87-R93) -/

/-- The executing thread goes on at `pc` (R42). -/
def Claim.goes (s : State) (pc : Addr) : State := s.modThr fun t => { t with ctl := .jump pc }

/-- The core holds the line of `pc`, and its BTM bit lets a transfer reach it (R45). -/
def Claim.Lands (s : State) (pc : Addr) : Prop := ∃ x, s.me.line? pc = some x ∧ lineBtm x.data (slotIdx pc) = true

/-- The link of a call: the slot after the transfer (R87). -/
def Claim.link (s : State) : Word := BitVec.ofNat 64 (slotpc (lin s.thr.iss.b.toNat + 1))

/-- `n` is the slot index at an offset from the executing slot, and a slot of the address space. -/
def Claim.At (s : State) (off : BitVec 40) (n : Nat) : Prop :=
  (lin s.thr.iss.b.toNat : Int) + off.toInt = n ∧ slotpc n < 2 ^ 48

/-- BR and BR.F transfer when their guard is true or false, and do nothing otherwise. -/
def Part.Branches : Prop :=
  (∀ (gd : Guard) (g2 : Fin 16) (off : BitVec 40) (s : State) (n : Nat), s.Ready (Instr.br gd g2 off).uses →
    Claim.At s off n → Claim.Lands s (BitVec.ofNat 48 (slotpc n)) →
    exec (.br gd g2 off) s =
      .next (if Claim.g s g2 then Claim.goes s.begin (BitVec.ofNat 48 (slotpc n)) else s.begin)) ∧
  (∀ (gd : Guard) (g2 : Fin 16) (off : BitVec 40) (s : State) (n : Nat), s.Ready (Instr.brF gd g2 off).uses →
    Claim.At s off n → Claim.Lands s (BitVec.ofNat 48 (slotpc n)) →
    exec (.brF gd g2 off) s =
      .next (if Claim.g s g2 then s.begin else Claim.goes s.begin (BitVec.ofNat 48 (slotpc n))))

/-- J, JAL, JR and JALR go to their targets; the calls write the link, and the target is read first.
A transfer to an address that is no slot, or that is not marked as a target, takes fault 0x03 with the address, and
writes no link (R45, R87-R90). -/
def Part.Jumps : Prop :=
  (∀ (gd : Guard) (off : BitVec 40) (s : State) (n : Nat), s.Ready (Instr.j gd off).uses → Claim.At s off n →
    Claim.Lands s (BitVec.ofNat 48 (slotpc n)) →
    exec (.j gd off) s = .next (Claim.goes s.begin (BitVec.ofNat 48 (slotpc n)))) ∧
  (∀ (gd : Guard) (d : Fin 32) (off : BitVec 40) (s : State) (n : Nat), s.Ready (Instr.jal gd d off).uses →
    Claim.At s off n → Claim.Lands s (BitVec.ofNat 48 (slotpc n)) →
    exec (.jal gd d off) s = .next (Claim.goes (Claim.setX s d (Claim.link s)) (BitVec.ofNat 48 (slotpc n)))) ∧
  (∀ (gd : Guard) (s1 : Fin 32) (s : State), s.Ready (Instr.jr gd s1).uses → isSlot (Claim.x s s1) = true →
    Claim.Lands s ((Claim.x s s1).setWidth 48) →
    exec (.jr gd s1) s = .next (Claim.goes s.begin ((Claim.x s s1).setWidth 48))) ∧
  (∀ (gd : Guard) (d s1 : Fin 32) (s : State), s.Ready (Instr.jalr gd d s1).uses → isSlot (Claim.x s s1) = true →
    Claim.Lands s ((Claim.x s s1).setWidth 48) →
    exec (.jalr gd d s1) s = .next (Claim.goes (Claim.setX s d (Claim.link s)) ((Claim.x s s1).setWidth 48))) ∧
  (∀ (gd : Guard) (d s1 : Fin 32) (s : State), s.cur.slot ≠ 15 →
     (isSlot (Claim.x s s1) = false ∨ ∃ x, s.me.line? ((Claim.x s s1).setWidth 48) = some x ∧ lparOk x.data = true ∧
       lineIllegal x.data = none ∧ lineBtm x.data (slotIdx ((Claim.x s s1).setWidth 48)) = false) →
     (s.Ready (Instr.jr gd s1).uses → exec (.jr gd s1) s = .next (s.begin.takeFault ⟨0x03, 0, Claim.x s s1⟩)) ∧
     (s.Ready (Instr.jalr gd d s1).uses → exec (.jalr gd d s1) s = .next (s.begin.takeFault ⟨0x03, 0, Claim.x s s1⟩)))

/-- What a loop instruction does to its level, and where the thread goes on (R92). -/
def Claim.loops (s : State) (lv : Fin 2) (cnt : BitVec 32) (e : Nat) (idx : Option (Fin 32)) (step : Word) : State :=
  if cnt = 0 then
    s.begin.modThr fun t =>
      { t.setLoop lv { t.loops[lv] with active := false } with
        iss := { t.iss with next := some (BitVec.ofNat 48 (slotpc (e + 1))) } }
  else
    s.begin.modThr fun t => t.setLoop lv
      { active := true, count := cnt, init := cnt, start := BitVec.ofNat 48 (slotpc (lin s.thr.iss.b.toNat + 1)),
        endpc := BitVec.ofNat 48 (slotpc e), idx, step }

/-- LOOP, LOOPI and LOOPX start their level, or skip the body at a count of zero (R92).
A loop whose end lies before it, at it with a count, or outside the address space takes fault 0x03 and changes no loop
state (R92). -/
def Part.LoopStarts : Prop :=
  (∀ (gd : Guard) (lv : Fin 2) (s1 : Fin 32) (off : BitVec 40) (s : State) (e : Nat), s.Ready (Instr.loop gd lv s1 off).uses →
    Claim.At s off e → ((Claim.x s s1).setWidth 32 = 0#32 → slotpc (e + 1) < 2 ^ 48) → off.msb = false →
    (off = 0 → (Claim.x s s1).setWidth 32 = 0#32) →
    exec (.loop gd lv s1 off) s = .next (Claim.loops s lv ((Claim.x s s1).setWidth 32) e none 0)) ∧
  (∀ (gd : Guard) (lv : Fin 2) (cnt : BitVec 24) (off : BitVec 40) (s : State) (e : Nat),
    s.Ready (Instr.loopi gd lv cnt off).uses → Claim.At s off e → (cnt = 0 → slotpc (e + 1) < 2 ^ 48) → off.msb = false →
    (off = 0 → cnt = 0) →
    exec (.loopi gd lv cnt off) s = .next (Claim.loops s lv (cnt.zeroExtend 32) e none 0)) ∧
  (∀ (gd : Guard) (lv : Fin 2) (d s1 sr : Fin 32) (off : BitVec 40) (s : State) (e : Nat),
    s.Ready (Instr.loopx gd lv d s1 sr off).uses → Claim.At s off e → ((Claim.x s s1).setWidth 32 = 0#32 → slotpc (e + 1) < 2 ^ 48) → off.msb = false →
    (off = 0 → (Claim.x s s1).setWidth 32 = 0#32) →
    exec (.loopx gd lv d s1 sr off) s = .next (Claim.loops s lv ((Claim.x s s1).setWidth 32) e (some d)
      (((Claim.x s sr).setWidth 32).signExtend 64))) ∧
  (∀ (gd : Guard) (lv : Fin 2) (s1 : Fin 32) (off : BitVec 40) (s : State), s.Ready (Instr.loop gd lv s1 off).uses →
     off.msb = true ∨ (off = 0 ∧ (Claim.x s s1).setWidth 32 ≠ 0#32) ∨
       2 ^ 48 ≤ slotpc ((lin s.thr.iss.b.toNat : Int) + off.toInt).toNat →
     ∃ w : Word, exec (.loop gd lv s1 off) s = .next (s.begin.takeFault ⟨0x03, 0, w⟩) ∧
       (0 ≤ (lin s.thr.iss.b.toNat : Int) + off.toInt →
         w = BitVec.ofNat 64 (slotpc ((lin s.thr.iss.b.toNat : Int) + off.toInt).toNat)) ∧
       ∀ t, exec (.loop gd lv s1 off) s = .next t → t.thr.loops = s.thr.loops)

/-- A level that ends at the slot that issued counts down; with iterations left the thread goes back to its start and the
index register of a LOOPX level steps, with none left the level becomes inactive (R93). -/
def Part.LoopEnds : Prop :=
  ∀ (s : State) (l : Nat) (k : Fin 16) (e : Addr) (lp : Loop), (s.slot l k).loops[1] = lp → lp.active = true →
    lp.endpc = e → (s.slot l k).loops[0].endpc ≠ e → lp.idx = none →
    s.loopEnd l k e =
      if lp.count = 1 then (s.modSlot l k fun t => t.setLoop 1 { lp with count := 0, active := false }, .seq, none)
      else (s.modSlot l k fun t => t.setLoop 1 { lp with count := lp.count - 1 }, .seq, some lp.start)

/-! ## Before an instruction: level, guard, registers (R4, R52, R54) -/

/-- The instructions that need a level (R4): WRSYS and RDSYS of some registers, CXTBL, BNDSET, CNTCLR of a context counter, GOVSET,
PREEMPT, RESUME, RDHMAP, RDLPT, QUIESCE, TLBINV, the RMAPSET forms, FREMAP. -/
def Claim.privileged : Instr → Bool
  | .wrsys .. | .rdsys .. | .cxtbl .. | .bndset .. | .cntclr .. | .govset .. | .preempt .. | .resume .. | .rdhmap .. | .rdlpt .. | .quiesce ..
  | .tlbinv .. | .rmapsetRemap .. | .rmapsetMarkDead .. | .rmapsetClearDead .. | .fremap .. => true
  | _ => false

/-- Below its level, an instruction that needs one takes the privilege fault 0x04 and has no effect, whatever its guard (R4). -/
def Part.PrivilegeFaults : Prop :=
  ∀ (i : Instr) (s : State), Claim.privileged i = true → s.me.level < i.uses.lvl →
    exec i s = .next (s.begin.takeFault ⟨0x04, 0, 0⟩)

/-- Instructions of no engine queue that read or write scalar registers and guards only. -/
def Claim.scalar : Instr → Bool
  | .nop .. | .add .. | .sub .. | .and .. | .or .. | .xor .. | .sll .. | .srl .. | .sra .. | .slt .. | .sltu .. | .mul ..
  | .mulh .. | .mulhm .. | .mulhu .. | .div .. | .divu .. | .rem .. | .remu .. | .min .. | .max .. | .minu .. | .maxu ..
  | .clz .. | .ctz .. | .cpop .. | .li .. | .addpc .. | .cmp .. | .tst .. | .glog .. | .grd .. | .gwr .. | .rdtime ..
  | .getid .. | .stealdom .. | .rdsys .. => true
  | _ => false

/-- Instructions of the control and memory-path families. -/
def Claim.pathOrControl : Instr → Bool
  | .j .. | .jal .. | .jr .. | .jalr .. | .br .. | .brF .. | .loop .. | .loopi .. | .loopx .. | .trap .. | .brk ..
  | .supcall .. | .wrsys .. | .sleepuntil .. | .fork .. | .spawn .. | .joindec .. | .suspend .. | .suspendJ .. | .await ..
  | .yield .. | .exit .. | .waitev .. | .sigev .. | .ld .. | .ldu .. | .st .. | .ldAcq .. | .stRel .. | .ldw .. | .ldt ..
  | .stf .. | .stw .. | .lrq .. | .scq .. | .relq .. | .amo .. | .fence .. | .fenceEng .. | .fenceI .. => true
  | _ => false

/-- A source or destination register with a result on its way makes the instruction fault with 0x05, with no effect
(R52). -/
def Part.UnsynchronisedFaults : Prop :=
  ∀ (i : Instr) (s : State) (r : Fin 32), Claim.scalar i = true ∨ Claim.pathOrControl i = true →
    i.uses.lvl ≤ s.me.level → s.thr.gate i.uses.gd = some true → r ∈ i.uses.rx ++ i.uses.wx → r ≠ 0 →
    s.thr.regs.xp[r].n ≠ 0 →
    ∃ q : Fin 32, q ∈ i.uses.rx ++ i.uses.wx ∧ s.thr.regs.xp[q].n ≠ 0 ∧
      exec i s = .next (s.begin.takeFault ⟨0x05, BitVec.ofNat 64 (q.val * 256), 0⟩)

/-! ## Faults (R110, R236-R241) -/

/-- What stands after a precise fault of slot `k` of core `l` (R236, R237, R240): the slot is frozen with its PC at the
instruction or the first slot of its pair, its registers as they were; the core is frozen and its steal search ended; the last
packet names the cause. -/
structure Claim.Faulted (s t : State) (l : Nat) (k : Fin 16) (c : Cause) : Prop where
  state  : (t.slot l k).state = .frozen
  pc     : (t.slot l k).pc = (s.slot l k).iss.first
  regs   : (t.slot l k).regs = (s.slot l k).regs
  frozen : (t.core l).flt.frozen = true
  steal  : (t.core l).steal.active = false
  others : ∀ j : Fin 16, j ≠ k → j ≠ 15 → (t.slot l j).state = if (s.slot l j).state = .running then .frozen else (s.slot l j).state
  count  : (t.core l).flt.fcnt = min 0xFFFF ((s.core l).flt.fcnt + 1)
  packet : ∃ p : Packet, (t.core l).flt.last = some p ∧ p.cause = c.cause ∧ p.deff = false ∧ p.frz = true ∧ p.slot = k.val ∧
    p.lcn = l ∧ p.ctx = (s.core l).ctxid ∧ p.priv = (s.core l).level ∧ p.pc = (s.slot l k).iss.first ∧ p.apc = p.pc ∧
    p.faddr = c.faddr ∧ p.gtb = s.gtb ∧ p.info = c.info ||| BitVec.ofNat 64 ((s.slot l k).iss.b.toNat % 64 / 12 * 2 ^ 19)
  memory : t.mem = s.mem

/-- TRAP and BRK take their faults with the code as extra information (R110). -/
def Part.TrapAndBreak : Prop :=
  (∀ (gd : Guard) (code : BitVec 16) (s : State), s.Ready (Instr.trap gd code).uses →
    ∃ t, exec (.trap gd code) s = .next t ∧
      Claim.Faulted s t s.cur.lcn s.cur.slot ⟨0x17, code.zeroExtend 64, 0⟩) ∧
  (∀ (gd : Guard) (code : BitVec 16) (s : State), s.Ready (Instr.brk gd code).uses →
    ∃ t, exec (.brk gd code) s = .next t ∧
      Claim.Faulted s t s.cur.lcn s.cur.slot ⟨0x18, code.zeroExtend 64, 0⟩)

/-- SUPCALL parks its slot in a supervisor call and sends a packet that freezes nothing (R111). -/
def Part.SupervisorCall : Prop :=
  ∀ (gd : Guard) (code : BitVec 16) (s : State), s.Ready (Instr.supcall gd code).uses → s.Worker →
    s.begin.orderStop true = none →
    ∃ t, exec (.supcall gd code) s = .next t ∧ t.thr.state = .parked ∧ t.thr.park = .supcall ∧ t.thr.regs = s.thr.regs ∧
      t.me.flt.frozen = s.me.flt.frozen ∧ t.mem = s.mem ∧
      ∃ p : Packet, t.me.flt.last = some p ∧ p.cause = 0x19 ∧ p.frz = false ∧ p.slot = s.cur.slot.val ∧
        p.info.extractLsb' 0 16 = code

/-! ## System registers and time (R107, R108, R112, R134) -/

/-- NOP, RDTIME, GETID and STEALDOM have their effects, RDSYS reads an assigned register and WRSYS writes a value that the
register accepts.
RDSYS and WRSYS of an unassigned number, and WRSYS of a register that cannot be written, take fault 0x1B with the number and
the direction (R112). -/
def Part.SystemRegisters : Prop :=
  (∀ (gd : Guard) (s : State), s.Ready (Instr.nop gd).uses → exec (.nop gd) s = .next s.begin) ∧
  (∀ (gd : Guard) (d : Fin 32) (s : State), s.Ready (Instr.rdtime gd d).uses →
    exec (.rdtime gd d) s = .next (Claim.setX s d s.gtb)) ∧
  (∀ (gd : Guard) (src : Src) (s : State), s.Ready (Instr.stealdom gd src).uses →
    exec (.stealdom gd src) s = .next (s.begin.modMe fun c => c.setSys 3 (Claim.y s src))) ∧
  (∀ (gd : Guard) (d : Fin 32) (n : BitVec 12) (s : State), s.Ready (Instr.rdsys gd d n).uses →
    (sysReadLevel n.toNat).isSome = true → n ≠ 1 → n ≠ 0xB →
    exec (.rdsys gd d n) s = .next (Claim.setX s d (s.me.sys n.toNat))) ∧
  (∀ (gd : Guard) (d : Fin 32) (s : State), s.Ready (Instr.rdsys gd d 1).uses →
    exec (.rdsys gd d 1) s = .next (Claim.setX s d (BitVec.ofNat 64 s.me.level))) ∧
  (∀ (gd : Guard) (d : Fin 32) (s : State), s.Ready (Instr.rdsys gd d 0xB).uses →
    exec (.rdsys gd d 0xB) s = .next (Claim.setX s d (s.corestat s.cur.lcn))) ∧
  (∀ (gd : Guard) (n : BitVec 12) (s1 : Fin 32) (s : State), s.Ready (Instr.wrsys gd n s1).uses →
    s.me.sysOk s.cur.lcn n.toNat (Claim.x s s1) = true → n = 0xC ∨ n = 0xD →
    exec (.wrsys gd n s1) s = .next (s.begin.modMe fun c => c.setSys n.toNat 0)) ∧
  (∀ (gd : Guard) (n : BitVec 12) (s1 : Fin 32) (s : State), s.Ready (Instr.wrsys gd n s1).uses →
    (sysWriteLevel n.toNat).isSome = true → s.me.sysOk s.cur.lcn n.toNat (Claim.x s s1) = true → n ≠ 0xC → n ≠ 0xD →
    exec (.wrsys gd n s1) s = .next (s.begin.modMe fun c => c.setSys n.toNat (Claim.x s s1 &&& sysMask n.toNat))) ∧
  (∀ (gd : Guard) (d : Fin 32) (n : BitVec 12) (s : State), s.Ready (Instr.rdsys gd d n).uses → sysReadLevel n.toNat = none →
    exec (.rdsys gd d n) s = .next (s.begin.takeFault ⟨0x1B, n.zeroExtend 64, 0⟩)) ∧
  (∀ (gd : Guard) (n : BitVec 12) (s1 : Fin 32) (s : State), s.Ready (Instr.wrsys gd n s1).uses →
    sysWriteLevel n.toNat = none →
    exec (.wrsys gd n s1) s = .next (s.begin.takeFault ⟨0x1B, n.zeroExtend 64 + 4096, 0⟩))

/-- GETID reads the identity that its selector names (Table 4.9). -/
def Part.Identities : Prop :=
  ∀ (gd : Guard) (d : Fin 32) (sel : Fin 9) (s : State), s.Ready (Instr.getid gd d sel).uses →
    ∃ v : Nat, exec (.getid gd d sel) s = .next (Claim.setX s d (BitVec.ofNat 64 v)) ∧
      (sel = 0 → v = s.cur.lcn) ∧ (sel = 2 → v = s.cur.slot.val) ∧ (sel = 3 → v = dieOf s.cur.lcn) ∧
      (sel = 4 → v = dieOf s.cur.lcn * 4 + (s.cur.lcn / 128 % 4 / 2 * 2 + s.cur.lcn % 128 % 8 / 4)) ∧
      (sel = 5 → v = s.cur.lcn / 128 % 2 * 4 + s.cur.lcn % 4) ∧ (sel = 6 → v = s.me.ctxid) ∧
      (sel = 7 → v = s.panelId % 64) ∧ (sel = 8 → v = s.physOf s.cur.lcn) ∧
      (sel = 1 → ∀ n, (s.ctx s.me.ctxid).ccnOf s.cur.lcn = some n → v = n)

/-! ## Scalar memory instructions at issue (R213-R226) -/

/-- The address of a memory instruction (R213). -/
def Claim.va (s : State) (a : MemForm) : Word := Claim.x s a.base + Claim.y s a.off

/-- The address is below 2^48 and a multiple of the size. -/
def Claim.Aligned (va : Word) (n : Nat) : Prop := va.toNat < 2 ^ 48 ∧ va.toNat % n = 0

/-- LD, LDU, LD.ACQ and AMO mark their destination pending and put one access of their size into the path (R213, R218, R224). -/
def Part.LoadsIssue : Prop :=
  (∀ (a : MemForm) (s : State), s.Ready (Instr.ld a).uses → s.Worker → Claim.Aligned (Claim.va s a) (2 ^ a.size.val) →
    s.begin.orderStop false = none →
    exec (.ld a) s = .next ((s.begin.modThr fun t => t.markX .path a.r).enqueue
      { va := Claim.va s a, bytes := 2 ^ a.size.val, perm := .r, op := .mem (.load (2 ^ a.size.val)), apc := s.thr.iss.b,
        cont := .load a.r (2 ^ a.size.val) true false })) ∧
  (∀ (a : MemForm) (s : State), s.Ready (Instr.ldu a).uses → s.Worker → Claim.Aligned (Claim.va s a) (2 ^ a.size.val) →
    s.begin.orderStop false = none →
    exec (.ldu a) s = .next ((s.begin.modThr fun t => t.markX .path a.r).enqueue
      { va := Claim.va s a, bytes := 2 ^ a.size.val, perm := .r, op := .mem (.load (2 ^ a.size.val)), apc := s.thr.iss.b,
        cont := .load a.r (2 ^ a.size.val) false false })) ∧
  (∀ (a : MemForm) (s : State), s.Ready (Instr.ldAcq a).uses → s.Worker → Claim.Aligned (Claim.va s a) (2 ^ a.size.val) →
    s.begin.orderStop false = none →
    exec (.ldAcq a) s = .next (((s.begin.modThr fun t => t.markX .path a.r).modThr fun t => { t with acq := t.acq + 1 }).enqueue
      { va := Claim.va s a, bytes := 2 ^ a.size.val, perm := .r, op := .mem (.load (2 ^ a.size.val)), apc := s.thr.iss.b,
        cont := .load a.r (2 ^ a.size.val) true true })) ∧
  (∀ (gd : Guard) (w : Bool) (op : AmoOp) (aq rl : Bool) (d s1 : Fin 32) (src : Src) (s3 : Fin 32) (s : State),
    s.Ready (Instr.amo gd w op aq rl d s1 src s3).uses → s.Worker → Claim.Aligned (Claim.x s s1) (if w then 4 else 8) →
    s.begin.orderStop rl = none →
    exec (.amo gd w op aq rl d s1 src s3) s = .next ((if aq
      then (s.begin.modThr fun t => t.markX .path d).modThr fun t => { t with acq := t.acq + 1 }
      else s.begin.modThr fun t => t.markX .path d).enqueue
      { va := Claim.x s s1, bytes := if w then 4 else 8, perm := .rw,
        op := .mem (.amo w op (Claim.y s src) (if op = .cas then Claim.x s s3 else 0)), apc := s.thr.iss.b,
        cont := .amo d w aq }))

/-- ST, ST.REL and STF put one write of the low bytes of their datum into the path; the last two only after every prior access
has been performed (R218, R221, R230). -/
def Part.StoresIssue : Prop :=
  (∀ (a : MemForm) (s : State), s.Ready (Instr.st a).uses → s.Worker → Claim.Aligned (Claim.va s a) (2 ^ a.size.val) →
    s.begin.orderStop false = none →
    exec (.st a) s = .next (s.begin.enqueue
      { va := Claim.va s a, bytes := 2 ^ a.size.val, perm := .w, op := .mem (.store (toBytes (2 ^ a.size.val) (Claim.x s a.r).toNat)),
        apc := s.thr.iss.b, cont := .done })) ∧
  (∀ (a : MemForm) (s : State), s.Ready (Instr.stRel a).uses → s.Worker → Claim.Aligned (Claim.va s a) (2 ^ a.size.val) →
    s.begin.orderStop true = none →
    exec (.stRel a) s = .next (s.begin.enqueue
      { va := Claim.va s a, bytes := 2 ^ a.size.val, perm := .w, op := .mem (.store (toBytes (2 ^ a.size.val) (Claim.x s a.r).toNat)),
        apc := s.thr.iss.b, cont := .done })) ∧
  (∀ (a : MemForm) (s : State), s.Ready (Instr.stf a).uses → s.Worker → Claim.Aligned (Claim.va s a) 8 →
    s.begin.orderStop true = none →
    exec (.stf a) s = .next (s.begin.enqueue
      { va := Claim.va s a, bytes := 8, perm := .rw, op := .mem (.stf (Claim.x s a.r)), apc := s.thr.iss.b, cont := .done }))

/-! ## Task instructions at issue (R95-R105) -/

/-- The executing thread parked until an answer comes. -/
def Claim.parked (s : State) (p : Park) : State := s.modThr fun t => t.parkWait p

/-- The first eight words of a child's record (R96). -/
def Claim.child (s : State) (ent jw : Word) (dom : Fin 8) (pri : Fin 4) : List Byte :=
  bytesOf [ent, Claim.x s 8, Claim.x s 10, Claim.x s 11, Claim.x s 12, Claim.x s 13, jw, Ctrl.fresh s.me.ctxid dom.val pri.val]

/-- The thread may suspend: no result is on its way, every prior access has been performed, and no queue binding, loop or
reservation is live (R30). -/
structure Claim.CanSuspend (s : State) (ra : Word) : Prop where
  worker : s.Worker
  quiet  : s.me.quiet s.cur.slot = true
  done   : s.begin.orderStop true = none
  clean  : s.thr.live = false
  record : s.thr.record = some ra

/-- The write-back of a running record: PC of the next slot, FP, A0-A3, and the control word's transition. -/
def Claim.back (s : State) (ra : Word) (k : Susp) : State :=
  (Claim.parked s.begin .response).enqueue
    { va := ra, bytes := 64, perm := .rw, apc := s.thr.iss.b, cont := .backed k false,
      op := .ctl (.back (BitVec.ofNat 48 (slotpc (lin s.thr.iss.b.toNat + 1)))
        [Claim.x s 8, Claim.x s 10, Claim.x s 11, Claim.x s 12, Claim.x s 13] k false) }

/-- What a WAITEV with a nonzero mask does from state `s`: with a masked event it ends, else its thread parks; both are one step
(R104). -/
def Claim.wait (s : State) (d : Fin 32) (m : BitVec 16) : State :=
  if s.thr.ev &&& m ≠ 0 then
    (s.modThr fun t => { t with ev := t.ev &&& ~~~m, watch := none }).modThr fun t => t.setX d ((s.thr.ev &&& m).zeroExtend 64)
  else (s.modThr fun t => { t with evMask := m }).modThr fun t => t.parkRetry .events

/-! ## Engine commands at issue (R55, R170, R193-R206, R289-R298) -/

/-- Vector and custom commands that have no test at issue beside those of the queue. -/
def Claim.vec : Instr → Bool
  | .vadd .. | .vsub .. | .vmul .. | .vfma .. | .vmin .. | .vmax .. | .vabs .. | .vneg .. | .vand .. | .vor .. | .vxor ..
  | .vshl .. | .vshr .. | .vcmp .. | .vsel .. | .vperm .. | .vslide .. | .vbcast .. | .vmovx .. | .vins .. | .vred ..
  | .vsettag .. | .vgettag .. | .vcvt .. | .vqnt .. | .vdqnt .. | .vld .. | .vst .. | .vlds .. | .vsts .. | .vldx .. | .vstx ..
  | .bndset .. => true
  | _ => false

/-- Command `i` of the executing thread stands at the end of the vector queue: its scalars are those of the register file at
issue, its guard is true, its destinations are pending, the thread counts one more command, and no register has changed. -/
structure Claim.VecQueued (s t : State) (i : Instr) (xs : List Word) : Prop where
  queue  : ∃ q : VCmd, t.me.veng.q = s.me.veng.q ++ [q] ∧ q.op = i ∧ q.slot = s.cur.slot.val ∧ q.gd = .known true ∧
    q.xs = xs.map some ∧ q.apc = s.thr.iss.b ∧ q.no = s.me.cmdNo ∧ q.lfsr = s.thr.lfsr
  number : t.me.cmdNo = s.me.cmdNo + 1
  count  : t.thr.engOut = s.thr.engOut + 1
  x      : t.thr.regs.x = s.thr.regs.x
  v      : t.thr.regs.v = s.thr.regs.v
  g      : t.thr.regs.g = s.thr.regs.g
  xp     : ∀ d ∈ i.uses.wx, d ≠ 0 → t.thr.regs.xp[d].n ≠ 0
  vp     : ∀ d ∈ i.uses.wv, t.thr.regs.vp[d].n ≠ 0
  gp     : ∀ d ∈ i.uses.wg, d ≠ 0 → t.thr.regs.gp[d].n ≠ 0
  memory : t.mem = s.mem

/-- VQPOP and VQPUSH enter the queue when their register is bound in their direction, and take fault 0x27 with reason 10
otherwise; VSEND enters it with its address, or none for a bound ring; CXOP enters it when a graph slot holds its operation, and
takes 0x1C with its number otherwise (R193, R194, R206). -/
def Part.QueueAndCustomCommands : Prop :=
  (∀ (gd : Guard) (d : Fin 16) (s1 : Fin 32) (s : State), s.Ready (Instr.vqpop gd d s1).uses → s.me.veng.q.length < 2 →
    (∀ b, s.thr.bind s1 = some b → b.push = false →
      ∃ t, exec (.vqpop gd d s1) s = .next t ∧ Claim.VecQueued s t (.vqpop gd d s1) []) ∧
    (s.thr.bind s1 = none → exec (.vqpop gd d s1) s = .next (s.begin.takeFault ⟨0x27, 10, 0⟩))) ∧
  (∀ (gd : Guard) (s3 : Fin 16) (s1 : Fin 32) (s : State), s.Ready (Instr.vqpush gd s3 s1).uses → s.me.veng.q.length < 2 →
    s.thr.acq = 0 →
    (∀ b, s.thr.bind s1 = some b → b.push = true →
      ∃ t, exec (.vqpush gd s3 s1) s = .next t ∧ Claim.VecQueued s t (.vqpush gd s3 s1) []) ∧
    (s.thr.bind s1 = none → exec (.vqpush gd s3 s1) s = .next (s.begin.takeFault ⟨0x27, 10, 0⟩))) ∧
  (∀ (gd : Guard) (s3 : Fin 16) (s1 : Fin 32) (wtag : Tag) (imm : BitVec 32) (s : State),
    s.Ready (s.usesOf (.vsend gd s3 s1 wtag imm)) → s.me.veng.q.length < 2 → s.thr.acq = 0 → s.thr.bind s1 = none →
    ∃ t, exec (.vsend gd s3 s1 wtag imm) s = .next t ∧ Claim.VecQueued s t (.vsend gd s3 s1 wtag imm) [Claim.x s s1]) ∧
  (∀ (gd : Guard) (mode : RMode) (d s1 s2 s3 : Fin 16) (n : BitVec 8) (sc : Fin 32) (s : State) (k : Fin 4),
    s.Ready (s.usesOf (.cxop gd mode d s1 s2 s3 n sc)) → s.me.veng.q.length < 2 → s.me.cxAt n.toNat = some k →
    s.me.veng.gs[k].away = false →
    ∃ t q, exec (.cxop gd mode d s1 s2 s3 n sc) s = .next t ∧ t.me.veng.q = s.me.veng.q ++ [q] ∧
      q.op = .cxop gd mode d s1 s2 s3 n sc ∧ q.cxslot = k.val ∧ q.gd = .known true ∧ t.thr.regs.v = s.thr.regs.v ∧
      t.thr.regs.vp[d].n ≠ 0) ∧
  (∀ (gd : Guard) (mode : RMode) (d s1 s2 s3 : Fin 16) (n : BitVec 8) (sc : Fin 32) (s : State),
    s.Ready (s.usesOf (.cxop gd mode d s1 s2 s3 n sc)) → s.me.veng.q.length < 2 → s.me.cxAt n.toNat = none →
    exec (.cxop gd mode d s1 s2 s3 n sc) s = .next (s.begin.takeFault ⟨0x1C, n.zeroExtend 64, 0⟩))

/-- A value that the core itself delivers to x[d]: the register is pending, and the answer under way carries the value (R51). -/
def Claim.Later (s t : State) (d : Fin 32) (v : Word) : Prop :=
  (d ≠ 0 → t.thr.regs.xp[d].n ≠ 0) ∧ t.thr.regs.x = s.thr.regs.x ∧ t.mem = s.mem ∧
  ∃ q ∈ t.me.reqs, q.slot = s.cur.slot.val ∧ q.cont = .value d ∧
    ∃ m ∈ t.net, m.dest = s.cur.lcn ∧ m.seq = q.id ∧ ∃ r : Resp, m.body = .resp 4 r ∧ r.w = v ∧ r.cause = 0

/-- CXLOAD of a resident operation makes its slot the newest; CXDROP of one that is not resident does nothing; CXQRY of one that is
not resident gives 0; CXTBL writes the table's entry; BNDGET, CNTRD and QSTAT deliver what they read; CNTCLR clears its counter
(R192, R203, R205, R210, R211).
An operation number of 256 or more in the register of CXLOAD, CXDROP, CXQRY or CXTBL takes 0x1D with reason 11 (R203, R205). -/
def Part.CustomAndCounters : Prop :=
  (∀ (gd : Guard) (s1 : Fin 32) (s : State) (k : Fin 4), s.Ready (Instr.cxload gd s1).uses → (Claim.x s s1).toNat < 256 →
    s.me.cxAt (Claim.x s s1).toNat = some k →
    exec (.cxload gd s1) s = .next (s.begin.modMe fun c => { c with veng := c.veng.touch k })) ∧
  (∀ (gd : Guard) (s1 : Fin 32) (s : State), s.Ready (Instr.cxdrop gd s1).uses → (Claim.x s s1).toNat < 256 →
    s.me.cxAt (Claim.x s s1).toNat = none → exec (.cxdrop gd s1) s = .next s.begin) ∧
  (∀ (gd : Guard) (d s1 : Fin 32) (s : State), s.Ready (Instr.cxqry gd d s1).uses → (Claim.x s s1).toNat < 256 →
    s.me.cxAt (Claim.x s s1).toNat = none → s.me.vecMemQueued s.cur.slot.val = false →
    ∃ t, exec (.cxqry gd d s1) s = .next t ∧ Claim.Later s t d 0) ∧
  (∀ (gd : Guard) (s1 s2 : Fin 32) (s : State), s.Ready (Instr.cxtbl gd s1 s2).uses → s.Worker → (Claim.x s s1).toNat < 256 →
    (Claim.x s s2).getLsbD 63 = false → Claim.Aligned (s.me.cxEntry (Claim.x s s1).toNat) 8 → s.begin.orderStop true = none →
    exec (.cxtbl gd s1 s2) s = .next (s.begin.enqueue
      { va := s.me.cxEntry (Claim.x s s1).toNat, bytes := 8, perm := .w, op := .mem (.store (toBytes 8 (Claim.x s s2).toNat)),
        apc := s.thr.iss.b, cont := .done })) ∧
  (∀ (gd : Guard) (d : Fin 32) (k : Fin 16) (sel : Bool) (s : State), s.Ready (Instr.bndget gd d k sel).uses →
    s.me.veng.q = [] →
    ∃ t, exec (.bndget gd d k sel) s = .next t ∧ Claim.Later s t d
      (if sel then BitVec.ofNat 64 (s.me.bs[k].mode.toNat + if s.me.bs[k].v then 4 else 0) else s.me.bs[k].hi ++ s.me.bs[k].lo)) ∧
  (∀ (gd : Guard) (d : Fin 32) (k : Fin 4) (j : Fin 8) (s : State), s.Ready (Instr.cntrd gd d k 0 j).uses →
    s.me.veng.q = [] → s.me.meng.q = [] →
    ∃ t, exec (.cntrd gd d k 0 j) s = .next t ∧ Claim.Later s t d (BitVec.ofNat 64 (s.thr.ctr.get k.val % 2 ^ 32))) ∧
  (∀ (gd : Guard) (k : Fin 4) (j : Fin 8) (s : State), s.Ready (Instr.cntclr gd k 0 j).uses → s.me.veng.q = [] → s.me.meng.q = [] →
    ∃ t, exec (.cntclr gd k 0 j) s = .next t ∧ t.thr.ctr = s.thr.ctr.clear k.val ∧ t.thr.regs = s.thr.regs ∧ t.mem = s.mem) ∧
  (∀ (gd : Guard) (d s1 : Fin 32) (s : State), s.Ready (Instr.qstat gd d s1).uses → s.thr.bind s1 = none →
    s.me.vecMemQueued s.cur.slot.val = false →
    ∃ t, exec (.qstat gd d s1) s = .next t ∧ Claim.Later s t d 0) ∧
  (∀ (i : Instr) (gd : Guard) (d s1 s2 : Fin 32) (s : State),
     i = .cxload gd s1 ∨ i = .cxdrop gd s1 ∨ i = .cxqry gd d s1 ∨ i = .cxtbl gd s1 s2 → s.Ready i.uses →
     256 ≤ (Claim.x s s1).toNat → exec i s = .next (s.begin.takeFault ⟨0x1D, 11, 0⟩))

/-- Command `i` of the executing thread stands at the end of the matrix queue, with its guard known (R250). -/
def Claim.MatQueued (s t : State) (i : Instr) : Prop :=
  ∃ q : MCmd, t.me.meng.q = s.me.meng.q ++ [q] ∧ q.op = i ∧ q.slot = s.cur.slot.val ∧ q.gd = .known true ∧
    q.apc = s.thr.iss.b ∧ t.me.cmdNo = s.me.cmdNo + 1

/-- What every matrix command needs at issue: it is ready, the cluster has a matrix unit with a queue for the core, no shape record
that it reads is being loaded, no acquire is open before a read of memory (R244, R250, R265). -/
structure Claim.MatOpen (s : State) (i : Instr) : Prop where
  ready  : s.Ready i.uses
  unit   : s.noMatrix = false
  shapes : ∀ h ∈ mShapes i, s.me.meng.shp[h] = 0
  acq    : s.thr.acq = 0
  room   : s.me.meng.q.length < 4

/-- The four forms of MMA, MLD and MST enter the queue when the tag of their tile and the bound sets that they will meet are known,
their checks pass and their pages translate: the state `u` is the one after the translation, with the same core queue
(R210, R291-R296). -/
def Part.MatrixMemoryCommands : Prop :=
  ∀ (s u : State) (i : Instr) (ps : List MPage) (bs : Vector Bound 16), Claim.MatOpen s i → s.me.bsAhead = some bs →
    u.cur = s.cur → u.thr = s.begin.thr → u.me.meng = s.me.meng → u.me.cmdNo = s.me.cmdNo →
    (∀ (gd : Guard) (d sa sb : Fin 8) (o : MmaOpts) (ns : List Need), i = .mma gd d sa sb o →
      s.me.meng.tagOpen d = false →
      mmaNeeds bs (s.me.meng.projTag d) { d, sa, sb, o, sp := none, ga := none } (.of s.me.meng.sh[sa]) (.of s.me.meng.sh[sb])
        0 0 0 = .ok ns → s.begin.mPages false ns = (u, .ok ps) →
      ∃ t, exec (.mma gd d sa sb o) s = .next t ∧ Claim.MatQueued s t i) ∧
    (∀ (gd : Guard) (d sa sb : Fin 8) (o : MmaOpts) (s1 : Fin 32) (n : Fin 3) (ns : List Need), i = .mmaSp gd d sa sb o s1 n →
      s.me.meng.tagOpen d = false →
      mmaNeeds bs (s.me.meng.projTag d) { d, sa, sb, o, sp := some (s1, 16 * 2 ^ n.val), ga := none } (.of s.me.meng.sh[sa])
        (.of s.me.meng.sh[sb]) (Claim.x s s1) 0 0 = .ok ns → s.begin.mPages false ns = (u, .ok ps) →
      ∃ t, exec (.mmaSp gd d sa sb o s1 n) s = .next t ∧ Claim.MatQueued s t i) ∧
    (∀ (gd : Guard) (d sa sb : Fin 8) (o : MmaOpts) (s2 : Fin 16) (m : Fin 4) (ns : List Need), i = .mmaGa gd d sa sb o s2 m →
      s.me.meng.tagOpen d = false →
      mmaNeeds bs (s.me.meng.projTag d) { d, sa, sb, o, sp := none, ga := some (s2, 8 * (m.val + 1)) }
        (.of s.me.meng.sh[sa]) (.of s.me.meng.sh[sb]) 0 s.thr.regs.v[s2] s.thr.regs.vtag[s2] = .ok ns →
      s.begin.mPages false ns = (u, .ok ps) →
      ∃ t, exec (.mmaGa gd d sa sb o s2 m) s = .next t ∧ Claim.MatQueued s t i) ∧
    (∀ (gd : Guard) (d sa sb : Fin 8) (o : MmaOpts) (s1 : Fin 32) (n : Fin 3) (s2 : Fin 16) (m : Fin 4) (ns : List Need),
      i = .mmaSpga gd d sa sb o s1 n s2 m → s.me.meng.tagOpen d = false →
      mmaNeeds bs (s.me.meng.projTag d) { d, sa, sb, o, sp := some (s1, 16 * 2 ^ n.val), ga := some (s2, 8 * (m.val + 1)) }
        (.of s.me.meng.sh[sa]) (.of s.me.meng.sh[sb]) (Claim.x s s1) s.thr.regs.v[s2] s.thr.regs.vtag[s2] = .ok ns →
      s.begin.mPages false ns = (u, .ok ps) →
      ∃ t, exec (.mmaSpga gd d sa sb o s1 n s2 m) s = .next t ∧ Claim.MatQueued s t i) ∧
    (∀ (gd : Guard) (d sa : Fin 8) (tag : Tag) (ns : List Need), i = .mld gd d sa tag →
      blockNeeds bs tag (.of s.me.meng.sh[sa]) = .ok ns → s.begin.mPages false ns = (u, .ok ps) →
      ∃ t, exec (.mld gd d sa tag) s = .next t ∧ Claim.MatQueued s t i) ∧
    (∀ (gd : Guard) (mode : RMode) (s3 sa : Fin 8) (ns : List Need), i = .mst gd mode s3 sa → s.me.meng.tagOpen s3 = false →
      blockNeeds bs (s.me.meng.projTag s3) (.of s.me.meng.sh[sa]) = .ok ns → s.begin.mPages true ns = (u, .ok ps) →
      ∃ t, exec (.mst gd mode s3 sa) s = .next t ∧ Claim.MatQueued s t i)

/-- MZERO, MROWRED and MCNT enter the queue (a tile tag is of a float class with no scale); MSHLD enters it and reads its record
(R289, R294, R297, R298).
A matrix command takes fault 0x29 where the core has no matrix unit: the cluster matrix-absent (R265), or the member marked absent
(R244; that this takes the same fault is the model's reading: log 130). -/
def Part.MatrixTileCommands : Prop :=
  (∀ (gd : Guard) (d : Fin 8) (tag : Tag) (s : State), Claim.MatOpen s (.mzero gd d tag) → tileTag tag = true →
    (∃ bs, s.me.bsAhead = some bs ∧ tagReason bs tag false = none) →
    ∃ t, exec (.mzero gd d tag) s = .next t ∧ Claim.MatQueued s t (.mzero gd d tag)) ∧
  (∀ (gd : Guard) (op : Red3) (mode : RMode) (part : Bool) (nc : BitVec 5) (d : Fin 16) (s1 : Fin 8) (s : State),
    Claim.MatOpen s (.mrowred gd op mode part nc d s1) → s.me.meng.tagOpen s1 = false →
    tileTag (s.me.meng.projTag s1) = true → (∃ bs, s.me.bsAhead = some bs ∧ tagReason bs (s.me.meng.projTag s1) false = none) →
    ∃ t, exec (.mrowred gd op mode part nc d s1) s = .next t ∧ Claim.MatQueued s t (.mrowred gd op mode part nc d s1) ∧
      t.thr.regs.vp[d].n ≠ 0) ∧
  (∀ (gd : Guard) (clr : Bool) (d : Fin 32) (s1 : Fin 8) (s : State), Claim.MatOpen s (.mcnt gd clr d s1) →
    ∃ t, exec (.mcnt gd clr d s1) s = .next t ∧ Claim.MatQueued s t (.mcnt gd clr d s1) ∧ (d ≠ 0 → t.thr.regs.xp[d].n ≠ 0)) ∧
  (∀ (gd : Guard) (d : Fin 8) (s1 : Fin 32) (off : BitVec 32) (s : State), Claim.MatOpen s (.mshld gd d s1 off) → s.Worker →
    Claim.Aligned (Claim.x s s1 + off.signExtend 64) 32 → s.begin.orderStop false = none →
    ∃ u, Claim.MatQueued s u (.mshld gd d s1 off) ∧ exec (.mshld gd d s1 off) s = .next (u.enqueue
      { va := Claim.x s s1 + off.signExtend 64, bytes := 32, perm := .r, op := .mem (.load 32), apc := s.thr.iss.b,
        cont := .mshld s.me.cmdNo })) ∧
  (∀ (i : Instr) (s : State), (mmaOf i).isSome = true ∨ (∃ gd d tag, i = .mzero gd d tag) ∨ (∃ gd d sa tag, i = .mld gd d sa tag) ∨
       (∃ gd mode s3 sa, i = .mst gd mode s3 sa) ∨ (∃ gd op mode part nc d s1, i = .mrowred gd op mode part nc d s1) ∨
       (∃ gd c d s1, i = .mcnt gd c d s1) → s.Ready i.uses → (∀ h ∈ mShapes i, s.me.meng.shp[h] = 0) → s.thr.acq = 0 →
     s.noMatrix = true → exec i s = .next (s.begin.takeFault ⟨0x29, 0, 0⟩))

/-- COPY and COPYM read their record and park until it has come; CPROM reads the full bit of its completion word (R302, R304). -/
def Part.CopyInstructions : Prop :=
  (∀ (gd : Guard) (d s1 : Fin 32) (s : State), s.Ready (Instr.copy gd d s1).uses → s.Worker → Claim.Aligned (Claim.x s s1) 64 →
    s.begin.me.copies < 2 → s.begin.orderStop false = none →
    exec (.copy gd d s1) s = .next ((Claim.parked s.begin .response).enqueue
      { va := Claim.x s s1, bytes := 64, perm := .r, op := .mem (.load 64), apc := s.thr.iss.b,
        cont := .copyRec d false (Claim.x s s1) })) ∧
  (∀ (gd : Guard) (d s1 : Fin 32) (s : State), s.Ready (Instr.copym gd d s1).uses → s.Worker → Claim.Aligned (Claim.x s s1) 64 →
    s.begin.me.copies < 2 → s.begin.orderStop false = none →
    exec (.copym gd d s1) s = .next ((Claim.parked s.begin .response).enqueue
      { va := Claim.x s s1, bytes := 64, perm := .r, op := .mem (.load 64), apc := s.thr.iss.b,
        cont := .copyRec d true (Claim.x s s1) })) ∧
  (∀ (gd : Guard) (d s1 : Fin 32) (s : State), s.Ready (Instr.cprom gd d s1).uses → s.Worker → Claim.Aligned (Claim.x s s1) 8 →
    s.me.cq = [] → s.begin.orderStop false = none →
    exec (.cprom gd d s1) s = .next ((s.begin.modThr fun t => t.markX .path d).enqueue
      { va := Claim.x s s1, bytes := 8, perm := .r, op := .mem .readFe, apc := s.thr.iss.b, cont := .cprom d (Claim.x s s1) }))

/-! ## The publish family (R305-R312) -/

/-- The name in a register has translated to a handle window, with state `u` after the translation; the ordering class lets the
request go. -/
structure Claim.Named (s u : State) (s1 : Fin 32) (p pa : Nat) (release : Bool) : Prop where
  worker : s.Worker
  name   : s.begin.trName (Claim.x s s1) = (u, .inl (p, pa))
  cur    : u.cur = s.cur
  thr    : u.thr = s.begin.thr
  open_  : u.orderStop release = none

/-- A request to the home of a handle from a thread that waits for its answer. -/
def Claim.ask (u : State) (va : Word) (p pa : Nat) (op : HandleOp) (cont : Cont) : State :=
  u.enqueue { va, bytes := 8, perm := .r, op := .handle op, apc := u.thr.iss.b, st := .ready p pa, cont }

/-- PUBLISH, PUBLISH.F, HVER, STOPREF, STOPREF.AT, REFCHK, HSUB and HUNSUB send their request to the handle's home and wait; HCFG reads
its record first (R307-R311).
A name that is not 64 KiB aligned takes 0x2E with reason 1, and on the message thread every instruction of the family takes
0x1F (R305, R306). -/
def Part.PublishFamily : Prop :=
  (∀ (gd : Guard) (d s1 s2 : Fin 32) (g : Fin 16) (s u : State) (p pa : Nat),
     (s.Ready (Instr.publish gd s1).uses → Claim.Named s u s1 p pa true → exec (.publish gd s1) s =
       .next (Claim.ask (Claim.parked u .response) (Claim.x s s1) p pa (.publish false) (.handle none none))) ∧
     (s.Ready (Instr.publishF gd s1).uses → Claim.Named s u s1 p pa true → exec (.publishF gd s1) s =
       .next (Claim.ask (Claim.parked u .response) (Claim.x s s1) p pa (.publish true) (.handle none none))) ∧
     (s.Ready (Instr.hver gd d s1).uses → Claim.Named s u s1 p pa false → exec (.hver gd d s1) s =
       .next (Claim.ask ((Claim.parked u .response).modThr fun t => t.markX .path d) (Claim.x s s1) p pa (.hver (Claim.x s 4))
         (.handle (some d) none))) ∧
     (s.Ready (Instr.stopref gd s1).uses → Claim.Named s u s1 p pa true → exec (.stopref gd s1) s =
       .next (Claim.ask (Claim.parked u .response) (Claim.x s s1) p pa (.stopref none (Claim.x s 4)) (.handle none none))) ∧
     (s.Ready (Instr.stoprefAt gd s1 s2).uses → Claim.Named s u s1 p pa true → (Claim.x s s2).setWidth 32 ≠ 0#32 →
       exec (.stoprefAt gd s1 s2) s =
       .next (Claim.ask (Claim.parked u .response) (Claim.x s s1) p pa
         (.stopref (some ((Claim.x s s2).setWidth 32)) (Claim.x s 4)) (.handle none none))) ∧
     (s.Ready (Instr.refchk gd g s1).uses → Claim.Named s u s1 p pa false → exec (.refchk gd g s1) s =
       .next (Claim.ask ((Claim.parked u .response).modThr fun t => t.markG .path g) (Claim.x s s1) p pa .refchk
         (.handle none (some g)))) ∧
     (s.Ready (Instr.hcfg gd s1 s2).uses → Claim.Named s u s1 p pa true → Claim.Aligned (Claim.x s s2) 16 →
       exec (.hcfg gd s1 s2) s = .next ((Claim.parked u .response).enqueue
         { va := Claim.x s s2, bytes := 16, perm := .r, op := .mem (.load 16), apc := s.thr.iss.b,
           cont := .hcfgRead (p * 2 ^ 48 + pa) })) ∧
     (∀ u' : State, u.recordAt (Claim.x s s2) = (u', none) → u'.cur = s.cur → u'.thr = s.begin.thr → u'.orderStop false = none →
       Claim.Named s u s1 p pa false →
       (s.Ready (Instr.hsub gd s1 s2).uses → exec (.hsub gd s1 s2) s =
         .next (Claim.ask (Claim.parked u' .response) (Claim.x s s1) p pa (.hsub (Claim.x s s2)) (.handle none none))) ∧
       (s.Ready (Instr.hunsub gd s1 s2).uses → exec (.hunsub gd s1 s2) s =
         .next (Claim.ask (Claim.parked u' .response) (Claim.x s s1) p pa (.hunsub (Claim.x s s2)) (.handle none none))))) ∧
  (∀ (i : Instr) (gd : Guard) (d s1 s2 : Fin 32) (g : Fin 16) (s : State),
     i = .publish gd s1 ∨ i = .publishF gd s1 ∨ i = .hsub gd s1 s2 ∨ i = .hunsub gd s1 s2 ∨ i = .hver gd d s1 ∨
       i = .stopref gd s1 ∨ i = .stoprefAt gd s1 s2 ∨ i = .refchk gd g s1 ∨ i = .hcfg gd s1 s2 → s.Ready i.uses →
     (s.Worker → (Claim.x s s1).toNat < 2 ^ 48 → (Claim.x s s1).toNat % 65536 ≠ 0 →
       exec i s = .next (s.begin.takeFault ⟨0x2E, 1, Claim.x s s1⟩)) ∧
     (s.cur.slot = 15 → ∃ n : Word, exec i s = .next (s.begin.takeFault ⟨0x1F, n, 0⟩)))

/-! ## Requests to system agents (R312-R350, R391-R396, R417) -/

/-- A request of the executing thread is remembered until its answer: what it asks, of whom, and where the answer goes. -/
def Claim.Asked (s t : State) (dest kind : Nat) (b : Body) (cont : Cont) : Prop :=
  ∃ q ∈ t.me.reqs, q.slot = s.cur.slot.val ∧ q.cont = cont ∧ q.apc = s.thr.iss.b ∧ q.msg.dest = dest ∧ q.msg.kind = kind ∧
    q.msg.body = b ∧ q.msg.src = s.cur.lcn ∧ q.msg.ctx = s.me.ctxid

/-- A worker thread whose accesses have all been performed: no acquire is open, nothing is in its memory path or outstanding, and no vector
memory command of its is queued (R216, R226, R230). -/
structure Claim.Performed (s : State) : Prop where
  worker : s.Worker
  acq    : s.thr.acq = 0
  path   : s.thr.path = []
  outst  : s.thr.outst = []
  vec    : s.me.vecMemQueued s.cur.slot.val = false

/-- The state after the translation of the handle's name in a register, the thread parked for the answer. -/
def Claim.named (s : State) (s1 : Fin 32) : State := Claim.parked (s.begin.trName (Claim.x s s1)).1 .response

/-- The state after the translation of a handle's name and of a record's address. -/
def Claim.named2 (s : State) (s1 s2 : Fin 32) : State :=
  Claim.parked ((s.begin.trName (Claim.x s s1)).1.recordAt (Claim.x s s2)).1 .response

/-- The publish family completes at issue wherever the name in S1 translates to a handle window and the thread's accesses have been performed. -/
def Part.PublishFamilyCompletes : Prop :=
  ∀ (gd : Guard) (d s1 s2 : Fin 32) (g : Fin 16) (s : State) (p pa : Nat), Claim.Performed s →
    (s.begin.trName (Claim.x s s1)).2 = .inl (p, pa) →
    (s.Ready (Instr.publish gd s1).uses → exec (.publish gd s1) s =
      .next (Claim.ask (Claim.named s s1) (Claim.x s s1) p pa (.publish false) (.handle none none))) ∧
    (s.Ready (Instr.publishF gd s1).uses → exec (.publishF gd s1) s =
      .next (Claim.ask (Claim.named s s1) (Claim.x s s1) p pa (.publish true) (.handle none none))) ∧
    (s.Ready (Instr.hver gd d s1).uses → exec (.hver gd d s1) s =
      .next (Claim.ask ((Claim.named s s1).modThr fun t => t.markX .path d) (Claim.x s s1) p pa (.hver (Claim.x s 4))
        (.handle (some d) none))) ∧
    (s.Ready (Instr.stopref gd s1).uses → exec (.stopref gd s1) s =
      .next (Claim.ask (Claim.named s s1) (Claim.x s s1) p pa (.stopref none (Claim.x s 4)) (.handle none none))) ∧
    (s.Ready (Instr.stoprefAt gd s1 s2).uses → (Claim.x s s2).setWidth 32 ≠ 0#32 → exec (.stoprefAt gd s1 s2) s =
      .next (Claim.ask (Claim.named s s1) (Claim.x s s1) p pa (.stopref (some ((Claim.x s s2).setWidth 32)) (Claim.x s 4))
        (.handle none none))) ∧
    (s.Ready (Instr.refchk gd g s1).uses → exec (.refchk gd g s1) s =
      .next (Claim.ask ((Claim.named s s1).modThr fun t => t.markG .path g) (Claim.x s s1) p pa .refchk (.handle none (some g)))) ∧
    (s.Ready (Instr.hcfg gd s1 s2).uses → Claim.Aligned (Claim.x s s2) 16 → exec (.hcfg gd s1 s2) s =
      .next ((Claim.named s s1).enqueue
        { va := Claim.x s s2, bytes := 16, perm := .r, op := .mem (.load 16), apc := s.thr.iss.b, cont := .hcfgRead (p * 2 ^ 48 + pa) })) ∧
    (s.Ready (Instr.hsub gd s1 s2).uses → ((s.begin.trName (Claim.x s s1)).1.recordAt (Claim.x s s2)).2 = none →
      exec (.hsub gd s1 s2) s =
        .next (Claim.ask (Claim.named2 s s1 s2) (Claim.x s s1) p pa (.hsub (Claim.x s s2)) (.handle none none))) ∧
    (s.Ready (Instr.hunsub gd s1 s2).uses → ((s.begin.trName (Claim.x s s1)).1.recordAt (Claim.x s s2)).2 = none →
      exec (.hunsub gd s1 s2) s =
        .next (Claim.ask (Claim.named2 s s1 s2) (Claim.x s s1) p pa (.hunsub (Claim.x s s2)) (.handle none none)))

/-- SETTLE and SETTLEW complete at issue wherever their settle word translates to slice memory of the panel, writable, and a request slot is free. -/
def Part.SettleCompletes : Prop :=
  ∀ (gd : Guard) (d s1 : Fin 32) (set nh : BitVec 8) (s : State) (pa : Nat), Claim.Performed s → s.freeSlots s.cur.lcn ≠ 0 →
    set.toNat ≤ 15 → nh ≠ 0 → nh.toNat ≤ 64 → (Claim.x s s1).toNat % 8 = 0 →
    (s.begin.trNow (Claim.x s s1) .rw (.plain 8)).2 = .inl (s.panelId, pa) → spaceOf pa = 1 →
    (s.Ready (Instr.settle gd s1 set nh).uses → ∃ t, exec (.settle gd s1 set nh) s = .next t ∧ t.thr.state = .parked ∧
      Claim.Asked s t Config.srcPctl 0x20 (.settleArm set.toNat nh.toNat (Claim.x s s1).toNat) (.settleArm none (Claim.x s s1).toNat)) ∧
    (s.Ready (Instr.settlew gd d s1 set nh).uses → ∃ t, exec (.settlew gd d s1 set nh) s = .next t ∧ t.thr.state = .parked ∧
      Claim.Asked s t Config.srcPctl 0x20 (.settleArm set.toNat nh.toNat (Claim.x s s1).toNat) (.settleArm (some d) (Claim.x s s1).toNat))

/-- SCQ and RELQ complete at issue wherever their word translates and is the one that the thread holds (R221, R222). -/
def Part.ReservationsEnd : Prop :=
  ∀ (a : MemForm) (s : State) (p pa : Nat), Claim.Performed s → Claim.Aligned (Claim.va s a) 8 →
    (s.begin.trNow (Claim.va s a) .rw .sync).2 = .inl (p, pa) → s.thr.held = some (BitVec.ofNat 64 (p * 2 ^ 48 + pa)) →
    (s.Ready (Instr.scq a).uses →
      exec (.scq a) s = .next (((s.begin.trNow (Claim.va s a) .rw .sync).1.modThr fun t => { t with held := none }).enqueue
        { va := Claim.va s a, bytes := 8, perm := .rw, op := .mem (.scq (Claim.x s a.r)), apc := s.thr.iss.b, cont := .done })) ∧
    (s.Ready (Instr.relq a).uses →
      exec (.relq a) s = .next (((s.begin.trNow (Claim.va s a) .rw .sync).1.modThr fun t => { t with held := none }).enqueue
        { va := Claim.va s a, bytes := 8, perm := .rw, op := .mem .relq, apc := s.thr.iss.b, cont := .done }))

/-- CXDROP of a resident operation completes: its slot is empty at once, and the command that frees the graph goes behind the earlier
commands of the engine (R205, R207). -/
def Part.DropCompletes : Prop :=
  ∀ (gd : Guard) (s1 : Fin 32) (s : State) (k : Fin 4), s.Ready (Instr.cxdrop gd s1).uses → (Claim.x s s1).toNat < 256 →
    s.me.cxAt (Claim.x s s1).toNat = some k → s.me.veng.q.length < 2 →
    ∃ (t : State) (q : VCmd), exec (.cxdrop gd s1) s = .next t ∧ t.me.veng.q = s.me.veng.q ++ [q] ∧ q.op = .cxdrop gd s1 ∧
      q.slot = s.cur.slot.val ∧ q.cxslot = k.val ∧ q.xs = [some (Claim.x s s1)] ∧ t.me.veng.gs[k].proj = none ∧
      (∀ j : Fin 4, j ≠ k → t.me.veng.gs[j] = s.me.veng.gs[j]) ∧ t.thr.regs = s.thr.regs ∧ t.mem = s.mem

/-! ## Barriers and groups (R383-R388, R420-R424) -/

/-- BARSET of x0 clears its register, and of a rectangle that it accepts arms it; BARARR of a register in rest turns its local
signal; BARWAIT and BARWAIT.F go on when it is at rest, and park when it is not; BARWD marks it withdrawn; each takes 0x2F with
reason 2 when the register is not valid (R383-R388). -/
def Part.Barriers : Prop :=
  ∀ (gd : Guard) (k : Fin 4) (s : State),
    (s.Ready (Instr.barset gd k 0).uses →
      exec (.barset gd k 0) s = .next (s.begin.modBar s.cur.lcn k fun b =>
        { b with v := false, memb := false, cu := 0, arc := false })) ∧
    (∀ s1 : Fin 32, s1 ≠ 0 → s.Ready (Instr.barset gd k s1).uses → (Claim.x s s1).toNat < 2 ^ 32 →
      (s.ctx s.me.ctxid).holdsRect ((Claim.x s s1).setWidth 32) = true →
      inRect ((Claim.x s s1).setWidth 32) (s.begin.ccn s.cur.lcn) = true →
      (∀ p ∈ s.begin.barPaths s.me.ctxid ((Claim.x s s1).setWidth 32), p ∉ s.rlyf) →
      ∃ t, exec (.barset gd k s1) s = .next t ∧ (t.bar s.cur.lcn k).v = true ∧ (t.bar s.cur.lcn k).wd = false ∧
        (t.bar s.cur.lcn k).brect = (Claim.x s s1).setWidth 32 ∧ (t.bar s.cur.lcn k).ls = (s.bar s.cur.lcn k).g) ∧
    (s.Ready (Instr.bararr gd k).uses → (s.bar s.cur.lcn k).v = true → (s.bar s.cur.lcn k).wd = false → (s.bar s.cur.lcn k).cu = 0 →
      (s.bar s.cur.lcn k).ls = (s.bar s.cur.lcn k).g → s.begin.orderStop true = none →
      exec (.bararr gd k) s = .next (s.begin.modBar s.cur.lcn k fun b => { b with ls := !b.ls })) ∧
    (∀ (g : Fin 16) (cycles : BitVec 32), s.Ready (Instr.barwait gd g k cycles).uses → (s.bar s.cur.lcn k).v = true →
      (s.bar s.cur.lcn k).cu = 0 →
      ((s.bar s.cur.lcn k).ls = (s.bar s.cur.lcn k).g → exec (.barwait gd g k cycles) s =
        .next ((s.begin.modThr fun t => { t with barw := none }).modThr fun t => t.setG g true)) ∧
      ((s.bar s.cur.lcn k).ls ≠ (s.bar s.cur.lcn k).g → (s.bar s.cur.lcn k).wd = false → s.thr.barw = none →
        exec (.barwait gd g k cycles) s = .next ((s.begin.modThr fun t =>
          { t with barw := some (k, some g), barAt := if cycles = 0 then none else some (s.time + cycles.toNat) }).modThr
            fun t => t.parkRetry .barrier))) ∧
    (∀ cycles : BitVec 32, s.Ready (Instr.barwaitF gd k cycles).uses → (s.bar s.cur.lcn k).v = true →
      (s.bar s.cur.lcn k).cu = 0 → (s.bar s.cur.lcn k).ls = (s.bar s.cur.lcn k).g →
      exec (.barwaitF gd k cycles) s = .next (s.begin.modThr fun t => { t with barw := none })) ∧
    (s.Ready (Instr.barwd gd k).uses → (s.bar s.cur.lcn k).v = true →
      exec (.barwd gd k) s = .next (s.begin.modBar s.cur.lcn k fun b => { b with wd := true })) ∧
    (∀ i : Instr, (∃ g c, i = .barwait gd g k c) ∨ (∃ c, i = .barwaitF gd k c) ∨ i = .bararr gd k ∨ i = .barwd gd k →
      s.Ready i.uses → (s.bar s.cur.lcn k).v = false → exec i s = .next (s.begin.takeFault ⟨0x2F, 2, 0⟩))

/-- A group's name has translated, with state `u` after the translation, and no group instruction on it is under way (R420). -/
structure Claim.Group (s u : State) (s1 : Fin 32) (p pa : Nat) (release : Bool) : Prop where
  worker : s.Worker
  name   : s.begin.groupName (Claim.x s s1) = (u, .inl (p, pa))
  cur    : u.cur = s.cur
  thr    : u.thr = s.begin.thr
  idle   : u.me.groupBusy (groupKey p pa) = false
  open_  : u.orderStop release = none

/-- A request to a group's anchor from a thread that waits. -/
def Claim.anchor (u : State) (va : Word) (p pa : Nat) (op : GroupOp) (cont : Cont) : State :=
  u.enqueue { va, bytes := 8, perm := .rw, op := .group op, apc := u.thr.iss.b, st := .ready p pa, cont }

/-- A collective remembered on its core. -/
def Claim.coll (u : State) (c : Coll) : State := u.modMe fun k => { k with colls := k.colls ++ [c] }

/-- GRPJOIN and GRPLEAVE ask the anchor; GRPRED, GRPBC and GRPBAR remember what they contribute and ask it (R420-R424). -/
def Part.GroupInstructions : Prop :=
  ∀ (gd : Guard) (d s1 s2 : Fin 32) (s u : State) (p pa : Nat),
    (s.Ready (Instr.grpjoin gd d s1 s2).uses → Claim.Group s u s1 p pa false → (Claim.x s s2).toNat % 4096 = 0 →
      (Claim.x s s2).toNat < 2 ^ 20 → u.me.regionOk (Claim.x s s2).toNat 4096 = true →
      exec (.grpjoin gd d s1 s2) s = .next (Claim.anchor (Claim.parked u .group) (Claim.x s s1) p pa
        (.join u.groupWho (Claim.x s s2)) (.group (some d)))) ∧
    (s.Ready (Instr.grpleave gd s1).uses → Claim.Group s u s1 p pa false →
      exec (.grpleave gd s1) s = .next (Claim.anchor (Claim.parked u .group) (Claim.x s s1) p pa (.leave u.groupWho) (.group none))) ∧
    (∀ (op : Red3) (v w : Fin 16), s.Ready (Instr.grpred gd op v s1 w).uses → Claim.Group s u s1 p pa true →
      contribStop u w = none →
      exec (.grpred gd op v s1 w) s = .next (Claim.anchor (Claim.coll (Claim.parked u .group)
        { key := groupKey p pa, slot := s.cur.slot.val, op := Red3.collOp op s.thr.regs.vtag[w], d := some v, tag := s.thr.regs.vtag[w],
          vals := (lanesOf s.thr.regs.v[w] (Tag.width s.thr.regs.vtag[w])).map some })
        (Claim.x s s1) p pa (.coll u.groupWho) (.collective (some v)))) ∧
    (∀ (root : BitVec 8) (v w : Fin 16), s.Ready (Instr.grpbc gd v s1 w root).uses → Claim.Group s u s1 p pa true →
      exec (.grpbc gd v s1 w root) s = .next (Claim.anchor (Claim.coll (Claim.parked u .group)
        { key := groupKey p pa, slot := s.cur.slot.val, op := .bc root.toNat, d := some v, tag := s.thr.regs.vtag[w],
          vals := [some s.thr.regs.v[w].toNat] })
        (Claim.x s s1) p pa (.coll u.groupWho) (.collective (some v)))) ∧
    (s.Ready (Instr.grpbar gd s1).uses → Claim.Group s u s1 p pa true →
      exec (.grpbar gd s1) s = .next (Claim.anchor (Claim.coll (Claim.parked u .group)
        { key := groupKey p pa, slot := s.cur.slot.val, op := .bar, d := none, tag := 0, vals := [] })
        (Claim.x s s1) p pa (.coll u.groupWho) (.collective none)))

/-- The state after the translation of a group's name in a register, the thread parked for the group's answer. -/
def Claim.grouped (s : State) (s1 : Fin 32) : State := Claim.parked (s.begin.groupName (Claim.x s s1)).1 .group

/-- The group instructions complete at issue wherever their group's name translates, none on it is under way on the core, and the thread's
accesses have been performed. -/
def Part.GroupsComplete : Prop :=
  ∀ (gd : Guard) (d s1 s2 : Fin 32) (s : State) (p pa : Nat), Claim.Performed s →
    (s.begin.groupName (Claim.x s s1)).2 = .inl (p, pa) → s.me.groupBusy (groupKey p pa) = false →
    (s.Ready (Instr.grpjoin gd d s1 s2).uses → (Claim.x s s2).toNat % 4096 = 0 → (Claim.x s s2).toNat < 2 ^ 20 →
      s.me.regionOk (Claim.x s s2).toNat 4096 = true →
      exec (.grpjoin gd d s1 s2) s = .next (Claim.anchor (Claim.grouped s s1) (Claim.x s s1) p pa
        (.join s.groupWho (Claim.x s s2)) (.group (some d)))) ∧
    (s.Ready (Instr.grpleave gd s1).uses →
      exec (.grpleave gd s1) s = .next (Claim.anchor (Claim.grouped s s1) (Claim.x s s1) p pa (.leave s.groupWho) (.group none))) ∧
    (∀ (op : Red3) (v w : Fin 16), s.Ready (Instr.grpred gd op v s1 w).uses → contribStop s w = none →
      exec (.grpred gd op v s1 w) s = .next (Claim.anchor (Claim.coll (Claim.grouped s s1)
        { key := groupKey p pa, slot := s.cur.slot.val, op := Red3.collOp op s.thr.regs.vtag[w], d := some v, tag := s.thr.regs.vtag[w],
          vals := (lanesOf s.thr.regs.v[w] (Tag.width s.thr.regs.vtag[w])).map some })
        (Claim.x s s1) p pa (.coll s.groupWho) (.collective (some v)))) ∧
    (∀ (root : BitVec 8) (v w : Fin 16), s.Ready (Instr.grpbc gd v s1 w root).uses →
      exec (.grpbc gd v s1 w root) s = .next (Claim.anchor (Claim.coll (Claim.grouped s s1)
        { key := groupKey p pa, slot := s.cur.slot.val, op := .bc root.toNat, d := some v, tag := s.thr.regs.vtag[w],
          vals := [some s.thr.regs.v[w].toNat] })
        (Claim.x s s1) p pa (.coll s.groupWho) (.collective (some v)))) ∧
    (s.Ready (Instr.grpbar gd s1).uses →
      exec (.grpbar gd s1) s = .next (Claim.anchor (Claim.coll (Claim.grouped s s1)
        { key := groupKey p pa, slot := s.cur.slot.val, op := .bar, d := none, tag := 0, vals := [] })
        (Claim.x s s1) p pa (.coll s.groupWho) (.collective none)))

/-! ## What the hardware of a core's slots does (R27, R32-R36, R46, R108, R340) -/

/-- The slot executes no hardware loop, took no transfer, and its instruction ends no group of its own: behind it comes the next slot of the
line order. -/
structure Claim.Plain (t : Slot) : Prop where
  l0    : t.loops[0].active = false
  l1    : t.loops[1].active = false
  taken : t.iss.taken = none
  next  : t.iss.next = none
  swm   : t.iss.swm = false
  last  : slotpc (lin t.iss.last.toNat + 1) < 2 ^ 48

/-- Worker slot `k` of core `l` goes on behind the instruction at which it was parked, on a core that is not frozen. -/
structure Claim.GoesOn (s t : State) (l : Nat) (k : Fin 16) : Prop where
  state : (t.slot l k).state = .running
  park  : (t.slot l k).park = .none
  pc    : (t.slot l k).pc = BitVec.ofNat 48 (slotpc (lin (s.slot l k).iss.last.toNat + 1))
  regs  : (t.slot l k).regs = (s.slot l k).regs
  mem   : t.mem = s.mem

/-- The pops of a core's Idle slots come before a steal of its deque (R34). -/
def Claim.popsFirst (s : State) (core : Nat) : Bool :=
  s.loads core && (s.core core).seeker.isSome && !(s.core core).dq.hw.isEmpty

/-- A core's search for work (R34-R36, R340): a hungry core of a die with undealt records asks the dealer; a victim gives the oldest
record of the highest priority that the level may take, or none, once its own Idle slots have popped; a record ends the search; after a
fruitless search a wait. -/
def Part.Stealing : Prop :=
  ∀ (core : Nat) (s : State),
    (s.hungry core = true → (s.core core).steal.busy = false → (s.core core).steal.wait = none → (s.core core).steal.active = false →
      s.dealable core = true → s.freeSlots core ≠ 0 → s.routed core (8192 + dieOf core) 0 = true →
      ∃ t, exec (.stealSearch core) s = .next t ∧ (t.core core).steal.active = true ∧ (t.core core).steal.busy = true ∧
        t.mem = s.mem ∧ ∃ q ∈ (t.core core).reqs, q.slot = 16 ∧ q.cont = .dealt ∧ q.msg.dest = 8192 + dieOf core ∧
          q.msg.kind = 0x0F ∧ q.msg.body = .dealReq) ∧
    (∀ (m : Msg) (level : Nat) (pre post : List DqEnt) (e : DqEnt), s.headMsg core = some m → m.len ≤ 256 → m.body = .steal level →
      m.ctx = (s.core core).ctxid → Claim.popsFirst s core = false → (s.core core).dq = { hw := pre ++ e :: post, spill := [] } →
      level ≤ e.dom →
      (∀ x ∈ pre, level ≤ x.dom → x.pri ≤ e.pri) → (∀ x ∈ post, level ≤ x.dom → x.pri < e.pri) →
      exec (.stealRequest core) s = .next (((s.takeMsg core m).modCore core fun c =>
        { c with dq := { hw := pre ++ post, spill := [] } }).answer core m.reply { w := e.record })) ∧
    (∀ (m : Msg) (level : Nat), s.headMsg core = some m → m.body = .steal level → Claim.popsFirst s core = true →
      exec (.stealRequest core) s = .next s) ∧
    (∀ (m : Msg) (level : Nat), s.headMsg core = some m → m.len ≤ 256 → m.body = .steal level → Claim.popsFirst s core = false →
      (∀ x ∈ (s.core core).dq.hw, x.dom < level) → (∀ x ∈ (s.core core).dq.spill, x.dom < level) →
      exec (.stealRequest core) s = .next ((s.takeMsg core m).answer core m.reply { none_ := true })) ∧
    (∀ (m : Msg) (q : Req) (r : Resp) (k : Fin 16),
      (s.answers core).find? (fun a => a.2.1.cont.search && !a.2.2.retry) = some (m, q, r) → q.cont = .stolen → r.cause = 0 →
      r.none_ = false → q.slot = 16 → (s.core core).seeker = some k → (s.ctx m.ctx).st ≠ .saved →
      ∃ t, exec (.stealResponse core) s = .next t ∧ (t.core core).steal.active = false ∧ (t.core core).steal.busy = false ∧
        (t.slot core k).load = some ⟨r.w, 0, 0⟩ ∧ t.mem = s.mem ∧ ∀ x ∈ (t.core core).reqs, x.id ≠ q.id) ∧
    (∀ n : Nat, (s.core core).steal.wait = some n → n ≤ s.time → s.hungry core = false →
      exec (.stealRetryWait core) s = .next (s.modCore core fun c => { c with steal := { c.steal with wait := none } }))

/-- Pushes (R33): a deque with room takes the entry as its newest and answers; a full one answers 0x10; a held push goes in when there is
room. -/
def Part.DequePushes : Prop :=
  ∀ (core : Nat) (s : State),
    (∀ (m : Msg) (ra : Word) (pri dom : Nat), s.headMsg core = some m → m.len ≤ 256 → m.body = .push ra pri dom →
      (s.core core).dq.hw.length < 64 →
      exec (.dequePush core) s = .next (((s.takeMsg core m).setCore core { s.core core with
        dq := { (s.core core).dq with hw := ⟨ra, pri, dom⟩ :: (s.core core).dq.hw }, steal := { (s.core core).steal with wait := none } }).answer
          core m.reply {})) ∧
    (∀ (m : Msg) (ra : Word) (pri dom : Nat), s.headMsg core = some m → m.len ≤ 256 → m.body = .push ra pri dom → m.vc = 0 →
      64 ≤ (s.core core).dq.hw.length → 512 ≤ (s.core core).dq.spill.length →
      exec (.dequePush core) s = .next ((s.takeMsg core m).answer core m.reply { cause := 0x10, info := 0 })) ∧
    (∀ (k : Nat) (h : HeldPush), core < 8192 → (s.core core).pushes[k]? = some h → h.at_ ≤ s.time →
      (s.core core).dq.hw.length < 64 →
      exec (.dequePushRetry core k) s = .next (s.setCore core { s.core core with
        dq := { (s.core core).dq with hw := h.ent :: (s.core core).dq.hw }, steal := { (s.core core).steal with wait := none },
        pushes := (s.core core).pushes.erase h }))

/-- `n` bytes of a datum extended to a register (R218). -/
def Claim.extended (n : Nat) (signed : Bool) (bs : List Byte) : Word :=
  if signed then (BitVec.ofNat (8 * n) (ofBytes (bs.take n))).signExtend 64 else BitVec.ofNat 64 (ofBytes (bs.take n))

/-- The first message under way to core `core` that satisfies `p`. -/
def Claim.First (s : State) (core : Nat) (m : Msg) : Prop :=
  m ∈ s.net ∧ m.dest = core ∧ m.dpanel = s.panelId ∧ m.vc = 1 ∧ s.diverts core m = false ∧
    ∀ x ∈ s.net, x ≠ m → x.vc ≠ 1 ∨ x.dest ≠ core

/-! ## What a home does with an access (R117-R124, R218, R221, R224) -/

/-- An access to `n` bytes of core `core`'s slice stands at the head of its buffer: its master owns the page, the words are sound, and
nothing gathers them. -/
structure Claim.Access (s : State) (core : Nat) (m : Msg) (pa n : Nat) (op : MemOp) (slot : Nat) : Prop where
  head  : s.headMsg core = some m
  len   : m.len ≤ 256
  body  : ∃ apc, m.body = .mem pa op slot apc
  vc    : m.vc = 0
  panel : m.spanel = s.panelId
  src   : m.src ≠ core
  space : spaceOf pa = 1
  home  : sliceLcn pa = core
  owner : (s.core core).owns (sliceOff pa) n m.ctx m.level = true
  sound : s.Sound pa n
  free  : s.gathered core pa n = false

/-- The answer `r` to request `m` is on its way from core `core`. -/
def Claim.Answered (t : State) (core : Nat) (m : Msg) (r : Resp) : Prop :=
  ∃ a ∈ t.net, a.dest = m.src ∧ a.dpanel = m.spanel ∧ a.src = core ∧ a.vc = 1 ∧ a.seq = m.seq ∧ a.body = .resp 0 r

/-- The bytes `d` at `pa`, every other byte of memory as it was. -/
def Claim.Stored (s t : State) (pa : Nat) (d : List Byte) : Prop :=
  ∀ a : Nat, t.mem.byte a = if pa ≤ a then (d[a - pa]?).getD (s.mem.byte a) else s.mem.byte a

/-- The new datum of an integer atomic operation (R224). -/
def Claim.atomic {n : Nat} (op : AmoOp) (old b c : BitVec n) : BitVec n :=
  match op with
  | .swap => b
  | .add => old + b
  | .and => old &&& b
  | .or => old ||| b
  | .xor => old ^^^ b
  | .min => if b.slt old then b else old
  | .max => if old.slt b then b else old
  | .minu => if b.ult old then b else old
  | .maxu => if old.ult b then b else old
  | .cas => if old = b then c else old
  | _ => old

/-- Whether an operation is one on integers. -/
def Claim.integer (op : AmoOp) : Bool := op != .fadd && op != .fmin && op != .fmax

/-- Loads answer the bytes of their words, a read of a full/empty bit the bit, the read of a line its 64 bytes (R46), stores write theirs and nothing else where no access of the core itself stands behind them,
atomic operations answer the old datum and write the new one; the full marks stay (R218, R224). -/
def Part.HomeLoadsStoresAtomics : Prop :=
  ∀ (core slot pa : Nat) (m : Msg) (s : State), s.Inv → (s.core core).waits = [] →
    (∀ n : Nat, 0 < n → Claim.Access s core m pa n (.load n) slot →
      ∃ t, exec (.loadHandler core) s = .next t ∧ t.mem = s.mem ∧
        Claim.Answered t core m { data := s.mem.read pa n, w := BitVec.ofNat 64 (ofBytes (s.mem.read pa n)) }) ∧
    (∀ op ∈ [MemOp.readFe, .peekFe], pa % 8 = 0 → Claim.Access s core m pa 8 op slot →
      ∃ t, exec (.loadHandler core) s = .next t ∧ t.mem = s.mem ∧ Claim.Answered t core m { w := if s.mem.full pa then 1 else 0 }) ∧
    (pa % 64 = 0 → Claim.Access s core m pa 64 .fetch slot →
      ∃ t, exec (.loadHandler core) s = .next t ∧ t.mem = s.mem ∧ Claim.Answered t core m { data := s.mem.read pa 64 }) ∧
    (∀ d : List Byte, d ≠ [] → (∀ k : Fin 16, (s.slot core k).path = []) → Claim.Access s core m pa d.length (.store d) slot →
      ∃ t, exec (.storeHandler core) s = .next t ∧ Claim.Stored s t pa d ∧ t.mem.fe = s.mem.fe ∧ Claim.Answered t core m {}) ∧
    (∀ (op : AmoOp) (b c : Word), Claim.integer op = true → pa % 8 = 0 → Claim.Access s core m pa 8 (.amo false op b c) slot →
      ∃ t, exec (.atomicHandler core) s = .next t ∧
        Claim.Stored s t pa (toBytes 8 (Claim.atomic op (s.mem.read64 pa) b c).toNat) ∧ t.mem.fe = s.mem.fe ∧
        Claim.Answered t core m { w := s.mem.read64 pa }) ∧
    (∀ (op : AmoOp) (b c : Word), Claim.integer op = true → pa % 4 = 0 → Claim.Access s core m pa 4 (.amo true op b c) slot →
      ∃ t, exec (.atomicHandler core) s = .next t ∧
        Claim.Stored s t pa (toBytes 4 (Claim.atomic op (BitVec.ofNat 32 (ofBytes (s.mem.read pa 4))) (b.setWidth 32) (c.setWidth 32)).toNat) ∧
        t.mem.fe = s.mem.fe ∧ Claim.Answered t core m { w := BitVec.ofNat 64 (ofBytes (s.mem.read pa 4)) })

/-- The marks of memory after a word's full bit was written. -/
def Claim.Full (s t : State) (pa : Nat) (b : Bool) : Prop :=
  ∀ a : Nat, t.mem.full a = if a / 8 = pa / 8 then b else s.mem.full a

/-- The synchronising accesses at their home (R221, R222, Table 5.5): LDW and LDT of a full word answer it, and LDT empties it; of an empty one they
wait, unanswered; STF fills; STW fills an empty word and waits at a full one; LRQ takes a free reservation and waits for a held one; SCQ stores and
RELQ does not, and both end the reservation. Nothing else waits on the word. -/
def Part.HomeSynchronising : Prop :=
  ∀ (core slot pa : Nat) (m : Msg) (s : State) (v : Word), s.Inv → pa % 8 = 0 →
    ((s.core core).waits = [] → Claim.Access s core m pa 8 .ldw slot →
      ∃ t, exec (.ldwHandler core) s = .next t ∧ t.mem = s.mem ∧
        (s.mem.full pa = true → (t.core core).waits = [] ∧ Claim.Answered t core m { w := s.mem.read64 pa }) ∧
        (s.mem.full pa = false → (t.core core).waits = [⟨pa, .ldw m.reply⟩] ∧ t.net = s.net)) ∧
    ((s.core core).waits = [] → Claim.Access s core m pa 8 .ldt slot →
      ∃ t, exec (.ldtHandler core) s = .next t ∧ t.mem.bytes = s.mem.bytes ∧ Claim.Full s t pa false ∧
        (s.mem.full pa = true → (t.core core).waits = [] ∧ Claim.Answered t core m { w := s.mem.read64 pa }) ∧
        (s.mem.full pa = false → (t.core core).waits = [⟨pa, .ldt m.reply⟩] ∧ t.net = s.net)) ∧
    ((s.core core).waits = [] → Claim.Access s core m pa 8 (.stf v) slot →
      ∃ t, exec (.stfHandler core) s = .next t ∧ Claim.Stored s t pa (toBytes 8 v.toNat) ∧ Claim.Full s t pa true ∧ Claim.Answered t core m {}) ∧
    ((s.core core).waits = [] → Claim.Access s core m pa 8 (.stw v) slot →
      ∃ t, exec (.stwHandler core) s = .next t ∧ Claim.Full s t pa true ∧
        (s.mem.full pa = false → Claim.Stored s t pa (toBytes 8 v.toNat) ∧ Claim.Answered t core m {}) ∧
        (s.mem.full pa = true → t.mem.bytes = s.mem.bytes ∧ (t.core core).waits = [⟨pa, .stw m.reply v⟩] ∧ t.net = s.net)) ∧
    ((s.core core).waits = [] → Claim.Access s core m pa 8 .lrq slot →
      ∃ t, exec (.lrqHandler core) s = .next t ∧ t.mem = s.mem ∧
        (t.core core).waits = [⟨pa, .holder (m.spanel * 65536 + m.src) slot⟩] ∧ Claim.Answered t core m { w := s.mem.read64 pa }) ∧
    (∀ who k : Nat, (s.core core).waits = [⟨pa, .holder who k⟩] → Claim.Access s core m pa 8 .lrq slot →
      ∃ t, exec (.lrqHandler core) s = .next t ∧ t.mem = s.mem ∧ t.net = s.net ∧
        (t.core core).waits = [⟨pa, .holder who k⟩, ⟨pa, .lrq m.reply (m.spanel * 65536 + m.src) slot⟩]) ∧
    ((s.core core).waits = [⟨pa, .holder (m.spanel * 65536 + m.src) slot⟩] → Claim.Access s core m pa 8 (.scq v) slot →
      ∃ t, exec (.scqHandler core) s = .next t ∧ Claim.Stored s t pa (toBytes 8 v.toNat) ∧ t.mem.fe = s.mem.fe ∧ (t.core core).waits = [] ∧
        Claim.Answered t core m {}) ∧
    ((s.core core).waits = [⟨pa, .holder (m.spanel * 65536 + m.src) slot⟩] → Claim.Access s core m pa 8 .relq slot →
      ∃ t, exec (.relqHandler core) s = .next t ∧ t.mem = s.mem ∧ (t.core core).waits = [] ∧ Claim.Answered t core m {})

/-- A message of core `core` with its own handler: from another core of the panel, for a sound word of the slice that its master owns. -/
structure Claim.Served (s : State) (core : Nat) (m : Msg) (b : Body) (vc pa n : Nat) : Prop where
  head  : s.headMsg core = some m
  len   : m.len ≤ 256
  body  : m.body = b
  vc    : m.vc = vc
  panel : m.spanel = s.panelId
  space : spaceOf pa = 1
  home  : sliceLcn pa = core
  owner : (s.core core).owns (sliceOff pa) n m.ctx m.level = true
  sound : s.Sound pa n

/-! ## Publish handles at their home (R267-R276, R284, R305-R312) -/

/-- A message asks for operation `op` on handle `h` of core `core`, and no message waits on the handle. -/
structure Claim.ToHandle (s : State) (core h : Nat) (m : Msg) (op : HandleOp) : Prop where
  head  : s.headMsg core = some m
  len   : m.len ≤ 256
  body  : m.body = .handle h op
  waits : (s.core core).handleWaits h = []

/-- The same, on a valid handle of the message's context. -/
structure Claim.OnHandle (s : State) (core h : Nat) (m : Msg) (op : HandleOp) : Prop extends Claim.ToHandle s core h m op where
  valid : ((s.core core).handle h).v = true
  ctx   : ((s.core core).handle h).ctx = m.ctx

/-- The message is taken, the handle's entry becomes `e`, and the answer `r` leaves. -/
def Claim.handled (s : State) (core h : Nat) (m : Msg) (e : Handle) (r : Resp) : Result :=
  .next (((s.takeMsg core m).modHandle core h fun _ => e).answer core m.reply r)

/-- A handle name faults with cause 0x2E and a reason (R284). -/
def Claim.refusedBy (s : State) (core h reason : Nat) (m : Msg) : Result :=
  .next ((s.takeMsg core m).answer core m.reply { cause := 0x2E, info := BitVec.ofNat 64 (reason + h * 256) })

/-- The operations on a handle at its home: a publish counts the version up, changes the buffer and re-fires the subscribers; it waits for the
acknowledgements of a handle with pace; HSUB appends a subscriber of up to eight, HUNSUB removes one, HVER reads the version with its marks,
STOPREF stops, REFCHK tells, HCFG writes the entry of a valid record. -/
def Part.HandlesAtHome : Prop :=
  ∀ (core h : Nat) (m : Msg) (s : State) (e : Handle), (s.core core).handle h = e →
    (∀ f : Bool, Claim.OnHandle s core h m (.publish f) → e.final = false → e.stopat = 0 ∨ e.version < e.stopat →
      e.version ≠ BitVec.allOnes 32 → (e.pace = true → ∀ k : Nat, k < e.subs.length → e.ack.getLsbD k = true) →
      exec (.publishHome core) s = .next ((((s.takeMsg core m).modHandle core h fun e =>
        { e with pubb := !e.pubb, version := e.version + 1, final := f, ack := 0 }).refire core h).answer core m.reply {})) ∧
    (∀ f : Bool, Claim.OnHandle s core h m (.publish f) → e.final = true →
      exec (.publishHome core) s = Claim.refusedBy s core h 4 m) ∧
    (∀ f : Bool, Claim.OnHandle s core h m (.publish f) → e.final = false → e.stopat = 0 → e.version = BitVec.allOnes 32 →
      exec (.publishHome core) s = Claim.refusedBy s core h 5 m) ∧
    (∀ (f : Bool) (k : Nat), Claim.OnHandle s core h m (.publish f) → e.final = false → e.stopat = 0 ∨ e.version < e.stopat →
      e.version ≠ BitVec.allOnes 32 → e.pace = true → k < e.subs.length → e.ack.getLsbD k = false → (s.core core).waits.length < 4224 →
      exec (.publishHome core) s = .next ((s.takeMsg core m).modCore core fun c => { c with waits := c.waits ++ [⟨h, .handle m⟩] })) ∧
    (∀ va : Word, Claim.OnHandle s core h m (.hsub va) → va.extractLsb' 6 42 ∉ e.subs → e.subs.length < 8 →
      exec (.hsubHome core) s = Claim.handled s core h m
        { e with subs := e.subs ++ [va.extractLsb' 6 42], ack := e.ack ||| (1#8 <<< e.subs.length) } {}) ∧
    (∀ va : Word, Claim.OnHandle s core h m (.hsub va) → va.extractLsb' 6 42 ∉ e.subs → e.subs.length = 8 →
      exec (.hsubHome core) s = Claim.refusedBy s core h 6 m) ∧
    (∀ (va : Word) (pre post : List (BitVec 42)), Claim.OnHandle s core h m (.hunsub va) → e.subs = pre ++ va.extractLsb' 6 42 :: post →
      va.extractLsb' 6 42 ∉ pre → ∃ ack : BitVec 8,
      exec (.hunsubHome core) s = Claim.handled s core h m { e with subs := pre ++ post, ack := ack } {} ∧
        ∀ k : Nat, ack.getLsbD k = if k < pre.length then e.ack.getLsbD k else e.ack.getLsbD (k + 1)) ∧
    (∀ x4 : Word, Claim.OnHandle s core h m (.hver x4) → e.pace = false →
      exec (.hverHome core) s = Claim.handled s core h m e { w := BitVec.ofNat 64 (e.version.toNat + (if e.final then 2 ^ 32 else 0) +
        (if e.stop then 2 ^ 33 else 0) + if e.stopat ≠ 0 ∧ e.stopat ≤ e.version then 2 ^ 34 else 0) }) ∧
    (∀ x4 : Word, Claim.OnHandle s core h m (.stopref none x4) → e.final = false → e.pace = false →
      exec (.stoprefHome core) s = Claim.handled s core h m { e with stop := true } {}) ∧
    (∀ (x4 : Word) (v : BitVec 32), Claim.OnHandle s core h m (.stopref (some v) x4) → e.final = false → e.pace = false →
      exec (.stoprefHome core) s = Claim.refusedBy s core h 7 m) ∧
    (∀ (x4 : Word) (v : BitVec 32), Claim.OnHandle s core h m (.stopref (some v) x4) → e.final = false → e.pace = true → v ≠ 0 → e.version ≤ v →
      x4.extractLsb' 6 42 ∉ e.subs →
      exec (.stoprefHome core) s = Claim.handled s core h m { e with stopat := if e.stopat = 0 ∨ v < e.stopat then v else e.stopat } {}) ∧
    (∀ (x4 : Word) (v : BitVec 32), Claim.OnHandle s core h m (.stopref (some v) x4) → e.final = false → e.pace = true → v ≠ 0 → v < e.version →
      exec (.stoprefHome core) s = Claim.refusedBy s core h 8 m) ∧
    (Claim.OnHandle s core h m .refchk →
      exec (.refchkHome core) s = .next ((s.takeMsg core m).answer core m.reply
        { w := if e.stop = true ∨ (e.stopat ≠ 0 ∧ e.stopat ≤ e.version) then 1 else 0 })) ∧
    (∀ r0 r1 : Word, h < 64 → Claim.ToHandle s core h m (.hcfg r0 r1) → (e.v = true → e.ctx = m.ctx ∨ m.level = 2) → s.windowNamed core h = false → s.handleOk core m.ctx r0 r1 = true →
      exec (.hcfgHome core) s = Claim.handled s core h m
        { v := true, offa := r0.extractLsb' 0 20, offb := r0.extractLsb' 20 20, size := (r1.extractLsb' 0 17).toNat, ctx := m.ctx,
          pace := r1.getLsbD 23, ssv := r1.getLsbD 22, sset := (r1.extractLsb' 18 4).toNat } {}) ∧
    (∀ r0 r1 : Word, Claim.ToHandle s core h m (.hcfg r0 r1) → (e.v = true → e.ctx = m.ctx ∨ m.level = 2) → s.windowNamed core h = false →
      s.handleOk core m.ctx r0 r1 = false → r1 ≠ 0 →
      exec (.hcfgHome core) s = Claim.refusedBy s core h 3 m) ∧
    (∀ r0 : Word, Claim.ToHandle s core h m (.hcfg r0 0) → (e.v = true → e.ctx = m.ctx ∨ m.level = 2) → s.windowNamed core h = false →
      exec (.hcfgHome core) s = Claim.handled s core h m {} {})

/-! ## Rings, links and pages at their home (R121, R126, R128, R189, R190, R349) -/

/-- A message for core `core` stands at the head of its buffer. -/
structure Claim.Head (s : State) (core : Nat) (m : Msg) (b : Body) : Prop where
  head : s.headMsg core = some m
  len  : m.len ≤ 256
  body : m.body = b

/-- A message about the ring whose descriptor stands at `d` in core `core`'s slice: its master owns the page, the descriptor is sound and
one, and nothing gathers it. -/
structure Claim.OnRing (s : State) (core : Nat) (m : Msg) (b : Body) (d : Nat) : Prop extends Claim.Head s core m b where
  panel : m.spanel = s.panelId
  src   : m.src ≠ core
  space : spaceOf d = 1
  home  : sliceLcn d = core
  line  : d % 64 = 0
  owner : (s.core core).owns (sliceOff d) 64 m.ctx m.level = true
  sound : s.Sound d 64
  free  : s.gathered core d 64 = false
  valid : s.ringValid d = true

/-- The master of a message owns a ring's word at `a`, which lies in no overflow list and which nothing gathers. -/
structure Claim.RingWord (s : State) (core : Nat) (m : Msg) (a : Nat) : Prop where
  owner  : (s.core core).owns (sliceOff a) 8 m.ctx m.level = true
  listed : (s.core core).inOverflow (sliceOff a) 8 = false
  free   : s.gathered core a 8 = false

/-- The ring's word that is written next does not lie in the descriptor. -/
def Claim.Apart (s : State) (d : Nat) : Prop := s.ringAt d (s.ringTail d) + 8 ≤ d ∨ d + 64 ≤ s.ringAt d (s.ringTail d)

/-- Word `w` has joined the ring as its newest. -/
structure Claim.Joined (s t : State) (d : Nat) (w : Word) : Prop where
  tail : t.ringTail d = s.ringTail d + 1
  head : t.ringHead d = s.ringHead d
  size : t.ringSize d = s.ringSize d
  word : t.mem.read64 (s.ringAt d (s.ringTail d)) = w

/-! ## The debug window and the control blocks (R111, R137, R207, R241, R248, R332, R333, R444) -/

/-- An access to offset `o` of core `core`'s debug window, from a master that R444 admits. -/
structure Claim.Window (s : State) (core : Nat) (m : Msg) (o : Nat) (op : MemOp) : Prop where
  head  : s.headMsg core = some m
  len   : m.len ≤ 256
  lcn   : core < 8192
  off   : o < 0x10000 ∧ o % 8 = 0
  body  : ∃ slot apc, m.body = .mem (15 * 2 ^ 44 + core * 0x10000 + o) op slot apc
  may   : s.mayView core m = true

/-- A store of a doubleword. -/
def Claim.store8 (w : Word) : MemOp := .store (toBytes 8 w.toNat)

/-- The answer to a served write. -/
def Claim.written : Resp := { w := 0, data := toBytes 8 0 }

/-- The debug window: a read shows its word, a write on a frozen core takes effect and is discarded on a core that runs, the commands of DBGCTL do what
Table 7.13 says, and a master that R444 does not let in is refused. -/
def Part.DebugWindow : Prop :=
  ∀ (core : Nat) (k : Fin 16) (m : Msg) (s : State),
    (∀ o : Nat, Claim.Window s core m o (.load 8) →
      ∃ v : Word, exec (.debugWindowAccess core) s = .next ((s.takeMsg core m).answer core m.reply { w := v, data := toBytes 8 v.toNat }) ∧
        (∀ r : Fin 32, o = k.val * 0x800 + 8 * r.val → v = if r = 0 then 0 else (s.slot core k).regs.x[r]) ∧
        (o = k.val * 0x800 + 0x180 → v = (s.slot core k).pc.zeroExtend 64) ∧
        (∀ n : Nat, o = 0x8000 + 8 * n → n < 0x48 → (sysReadLevel n).isSome = true → n ≠ 0xB → n ≠ 1 → v = (s.core core).sys n)) ∧
    (∀ (r : Fin 32) (w : Word), Claim.Window s core m (k.val * 0x800 + 8 * r.val) (Claim.store8 w) → (s.core core).flt.frozen = true →
      exec (.debugWindowAccess core) s = .next (((s.takeMsg core m).modSlot core k fun t => t.setX r w).answer core m.reply Claim.written)) ∧
    (∀ (r : Fin 32) (w : Word), Claim.Window s core m (k.val * 0x800 + 8 * r.val) (Claim.store8 w) → (s.core core).flt.frozen = false →
      (s.slot core k).state ≠ .parked →
      exec (.debugWindowAccess core) s = .next (((s.takeMsg core m).modCore core fun c =>
        { c with flt := { c.flt with disc := true } }).answer core m.reply Claim.written)) ∧
    (∀ (o : Nat) (slot : Nat) (apc : Addr), s.headMsg core = some m → m.len ≤ 256 → core < 8192 → o < 0x8000 →
      m.body = .mem (15 * 2 ^ 44 + core * 0x10000 + o) (.load 8) slot apc → m.level = 0 →
      exec (.debugWindowAccess core) s = .next ((s.takeMsg core m).answer core m.reply { cause := 0x04 })) ∧
    (∀ w : Word, Claim.Window s core m 0xE000 (Claim.store8 w) → w.extractLsb' 4 4 = 1#4 → (s.core core).flt.frozen = true →
      (s.core core).veng.q = [] → (s.core core).cq = [] → (∀ j : Fin 16, (s.slot core j).path = [] ∧ (s.slot core j).park ≠ .marker) → (s.slot core k).state = .frozen →
      (s.slot core k).load = none → (s.slot core k).refused = [] →
      ∃ t, exec (.dbgctlResume core) s = .next t ∧ (t.core core).flt.frozen = false ∧ (t.core core).flt.fcnt = 0 ∧
        (t.slot core k).state = .running ∧ (t.slot core k).pc = (s.slot core k).pc ∧ (t.slot core k).regs = (s.slot core k).regs ∧ t.mem = s.mem) ∧
    (∀ w : Word, Claim.Window s core m 0xE000 (Claim.store8 w) → w.extractLsb' 4 4 = 2#4 → w.extractLsb' 0 4 = BitVec.ofNat 4 k.val →
      (s.core core).flt.frozen = true → (s.slot core k).state = .frozen → (s.slot core k).load = none → (s.slot core k).path = [] →
      ∃ t, exec (.dbgctlSingleStep core) s = .next t ∧ (t.core core).flt.frozen = true ∧ (t.core core).flt.step = some k ∧
        (t.slot core k).state = .running ∧ (t.slot core k).pc = (s.slot core k).pc ∧ ∀ j : Fin 16, j ≠ k → t.slot core j = s.slot core j) ∧
    (∀ w : Word, Claim.Window s core m 0xE000 (Claim.store8 w) → w.extractLsb' 4 4 = 3#4 → w.extractLsb' 0 4 = BitVec.ofNat 4 k.val → k ≠ 15 →
      (s.slot core k).state = .parked ∨ (s.slot core k).state = .frozen →
      ∃ t, exec (.dbgctlRetire core) s = .next t ∧ (t.slot core k).state = .idle ∧ (t.slot core k).record = none) ∧
    (∀ w : Word, Claim.Window s core m 0xE000 (Claim.store8 w) → w.extractLsb' 4 4 = 4#4 → w.extractLsb' 0 4 = BitVec.ofNat 4 k.val → k ≠ 15 →
      (s.slot core k).state = .parked → (s.slot core k).park = .supcall → Claim.Plain (s.slot core k) → (s.core core).flt.frozen = false →
      ∃ t, exec (.dbgctlReleaseSupcall core) s = .next t ∧ Claim.GoesOn s t core k) ∧
    (∀ w : Word, Claim.Window s core m 0xE000 (Claim.store8 w) → 5 ≤ (w.extractLsb' 4 4).toNat →
      exec (.dbgctlInvalidCommand core) s = .next (((s.takeMsg core m).modCore core fun c =>
        { c with flt := { c.flt with disc := true, ctlslot := (w.extractLsb' 0 4).toNat, ctlcmd := (w.extractLsb' 4 4).toNat } }).answer
          core m.reply Claim.written)) ∧
    (∀ (n : Nat) (w : Word), Claim.Window s core m (0x8000 + 8 * n) (Claim.store8 w) → n < 0x200 → (s.core core).flt.frozen = true →
      n ≠ 0xC → n ≠ 0xD → (∃ need, sysWriteLevel n = some need ∧ need ≤ m.level) → (s.core core).sysOk core n w = true →
      exec (.registerWrite core) s = .next (((s.takeMsg core m).modCore core fun c => c.setSys n (w &&& sysMask n)).answer
        core m.reply Claim.written)) ∧
    (∀ (n : Nat) (w : Word), Claim.Window s core m (0x8000 + 8 * n) (Claim.store8 w) → n < 0x200 → (s.core core).flt.frozen = false →
      exec (.registerWrite core) s = .next (((s.takeMsg core m).modCore core fun c =>
        { c with flt := { c.flt with disc := true } }).answer core m.reply Claim.written)) ∧
    (∀ (n : Nat) (k : Fin 4), (s.core core).veng.rlcmd = some (n, true) → (s.core core).cxAt n = some k →
      exec (.rlcmdLoad core) s = .next (s.modCore core fun c => { c with veng := { c.veng.touch k with rlcmd := none, rlstat := 0 } })) ∧
    (∀ (n : Nat) (k : Fin 4) (u : State) (cause why : Nat), (s.core core).veng.rlcmd = some (n, true) → (s.core core).cxAt n = none →
      (s.core core).veng.victimNow = some k → (s.cxHead core n).2 = none → (s.cxTake core k n).cxInstall core k n = (u, cause, why) → cause = 0 ∨ cause = 0x1D →
      exec (.rlcmdLoad core) s = .next (u.modCore core fun c =>
        { c with veng := { c.veng with rlcmd := none, rlstat := if cause = 0 then 0 else BitVec.ofNat 64 (why * 256) } })) ∧
    (∀ (n : Nat) (k : Fin 4), (s.core core).veng.rlcmd = some (n, false) → (s.core core).cxAt n = some k →
      exec (.rlcmdDrop core) s = .next (s.modCore core fun c => { c with veng :=
        { c.veng with gs := c.veng.gs.set k { c.veng.gs[k] with proj := none, head := none, graph := none }, rlcmd := none, rlstat := 0 } }))

/-- The message that stands first at a die agent or another agent outside the cores. -/
structure Claim.First8 (s : State) (agent : Nat) (m : Msg) (b : Body) : Prop where
  outer : 8192 ≤ agent
  live  : agent < 8448 → (s.die (agent - 8192)).failed = false
  head  : (s.ni agent).inq.head? = some m
  len   : m.len ≤ 256
  body  : m.body = b

/-- The payload buffer of core `n`'s message thread (Table 5.9) can be written: nothing gathers it, and in state `u` its owner, its words
and its bank allow it. -/
structure Claim.Buffer (s u : State) (n : Nat) : Prop where
  lcn   : n < 8192
  free  : s.gathered n (s.msgBuf n) 256 = false
  owner : (u.core n).owns (sliceOff (u.msgBuf n)) 256 (u.core n).ctxid (u.core n).level = true
  sound : u.Sound (u.msgBuf n) 256

/-- The control blocks of die agents, the program handlers of the message thread, and the receivers of fault packets. -/
def Part.BlocksHandlersPackets : Prop :=
  ∀ (n : Nat) (m : Msg) (s : State), s.Inv →
    (∀ (w : Word) (slot : Nat) (apc : Addr), n < 1024 →
      Claim.First8 s (8192 + n / 4) m (.mem (15 * 2 ^ 44 + 0x10_0000_0000 + n * 0x100) (Claim.store8 w) slot apc) → m.level = 2 →
      w.toNat < 2 ^ 32 → (∀ j : Nat, j < 8 → w.getLsbD (4 * j + 3) = false) →
      exec (.registerWrite (8192 + n / 4)) s = .next (((s.takeMsg (8192 + n / 4) m).modCluster n fun k =>
        { k with cmuwt := w.setWidth 32 }).answer (8192 + n / 4) m.reply {})) ∧
    (∀ (w : Word) (slot : Nat) (apc : Addr), n < 256 →
      Claim.First8 s (8192 + n) m (.mem (15 * 2 ^ 44 + 0x20_0000_0000 + n * 0x1000) (Claim.store8 w) slot apc) → m.level = 2 →
      m.src = Config.srcPctl →
      exec (.registerWrite (8192 + n)) s = .next (((s.takeMsg (8192 + n) m).modDie n fun d =>
        { d with hmap := w.setWidth 36 }).answer (8192 + n) m.reply {})) ∧
    (∀ (w : Word) (slot : Nat) (apc : Addr), n < 256 →
      Claim.First8 s (8192 + n) m (.mem (15 * 2 ^ 44 + 0x20_0000_0000 + n * 0x1000) (Claim.store8 w) slot apc) → m.level ≠ 2 →
      m.src = Config.srcPctl →
      exec (.registerWrite (8192 + n)) s = .next ((s.takeMsg (8192 + n) m).answer (8192 + n) m.reply { cause := 0x04 })) ∧
    (∀ (w : Word) (slot : Nat) (apc : Addr), n < 256 →
      Claim.First8 s (8192 + n) m (.mem (15 * 2 ^ 44 + 0x20_0000_0000 + n * 0x1000) (Claim.store8 w) slot apc) →
      m.src ≠ Config.srcPctl →
      exec (.controlSpaceAccess (8192 + n)) s = .next ((s.takeMsg (8192 + n) m).answer (8192 + n) m.reply { cause := 0x04 })) ∧
    (∀ (slot : Nat) (apc : Addr), n < 256 →
      Claim.First8 s (8192 + n) m (.mem (15 * 2 ^ 44 + 0x20_0000_0000 + n * 0x1000) (.load 8) slot apc) → m.level = 2 →
      exec (.controlSpaceAccess (8192 + n)) s = .next ((s.takeMsg (8192 + n) m).answer (8192 + n) m.reply
        { w := (s.die n).hmap.zeroExtend 64, data := toBytes 8 (s.die n).hmap.toNat })) ∧
    (n < 256 → Claim.First8 s (8192 + n) m .rdhmap →
      exec (.controlSpaceAccess (8192 + n)) s = .next ((s.takeMsg (8192 + n) m).answer (8192 + n) m.reply
        { w := (s.die n).hmap.zeroExtend 64 })) ∧
    (∀ (d : List Byte) (pc : Addr) (u : State), Claim.Head s n m (.program d) → 0x40 ≤ m.kind →
      (s.takeMsg n m).handlerEntry n m.kind = (u, .inl pc) → d.length = m.len → (u.core n).sys 7 = (s.core n).sys 7 →
      Claim.Buffer s u n →
      ∃ t, exec (.programHandler n) s = .next t ∧ (t.slot n 15).state = .running ∧ (t.slot n 15).pc = pc ∧
        (t.slot n 15).regs.x[5] = BitVec.ofNat 64 m.len ∧ (t.slot n 15).regs.x[6] = BitVec.ofNat 64 m.src ∧
        (t.slot n 15).regs.x[4] = (s.core n).sys 7 &&& 0xFFF00 ∧ (t.core n).mt = some { msg := m } ∧
        t.mem.read (slicePa n ((s.core n).sys 7 &&& 0xFFF00).toNat) m.len = d) ∧
    (∀ (d : List Byte) (u : State), Claim.Head s n m (.program d) → 0x40 ≤ m.kind → m.kind ≠ 0xFF →
      (s.takeMsg n m).handlerEntry n m.kind = (u, .inr 0) → s.gathered n (s.msgBuf n) 256 = false → m.vc = 0 → m.spanel = u.panelId → u.panelId = s.panelId →
      ∃ t, exec (.programHandler n) s = .next t ∧ t.mem = u.mem ∧ (t.core n).mt = (u.core n).mt ∧
        Claim.Answered t n m { cause := 0x32, info := 1 }) ∧
    (∀ p : Packet, Claim.First8 s Config.srcPctl m (.packet p) → p.cause ≠ 0x3A → p.cause ≠ 0x3B →
      exec (.faultPacketReceive Config.srcPctl) s = .next ((s.takeMsg Config.srcPctl m).modPctl fun x => { x with packets := x.packets ++ [p] })) ∧
    (∀ (p : Packet) (pc : Addr) (u : State), n < 8192 → Claim.Head s n m (.packet p) → (s.takeMsg n m).handlerEntry n 0xFF = (u, .inl pc) →
      Claim.Buffer s u n →
      ∃ t, exec (.faultPacketReceive n) s = .next t ∧ (t.slot n 15).state = .running ∧ (t.slot n 15).pc = pc ∧
        (t.core n).mt = some { msg := m })

/-! ## The engines (R55, R170, R175, R184, R205, R210, R246-R249, R257-R262, R265, R289, R293, R298) -/

/-- Command `c` stands at the head of core `core`'s vector queue; nothing holds it back. -/
structure Claim.VecHead (s : State) (core : Nat) (c : VCmd) (rest : List VCmd) : Prop where
  queue  : (s.core core).veng.q = c :: rest
  sound  : c.flt = false
  frozen : (s.core core).flt.frozen = false
  runs   : (s.core core).stopping = none
  good   : c.gd = .known true → c.bad = none

/-- The result of the command at the head of core `core`'s vector queue is written: a register and its tag; every other register of the slot and
all of memory stay, and the command leaves the queue. -/
structure Claim.Written (s u : State) (core : Nat) (c : VCmd) (rest : List VCmd) (d : Fin 16) (v : Vec) (t : Tag) : Prop where
  value  : (u.slot core (Fin.ofNat 16 c.slot)).regs.v[d] = v
  tag    : (u.slot core (Fin.ofNat 16 c.slot)).regs.vtag[d] = t
  popped : (u.core core).veng.q.length = rest.length
  mem    : u.mem = s.mem
  others : ∀ e : Fin 16, e ≠ d → (u.slot core (Fin.ofNat 16 c.slot)).regs.v[e] = (s.slot core (Fin.ofNat 16 c.slot)).regs.v[e]

/-- The head of the vector queue has its result and waits to write it. -/
def Claim.resultOf (s : State) (core : Nat) (c : VCmd) (rest : List VCmd) (r : VResult) : Result :=
  .next (s.modCore core fun k => { k with veng := { k.veng with q := { c with started := true, res := some r, busy := false } :: rest } })

/-- Command `c` stands at the head of core `core`'s copy queue, and the engine runs. -/
structure Claim.CopyHead (s : State) (core : Nat) (c : CCmd) (rest : List CCmd) : Prop where
  queue  : (s.core core).cq = c :: rest
  sound  : c.flt = false
  frozen : (s.core core).flt.frozen = false
  runs   : (s.core core).stopping = none

/-- The copy engine (R257, R258, R260, R262): a command starts, moves its segments, and completes when every byte has been moved and every write
performed; its completion word is filled at once in the core's own slice, by a posted write at another home; a command with COMB joins a window of the
cluster's combining node, or opens one; when the window closes its members go on with what was fetched once. -/
def Part.CopyEngine : Prop :=
  ∀ (core cl : Nat) (c : CCmd) (rest : List CCmd) (s : State),
    (Claim.CopyHead s core c rest → c.started = false → c.rcd.comb = false → c.comb = 0 → c.restored = false → c.after = [] →
      (∀ x ∈ rest, x.restored = false) → c.multi = false → c.rcd.cwa = 0 →
      exec (.copyCommandStart core) s = .next (s.modCore core fun k => { k with cq := s.copyStarted core c :: rest })) ∧
    (∀ z : CopyStep, Claim.CopyHead s core c rest → c.started = true → c.prog < c.rcd.total → c.busy = false →
      s.copyAway core c c.segment = [] → s.copyLanding core c c.segment = false →
      (s.copyOrder core c).foldl (CopyStep.one core c) { s := s, got := c.got, room := postedMax - (s.ni core).posted.length } = z →
      z.flt = none → z.full = false → (z.s.core core).cq = c :: rest → (z.s.core core).thresholds = false →
      ∃ t, exec (.copySegmentEnd core) s = .next t ∧ t.mem = z.s.mem ∧ (t.core core).cq =
        { c with prog := c.prog + c.segment.length * c.rcd.dsz, seg := c.prog + c.segment.length * c.rcd.dsz, got := z.got } :: rest) ∧
    ((s.core core).cq = c :: rest → c.flt = false → c.started = true → c.rcd.total ≤ c.prog → (∀ p ∈ (s.ni core).posted, p.slot ≠ 18) →
      c.rcd.pub = false ∨ c.pub = 2 → c.multi = false → c.rcd.cwa = 0 →
      exec (.copyComplete core) s = .next ((s.modCore core fun k => { k with cq := rest }).cmdDone core c.slot)) ∧
    (∀ (u v : State) (pa : Nat), (s.core core).cq = c :: rest → c.flt = false → c.started = true → c.rcd.total ≤ c.prog →
      (∀ p ∈ (s.ni core).posted, p.slot ≠ 18) → c.rcd.pub = false ∨ c.pub = 2 → c.multi = false →
      s.copyStartCheck core { c with prog := c.rcd.total } = (u, .ok (some pa)) →
      (if homeOf pa = core then u.fillAt pa (BitVec.ofNat 64 c.rcd.total) (u.core core).ctxid (u.core core).level = (v, 0)
       else u.postedWrite 18 (homeKey u.panelId pa) (u.reqMsg core u.panelId (homeOf pa) 2 0x06 8
         (.mem pa (.stf (BitVec.ofNat 64 c.rcd.total)) c.slot c.apc)) = v) →
      exec (.copyComplete core) s = .next ((v.modCore core fun k => { k with cq := rest }).cmdDone core c.slot)) ∧
    (∀ (u : State) (key : List Word), Claim.CopyHead s core c rest → c.rcd.comb = true → c.comb = 0 → c.after = [] → c.restored = false →
      c.prog = 0 → (∀ x ∈ rest, x.comb ≠ 1) → (s.cluster (clusterOf core)).mabs = false → (s.cluster (clusterOf core)).cmboff = false →
      (s.cluster (clusterOf core)).wins = [] → s.combKey core c = (u, key) → (u.cluster (clusterOf core)).wins = [] → u.time = s.time →
      exec (.combineRequest core) s = .next ((u.modCluster (clusterOf core) fun n =>
        { n with wins := [{ at_ := s.time, ctx := (u.core core).ctxid, key := key, mem := [core] }] }).setComb core c.ra fun c => { c with comb := 1 })) ∧
    (∀ (w : Window) (z : CombStep), (s.cluster cl).wins = [w] → w.closed = false → w.busy = false → w.got = [] → w.at_ + 64 ≤ s.time →
      w.mem = [core] → Claim.CopyHead s core c rest → c.comb = 1 →
      (s.setWindow cl 0 { w with closed := true, words := c.words }).combFetch core c.rcd [] = z → z.ask = none →
      (z.s.core core).cq = c :: rest → (∀ x ∈ rest, x.comb ≠ 1) →
      exec (.combineWindowClose cl 0) s = .next ((z.s.modCluster cl fun n => { n with wins := n.wins.eraseIdx 0 }).modCore core fun k =>
        { k with cq := { c with comb := 2, fetched := if z.bad then none else some z.got } :: rest }))

/-! ## Banks, bridges and translation (R120, R382-R385, R395) -/

/-- Words of HBM that can be read: no failed channel, no recorded sector, no error of their check bits, in no part of a save block whose layout
is free (R353). -/
structure Claim.SoundHbm (s : State) (pa n : Nat) (write : Bool) : Prop where
  space  : spaceOf pa = 2
  served : s.hbmRefuses pa n write = 0
  laid   : ∀ e ∈ s.pctl.saves, pa + n ≤ e.2.base + 0x100000 ∨ e.2.base + 0x180000 ≤ pa
  words  : ∀ w ∈ wordsIn pa n, s.mem.single.contains w = false ∧ s.mem.double.contains w = false

/-! ## Sweeps, settle sets, dealers and the governor (R279-R281, R312, R335-R349) -/

/-- A message that the PCTL or a die agent takes next: the first in its buffer. -/
structure Claim.Next (s : State) (agent : Nat) (m : Msg) (b : Body) : Prop where
  head : ∃ rest, (s.ni agent).inq = m :: rest
  body : m.body = b

/-- Cards and chunks: a launch sends each participating die its share; a share enters a dealer slot; a chunk's record is written and pushed, or its card
waits for the record's slot; a core that asks gets a chunk or none; DEAL takes a chunk without a record; slots are read again and rotate. -/
def Part.DealersCards : Prop :=
  ∀ (die : Nat) (c : Card) (m : Msg) (s : State), (s.die die).failed = false →
    (∀ (va : Word) (ws : List Word) (d n : Nat), Claim.Next s (8192 + die) m (.launch va ws) →
      (s.takeMsg (8192 + die) m).participants m.ctx m.src (cardDom ws) = [(d, n)] → 0 < n →
      ∃ t, exec (.cardAcceptance die) s = .next t ∧ t.pctl.nextLaunch = s.pctl.nextLaunch + 1 ∧
        ∃ a ∈ t.net, a.dest = 8192 + d ∧ ∃ x, a.body = .range x ∧ x.va = va ∧ x.words = ws ∧ x.ctx = m.ctx ∧ x.lo = 0 ∧
          x.hi = cardRcount ws ∧ x.nd = n ∧ x.launch = s.pctl.nextLaunch) ∧
    (∀ (y : Launch) (r : Reply), Claim.Next s (8192 + die) m (.range c) → c.lo < c.hi → (s.die die).cards.length < 32 →
      (s.ctx c.ctx).launches = [y] → y.id = c.launch → y.left = [die] → y.reply = some r →
      ∃ t, exec (.cardAcceptance die) s = .next t ∧ (t.die die).nextCard = (s.die die).nextCard + 1 ∧
        (∃ x, (t.die die).cards = (s.die die).cards ++ [x] ∧ x.va = c.va ∧ x.words = c.words ∧ x.lo = c.lo ∧ x.hi = c.hi ∧
          x.order = (s.die die).nextCard) ∧
        (∃ z, (t.ctx c.ctx).launches = [z] ∧ z.left = [] ∧ z.reply = none)) ∧
    (∀ (l st pa : Nat) (u v : State), (s.die die).nextDeal (fun x => decide ((s.ctx x).st = .running)) = some (c, l) → c.target = some l →
      c.asked = none → s.slotState die c = (u, .inl (st, pa)) → st = 0 ∨ st = 4 → u.writeOwned pa c.record c.ctx 0 none = (v, 0) →
      (v.ni (8192 + die)).fenced = [] → (v.ni (8192 + die)).held = [] → (v.die die).cards = (s.die die).cards → (v.die die).waitq = [] →
      (s.die die).cards = [c] → c.lo + c.chunk < c.hi →
      ∃ t, exec (.dealChunk die) s = .next t ∧ t.mem = v.mem ∧
        (t.die die).cards = [{ c with lo := c.lo + c.chunk, c := c.c + 1, target := none, asked := none, reread := none }] ∧
        ∃ a ∈ t.net, a.dest = l ∧ a.body = .push (BitVec.ofNat 64 c.slotVa) (cardPri c.words) (cardRdom c.words)) ∧
    (∀ (l st pa : Nat) (u : State), (s.die die).nextDeal (fun x => decide ((s.ctx x).st = .running)) = some (c, l) → c.target = some l →
      s.slotState die c = (u, .inl (st, pa)) → st ≠ 0 → st ≠ 4 →
      exec (.dealChunk die) s = .next (u.modCard die c.order fun c => { c with target := some l, reread := some (s.time + 256) })) ∧
    ((s.die die).nextDeal (fun x => decide ((s.ctx x).st = .running)) = none → exec (.dealChunk die) s = .next s) ∧
    (Claim.Next s (8192 + die) m .dealReq → (s.ctx m.ctx).st = .running → (s.die die).bestCard m.ctx = none →
      (s.die die).dealBusy m.ctx = false →
      exec (.dealRequest die) s = .next ((s.takeMsg (8192 + die) m).answer (8192 + die) m.reply { none_ := true })) ∧
    (Claim.Next s (8192 + die) m .dealReq → (s.ctx m.ctx).st = .running → (s.die die).bestCard m.ctx = some c →
      exec (.dealRequest die) s = .next (((s.takeMsg (8192 + die) m).modCard die c.order fun c =>
        { c with target := some m.src, asked := some m.reply }).dealTo die { c with target := some m.src, asked := some m.reply } m.src)) ∧
    ((s.ni (8192 + die)).inq = [m] → m.body = .dealReq → (s.ctx m.ctx).st = .running → (s.die die).bestCard m.ctx = none →
      (s.die die).dealBusy m.ctx = true → exec (.dealRequest die) s = .next s) ∧
    (∀ va : Word, (s.ni (8192 + die)).inq = [m] → m.body = .deal va → (s.die die).cards = [c] → (s.die die).waitq = [] → c.va = va →
      c.ctx = m.ctx → c.lo < c.hi → c.wave ≠ [] ∨ c.target ≠ none → exec (.dealHome die) s = .next s) ∧
    (∀ va : Word, Claim.Next s (8192 + die) m (.deal va) → (s.die die).cards = [c] → (s.die die).waitq = [] → c.va = va → c.ctx = m.ctx →
      c.wave = [] → c.target = none → c.lo + c.chunk < c.hi → m.vc = 0 → m.spanel = s.panelId →
      ∃ t, exec (.dealHome die) s = .next t ∧ (t.die die).cards = [{ c with lo := c.lo + c.chunk, c := c.c + 1 }] ∧
        t.mem = s.mem ∧ Claim.Answered t (8192 + die) m { w := BitVec.ofNat 64 (c.chunk * 2 ^ 32 + c.lo) }) ∧
    (∀ va : Word, Claim.Next s (8192 + die) m (.deal va) → (s.die die).cards = [] → (s.die die).waitq = [] →
      exec (.dealHome die) s = .next ((s.takeMsg (8192 + die) m).answer (8192 + die) m.reply
        { w := if ∃ y ∈ (s.ctx m.ctx).launches, y.va = va ∧ die ∈ y.dies ∧ die ∉ y.left then 0 else BitVec.allOnes 64 })) ∧
    (∀ (st pa n : Nat) (u : State), (s.die die).cards = [c] → c.reread = some n → n ≤ s.time → s.slotState die c = (u, .inl (st, pa)) →
      exec (.dealerSlotReread die) s = .next (u.modCard die c.order fun c =>
        { c with reread := if st = 0 ∨ st = 4 then none else some (s.time + 256) })) ∧
    (∀ (w : Card), (s.die die).cards = [c] → (s.die die).waitq = [w] → c.target = none → c.since + 150000 ≤ s.time →
      ∃ t x, exec (.dealerSlotRotation die 0) s = .next t ∧ (t.die die).waitq = [c] ∧ (t.die die).cards = [x] ∧ x.order = w.order ∧
        x.since = s.time)

/-- The governor: GOVSET disables a stage and answers its cores; a wrong entry is refused; a good one takes its place; each 1,024 cycles the fullest
stage at or above its threshold takes the highest core of the emptiest one at or below its own. -/
def Part.Governor : Prop :=
  ∀ (die : Nat) (m : Msg) (s : State), (s.die die).failed = false →
    (∀ (k : Fin 8) (ws : List Word) (g : Option Nat), Claim.Next s (8192 + die) m (.govset k.val false ws) → (s.die die).gctx = some m.ctx →
      (g = some m.ctx ∧ ∃ j : Fin 8, j ≠ k ∧ ((s.die die).stages[j]).en = true) ∨
        (g = none ∧ ∀ j : Fin 8, j ≠ k → ((s.die die).stages[j]).en = false) →
      exec (.govsetApply die) s = .next (((s.takeMsg (8192 + die) m).modDie die fun x => { x with stages := x.stages.set k {}, gctx := g }).answer
        (8192 + die) m.reply { w := ((s.die die).stages[k]).cores.zeroExtend 64 })) ∧
    (∀ (k j : Fin 8) (ws : List Word), Claim.Next s (8192 + die) m (.govset k.val false ws) → ((s.die die).stages[j]).en = true →
      (s.die die).gctx ≠ some m.ctx →
      exec (.govsetApply die) s = .next ((s.takeMsg (8192 + die) m).answer (8192 + die) m.reply { cause := 0x11, info := 0x29 })) ∧
    (∀ (k : Fin 8) (ws : List Word) (u : State) (pa : Nat), Claim.Next s (8192 + die) m (.govset k.val true ws) →
      (∀ j : Fin 8, ((s.die die).stages[j]).en = false) →
      (s.takeMsg (8192 + die) m).trDie die m.ctx (nth 0 ws 0).toNat .rw .sync = (u, .ok s.panelId pa) → u.panelId = s.panelId →
      u.stageOk die k m.ctx ws (stageOf ws pa) = true → (u.die die).govAt ≠ 0 →
      exec (.govsetApply die) s = .next ((u.modDie die fun x => { x with stages := x.stages.set k (stageOf ws pa), gctx := some m.ctx }).answer
        (8192 + die) m.reply { w := ((s.die die).stages[k]).cores.zeroExtend 64 })) ∧
    (∀ (a b : Fin 8) (ga gb : Stage) (na nb ctx i : Nat) (u : State), a ≠ b → (s.die die).gctx = some ctx → (s.ctx ctx).st = .running →
      (s.die die).govAt ≤ s.time → (∀ k : Fin 8, ((s.die die).stages[k]).en = decide (k = a ∨ k = b)) → (s.die die).stages[a] = ga →
      (s.die die).stages[b] = gb → u = s.modDie die (fun x => { x with govAt := s.time + 1024 }) →
      u.occupancy ctx ga = (u, some na) → u.occupancy ctx gb = (u, some nb) → ga.hi ≤ na → nb < gb.hi → nb ≤ gb.lo → ga.unit_ = false →
      gb.min < maskCount gb.cores → i < 32 → gb.cores.getLsbD i = true → (∀ j : Nat, i < j → gb.cores.getLsbD j = false) →
      exec (.governorTick die) s = .next (u.modDie die fun x => { x with stages :=
        (x.stages.set b { gb with cores := gb.cores &&& ~~~(1#32 <<< i) }).set a { ga with cores := ga.cores ||| (1#32 <<< i) } })) ∧
    (s.time < (s.die die).govAt → exec (.governorTick die) s = .next s)

/-! ## Links, fences, acceptance, pre-emption (R350-R357, R375, R377, R380, R396) -/

/-- An agent's NI holds one message, and nothing else. -/
structure Claim.Sole (s : State) (agent : Nat) (m : Msg) (b : Body) : Prop where
  inq  : (s.ni agent).inq = [m]
  body : m.body = b

/-- A replay costs counts only; a retrain is counted, and one soon after another lengthens the row; its end begins clean time; three in a row take the
link down at both ends and report 0x35 to the PCTL. -/
def Part.LinksReplayRetrainFail : Prop :=
  ∀ (d k : Nat) (s : State), k < 26 → (s.linkOf d k).down = false →
    (∃ t, exec (.flitReplay d k) s = .next t ∧ (t.linkOf d k).replays = min 0xFFFF ((s.linkOf d k).replays + 1) ∧
      (s.time < (s.linkOf d k).winAt + 65536 → (t.linkOf d k).window = (s.linkOf d k).window + 1) ∧
      (t.linkOf d k).retrains = (s.linkOf d k).retrains ∧ t.mem = s.mem ∧ t.net = s.net ∧ t.cores = s.cores) ∧
    ((s.linkOf d k).training = none →
      ∃ t, exec (.linkRetrain d k) s = .next t ∧ (t.linkOf d k).retrains = min 0xFF ((s.linkOf d k).retrains + 1) ∧
        (t.linkOf d k).training = some s.time ∧
        ((s.linkOf d k).row ≠ 0 → s.time < (s.linkOf d k).clean + 2 ^ 20 → (t.linkOf d k).row = (s.linkOf d k).row + 1) ∧
        ((s.linkOf d k).clean + 2 ^ 20 ≤ s.time → (t.linkOf d k).row = 1) ∧ t.mem = s.mem ∧ t.cores = s.cores) ∧
    (∀ n, (s.linkOf d k).training = some n →
      ∃ t, exec (.linkRetrainEnd d k) s = .next t ∧ (t.linkOf d k).training = none ∧ (t.linkOf d k).clean = s.time ∧
        (t.linkOf d k).row = (s.linkOf d k).row ∧ t.mem = s.mem ∧ t.cores = s.cores) ∧
    (∀ h, linkHop d k = some h → 3 ≤ (s.linkOf d k).row →
      ∃ t, exec (.linkDown d k) s = .next t ∧ (t.linkOf d k).down = true ∧
        (∀ p, linkPeer d k = some p → (t.linkOf p.1 p.2).down = true) ∧ t.mem = s.mem ∧
        ∃ a ∈ t.net, a.dest = Config.srcPctl ∧ ∃ x, a.body = .packet x ∧ x.cause = 0x35 ∧ x.info = word k ∧ x.frz = false)

/-- A remap is refused with 0x31 and a dead mark with 0x32 when its conditions fail; else a fence begins over the logical cores it concerns; an agent that
takes part injects nothing toward them and leaves the fence once it has drained; its end changes the map or the marks, opens every NI and returns
the time. -/
def Part.RemapFences : Prop :=
  ∀ (a : Nat) (x y : Word) (m : Msg) (f : Fence) (r : Reply) (s : State),
    (Claim.Sole s Config.srcPctl m (.rmapset 0 x y) → s.pctl.fences = [] → s.remapOk (bits x 12 0) (bits y 7 0) = true →
      ∃ t g, exec (.remapFenceStart a) s = .next t ∧ t.pctl.fences = [g] ∧ g.op = .remap (bits x 12 0) (bits y 7 0) ∧
        g.set = [bits x 12 0] ∧ g.reply = some m.reply ∧ (t.ni Config.srcPctl).inq = [] ∧ t.rmap = s.rmap) ∧
    (Claim.Sole s Config.srcPctl m (.rmapset 0 x y) → s.pctl.fences = [] → s.remapOk (bits x 12 0) (bits y 7 0) = false →
      exec (.remapFenceStart a) s = .next ((s.takeMsg Config.srcPctl m).answer Config.srcPctl m.reply
        { cause := 0x11, info := 0x31 })) ∧
    (Claim.Sole s Config.srcPctl m (.rmapset 1 x y) → s.pctl.fences = [] → s.mayDie (bits x 13 0) = false →
      exec (.remapFenceStart a) s = .next ((s.takeMsg Config.srcPctl m).answer Config.srcPctl m.reply
        { cause := 0x11, info := 0x32 })) ∧
    (∀ l, s.pctl.fences = f :: l → f.op.isFabric = false → f.left.contains a = true →
      ∃ t, exec (.remapFenceStart a) s = .next t ∧ (t.ni a).fenced = f.set ∧ t.mem = s.mem ∧ t.net = s.net ∧
        (s.drained a f.set = true → t.pctl.fences = { f with left := f.left.filter (· != a) } :: l) ∧
        (s.drained a f.set = false → t.pctl = s.pctl)) ∧
    (s.pctl.fences = [f] → f.left = [] → f.reply = some r → r.vc = 0 → r.panel = s.panelId →
      (∀ l col, f.op = .remap l col → ∃ t, exec .remapFenceEnd s = .next t ∧ t.pctl.fences = [] ∧ t.rmap = Fmap.set s.rmap l col ∧
        (∀ b, (t.ni b).fenced = []) ∧ ∃ z ∈ t.net, z.dest = r.src ∧ z.body = .resp 0 { w := s.gtb }) ∧
      (∀ p, f.op = .clearDead p → ∃ t, exec .remapFenceEnd s = .next t ∧ t.pctl.fences = [] ∧ t.dead = Marks.del s.dead p ∧
        (∀ b, (t.ni b).fenced = []) ∧ ∃ z ∈ t.net, z.dest = r.src ∧ z.body = .resp 0 { w := s.gtb }) ∧
      (∀ p, f.op = .markDead p → ∃ t, exec .remapFenceEnd s = .next t ∧ t.pctl.fences = [] ∧ t.dead = Marks.ins s.dead p ∧
        (∀ b, (t.ni b).fenced = []) ∧ ∃ z ∈ t.net, z.dest = r.src ∧ z.body = .resp 0 { w := s.gtb }))

/-- The next message of an agent can be taken: it can reach the agent, which is not isolated, not in a checkpoint and does not divert it. -/
structure Claim.Arrives (s : State) (a k : Nat) (m : Msg) : Prop where
  head  : (s.heads a)[k]? = some m
  reach : s.reachable m = true
  live  : (s.core a).health.iso = false
  chk   : (s.core a).ckpt.chk = none
  stays : s.diverts a m = false

/-- What the sequence table of an agent holds of the sender of a message. -/
def Claim.peer (s : State) (a : Nat) (m : Msg) : SeqEnt := Fmap.get {} (s.ni a).seqs (peerKey m.spanel m.src)

/-! ## Barriers' wires, checkpoints, containment, power (R386-R394, R397, R398) -/

/-- The combined signal goes west, then north from a row's head, once everything behind it has arrived; the corner releases; a release passes every router
once, with its sense and count; a BARWAIT that is late gives false, or faults with 0x2A. -/
def Part.BarrierWires : Prop :=
  ∀ (l w : Nat) (k b : Fin 4) (g : Bool) (n : Fin 16) (d : Fin 16) (s : State),
    (s.barReady l k = false → exec (.causewaySignal l k.val) s = .next s ∧ exec (.causewayRelease l k.val) s = .next s) ∧
    (s.barReady l k = true → (s.barPlace l k).west = some w →
      exec (.causewaySignal l k.val) s = .next (s.modBar w k fun x => { x with east := some ((s.bar l k).g, (s.bar l k).brect) })) ∧
    (s.barReady l k = true → (s.barPlace l k).west = none → (s.barPlace l k).above = some w →
      exec (.causewaySignal l k.val) s = .next (s.modBar w k fun x => { x with south := some ((s.bar l k).g, (s.bar l k).brect) })) ∧
    (s.barReady l k = true → (s.barPlace l k).west = none → (s.barPlace l k).above = none →
      ∃ t, exec (.causewayRelease l k.val) s = .next t ∧ (t.bar l k).g = !(s.bar l k).g ∧ (t.bar l k).rc = (s.bar l k).rc + 1 ∧
        (t.bar l k).ph = (s.bar l k).ph + 1 ∧ t.mem = s.mem ∧
        (∀ e, (s.barPlace l k).east = some e → (t.bar e k).rel = some (!(s.bar l k).g)) ∧
        ∀ e, (s.barPlace l k).head = true → (s.barPlace l k).below = some e → (t.bar e k).rel = some (!(s.bar l k).g)) ∧
    ((s.bar l k).rel = some g →
      ∃ t, exec (.causewayReleasePass l k.val) s = .next t ∧ (t.bar l k).g = g ∧ (t.bar l k).rc = (s.bar l k).rc + 1 ∧
        (t.bar l k).ph = (s.bar l k).ph + 1 ∧ t.mem = s.mem ∧ (∀ e, (s.barPlace l k).east = some e → (t.bar e k).rel = some g) ∧
        (∀ e, (s.barPlace l k).head = true → (s.barPlace l k).below = some e → (t.bar e k).rel = some g) ∧
        ((s.barPlace l k).east ≠ some l → (s.barPlace l k).below ≠ some l → (t.bar l k).rel = none)) ∧
    ((s.bar l k).rel = none → exec (.causewayReleasePass l k.val) s = .next s) ∧
    ((s.slot l n).barw = some (b, some d) → (s.slot l n).state = .parked → (∃ at_, (s.slot l n).barAt = some at_ ∧ at_ ≤ s.time) → (s.bar l b).ls ≠ (s.bar l b).g → (s.core l).flt.frozen = false →
      exec (.barwaitTimeout l n.val) s = .next (((s.onSlot l n).barDone (some d) false).completed l n)) ∧
    ((s.slot l n).barw = some (b, none) → (s.slot l n).state = .parked → (∃ at_, (s.slot l n).barAt = some at_ ∧ at_ ≤ s.time) → (s.bar l b).ls ≠ (s.bar l b).g → (s.core l).flt.frozen = false →
      ∃ t, exec (.barwaitTimeout l n.val) s = .next t ∧ (t.slot l n).state = .frozen ∧ (t.core l).flt.frozen = true ∧
        (t.slot l n).barw = none ∧ ∃ x, (t.core l).flt.last = some x ∧ x.cause = 0x2A ∧ x.slot = n.val ∧ x.deff = false)

/-- A change of a core's checkpoint state. -/
def Claim.ckpt (s : State) (l : Nat) (f : CoreCkpt → CoreCkpt) : State := s.modCore l fun c => { c with ckpt := f c.ckpt }

/-- Message `m` is the one that agent `a` serves next (R129). -/
structure Claim.Heads (s : State) (a : Nat) (m : Msg) (b : Body) : Prop where
  head : s.headOf a = some m
  len  : m.len ≤ 256
  body : m.body = b

/-- A transfer makes the partner's header invalid, writes the body, then the header with E + 1, and fails with 0x3D reason 5 where the banks do not
work; a commit frees what its destination has accepted; a core asked for a checkpoint gets ev13; one whose thread waits for its full log asks the holder
of the oldest entry, and again after 65,536 cycles. -/
def Part.Checkpoints : Prop :=
  ∀ (l c p : Nat) (e : SeqEnt) (o : List Nat) (h : Chk) (m x : Msg) (xs : List Msg) (s : State),
    (Claim.Heads s c m (.transfer 0 l) → s.peatWorks l = true →
      ∃ t, exec (.checkpointTransfer c) s = .next t ∧ (Fmap.get {} t.peats l).vld = false ∧ (t.ni c).inq = (s.ni c).inq.erase m ∧ t.net = s.net) ∧
    (Claim.Heads s c m (.transfer 1 l) → s.peatWorks l = true → (s.core l).ckpt.chk = some h →
      ∃ t, exec (.checkpointTransfer c) s = .next t ∧ (Fmap.get {} t.peats l).vld = false ∧ (Fmap.get {} t.peats l).lcn = l ∧
        (Fmap.get {} t.peats l).ctx = (s.core l).ctxid ∧ (Fmap.get {} t.peats l).e = ((s.core l).sys 0x11).setWidth 32 + 1 ∧
        ((Fmap.get {} t.peats l).mem, (Fmap.get {} t.peats l).fe) = s.rangesOf l ((ckptRanges h.desc).map rangeOf) ∧ t.net = s.net) ∧
    (Claim.Heads s c m (.transfer 2 l) → s.peatWorks l = true → m.vc = 0 → m.spanel = s.panelId →
      ∃ t, exec (.checkpointTransfer c) s = .next t ∧ (Fmap.get {} t.peats l).vld = true ∧
        (Fmap.get {} t.peats l).core = (Fmap.get {} s.peats l).core ∧
        ∃ a ∈ t.net, a.dest = m.src ∧ a.body = .resp 0 { w := (Fmap.get {} s.peats l).e.zeroExtend 64 }) ∧
    (Claim.Heads s c m (.transfer 2 l) → s.peatWorks l = false →
      exec (.checkpointTransfer c) s = .next ((s.takeMsg c m).answer c m.reply { cause := 0x3D, info := 5 })) ∧
    (Claim.Heads s l m (.commit p e o) → l < 8192 →
      exec (.commitNotice l) s = .next ((Claim.ckpt (s.takeMsg l m) l fun c =>
        { c with slog := c.slog.filter fun x => x.keptAfter m.spanel p e o, peers := c.peers.filter (· != peerKey m.spanel p)
                 broken := c.broken && !(c.peers.filter (· != peerKey m.spanel p)).isEmpty }).pumpCore l)) ∧
    (Claim.Heads s l m .checkpoint → l < 8192 → (s.core l).ctxid = m.ctx →
      exec (.checkpointRequest l) s = .next ((List.range 15).foldl (fun s k => s.signal l k 0x2000) (s.takeMsg l m))) ∧
    (Claim.Heads s l m .checkpoint → (s.core l).ctxid ≠ m.ctx → exec (.checkpointRequest l) s = .next (s.takeMsg l m)) ∧
    ((s.ni l).inq = [] → l < 8192 → (s.core l).ckpt.ask = none → s.logParked l = true → (s.core l).ckpt.slog = x :: xs → x.dest < 8192 →
      x.dpanel = s.panelId →
      ∃ t, exec (.checkpointRequest l) s = .next t ∧ (t.core l).ckpt.ask = some (s.time + 65536) ∧
        ∃ a ∈ t.net, a.dest = x.dest ∧ a.src = l ∧ a.body = .checkpoint) ∧
    (∀ n, (s.core l).ckpt.ask = some n → n ≤ s.time → s.logParked l = true → (s.core l).ckpt.slog = x :: xs → x.dest < 8192 →
      x.dpanel = s.panelId →
      ∃ t, exec (.checkpointRequestRepeat l) s = .next t ∧ (t.core l).ckpt.ask = some (s.time + 65536) ∧
        ∃ a ∈ t.net, a.dest = x.dest ∧ a.src = l ∧ a.body = .checkpoint) ∧
    (∀ n, (s.core l).ckpt.ask = some n → n ≤ s.time → s.logParked l = false →
      exec (.checkpointRequestRepeat l) s = .next (Claim.ckpt s l fun c => { c with ask := none })) ∧
    (∀ n, (s.core l).ckpt.ask = some n → s.time < n → exec (.checkpointRequestRepeat l) s = .next s)

/-- A trigger isolates a live core and reports 0x36; without an image or a spare the core is held and its context stops; else its spare takes its place
behind a remap fence, gets the committed image, and every log entry for it is sent again before it is live. A live core passes through none of these. A
failed die agent triggers every core of the die; a parity error freezes its core with a deferred fault 0x3C. -/
def Part.ContainmentSteps : Prop :=
  ∀ (l d q : Nat) (n : Fin 16) (p : Peat) (s : State),
    (s.present l = true → (s.core l).health.contain = .live →
      ∃ t, exec (.containmentTrigger l) s = .next t ∧ (t.core l).health.contain = .isolated ∧ (t.core l).health.iso = true ∧
        ((∃ a ∈ t.net, ∃ x, a.body = .packet x ∧ x.cause = 0x36 ∧ x.lcn = l ∧ x.info = 0) ∨
          ∃ x ∈ t.pctl.packets, x.cause = 0x36 ∧ x.lcn = l ∧ x.info = 0)) ∧
    ((s.core l).health.contain = .isolated → s.usable l = none →
      ∃ t, exec (.containmentHold l) s = .next t ∧ (t.core l).health.contain = .held ∧
        ((s.ctx (s.core l).ctxid).st = .running → (t.ctx (s.core l).ctxid).st = .stopping) ∧
        ∃ x, t.pctl.packets = s.pctl.packets ++ [x] ∧ x.cause = 0x36 ∧ x.lcn = l ∧ x.info = 2) ∧
    (l < 8192 → (s.core l).health.contain = .isolated → s.usable l = some p → s.spareOf l = none →
      ∃ t, exec (.containmentHold l) s = .next t ∧ (t.core l).health.contain = .held ∧ Fmap.get 0 t.rmap l = 255 ∧ t.present l = false ∧
        ∃ x, t.pctl.packets = s.pctl.packets ++ [x] ∧ x.cause = 0x36 ∧ x.lcn = l ∧ x.info = 1) ∧
    ((s.core l).health.contain = .isolated → s.usable l = some p → s.spareOf l = some q →
      ∃ t g, exec (.spareSubstitution l) s = .next t ∧ (t.core l).health.contain = .substituting ∧
        t.pctl.fences = s.pctl.fences ++ [g] ∧ g.op = .substitute l (lcnCol l / 8 * 9 + q) ∧ g.set = [l] ∧ g.reply = none ∧
        (t.die (dieOf l)).lpt[lptIdx l] = BitVec.ofNat 4 q ∧
        (t.die (dieOf l)).hmap = (s.die (dieOf l)).hmap &&& ~~~(1#36 <<< (lcnRow l % 4 * 9 + s.pcol l)) ∧ t.mem = s.mem) ∧
    ((s.core l).health.contain = .substituting → s.substituted l = true → s.spareFails l = false → s.image l = some p →
      ∃ t, exec (.containmentRestore l) s = .next t ∧ (t.core l).health.contain = .restoring ∧ (t.core l).health.iso = true ∧
        (p.back = [] → (t.core l).slots = p.core.slots ∧ (t.core l).dq = p.core.dq ∧ (t.core l).handles = p.core.handles ∧
          t.mem = (s.putPages l (fun _ => true) p.mem p.fe []).mem)) ∧
    ((s.core l).health.contain = .restoring → s.spareFails l = false →
      ∃ t, exec (.containmentReplay l) s = .next t ∧ (t.core l).health.contain = .replaying ∧ (t.core l).health.iso = false ∧
        ((∀ b, (s.ni b).fenced = [] ∧ (s.ni b).held = []) → ∀ a ∈ s.cores.map Prod.fst, a ≠ l →
          ∀ m ∈ (s.core a).ckpt.slog, m.dest = l → m.dpanel = s.panelId → m ∈ t.net)) ∧
    ((s.core l).health.contain = .replaying → s.replayed l = true → s.spareFails l = false →
      exec (.containmentLive l) s = .next ((s.modHealth l fun h => { h with contain := .live }).pumpCore l)) ∧
    ((s.core l).health.contain = .live → exec (.containmentHold l) s = .next s ∧ exec (.spareSubstitution l) s = .next s ∧
      exec (.containmentRestore l) s = .next s ∧ exec (.containmentReplay l) s = .next s ∧ exec (.containmentLive l) s = .next s) ∧
    (d < 256 → (s.die d).failed = false →
      ∃ t, exec (.dieAgentFailure d) s = .next t ∧ (t.die d).failed = true ∧ (t.die d).cards = [] ∧ (t.die d).waitq = [] ∧
        (t.die d).aside.length = (s.die d).aside.length + (s.die d).cards.length + (s.die d).waitq.length ∧
        ∀ a ∈ dieCores d, s.present a = true → (s.core a).health.contain ≠ .held → (t.core a).health.trigger = true) ∧
    (s.present l = true → (s.core l).health.iso = false →
      ∃ t, exec (.coreLogicCheck l n.val) s = .next t ∧ (t.core l).flt.frozen = true ∧ t.mem = s.mem ∧
        ∃ x, (t.core l).flt.last = some x ∧ x.cause = 0x3C ∧ x.slot = n.val ∧ x.deff = true ∧ x.frz = true)

/-! ## The fabric, the hosts, the groups' agents (R409-R430) -/

/-- A replay and a retrain of a Welkin port cost counts only; after three retrains in a row the port is down, what it queued is held at its sources and 0x37
is reported; a message held for 2^24 cycles fails at its master; an exchange over the reference port measures the offset; the clock moves one tick toward it. -/
def Part.WelkinPortsTime : Prop :=
  ∀ (k a n : Nat) (h : FabHeld) (their delay : Word) (s : State),
    (k < 48 → (s.port? k).down = false →
      (∃ t, exec (.welkinFlitReplay k) s = .next t ∧ (t.port? k).replays = min 0xFFFF ((s.port? k).replays + 1) ∧
        (t.port? k).q = (s.port? k).q ∧ t.mem = s.mem ∧ t.cores = s.cores) ∧
      ((s.port? k).training = none →
        ∃ t, exec (.welkinPortRetrain k) s = .next t ∧ (t.port? k).training = some s.time ∧ (t.port? k).q = (s.port? k).q ∧
          ((s.port? k).row ≠ 0 → s.time < (s.port? k).clean + 2 ^ 20 → (t.port? k).row = (s.port? k).row + 1) ∧
          ((s.port? k).clean + 2 ^ 20 ≤ s.time → (t.port? k).row = 1) ∧ t.mem = s.mem ∧ t.cores = s.cores) ∧
      (∀ x, (s.port? k).training = some x →
        ∃ t, exec (.welkinRetrainEnd k) s = .next t ∧ (t.port? k).training = none ∧ (t.port? k).clean = s.time ∧
          (t.port? k).q = (s.port? k).q ∧ t.mem = s.mem) ∧
      (3 ≤ (s.port? k).row →
        ∃ t, exec (.welkinPortDown k) s = .next t ∧ (t.port? k).down = true ∧ (t.port? k).q = [] ∧ t.mem = s.mem ∧
          (∀ m ∈ (s.port? k).q, m.vc ≠ 1 → ∃ x ∈ t.fab.held, x.msg = m ∧ x.at_ = s.time) ∧
          ∃ z ∈ t.net, z.dest = Config.srcPctl ∧ ∃ x, z.body = .packet x ∧ x.cause = 0x37 ∧ x.info = 5) ∧
      ((s.port? k).training = none →
        ∃ t, exec (.timeExchange k a n their delay) s = .next t ∧ (t.port? k).peer = some a ∧ (t.port? k).hops = n ∧ t.gtb = s.gtb ∧
          (t.fab.reference = some k → t.fab.refPort = some k ∧ t.fab.offset = (their + delay - s.gtb).toInt ∧
            t.fab.locked = decide ((their + delay - s.gtb).toInt.natAbs ≤ 64)) ∧
          (t.fab.reference = none → t.fab.refPort = none ∧ t.fab.offset = 0 ∧ t.fab.locked = true))) ∧
    ((s.fab.held.filter fun x => x.src == a)[n]? = some h →
      (s.time < h.at_ + 2 ^ 24 → exec (.fabricHoldTimeout a n) s = .next s) ∧
      (h.at_ + 2 ^ 24 ≤ s.time → h.msg.vc = 0 →
        ∃ t, exec (.fabricHoldTimeout a n) s = .next t ∧ t.fab.held = s.fab.held.erase h ∧ t.mem = s.mem ∧
          ∃ z ∈ t.net, z.dest = h.msg.src ∧ z.seq = h.msg.seq ∧ z.body = .resp 0 { cause := 0x37, info := 6 }) ∧
      (h.at_ + 2 ^ 24 ≤ s.time → h.msg.vc = 2 →
        exec (.fabricHoldTimeout a n) s = .next ((s.modFab fun f => { f with held := f.held.erase h }).failMsg h.msg 0x37 6))) ∧
    (s.fab.refPort = some k → s.fab.slewAt ≤ s.time →
      (0 < s.fab.offset → ∃ t, exec .gtbSlew s = .next t ∧ t.gtb = s.gtb + 1 ∧ t.fab.offset = s.fab.offset - 1 ∧
        t.fab.slewAt = s.time + (if s.fab.offset ≤ 64 then 1024 else 16)) ∧
      (s.fab.offset < 0 → ∃ t, exec .gtbSlew s = .next t ∧ t.gtb = s.gtb ∧ t.fab.skip = s.fab.skip + 1 ∧
        t.fab.offset = s.fab.offset + 1 ∧ t.fab.slewAt = s.time + (if -64 ≤ s.fab.offset then 1024 else 16)) ∧
      (s.fab.offset = 0 → exec .gtbSlew s = .next s))

/-- A far panel's message enters under the local context of its channel; one without a channel is refused with 0x37 reason 2, one of a frozen channel with
reason 3. A panel map entry is written behind a fence of every agent's traffic to that panel. -/
def Part.IngressFabricFences : Prop :=
  ∀ (b a p : Nat) (mask : BitVec 48) (m : Msg) (e : ChanEnt) (f : Fence) (r : Reply) (s : State),
    ((s.ni (Config.srcOpt b)).inq = [m] →
      (s.channelOf m = some e → e.frz = false → exec (.ingressLookup b 0) s =
        .next ((s.takeMsg (Config.srcOpt b) m).send { m with ctx := e.lctx, dest := s.farDest m e.lctx, via := some b })) ∧
      (s.channelOf m = some e → e.frz = true →
        exec (.ingressLookup b 0) s = .next ((s.takeMsg (Config.srcOpt b) m).refuseFar m 3)) ∧
      (s.channelOf m = none → exec (.ingressLookup b 0) s = .next ((s.takeMsg (Config.srcOpt b) m).refuseFar m 2))) ∧
    (Claim.Sole s Config.srcPctl m (.fremap p mask) → s.pctl.fences = [] →
      ∃ t g, exec (.fabricFenceStart a) s = .next t ∧ t.pctl.fences = [g] ∧ g.op = .fabric p mask ∧ g.set = [p] ∧
        g.reply = some m.reply ∧ (t.ni Config.srcPctl).inq = [] ∧ t.fab.pmap = s.fab.pmap) ∧
    (∀ l, s.pctl.fences = f :: l → f.op = .fabric p mask → f.left.contains a = true →
      ∃ t, exec (.fabricFenceStart a) s = .next t ∧ (t.ni a).fpanel = some p ∧ t.mem = s.mem ∧ t.fab.pmap = s.fab.pmap ∧
        (a < Config.srcOpt 0 → s.drainedFar a p = true → t.pctl.fences = { f with left := f.left.filter (· != a) } :: l) ∧
        (a < Config.srcOpt 0 → s.drainedFar a p = false → t.pctl = s.pctl) ∧
        (Config.srcOpt 0 ≤ a → ∀ j, j < 4 → ∀ x ∈ (t.port? (4 * (a - Config.srcOpt 0) + j)).q, x.dpanel = p → x.vc = 1)) ∧
    (s.pctl.fences = [f] → f.op = .fabric p mask → f.left = [] → p < 64 → f.reply = some r → r.vc = 0 → r.panel = s.panelId →
      ∃ t, exec .fabricFenceEnd s = .next t ∧ t.pctl.fences = [] ∧ t.fab.pmap[p]? = some mask ∧ (∀ n, (t.ni n).fpanel = none) ∧
        (mask = 0 → ∀ x ∈ s.fab.held, x ∈ t.fab.held) ∧ ∃ z ∈ t.net, z.dest = r.src ∧ z.body = .resp 0 { w := s.gtb })

/-- What a host's transfer of `n` bytes at `va` does, part by part. -/
def Claim.transfer (s : State) (q : Qp) (va n : Nat) (data : Option (List Byte)) : HostRun :=
  (hostParts va n).foldl (HostRun.one q data) { s }

/-- A key that opens a host's access of `n` bytes at `va` through a valid queue pair. -/
structure Claim.Opens (s : State) (qpn : Nat) (q : Qp) (rkey : BitVec 32) (va n : Nat) (write : Bool) : Prop where
  qp   : s.hostQp qpn = some q
  live : q.frz = false
  key  : ((Fmap.get {} s.fab.keys (rkey.toNat % 8192)).v && (Fmap.get {} s.fab.keys (rkey.toNat % 8192)).ktag.toNat == rkey.toNat / 8192 &&
    (Fmap.get {} s.fab.keys (rkey.toNat % 8192)).ctx == q.ctx) = true
  low  : (Fmap.get {} s.fab.keys (rkey.toNat % 8192)).base ≤ va
  high : va + n ≤ (Fmap.get {} s.fab.keys (rkey.toNat % 8192)).base + (Fmap.get {} s.fab.keys (rkey.toNat % 8192)).len
  space : va + n ≤ 2 ^ 48
  may  : (if write then (Fmap.get {} s.fab.keys (rkey.toNat % 8192)).w else (Fmap.get {} s.fab.keys (rkey.toNat % 8192)).r) = true
  runs : (s.ctx q.ctx).st ≠ .saved ∧ (s.ctx q.ctx).st ≠ .stopping
  free : ∀ x ∈ hostParts va n, ∀ panel pa, (s.hostTr q.bridge q.ctx x.1 (if write then .w else .r)).2 = .ok panel pa →
    (panel == s.panelId && s.hostBlocked pa x.2 q.ctx write) = false

/-- A host's WRITE or READ through an open key is acknowledged with its parts done; one part that fails freezes the queue pair with that part's reason; a bad
key is reason 1; parts on other panels are waited for. -/
def Part.HostTransfers : Prop :=
  ∀ (n : Nat) (q : Qp) (rkey : BitVec 32) (va : Word) (bs : List Byte) (len : Nat) (s : State),
    (Claim.Opens s n q rkey va.toNat bs.length true → (Claim.transfer s q va.toNat bs.length (some bs)).bad = none →
      (Claim.transfer s q va.toNat bs.length (some bs)).wait = [] →
      exec (.rdmaWrite n rkey va bs) s = .next ((Claim.transfer s q va.toNat bs.length (some bs)).s.hostSays (.ack n))) ∧
    (∀ x a, Claim.Opens s n q rkey va.toNat bs.length true → (Claim.transfer s q va.toNat bs.length (some bs)).bad = some (x, a) →
      exec (.rdmaWrite n rkey va bs) s = .next ((Claim.transfer s q va.toNat bs.length (some bs)).s.hostFreeze n x a)) ∧
    (∀ u v pa, Claim.Opens s n q rkey va.toNat 8 true → bs.length = 8 → va.toNat % 8 = 0 →
      s.hostTr q.bridge q.ctx va.toNat .w = (u, .ok s.panelId pa) → spaceOf pa = 2 → u.hostAccess pa (.store bs) q.ctx = (v, {}) →
      exec (.rdmaWrite n rkey va bs) s = .next (v.hostSays (.ack n))) ∧
    (Claim.Opens s n q rkey va.toNat len false → (Claim.transfer s q va.toNat len none).bad = none →
      (Claim.transfer s q va.toNat len none).wait = [] →
      exec (.rdmaRead n rkey va len) s = .next ((Claim.transfer s q va.toNat len none).s.hostSays
        (.data n (Claim.transfer s q va.toNat len none).got.flatten))) ∧
    (∀ x a, Claim.Opens s n q rkey va.toNat len false → (Claim.transfer s q va.toNat len none).bad = some (x, a) →
      exec (.rdmaRead n rkey va len) s = .next ((Claim.transfer s q va.toNat len none).s.hostFreeze n x a)) ∧
    (∀ u v pa r, Claim.Opens s n q rkey va.toNat 8 false → va.toNat % 8 = 0 →
      s.hostTr q.bridge q.ctx va.toNat .r = (u, .ok s.panelId pa) → spaceOf pa = 2 → u.hostAccess pa (.load 8) q.ctx = (v, r) → r.cause = 0 →
      exec (.rdmaRead n rkey va 8) s = .next (v.hostSays (.data n r.data))) ∧
    (s.hostQp n = some q → q.frz = false → (Fmap.get {} s.fab.keys (rkey.toNat % 8192)).v = false →
      exec (.rdmaWrite n rkey va bs) s = .next (s.hostFreeze n 1 va.toNat) ∧ exec (.rdmaRead n rkey va len) s = .next (s.hostFreeze n 1 va.toNat)) ∧
    (s.hostQp n = some q → q.frz = true → exec (.rdmaWrite n rkey va bs) s = .next (s.hostSays (.nakAccess n)) ∧
      exec (.rdmaRead n rkey va len) s = .next (s.hostSays (.nakAccess n)) ∧ exec (.rdmaSend n bs) s = .next (s.hostSays (.nakAccess n)) ∧
      exec (.rdmaUnsupported n) s = .next (s.hostSays (.nakAccess n)))

/-- A SEND joins its ring and is acknowledged, or asks to be sent again when the ring has no room; other operations are invalid; frames are dropped; a lost link
and a failed bridge stop their ports, and the bridge's queue pairs freeze with 0x39. -/
def Part.HostSendsFailures : Prop :=
  ∀ (n p : Nat) (q : Qp) (bs : List Byte) (s : State),
    (s.hostQp n = some q → q.frz = false → (bs.length < 8 ∨ 248 < bs.length ∨ bs.length % 8 ≠ 0 ∨ q.ring = 0) →
      exec (.rdmaSend n bs) s = .next (s.hostSays (.nakInvalid n))) ∧
    (∀ u v d, s.hostQp n = some q → q.frz = false → 8 ≤ bs.length → bs.length ≤ 248 → bs.length % 8 = 0 → q.ring ≠ 0 →
      s.qpRing q = (u, .inl d) → (s.ctx q.ctx).st ≠ .saved → (s.ctx q.ctx).st ≠ .stopping → (u.core (sliceLcn d)).health.iso = false →
      (u.core (sliceLcn d)).stoppedFor q.ctx = false →
      ((u.reserveQp n).hostHeld n d + 1 + bs.length / 8 ≤ ((u.reserveQp n).qp n).rsv →
        (u.reserveQp n).ringGathered d ((u.reserveQp n).ringWords d ((u.reserveQp n).ringTail d) (1 + bs.length / 8)) = false →
        (u.reserveQp n).ringCheck d q.ctx 0 true ((u.reserveQp n).ringWords d ((u.reserveQp n).ringTail d) (1 + bs.length / 8)) = (v, 0) →
        exec (.rdmaSend n bs) s = .next ((v.ringPut d (peerKey (u.reserveQp n).panelId (Config.srcHost q.bridge), 16, n) false
          (word (bs.length + q.dqpn * 2 ^ 16) :: wordsOf (bs.length / 8) bs)).hostSays (.ack n))) ∧
      (((u.reserveQp n).qp n).rsv < (u.reserveQp n).hostHeld n d + 1 + bs.length / 8 →
        exec (.rdmaSend n bs) s = .next ((u.reserveQp n).hostSays (.rnr n)))) ∧
    (∀ u why, s.hostQp n = some q → q.frz = false → 8 ≤ bs.length → bs.length ≤ 248 → bs.length % 8 = 0 → q.ring ≠ 0 →
      s.qpRing q = (u, .inr why) → exec (.rdmaSend n bs) s = .next (u.hostFreeze n why q.ring.toNat)) ∧
    (s.hostQp n = some q → q.frz = false → exec (.rdmaUnsupported n) s = .next (s.hostSays (.nakInvalid n))) ∧
    (s.ethLive p = true → exec (.frameDrop p) s = .next (s.modFab fun f => { f with dropped := f.dropped + 1 })) ∧
    (s.ethLive p = false → exec (.frameDrop p) s = .next s) ∧
    (∃ t, exec (.managementFrame bs) s = .next t ∧ t.fab.mgmt = s.fab.mgmt ++ [bs] ∧ t.mem = s.mem ∧ t.cores = s.cores) ∧
    (p < 8 → ∃ t, exec (.ethernetLinkLoss p) s = .next t ∧ t.fab.eth[p]? = some false ∧ t.ethLive p = false ∧ t.mem = s.mem ∧
      t.cores = s.cores) ∧
    (s.fab.hostBad[p]? = some false →
      ∃ t, exec (.hostBridgeFailure p) s = .next t ∧ t.fab.hostBad[p]? = some true ∧ t.mem = s.mem ∧
        ∀ x ∈ s.qpsOf p, (t.qp x).frz = true ∧ ∃ z ∈ t.net, ∃ y, z.body = .packet y ∧ y.cause = 0x39 ∧ y.info = word (6 + x * 256))

/-- The record that an anchor reads for a message. -/
def Claim.record (s : State) (l : Nat) (m : Msg) (pa : Nat) (lvl : Nat) (u : State) (r : GroupRec) : Prop :=
  (s.takeMsg l m).readGroup pa m.ctx lvl = (u, .inl r)

/-- At a group's anchor a join is staged and answered with the next generation, or made at once in an empty group; a leave is staged; a collective is admitted with the
member's index and the table; what fails answers 0x38 with its reason. Partial results gather at their receiver; the root's report closes the boundary;
a release ends the collective of a member. -/
def Part.GroupAgents : Prop :=
  ∀ (l pa who : Nat) (area : Word) (m : Msg) (s u : State) (r : GroupRec),
    (∀ x, Claim.Head s l m (.group pa (.join who area)) → Claim.record s l m pa m.level u r →
      r.join (m.spanel * 2 ^ 28 + who) area = .inr x →
      exec (.groupMembershipRequest l) s = .next (u.answer l m.reply { cause := 0x38, info := word x })) ∧
    (∀ x v, Claim.Head s l m (.group pa (.join who area)) → Claim.record s l m pa m.level u r →
      r.join (m.spanel * 2 ^ 28 + who) area = .inl x →
      v = (u.writeGroup pa (if r.nm = 0 then x.boundary false else x)).answer l m.reply { w := word ((r.gen + 1) % 2 ^ 32) } →
      exec (.groupMembershipRequest l) s = .next (v.admitN l pa (if r.nm = 0 then x.boundary false else x) (v.core l).waits)) ∧
    (∀ x, Claim.Head s l m (.group pa (.leave who)) → Claim.record s l m pa m.level u r →
      r.leave (m.spanel * 2 ^ 28 + who) = .inr x →
      exec (.groupMembershipRequest l) s = .next (u.answer l m.reply { cause := 0x38, info := word x })) ∧
    (∀ x i, Claim.Head s l m (.group pa (.leave who)) → Claim.record s l m pa m.level u r →
      r.leave (m.spanel * 2 ^ 28 + who) = .inl (x, i) →
      exec (.groupMembershipRequest l) s = .next ((u.writeGroup pa x).answer l m.reply { w := word i, data := bytesOf r.table })) ∧
    (∀ x, Claim.Head s l m (.group pa (.coll who)) → Claim.record s l m pa m.level u r →
      r.admission (m.spanel * 2 ^ 28 + who) = some x → exec (.groupMembershipRequest l) s = .next (u.answer l m.reply x)) ∧
    (∀ v ok, Claim.Head s l m (.group pa (.coll who)) → Claim.record s l m pa m.level u r →
      r.admission (m.spanel * 2 ^ 28 + who) = none → u.wait l ⟨pa, .group m⟩ = (v, ok) →
      exec (.groupMembershipRequest l) s = .next (if ok then v else v.answer l m.reply { cause := 0x13 })) ∧
    (∀ p, Claim.Head s l m (.groupPart p) → (∀ k ∈ (s.core l).colls, k.key ≠ p.key) →
      exec (.groupPartialArrival l) s = .next ((s.takeMsg l m).modCore l fun c => { c with gparts := c.gparts ++ [p] })) ∧
    (∀ p, Claim.Head s l m (.groupPart p) →
      exec (.groupPartialArrival l) s = .next (((s.takeMsg l m).modCore l fun c => { c with gparts := c.gparts ++ [p] }).groupGo l p.key)) ∧
    (∀ p v, Claim.Head s l m (.groupReport pa p) → Claim.record s l m pa 2 u r →
      v = (u.writeGroup pa (r.boundary true)).toMember l m.ctx (nth 0 p.tab 0) (.groupDown { p with to_ := 0 }) →
      exec (.collectiveBoundary l) s = .next (v.admitN l pa (r.boundary true) (v.core l).waits)) ∧
    (∀ p k, Claim.Head s l m (.groupDown p) → ((s.core l).colls.find? fun x => x.key == p.key && x.sent) = some k →
      childrenOf p.to_ k.tab.length = [] → k.slot < 16 →
      (p.ok = false → exec (.collectiveRelease l) s =
        .next (((s.takeMsg l m).dropColl l k).takeFaultAt l (Fin.ofNat 16 k.slot) (mkCause 0x38 5 0))) ∧
      (p.ok = true → k.d = none →
        exec (.collectiveRelease l) s = .next (((s.takeMsg l m).dropColl l k).completed l (Fin.ofNat 16 k.slot)))) ∧
    (r.nst = 0 → (r.boundary true).gen = r.gen) ∧ (r.nst ≠ 0 → (r.boundary true).gen = (r.gen + 1) % 2 ^ 32) ∧
    (r.boundary true).coll = (r.coll + 1) % 2 ^ 32 ∧ (r.boundary true).nst = 0 ∧
    ∀ w ∈ (r.boundary true).mems, ∃ x ∈ r.mems, memV x = true ∧ memLv x = false ∧ w = setBits x 62 62 0

/-! ## Frames, bound registers, the step, encodings, the invariant -/

/-- The slot whose turn it is at a port of a core: the message thread in a handler, or, when the worker port has not issued at this time, the
ready worker next in rotation. -/
def Claim.Turn (s : State) (l : Nat) (mt : Bool) (k : Fin 16) : Prop :=
  (mt = false ∧ (s.core l).portAt ≠ some s.time ∧ s.workerTurn l = some k) ∨ (mt = true ∧ (s.core l).mt.isSome = true ∧ s.ready l 15 = true ∧ k = 15)

/-- The executing thread, at an issue of the slots from `p` to `q` of a line. -/
def Claim.issue (s : State) (l : Nat) (k : Fin 16) (p q : Addr) (swm : Bool) : State :=
  ((s.onSlot l k).modThr fun t => { t with iss := { b := p, first := p, last := q, swm }, want := none }).modThr fun t => { t with reread := none }

/-- The same, once the slots have decoded. -/
def Claim.issuing (s : State) (l : Nat) (k : Fin 16) (p q : Addr) (swm : Bool) : State :=
  (Claim.issue s l k p q swm).modThr fun t => { t with fresh := false }

/-- A line's slot at a PC may issue: it and the line word are sound, its parity is right, the line is legal, and a thread that enters it stands at a
branch target. -/
structure Claim.Legal (s : State) (l : Nat) (k : Fin 16) (x : Line) : Prop where
  memory : x.badAt (slotIdx (s.slot l k).pc) = none
  par    : sparOk x.data (slotIdx (s.slot l k).pc) = true
  legal  : lineIllegal x.data = none
  entry  : (s.slot l k).fresh = true → lineBtm x.data (slotIdx (s.slot l k).pc) = true

/-- A slot word of format A without S2, S3 and M8: its opcode, variant, guard, destination, first source and immediate (Tables 3.5, 3.6). -/
def Claim.word (op var : Nat) (gd : Guard) (d s1 : Fin 32) (imm : BitVec 32) : BitVec 96 :=
  BitVec.ofNat 96 (op * 2 ^ 88 + gd.g.val * 2 ^ 84 + (if gd.neg then 2 ^ 83 else 0) + var * 2 ^ 80 + d.val * 2 ^ 74 + s1.val * 2 ^ 68 + imm.toNat)

end Sys2Proof

/-! ## The statements -/

section

open Sys2Proof Sys2Proof.Machine

/-- The scalar integer instructions. -/
def Obligations.IntegerArithmetic : Prop := Part.SumsLogicShifts ∧ Part.ProductsQuotients ∧ Part.LoadImmediate

/-- The compares, the counts, and what writes and reads guards. -/
def Obligations.ComparesGuards : Prop := Part.ComparisonsCounts ∧ Part.Guards

/-- Branches and jumps. -/
def Obligations.Transfers : Prop := Part.Branches ∧ Part.Jumps

/-- The loop instructions, and what a loop level does at its end.
Where the spec leaves a point open it follows the model's readings: log 18. -/
def Obligations.HardwareLoops : Prop := Part.LoopStarts ∧ Part.LoopEnds

/-- An instruction whose guard is false has no effect: no register, no memory, no fault of its own (R54).
An instruction whose guard is pending parks its thread, and has no effect (R52, R54). -/
def Obligations.GuardDecides : Prop :=
  (∀ (i : Instr) (s : State), Claim.scalar i = true ∨ Claim.pathOrControl i = true → i.uses.lvl ≤ s.me.level →
     s.thr.gate i.uses.gd = some false → exec i s = .next s.begin) ∧
  (∀ (i : Instr) (s : State), Claim.scalar i = true ∨ Claim.pathOrControl i = true → i.uses.lvl ≤ s.me.level →
     s.thr.gate i.uses.gd = none → exec i s = .next (s.begin.modThr fun t => t.parkRetry .guard))

/-- The faults that come before an instruction's own.
Where the spec leaves a point open it follows the model's readings: log 15. -/
def Obligations.IssueFaults : Prop := Part.PrivilegeFaults ∧ Part.UnsynchronisedFaults

/-- Taking a precise fault does what R236, R237 and R240 say, for every cause but the two that stop a message thread
alone.
Where the spec leaves a point open it follows the model's readings: log 22, 23, 24. -/
def Obligations.TakingAFault : Prop :=
  ∀ (s : State) (l : Nat) (k : Fin 16) (c : Cause), ¬ (k = 15 ∧ (c.cause = 0x1A ∨ c.cause = 0x1F)) →
    Claim.Faulted s (s.takeFaultAt l k c) l k c

/-- The instructions whose effect is an exception or a call of the supervisor. -/
def Obligations.ExceptionInstructions : Prop := Part.TrapAndBreak ∧ Part.SupervisorCall

/-- A resume restarts a stopped worker slot: a frozen slot that holds a record runs again from its PC, with its held path and
with no register pending for a refused access (R241). -/
def Obligations.ReturnFromFault : Prop :=
  ∀ t : Slot, t.state = .frozen → t.load = none →
    t.resume.state = .running ∧ t.resume.pc = t.pc ∧ t.resume.regs.x = t.regs.x ∧ t.resume.regs.v = t.regs.v ∧
    t.resume.regs.g = t.regs.g ∧ t.resume.refused = [] ∧ (∀ a ∈ t.resume.path, a.st ≠ .failed) ∧
    ∀ d : Fin 32, d ≠ 0 → (∀ e ∈ t.refused, e ≠ .x d) → t.resume.regs.xp[d] = t.regs.xp[d]

/-- System registers, the time, identities.
Where the spec leaves a point open it follows the model's readings: log 118. -/
def Obligations.SystemRegistersIdentities : Prop := Part.SystemRegisters ∧ Part.Identities

/-- SLEEPUNTIL without a completion word goes on at a time already past, and parks until a later one (R108); with a
completion word it reads the word's full bit once the time has come.
Where the spec leaves a point open it follows the model's readings: log 32. -/
def Obligations.SleepUntil : Prop :=
  ∀ (gd : Guard) (s1 s2 : Fin 32) (s : State), s.Ready (Instr.sleepuntil gd s1 s2).uses → s.Worker →
    (s2 ≠ 0 → addrStop (Claim.x s s2) 8 = none ∧ s.begin.orderStop false = none) →
    exec (.sleepuntil gd s1 s2) s = .next
      (if s.gtb.toNat < (Claim.x s s1).toNat then
         (s.begin.modThr fun t =>
           { t with until_ := Claim.x s s1, nap := some (if s2 = 0 then none else some (Claim.x s s2)) }).modThr
           fun t => t.parkWait .sleep
       else if s2 = 0 then s.begin
       else (s.begin.modThr fun t => t.parkWait .sleep).enqueue
         { va := Claim.x s s2, bytes := 8, perm := .rw, op := .mem .readFe, apc := s.thr.iss.b, cont := .sleep false (Claim.x s s2) })

/-- Plain, acquiring, releasing and atomic accesses at issue. -/
def Obligations.LoadsStoresIssue : Prop := Part.LoadsIssue ∧ Part.StoresIssue

/-- The address of a synchronising access translates, and the thread stands as before; `u` is the state with the translation's effects on
the TLBs. -/
structure Claim.Translated (s u : State) (va : Word) (p pa : Nat) : Prop where
  tr  : s.begin.trNow va .rw .sync = (u, .inl (p, pa))
  cur : u.cur = s.cur
  thr : u.thr = s.begin.thr

/-- LDW, LDT, STW and LRQ park their thread until the home has served them; SCQ and RELQ of the word that the thread holds end the
reservation and do not park (R221, R222). -/
def Obligations.SynchronisingIssue : Prop :=
  (∀ (a : MemForm) (s : State), s.Ready (Instr.ldw a).uses → s.Worker → Claim.Aligned (Claim.va s a) 8 →
    s.begin.orderStop false = none →
    exec (.ldw a) s = .next (((s.begin.modThr fun t => t.parkWait .home).modThr fun t => t.markX .path a.r).enqueue
      { va := Claim.va s a, bytes := 8, perm := .rw, op := .mem .ldw, apc := s.thr.iss.b, cont := .sync (some a.r) })) ∧
  (∀ (a : MemForm) (s : State), s.Ready (Instr.ldt a).uses → s.Worker → Claim.Aligned (Claim.va s a) 8 →
    s.begin.orderStop false = none →
    exec (.ldt a) s = .next (((s.begin.modThr fun t => t.parkWait .home).modThr fun t => t.markX .path a.r).enqueue
      { va := Claim.va s a, bytes := 8, perm := .rw, op := .mem .ldt, apc := s.thr.iss.b, cont := .sync (some a.r) })) ∧
  (∀ (a : MemForm) (s : State), s.Ready (Instr.stw a).uses → s.Worker → Claim.Aligned (Claim.va s a) 8 →
    s.begin.orderStop true = none →
    exec (.stw a) s = .next ((s.begin.modThr fun t => t.parkWait .home).enqueue
      { va := Claim.va s a, bytes := 8, perm := .rw, op := .mem (.stw (Claim.x s a.r)), apc := s.thr.iss.b, cont := .sync none })) ∧
  (∀ (a : MemForm) (s : State), s.Ready (Instr.lrq a).uses → s.Worker → Claim.Aligned (Claim.va s a) 8 → s.thr.held = none →
    s.begin.orderStop false = none →
    exec (.lrq a) s = .next (((s.begin.modThr fun t => t.parkWait .home).modThr fun t => t.markX .path a.r).enqueue
      { va := Claim.va s a, bytes := 8, perm := .rw, op := .mem .lrq, apc := s.thr.iss.b, cont := .lrq a.r })) ∧
  (∀ (a : MemForm) (s u : State) (p pa : Nat), s.Ready (Instr.scq a).uses → s.Worker → Claim.Aligned (Claim.va s a) 8 →
    Claim.Translated s u (Claim.va s a) p pa → s.thr.held = some (BitVec.ofNat 64 (p * 2 ^ 48 + pa)) → u.orderStop true = none →
    exec (.scq a) s = .next ((u.modThr fun t => { t with held := none }).enqueue
      { va := Claim.va s a, bytes := 8, perm := .rw, op := .mem (.scq (Claim.x s a.r)), apc := s.thr.iss.b, cont := .done })) ∧
  (∀ (a : MemForm) (s u : State) (p pa : Nat), s.Ready (Instr.relq a).uses → s.Worker → Claim.Aligned (Claim.va s a) 8 →
    Claim.Translated s u (Claim.va s a) p pa → s.thr.held = some (BitVec.ofNat 64 (p * 2 ^ 48 + pa)) → u.orderStop true = none →
    exec (.relq a) s = .next ((u.modThr fun t => { t with held := none }).enqueue
      { va := Claim.va s a, bytes := 8, perm := .rw, op := .mem .relq, apc := s.thr.iss.b, cont := .done }))

/-- The address checks of R213: 0x09 with reason 1 above 2^48, else 0x08 when misaligned; the thread stops at the instruction.
For the plain and the synchronising loads and stores.
The checks of reservations: LRQ of a thread that holds one takes 0x0F with reason 3; SCQ and RELQ of another word than the
held one take 0x0F with reason 2 (R222). -/
def Obligations.AddressFaults : Prop :=
  (∀ (a : MemForm) (s : State) (mk : MemForm → Instr) (n : Nat),
     ((mk = .ld ∨ mk = .ldu ∨ mk = .st ∨ mk = .ldAcq ∨ mk = .stRel) ∧ n = 2 ^ a.size.val) ∨
       ((mk = .ldw ∨ mk = .ldt ∨ mk = .stf ∨ mk = .stw ∨ mk = .lrq ∨ mk = .scq ∨ mk = .relq) ∧ n = 8) →
     s.Ready (mk a).uses →
     (2 ^ 48 ≤ (Claim.va s a).toNat → exec (mk a) s = .next (s.begin.takeFault ⟨0x09, 1, Claim.va s a⟩)) ∧
     ((Claim.va s a).toNat < 2 ^ 48 → (Claim.va s a).toNat % n ≠ 0 →
       exec (mk a) s = .next (s.begin.takeFault ⟨0x08, 0, Claim.va s a⟩))) ∧
  (∀ (a : MemForm) (s : State), s.Ready (Instr.lrq a).uses → s.Worker → Claim.Aligned (Claim.va s a) 8 → s.thr.held ≠ none →
    exec (.lrq a) s = .next (s.begin.takeFault ⟨0x0F, 3, Claim.va s a⟩)) ∧
  (∀ (a : MemForm) (s : State) (mk : MemForm → Instr), mk = .scq ∨ mk = .relq → s.Ready (mk a).uses → s.Worker →
    Claim.Aligned (Claim.va s a) 8 →
    (s.thr.held = none → exec (mk a) s = .next (s.begin.takeFault ⟨0x0F, 2, Claim.va s a⟩)) ∧
    (∀ (u : State) (p pa : Nat) (h : Word), Claim.Translated s u (Claim.va s a) p pa → s.thr.held = some h →
      h ≠ BitVec.ofNat 64 (p * 2 ^ 48 + pa) → exec (mk a) s = .next (u.takeFault ⟨0x0F, 2, Claim.va s a⟩)))

/-- The fences go on when every prior access has been performed, and park otherwise; FENCE.ENG also waits for the thread's
engine commands, and FENCE.I discards the core's line snapshots (R226). -/
def Obligations.Fences : Prop :=
  (∀ (gd : Guard) (s : State), s.Ready (Instr.fence gd).uses → s.begin.orderStop true = none →
    exec (.fence gd) s = .next s.begin) ∧
  (∀ (gd : Guard) (s : State), s.Ready (Instr.fenceEng gd).uses → s.begin.orderStop true = none →
    exec (.fenceEng gd) s =
      .next (if s.thr.engOut = 0 then s.begin else s.begin.modThr fun t => t.parkRetry .fence)) ∧
  (∀ (gd : Guard) (s : State), s.Ready (Instr.fenceI gd).uses → s.begin.orderStop true = none →
    exec (.fenceI gd) s = .next (s.begin.modMe fun c => { c with lines := [] })) ∧
  (∀ (gd : Guard) (s : State) (p : Park), s.Ready (Instr.fence gd).uses → s.begin.orderStop true = some (.retry p) →
    exec (.fence gd) s = .next (s.begin.modThr fun t => t.parkRetry p))

/-- FORK and SPAWN write the child's record and park until its push is acknowledged; JOINDEC parks until its join word has
answered. Their own checks passed, and every prior access has been performed (R96, R98).
Alignment and domain faults of FORK, JOINDEC and SUSPEND.J: 0x11 with the record address, 0x15 with the join address (R97,
R98, R101).
Where the spec leaves a point open it follows the model's readings: log 25. -/
def Obligations.ForkSpawnJoin : Prop :=
  (∀ (gd : Guard) (s1 jn : Fin 32) (dom : Fin 8) (pri : Fin 4) (off : BitVec 40) (s : State) (n : Nat),
    s.Ready (Instr.fork gd s1 jn dom pri off).uses → s.Worker → dom.val ≤ 4 → Claim.Aligned (Claim.x s s1) 64 →
    (Claim.x s jn).toNat % 8 = 0 → Claim.At s off n → Claim.Lands s (BitVec.ofNat 48 (slotpc n)) →
    s.begin.orderStop true = none →
    exec (.fork gd s1 jn dom pri off) s = .next ((Claim.parked s.begin .response).enqueue
      { va := Claim.x s s1, bytes := 64, perm := .w,
        op := .mem (.store (Claim.child s (BitVec.ofNat 64 (slotpc n)) (Claim.x s jn) dom pri)), apc := s.thr.iss.b,
        cont := .forked (Claim.x s s1) s.cur.lcn (Ctrl.fresh s.me.ctxid dom.val pri.val) })) ∧
  (∀ (gd : Guard) (s1 t jn : Fin 32) (dom : Fin 8) (pri : Fin 4) (off : BitVec 40) (s : State) (n dest : Nat),
    s.Ready (Instr.spawn gd s1 t jn dom pri off).uses → s.Worker → dom.val ≤ 4 → Claim.Aligned (Claim.x s s1) 64 →
    (Claim.x s jn).toNat % 8 = 0 → Claim.At s off n → Claim.Lands s (BitVec.ofNat 48 (slotpc n)) →
    s.begin.target s.me.ctxid (Claim.x s t) = some dest → s.begin.orderStop true = none →
    exec (.spawn gd s1 t jn dom pri off) s = .next ((Claim.parked s.begin .response).enqueue
      { va := Claim.x s s1, bytes := 64, perm := .w,
        op := .mem (.store (Claim.child s (BitVec.ofNat 64 (slotpc n)) (Claim.x s jn) dom pri)), apc := s.thr.iss.b,
        cont := .forked (Claim.x s s1) dest (Ctrl.fresh s.me.ctxid dom.val pri.val) })) ∧
  (∀ (gd : Guard) (s1 : Fin 32) (s : State), s.Ready (Instr.joindec gd s1).uses → s.Worker →
    Claim.Aligned (Claim.x s s1) 8 → s.begin.orderStop true = none →
    exec (.joindec gd s1) s = .next ((Claim.parked s.begin .response).enqueue
      { va := Claim.x s s1, bytes := 8, perm := .rw, op := .joinDec, apc := s.thr.iss.b, cont := .joinDec false })) ∧
  (∀ (gd : Guard) (s1 jn : Fin 32) (dom : Fin 8) (pri : Fin 4) (off : BitVec 40) (s : State),
    s.Ready (Instr.fork gd s1 jn dom pri off).uses → s.Worker →
    (4 < dom.val ∨ (Claim.x s s1).toNat % 64 ≠ 0 →
      exec (.fork gd s1 jn dom pri off) s = .next (s.begin.takeFault ⟨0x11, 0, Claim.x s s1⟩)) ∧
    (dom.val ≤ 4 → (Claim.x s s1).toNat % 64 = 0 → (Claim.x s jn).toNat % 8 ≠ 0 →
      exec (.fork gd s1 jn dom pri off) s = .next (s.begin.takeFault ⟨0x15, 0, Claim.x s jn⟩))) ∧
  (∀ (gd : Guard) (s1 : Fin 32) (s : State), s.Ready (Instr.joindec gd s1).uses → (Claim.x s s1).toNat % 8 ≠ 0 →
    exec (.joindec gd s1) s = .next (s.begin.takeFault ⟨0x15, 0, Claim.x s s1⟩))

/-- SUSPEND and YIELD write their record back; SUSPEND.J arms its join word and AWAIT registers at its word first; EXIT reads the
record's JOIN field first (R30, R37, R99).
A suspension point with a live binding, loop or reservation takes fault 0x14, and the record is not written (R30, R101); on the
message thread it takes 0x1F (R101).
Where the spec leaves a point open it follows the model's readings: log 20, 25, 27. -/
def Obligations.Suspensions : Prop :=
  (∀ (gd : Guard) (s : State) (ra : Word), s.Ready (Instr.suspend gd).uses → Claim.CanSuspend s ra →
    exec (.suspend gd) s = .next (Claim.back s ra .suspend)) ∧
  (∀ (gd : Guard) (s : State) (ra : Word), s.Ready (Instr.yield gd).uses → Claim.CanSuspend s ra →
    exec (.yield gd) s = .next (Claim.back s ra .yield)) ∧
  (∀ (gd : Guard) (s1 : Fin 32) (s : State) (ra : Word), s.Ready (Instr.suspendJ gd s1).uses → Claim.CanSuspend s ra →
    Claim.Aligned (Claim.x s s1) 8 →
    exec (.suspendJ gd s1) s = .next ((Claim.parked s.begin .response).enqueue
      { va := Claim.x s s1, bytes := 8, perm := .rw, op := .joinArm ra, apc := s.thr.iss.b, cont := .armed (.suspendJ 0) })) ∧
  (∀ (gd : Guard) (s1 : Fin 32) (s : State) (ra : Word), s.Ready (Instr.await gd s1).uses → Claim.CanSuspend s ra →
    Claim.Aligned (Claim.x s s1) 8 →
    exec (.await gd s1) s = .next ((Claim.parked s.begin .response).enqueue
      { va := Claim.x s s1, bytes := 8, perm := .rw, op := .awaitReg ra, apc := s.thr.iss.b, cont := .armed (.await 0) })) ∧
  (∀ (gd : Guard) (s : State) (ra : Word), s.Ready (Instr.exit gd).uses → Claim.CanSuspend s ra →
    exec (.exit gd) s = .next ((Claim.parked s.begin .response).enqueue
      { va := ra + 0x30, bytes := 8, perm := .r, op := .mem (.load 8), apc := s.thr.iss.b, cont := .exitJoin })) ∧
  (∀ (i : Instr) (gd : Guard) (s1 : Fin 32) (s : State),
     i = .suspend gd ∨ i = .yield gd ∨ i = .exit gd ∨ i = .suspendJ gd s1 ∨ i = .await gd s1 → s.Ready i.uses →
     (s.Worker → s.me.quiet s.cur.slot = true → s.begin.orderStop true = none → s.thr.live = true →
       exec i s = .next (s.begin.takeFault ⟨0x14, 0, 0⟩)) ∧
     (s.cur.slot = 15 → ∃ n : Word, exec i s = .next (s.begin.takeFault ⟨0x1F, n, 0⟩)))

/-- WAITEV takes the masked events or parks; a mask of zero gives zero; a watched word of the core's own slice is watched first
(R104).
SIGEV sets event bits of a slot of its own core at once; to another core a posted message leaves (R105).
Where the spec leaves a point open it follows the model's readings: log 21. -/
def Obligations.Events : Prop :=
  (∀ (gd : Guard) (d : Fin 32) (src : Src) (s : State), s.Ready (Instr.waitev gd d src none).uses →
    exec (.waitev gd d src none) s = .next
      (if (Claim.y s src).setWidth 16 = 0#16 then Claim.setX s d 0
       else Claim.wait s.begin d ((Claim.y s src).setWidth 16))) ∧
  (∀ (gd : Guard) (d r : Fin 32) (src : Src) (s : State) (m : BitVec 16), s.Ready (Instr.waitev gd d src (some r)).uses →
    (Claim.y s src).setWidth 16 = m → m ≠ 0 →
    ∀ (u : State) (pa : Nat), s.begin.trNow (Claim.x s r) .r (.plain 8) = (u, .inl (s.panelId, pa)) → u.panelId = s.panelId →
      u.cur = s.cur → u.thr = s.begin.thr → spaceOf pa = 1 → homeOf pa = s.cur.lcn →
      exec (.waitev gd d src (some r)) s =
        .next (Claim.wait (u.modThr fun t => { t with watch := some (wordAt pa) }) d m)) ∧
  (∀ (gd : Guard) (s1 s2 : Fin 32) (s : State) (l : Nat), s.Ready (Instr.sigev gd s1 s2).uses →
     (Claim.x s s1).toNat < 2 ^ 20 → bits (Claim.x s s1) 19 16 ≠ 15 →
     s.begin.target s.me.ctxid (BitVec.ofNat 64 ((Claim.x s s1).toNat % 65536)) = some l → s.begin.orderStop true = none →
     (l = s.cur.lcn → exec (.sigev gd s1 s2) s = .next (s.begin.modSlot l (Fin.ofNat 16 (bits (Claim.x s s1) 19 16)) fun t =>
       if t.state = .idle ∨ t.record = none then t else { t with ev := t.ev ||| (Claim.x s s2).setWidth 16 })) ∧
     (l ≠ s.cur.lcn → (s.ni s.cur.lcn).posted.length < postedMax →
       exec (.sigev gd s1 s2) s = .next (s.begin.posted s.cur.lcn s.cur.slot.val l 0x11 s.me.ctxid 8
         (.sigev (bits (Claim.x s s1) 19 16) ((Claim.x s s2).setWidth 16)))))

/-- A ready vector command with room in its queue enters it (R52, R55, R170).
A vector command that finds its queue full parks, and takes no place (R170).
Where the spec leaves a point open it follows the model's readings: log 59. -/
def Obligations.VectorCommandsQueue : Prop :=
  (∀ (i : Instr) (s : State), Claim.vec i = true → s.Ready (s.usesOf i) → s.me.veng.q.length < 2 →
     (i.vecMem = true → s.thr.acq = 0) →
     ∃ t, exec i s = .next t ∧ Claim.VecQueued s t i (i.uses.rx.map (Claim.x s))) ∧
  (∀ (i : Instr) (s : State), Claim.vec i = true → s.Ready (s.usesOf i) → 2 ≤ s.me.veng.q.length →
     exec i s = .next (s.begin.modThr fun t => t.parkRetry .engQueue))

/-- Queue commands, custom opcodes, bound sets and counters.
Where the spec leaves a point open it follows the model's readings: log 66, 70. -/
def Obligations.QueuesCustomOpcodes : Prop := Part.QueueAndCustomCommands ∧ Part.CustomAndCounters

/-- QBIND puts a binding of a neighbour link or pair queue into its register, QFREE takes it away and zeroes the register (R189,
R191); AMCALL with a payload in A0-A3 sends it (R195).
Where the spec leaves a point open it follows the model's readings: log 43, 46. -/
def Obligations.BindFreeCall : Prop :=
  (∀ (gd : Guard) (d s1 s2 : Fin 32) (s : State), s.Ready (Instr.qbind gd d s1 s2).uses →
    s.begin.bindReason d (Claim.x s s1) s2 (Claim.x s s2) = none → bits (Claim.x s s1) 43 40 < 6 →
    exec (.qbind gd d s1 s2) s = .next (s.begin.modThr fun t => t.setBind d (some
      { ep := bindEp (Claim.x s s1), push := (Claim.x s s1).getLsbD 35, pf := (Claim.x s s1).getLsbD 34,
        tag := (Claim.x s s1).extractLsb' 48 16, rsv := 0 }))) ∧
  (∀ (gd : Guard) (d s1 s2 : Fin 32) (s : State) (r : Nat), s.Ready (Instr.qbind gd d s1 s2).uses →
    s.begin.bindReason d (Claim.x s s1) s2 (Claim.x s s2) = some r →
    exec (.qbind gd d s1 s2) s = .next (s.begin.takeFault ⟨0x27, BitVec.ofNat 64 r, 0⟩)) ∧
  (∀ (gd : Guard) (d : Fin 32) (s : State) (k : Fin 4) (b : Machine.Bind), s.Ready (Instr.qfree gd d).uses → 24 ≤ d.val →
    s.thr.bind d = some b → b.ep = .link k → b.rsv = 0 → s.thr.regs.xp[d].n = 0 →
    exec (.qfree gd d) s = .next (s.begin.modThr fun t => (t.setBind d none).setX d 0)) ∧
  (∀ (gd : Guard) (d : Fin 32) (s : State), s.Ready (Instr.qfree gd d).uses → s.thr.bind d = none →
    exec (.qfree gd d) s = .next s.begin) ∧
  (∀ (gd : Guard) (s1 : Fin 32) (kind : BitVec 8) (len : BitVec 9) (s : State) (dest : Nat),
    s.Ready (Instr.amcall gd s1 0 kind len).uses → s.begin.target s.me.ctxid (Claim.x s s1) = some dest →
    s.begin.orderStop false = none → s.thr.path = [] → s.thr.outst = [] → (s.ni s.cur.lcn).posted.length < postedMax →
    exec (.amcall gd s1 0 kind len) s = .next (s.begin.posted s.cur.lcn s.cur.slot.val dest kind.toNat s.me.ctxid
      ((bytesOf [Claim.x s 10, Claim.x s 11, Claim.x s 12, Claim.x s 13]).take len.toNat).length
      (.program ((bytesOf [Claim.x s 10, Claim.x s 11, Claim.x s 12, Claim.x s 13]).take len.toNat))))

/-- The matrix commands at issue.
Where the spec leaves a point open it follows the model's readings: log 72, 130. -/
def Obligations.MatrixCommands : Prop := Part.MatrixMemoryCommands ∧ Part.MatrixTileCommands

/-- SETTLE and SETTLEW ask the PCTL to arm their set; DEAL, RDHMAP and RDLPT ask a dealer or die controller; PREEMPT, RESUME, QUIESCE,
the RMAPSET forms and FREMAP ask the PCTL and park; GOVSET of one word asks the dealer (R312, R333, R342, R346, R347, R350, R395, R396, R417).
Where the spec leaves a point open it follows the model's readings: log 87, 90, 91, 96, 97, 111. -/
def Obligations.SystemRequests : Prop :=
  ∀ (gd : Guard) (d s1 s2 : Fin 32) (s : State), s.Worker → s.freeSlots s.cur.lcn ≠ 0 →
    (∀ (set nh : BitVec 8) (u : State) (pa : Nat), s.Ready (Instr.settle gd s1 set nh).uses → set.toNat ≤ 15 → nh ≠ 0 → nh.toNat ≤ 64 →
      (Claim.x s s1).toNat % 8 = 0 → s.begin.trNow (Claim.x s s1) .rw (.plain 8) = (u, .inl (u.panelId, pa)) → spaceOf pa = 1 →
      u.cur = s.cur → u.thr = s.begin.thr → u.panelId = s.panelId → u.me.ctxid = s.me.ctxid → u.freeSlots s.cur.lcn ≠ 0 →
      u.orderStop true = none →
      ∃ t, exec (.settle gd s1 set nh) s = .next t ∧ t.thr.state = .parked ∧
        Claim.Asked s t Config.srcPctl 0x20 (.settleArm set.toNat nh.toNat (Claim.x s s1).toNat)
          (.settleArm none (Claim.x s s1).toNat)) ∧
    (∀ (set nh : BitVec 8) (u : State) (pa : Nat), s.Ready (Instr.settlew gd d s1 set nh).uses → set.toNat ≤ 15 → nh ≠ 0 →
      nh.toNat ≤ 64 → (Claim.x s s1).toNat % 8 = 0 → s.begin.trNow (Claim.x s s1) .rw (.plain 8) = (u, .inl (u.panelId, pa)) →
      spaceOf pa = 1 → u.cur = s.cur → u.thr = s.begin.thr → u.panelId = s.panelId → u.me.ctxid = s.me.ctxid →
      u.freeSlots s.cur.lcn ≠ 0 → u.orderStop true = none →
      ∃ t, exec (.settlew gd d s1 set nh) s = .next t ∧ t.thr.state = .parked ∧
        Claim.Asked s t Config.srcPctl 0x20 (.settleArm set.toNat nh.toNat (Claim.x s s1).toNat)
          (.settleArm (some d) (Claim.x s s1).toNat)) ∧
    (s.Ready (Instr.deal gd d s1).uses → s.begin.orderStop false = none →
      ∃ t, exec (.deal gd d s1) s = .next t ∧ (d ≠ 0 → t.thr.regs.xp[d].n ≠ 0) ∧
        Claim.Asked s t (Config.srcDie (dieOf s.cur.lcn)) 0x01 (.deal (Claim.x s s1)) (.value d)) ∧
    (s.Ready (Instr.rdhmap gd d s1).uses → (Claim.x s s1).toNat < 256 → s.begin.orderStop false = none →
      ∃ t, exec (.rdhmap gd d s1) s = .next t ∧ (d ≠ 0 → t.thr.regs.xp[d].n ≠ 0) ∧
        Claim.Asked s t (Config.srcDie (Claim.x s s1).toNat) 0x01 .rdhmap (.value d)) ∧
    (∀ half : Bool, s.Ready (Instr.rdlpt gd d s1 half).uses → (Claim.x s s1).toNat < 256 → s.begin.orderStop false = none →
      ∃ t, exec (.rdlpt gd d s1 half) s = .next t ∧ (d ≠ 0 → t.thr.regs.xp[d].n ≠ 0) ∧
        Claim.Asked s t (Config.srcDie (Claim.x s s1).toNat) 0x01 (.rdlpt half) (.value d)) ∧
    (s.Ready (Instr.preempt gd d s1).uses → (Claim.x s s1).toNat < 4096 → (Claim.x s s1).toNat ≠ s.me.ctxid →
      s.begin.orderStop true = none →
      ∃ t, exec (.preempt gd d s1) s = .next t ∧ t.thr.state = .parked ∧
        Claim.Asked s t Config.srcPctl 0x22 (.preempt (Claim.x s s1).toNat) (.valueWait d)) ∧
    (s.Ready (Instr.resume gd d s1).uses → (Claim.x s s1).toNat < 4096 → s.begin.orderStop true = none →
      ∃ t, exec (.resume gd d s1) s = .next t ∧ t.thr.state = .parked ∧
        Claim.Asked s t Config.srcPctl 0x22 (.resume (Claim.x s s1).toNat) (.valueWait d)) ∧
    (s.Ready (Instr.quiesce gd d).uses →
      ∃ t, exec (.quiesce gd d) s = .next t ∧ t.thr.state = .parked ∧ t.thr.park = .quiesce ∧
        Claim.Asked s t Config.srcPctl 0x21 .quiesce (.valueWait d)) ∧
    (s.Ready (Instr.rmapsetRemap gd d s1 s2).uses → s.begin.orderStop true = none →
      ∃ t, exec (.rmapsetRemap gd d s1 s2) s = .next t ∧ t.thr.state = .parked ∧
        Claim.Asked s t Config.srcPctl 0x23 (.rmapset 0 (Claim.x s s1) (Claim.x s s2)) (.valueWait d)) ∧
    (s.Ready (Instr.rmapsetMarkDead gd d s1 s2).uses → s.begin.orderStop true = none →
      ∃ t, exec (.rmapsetMarkDead gd d s1 s2) s = .next t ∧ t.thr.state = .parked ∧
        Claim.Asked s t Config.srcPctl 0x23 (.rmapset 1 (Claim.x s s1) (Claim.x s s2)) (.valueWait d)) ∧
    (s.Ready (Instr.rmapsetClearDead gd d s1 s2).uses → s.begin.orderStop true = none →
      ∃ t, exec (.rmapsetClearDead gd d s1 s2) s = .next t ∧ t.thr.state = .parked ∧
        Claim.Asked s t Config.srcPctl 0x23 (.rmapset 2 (Claim.x s s1) (Claim.x s s2)) (.valueWait d)) ∧
    (s.Ready (Instr.fremap gd d s1 s2).uses → (Claim.x s s1).toNat < 64 → (Claim.x s s1).toNat ≠ s.panelId →
      (Claim.x s s2).toNat < 2 ^ 48 → s.begin.orderStop true = none →
      ∃ t, exec (.fremap gd d s1 s2) s = .next t ∧ t.thr.state = .parked ∧
        Claim.Asked s t Config.srcPctl 0x28 (.fremap (Claim.x s s1).toNat ((Claim.x s s2).setWidth 48)) (.valueWait d)) ∧
    (s.Ready (Instr.govset gd d s1 0).uses → (Claim.x s s1).toNat < 8 → s.begin.orderStop true = none →
      ∃ t, exec (.govset gd d s1 0) s = .next t ∧ t.thr.state = .parked ∧
        Claim.Asked s t (Config.srcDie (dieOf s.cur.lcn)) 0x03 (.govset (Claim.x s s1).toNat false []) (.stage d (Claim.x s s1).toNat)) ∧
    (∀ scope : Fin 4, s.Ready (Instr.tlbinv gd s1 s2 scope).uses → s.begin.orderStop true = none →
      ∃ t v, exec (.tlbinv gd s1 s2 scope) s = .next t ∧ t.thr.state = .parked ∧ t.pctl.invs = s.pctl.invs ++ [v] ∧
        v.a = Claim.x s s1 ∧ v.b = Claim.x s s2 ∧ v.scope = scope.val ∧ v.core = s.cur.lcn ∧
        (∀ l, l < 8192 → s.present l = true → l ∈ v.left))

/-- The instructions that name a handle, a settle word, a group, a held word or a resident graph complete from every state in which the name
translates, the thread's accesses have been performed and what they wait for is free: the publish family, SETTLE and SETTLEW, the group
instructions, SCQ and RELQ, CXDROP. -/
def Obligations.NamedRequestsComplete : Prop :=
  Part.PublishFamilyCompletes ∧ Part.SettleCompletes ∧ Part.GroupsComplete ∧ Part.ReservationsEnd ∧ Part.DropCompletes

/-- LAUNCH reads its card and CHKPT its descriptor, and both park (R336, R391); RINGGET takes a card of a stage that runs on its core
and RINGPUT puts one (R349).
The arguments that these instructions refuse, with 0x11 and their reasons (R333, R336, R350, R360, R417): a misaligned card,
a number that names no die, context or panel.
Where the spec leaves a point open it follows the model's readings: log 85, 87, 98. -/
def Obligations.LaunchRingsCheckpoint : Prop :=
  (∀ (gd : Guard) (d s1 : Fin 32) (s : State), s.Worker →
     (s.Ready (Instr.launch gd d s1).uses → Claim.Aligned (Claim.x s s1) 64 → s.begin.orderStop true = none →
       exec (.launch gd d s1) s = .next ((Claim.parked s.begin .response).enqueue
         { va := Claim.x s s1, bytes := 64, perm := .r, op := .mem (.load 64), apc := s.thr.iss.b,
           cont := .card d (Claim.x s s1) })) ∧
     (s.Ready (Instr.chkpt gd d s1).uses → s.me.ckpt.chk = none → s.begin.me.checkpoints = false →
       Claim.Aligned (Claim.x s s1) 64 → s.begin.orderStop true = none →
       exec (.chkpt gd d s1) s = .next ((Claim.parked (s.begin.modThr fun t => { t with buf := [] }) .response).enqueue
         { va := Claim.x s s1, bytes := 64, perm := .r, op := .mem (.load 64), apc := s.thr.iss.b, cont := .chkptDesc d })) ∧
     (∀ (gm : Fin 16) (k : Fin 8), s.Ready (Instr.ringget gd d gm s1).uses → (Claim.x s s1).toNat = k.val →
       (s.begin.stages s.cur.lcn)[k].en = true → (s.begin.stages s.cur.lcn)[k].has s.cur.lcn = true →
       s.begin.getsOut (s.begin.stages s.cur.lcn)[k].ringPa < s.begin.ringCount (s.begin.stages s.cur.lcn)[k].ringPa →
       s.begin.orderStop false = none →
       exec (.ringget gd d gm s1) s = .next
         (((s.begin.modThr fun t => t.markX .path d).modThr fun t => t.markG .path gm).enqueue
           { va := (s.begin.stages s.cur.lcn)[k].ring, bytes := 8, perm := .rw, op := .stageGet, apc := s.thr.iss.b,
             st := .ready s.panelId (s.begin.stages s.cur.lcn)[k].ringPa, cont := .stageGet d gm })) ∧
     (∀ (s3 : Fin 32) (k : Fin 8), s.Ready (Instr.ringput gd s3 s1).uses → (Claim.x s s1).toNat = k.val →
       (s.begin.stages s.cur.lcn)[k].en = true → s.begin.orderStop false = none →
       exec (.ringput gd s3 s1) s = .next (s.begin.enqueue
         { va := (s.begin.stages s.cur.lcn)[k].ring, bytes := 8, perm := .rw, op := .stagePut (Claim.x s s3), apc := s.thr.iss.b,
           st := .ready s.panelId (s.begin.stages s.cur.lcn)[k].ringPa, cont := .done }))) ∧
  (∀ (gd : Guard) (d s1 s2 : Fin 32) (s : State), s.Worker →
     (s.Ready (Instr.launch gd d s1).uses → (Claim.x s s1).toNat % 64 ≠ 0 →
       exec (.launch gd d s1) s = .next (s.begin.takeFault ⟨0x11, 0x20, Claim.x s s1⟩)) ∧
     (s.Ready (Instr.rdhmap gd d s1).uses → 256 ≤ (Claim.x s s1).toNat →
       exec (.rdhmap gd d s1) s = .next (s.begin.takeFault ⟨0x11, 0x2D, Claim.x s s1⟩)) ∧
     (s.Ready (Instr.preempt gd d s1).uses → 4096 ≤ (Claim.x s s1).toNat ∨ (Claim.x s s1).toNat = s.me.ctxid →
       exec (.preempt gd d s1) s = .next (s.begin.takeFault ⟨0x11, 0x2B, Claim.x s s1⟩)) ∧
     (s.Ready (Instr.resume gd d s1).uses → 4096 ≤ (Claim.x s s1).toNat →
       exec (.resume gd d s1) s = .next (s.begin.takeFault ⟨0x11, 0x2C, Claim.x s s1⟩)) ∧
     (s.Ready (Instr.fremap gd d s1 s2).uses → 64 ≤ (Claim.x s s1).toNat ∨ (Claim.x s s1).toNat = s.panelId →
       exec (.fremap gd d s1 s2) s = .next (s.begin.takeFault ⟨0x11, 0x33, Claim.x s s1⟩)))

/-- The end of a sleep, the fetch of a line, the pop of the deque and the load of a record (R27, R32, R46, R108).
Where the spec leaves a point open it follows the model's readings: log 31. -/
def Obligations.SlotHardware : Prop :=
  ∀ (core : Nat) (k : Fin 16) (s : State), k ≠ 15 →
    ((s.slot core k).nap = some none → (s.slot core k).state = .parked → (s.slot core k).until_.toNat ≤ s.gtb.toNat →
      Claim.Plain (s.slot core k) → (s.core core).flt.frozen = false →
      ∃ t, exec (.sleepTimeReached core k.val) s = .next t ∧ Claim.GoesOn s t core k) ∧
    (∀ (u : State) (v : Vec) (bad : Nat), (s.slot core k).state = .running → (s.core core).line? (s.slot core k).pc = none →
      (s.core core).reqs = [] → s.readLine core (s.slot core k).pc = (u, .line v bad) → (u.slot core k).pc = (s.slot core k).pc →
      ones 32 (v.toNat / 2 ^ 480) % 2 = 0 →
      ∃ t x, exec (.lineFetch core k.val) s = .next t ∧ (t.core core).line? (s.slot core k).pc = some x ∧ x.data = v ∧
        (t.slot core k).pc = (s.slot core k).pc ∧ (t.slot core k).regs = (u.slot core k).regs ∧ t.mem = u.mem) ∧
    (∀ (pre post : List DqEnt) (e : DqEnt), s.loads core = true → (s.slot core k).state = .idle → (s.slot core k).load = none →
      (s.core core).steal.got = none → (s.core core).dq.hw = pre ++ e :: post → (s.core core).dq.spill = [] →
      (∀ x ∈ pre, x.pri < e.pri) → (∀ x ∈ post, x.pri ≤ e.pri) →
      exec (.localPop core k.val) s = .next ((s.modCore core fun c => { c with dq := { c.dq with hw := pre ++ post } }).modSlot core k
        fun t => { t with load := some e })) ∧
    (∀ (e : DqEnt) (u : State) (p pa : Nat), s.loads core = true → (s.slot core k).state = .idle → (s.slot core k).load = some e →
      (s.core core).reqs = [] → e.record.toNat % 64 = 0 → s.tr core (s.core core).ctxid e.record.toNat .rw .record = (u, .ok p pa) →
      u.panelId = s.panelId → (u.core core).reqs = [] → p ≠ s.panelId ∨ homeOf pa ≠ core → spaceOf pa ≠ 15 →
      exec (.recordLoad core k.val) s = .next (u.request core k.val 0 e.record (homeKey p pa) (.recordLoaded k.val e.record)
        (u.reqMsg core p (homeOf pa) 0 0x10 64 (.ctl pa e.record (.load core k.val)))))

/-- Deques: the search for work and the pushes.
Where the spec leaves a point open it follows the model's readings: log 14, 29, 30. -/
def Obligations.StealingDeques : Prop := Part.Stealing ∧ Part.DequePushes

/-- Answers and credits (R27, R215, R218, R352, R358, R379): a load's answer writes its register; a record's answer starts the slot with the registers of
Table 2.2; a credit drops the copy of its posted write; a refused write and a refused request are sent again when their time has come.
Where the spec leaves a point open it follows the model's readings: log 28, 30, 39. -/
def Obligations.AnswersReturn : Prop :=
  ∀ (core : Nat) (s : State), core < 8192 → (s.core core).health.iso = false →
    (∀ (m : Msg) (q : Req) (r : Resp) (d : Fin 32) (n : Nat) (sgn : Bool), Claim.First s core m → s.requestOf core m = some (q, r) →
      m.body = .resp 0 r → q.cont = .load d n sgn false → 0 < n → n ≤ 8 → r.cause = 0 → r.retry = false →
      exec (.responseReturn core 0) s = .next ((((s.takeAnswer core m q r).onSlot core (Fin.ofNat 16 q.slot)).deliverX core
        (Fin.ofNat 16 q.slot) d (Claim.extended n sgn r.data)).pumpCore core)) ∧
    (∀ (m : Msg) (q : Req) (r : Resp) (k : Fin 16) (ra : Word) (ws : List Word), Claim.First s core m → s.requestOf core m = some (q, r) →
      m.body = .resp 0 r → q.cont = .recordLoaded k.val ra → q.slot = k.val → r.cause = 0 → r.retry = false → r.data = bytesOf ws → ws.length = 8 →
      (s.core core).flt.frozen = false → (s.slot core k).late = [] → (∀ j : Fin 16, j ≠ k → (s.slot core j).path = []) → (s.ctx m.ctx).st ≠ .saved →
      ∃ t, exec (.responseReturn core 0) s = .next t ∧ (t.slot core k).state = .running ∧ (t.slot core k).record = some ra ∧
        (t.slot core k).pc = (nth 0 ws 0).setWidth 48 ∧ (t.slot core k).pri = Fin.ofNat 4 (bits (nth 0 ws 7) 4 3) ∧
        (∀ d : Fin 32, (t.slot core k).regs.x[d] = if d = 2 then nth 0 ws 1 else if d = 3 then (s.core core).sys 2 else if d = 4 then ra
          else if d = 8 then nth 0 ws 1 else if d = 10 then nth 0 ws 2 else if d = 11 then nth 0 ws 3 else if d = 12 then nth 0 ws 4
          else if d = 13 then nth 0 ws 5 else 0) ∧
        (∀ d : Fin 16, (t.slot core k).regs.v[d] = 0 ∧ (t.slot core k).regs.g[d] = false)) ∧
    (∀ (m : Msg) (p : Posted), Claim.First s core m → m.body = .credit → s.copyOf core m.spanel m.src m.seq = some p → p.slot = 16 →
      (∀ k : Fin 16, (s.slot core k).path = []) → (s.ctx m.ctx).st ≠ .saved →
      ∃ t, exec (.postedCreditReturn core) s = .next t ∧
        (t.ni core).posted = (s.ni core).posted.filter (fun x => x.id != p.id) ∧ t.mem = s.mem) ∧
    (∀ (p : Posted) (n : Nat), (s.ni core).posted = [p] → p.resend = some n → n ≤ s.time → p.ring = false → p.again = false →
      exec (.postedRetryResend core 0) s =
        .next ((s.modNi core fun x => { x with posted := [{ p with resend := none, ring := false }] }).inject p.msg)) ∧
    (∀ (p : Posted) (n : Nat), (s.ni core).posted = [p] → p.resend = some n → n ≤ s.time → p.ring = true →
      exec (.parkedRingRetryResend core 0) s =
        .next ((s.modNi core fun x => { x with posted := [{ p with resend := none, ring := false }] }).inject p.msg))

/-- Accesses at their home.
Where the spec leaves a point open it follows the model's readings: log 26. -/
def Obligations.HomeAccesses : Prop := Part.HomeLoadsStoresAtomics ∧ Part.HomeSynchronising

/-- Registrations, join words and control words at their home (R28, R37, R38, R99, R100, R105, R272): AWAIT of an empty word waits and is answered 1;
the arming of a join word with a count enters the continuation; a decrement above 1, or of an unarmed word, takes 1; the last one of an armed word
zeroes it and answers the continuation; the end of an arming lets the waiter be served; the load of a ready record makes it Running with REF clear; a
re-fire makes a waiting record ready with the version seen and pushes it; a signal sets its bits, and a re-fire of a running record event 15.
Where the spec leaves a point open it follows the model's readings: log 27. -/
def Obligations.HomeTasks : Prop :=
  ∀ (core pa : Nat) (m : Msg) (s : State), s.Inv → core < 8192 → pa % 8 = 0 → (s.core core).waits = [] →
    (∀ va : Word, Claim.Served s core m (.awaitReg pa va) 0 pa 8 →
      ∃ t, exec (.awaitRegistration core) s = .next t ∧ t.mem = s.mem ∧
        (s.mem.full pa = false → (t.core core).waits = [⟨pa, .await va m.ctx m.src true false⟩] ∧ Claim.Answered t core m { w := 1 }) ∧
        (s.mem.full pa = true → (t.core core).waits = [] ∧ Claim.Answered t core m { w := 0 })) ∧
    (∀ (va : Word) (n : Nat), Claim.Served s core m (.joinArm pa va) 0 pa 8 → s.gathered core pa 8 = false → s.mem.read64 pa = BitVec.ofNat 64 n → 0 < n → n < 2 ^ 22 →
      va.toNat % 64 = 0 → va.toNat < 2 ^ 48 →
      ∃ t, exec (.joinArming core) s = .next t ∧ Claim.Stored s t pa (toBytes 8 (va.toNat / 64 * 2 ^ 22 + n)) ∧
        (t.core core).waits = [⟨pa, .arm va none⟩] ∧ Claim.Answered t core m { w := 1 }) ∧
    (Claim.Served s core m (.joinDec pa) 0 pa 8 → s.gathered core pa 8 = false → 2 ≤ (s.mem.read64 pa).toNat % 2 ^ 22 →
      ∃ t, exec (.joinDecrement core) s = .next t ∧ Claim.Stored s t pa (toBytes 8 (s.mem.read64 pa - 1).toNat) ∧ Claim.Answered t core m {}) ∧
    (∀ va : Word, Claim.Served s core m (.joinDec pa) 0 pa 8 → s.gathered core pa 8 = false → va ≠ 0 → va.toNat % 64 = 0 → va.toNat < 2 ^ 48 →
      s.mem.read64 pa = BitVec.ofNat 64 (va.toNat / 64 * 2 ^ 22 + 1) →
      ∃ t, exec (.joinDecrement core) s = .next t ∧ Claim.Stored s t pa (toBytes 8 0) ∧ Claim.Answered t core m { w := va }) ∧
    (∀ (va : Word) (ctx lc : Nat) (s' : State), s.headMsg core = some m → m.len ≤ 256 → m.body = .armEnd pa va →
      s' = s.modCore core (fun c => { c with waits := [⟨pa, .await va ctx lc true false⟩] }) → s.mem.full pa = false →
      ∃ t, exec (.armingEnd core) s' = .next t ∧ t.mem = s.mem ∧ (t.core core).waits = [⟨pa, .await va ctx lc false false⟩]) ∧
    (∀ (va : Word) (ws : List Word) (lcn k : Nat), pa % 64 = 0 → Claim.Served s core m (.ctl pa va (.load lcn k)) 0 pa 64 → s.gathered core (pa + 0x38) 8 = false →
      s.mem.read pa 64 = bytesOf ws → ws.length = 8 → recordOk m.ctx ws = true →
      ∃ t, exec (.controlWordTransition core) s = .next t ∧
        Claim.Stored s t (pa + 0x38) (toBytes 8 ((nth 0 ws 7 &&& ~~~0x2007#64) ||| 2#64).toNat) ∧
        Claim.Answered t core m { data := bytesOf (ws.take 7 ++ [(nth 0 ws 7 &&& ~~~0x2007#64) ||| 2#64]) }) ∧
    (∀ (va w : Word) (v : BitVec 32) (final : Bool) (lcn : Nat), pa % 64 = 0 → Claim.Served s core m (.ctl pa va (.refire v final lcn)) 2 (pa + 0x38) 8 →
      s.gathered core (pa + 0x38) 8 = false →
      s.mem.read64 (pa + 0x38) = w → w.toNat % 8 = 3 → (s.core core).dq.hw.length < 64 →
      ∃ t, exec (.refire core) s = .next t ∧
        Claim.Stored s t (pa + 0x38)
          (toBytes 8 ((w &&& ~~~0xFFFFFFFF3807#64) ||| (v.zeroExtend 64 <<< (16 : Nat)) ||| 0x2001#64).toNat) ∧
        (t.core core).dq.hw = ⟨va, bits w 4 3, bits w 7 5⟩ :: (s.core core).dq.hw) ∧
    (∀ (k : Fin 16) (mask : BitVec 16), s.headMsg core = some m → m.len ≤ 256 → m.body = .sigev k.val mask →
      (s.slot core k).state ≠ .idle → (s.slot core k).record ≠ none →
      exec (.eventSignal core) s = .next ((s.takeMsg core m).modSlot core k fun t => { t with ev := t.ev ||| mask })) ∧
    (∀ (k : Fin 16) (va : Word), s.headMsg core = some m → m.len ≤ 256 → m.body = .refired k.val va → (s.slot core k).record = some va →
      exec (.eventSignal core) s = .next ((s.takeMsg core m).modSlot core k fun t => { t with ev := t.ev ||| 0x8000 }))

/-- Handles at issue and at their home.
Where the spec leaves a point open it follows the model's readings: log 49, 50. -/
def Obligations.HandlesPublish : Prop := Part.PublishFamily ∧ Part.HandlesAtHome

/-- Reservations set slots aside as far as they fit, or wait; a consumer's binding enters its slot; a push stores its word behind the newest and
gives its reserved slot up; a credit comes back to its binding; a stage's ring takes and gives items; words and credits of neighbour links arrive in
order; an owner of a page is written by a system-level master only.
Where the spec leaves a point open it follows the model's readings: log 43, 44. -/
def Obligations.RingsLinksPages : Prop :=
  ∀ (core d : Nat) (m : Msg) (s : State), s.Inv →
    (∀ (n slot : Nat) (tag : Tag), Claim.OnRing s core m (.ringReserve d n tag slot) d → s.mem.read64 (d + 0x28) = tag.zeroExtend 64 → n ≠ 0 →
      exec (.ringReservation core) s = .next (if n + s.ringResv d + s.ringCount d ≤ s.ringSize d then
          ((s.takeMsg core m).ringSet d 0x20 (BitVec.ofNat 64 (s.ringResv d + n))).answer core m.reply { w := tag.zeroExtend 64 }
        else (s.takeMsg core m).modCore core fun c => { c with links := { c.links with ringWait := c.links.ringWait ++ [m] } })) ∧
    (∀ (n slot : Nat) (tag : Tag), Claim.OnRing s core m (.ringReserve d n tag slot) d → s.mem.read64 (d + 0x28) ≠ tag.zeroExtend 64 →
      exec (.ringReservation core) s = .next ((s.takeMsg core m).answer core m.reply { cause := 0x27, info := 6 })) ∧
    (∀ (w : Word) (wt mt : Tag) (slot reg : Nat) (apc : Addr), Claim.OnRing s core m (.ringPush d [w] wt mt [] slot reg apc) d →
      Claim.RingWord s core m (s.ringAt d (s.ringTail d)) → m.late = false → Claim.Apart s d → 0 < s.ringResv d →
      ∃ t, exec (.ringPush core) s = .next t ∧ Claim.Joined s t d w ∧ t.ringResv d = s.ringResv d - 1 ∧ t.net = s.net ∧
        Fmap.get [] (t.core core).links.rings d = Fmap.get [] (s.core core).links.rings d ++ [(peerKey m.spanel m.src, slot, reg)]) ∧
    (∀ (k : Fin 16) (r : Fin 8) (n : Nat) (b : Bind), Claim.Head s core m (.ringCredit d k.val (24 + r.val) n) → (s.slot core k).binds[r] = some b →
      b.ep = .ringP d → (∀ j : Fin 16, (s.slot core j).late = []) →
      exec (.ringCredit core) s = .next ((s.takeMsg core m).modSlot core k fun t =>
        { t with binds := t.binds.set r (some { b with rsv := b.rsv + n }) })) ∧
    (∀ v : Word, Claim.OnRing s core m (.stagePut d v) d → Claim.RingWord s core m (s.ringAt d (s.ringTail d)) → Claim.Apart s d →
      (s.core core).waits = [] →
      1 + s.ringResv d + s.ringCount d ≤ s.ringSize d →
      ∃ t, exec (.ringputHome core) s = .next t ∧ Claim.Joined s t d v ∧ t.ringResv d = s.ringResv d ∧
        Fmap.get [] (t.core core).links.rings d = Fmap.get [] (s.core core).links.rings d ++ [(0, 16, 0)]) ∧
    (∀ v : Word, Claim.OnRing s core m (.stagePut d v) d → Claim.RingWord s core m (s.ringAt d (s.ringTail d)) → (s.core core).waits = [] →
      s.ringSize d < 1 + s.ringResv d + s.ringCount d →
      exec (.ringputHome core) s = .next ((s.takeMsg core m).modCore core fun c => { c with waits := [⟨d, .stagePut m.reply v⟩] })) ∧
    (Claim.OnRing s core m (.stageGet d) d → Claim.RingWord s core m (s.ringAt d (s.ringHead d)) → s.Sound (s.ringAt d (s.ringHead d)) 8 →
      (s.core core).waits = [] → s.ringCount d ≠ 0 → m.vc = 0 →
      (∃ rest, Fmap.get [] (s.core core).links.rings d = (0, 16, 0) :: rest) →
      ∃ t, exec (.ringputHome core) s = .next t ∧ t.ringHead d = s.ringHead d + 1 ∧ t.ringTail d = s.ringTail d ∧ t.ringResv d = s.ringResv d ∧
        Claim.Answered t core m { w := s.mem.read64 (s.ringAt d (s.ringHead d)), info := 1 }) ∧
    (Claim.OnRing s core m (.stageGet d) d → s.ringCount d = 0 →
      exec (.ringputHome core) s = .next ((s.takeMsg core m).answer core m.reply {})) ∧
    (∀ (pre post : List Msg) (side : Fin 4) (w : Word), s.net = pre ++ m :: post → (∀ x ∈ pre, x.vc ≠ 5 ∨ x.dest ≠ core) → m.vc = 5 →
      m.dest = core → m.body = .linkWord side w →
      exec (.neighbourLinkWord core) s = .next ((s.unsend m).modCore core fun c =>
        { c with links := { c.links with fifo := c.links.fifo.set side (c.links.fifo[side] ++ [{ w }]) } })) ∧
    (∀ (pre post : List Msg) (side : Fin 4), s.net = pre ++ m :: post → (∀ x ∈ pre, x.vc ≠ 5 ∨ x.dest ≠ core) → m.vc = 5 →
      m.dest = core → m.body = .linkCredit side → (∀ j : Fin 16, (s.slot core j).late = []) →
      exec (.neighbourLinkCredit core) s = .next ((s.unsend m).modCore core fun c =>
        { c with links := { c.links with credit := c.links.credit.set side (c.links.credit[side] + 1) } })) ∧
    (∀ (k : Fin 16) (v : Word), Claim.Head s core m (.pageOwner k.val v) → m.level = 2 → (s.core core).sysOk core (0x20 + k.val) v = true →
      exec (.pageOwnerWrite core) s = .next (((s.takeMsg core m).modCore core fun c =>
        c.setSys (0x20 + k.val) (v &&& sysMask (0x20 + k.val))).answer core m.reply {})) ∧
    (∀ (k : Fin 16) (v : Word), Claim.Head s core m (.pageOwner k.val v) → m.level ≠ 2 →
      exec (.pageOwnerWrite core) s = .next ((s.takeMsg core m).answer core m.reply { cause := 0x04 }))

/-- The debug window, the control blocks, the message thread's handlers.
Where the spec leaves a point open it follows the model's readings: log 52, 53, 54, 55, 56, 57. -/
def Obligations.ControlSpace : Prop := Part.DebugWindow ∧ Part.BlocksHandlersPackets

/-- Commands of the vector queue: one whose guard is false is discarded; VSETTAG, VGETTAG and the bitwise operations have their results at their
start; BNDSET writes its set; a result is written in queue order, also that of a custom opcode; a graph whose image is good is installed.
Where the spec leaves a point open it follows the model's readings: log 58, 66. -/
def Obligations.VectorEngine : Prop :=
  ∀ (core : Nat) (c : VCmd) (rest : List VCmd) (s : State),
    (Claim.VecHead s core c rest → c.started = false → c.gd = .known false →
      exec (.vectorCommandStart core) s = .next ((s.modCore core fun k => { k with veng := { k.veng with q := rest } }).discardCmd
        core c.slot c.op)) ∧
    (∀ (gd : Guard) (d s1 : Fin 16) (r : Fin 32) (w : Word), Claim.VecHead s core c rest → c.started = false → c.gd = .known true →
      c.op = .vsettag gd d s1 (.reg r) → c.xs = [some w] →
      exec (.vectorCommandStart core) s = Claim.resultOf s core c rest
        { vds := [(d, (s.slot core (Fin.ofNat 16 c.slot)).regs.v[s1], w.setWidth 16)] }) ∧
    (∀ (gd : Guard) (d : Fin 32) (s1 : Fin 16), Claim.VecHead s core c rest → c.started = false → c.gd = .known true →
      c.op = .vgettag gd d s1 →
      exec (.vectorCommandStart core) s = Claim.resultOf s core c rest
        { xd := some (d, ((s.slot core (Fin.ofNat 16 c.slot)).regs.vtag[s1]).zeroExtend 64) }) ∧
    (∀ (gd : Guard) (d s1 s2 : Fin 16) (t : Tag), Claim.VecHead s core c rest → c.started = false → c.gd = .known true →
      (s.slot core (Fin.ofNat 16 c.slot)).regs.vtag[s1] = t → (s.slot core (Fin.ofNat 16 c.slot)).regs.vtag[s2] = t →
      tagReason (s.core core).bs t false = none → Tag.bs t = 0 →
      (c.op = .vand gd d s1 (.v s2) → exec (.vectorCommandStart core) s = Claim.resultOf s core c rest
        { vds := [(d, (s.slot core (Fin.ofNat 16 c.slot)).regs.v[s1] &&& (s.slot core (Fin.ofNat 16 c.slot)).regs.v[s2], t)] }) ∧
      (c.op = .vor gd d s1 (.v s2) → exec (.vectorCommandStart core) s = Claim.resultOf s core c rest
        { vds := [(d, (s.slot core (Fin.ofNat 16 c.slot)).regs.v[s1] ||| (s.slot core (Fin.ofNat 16 c.slot)).regs.v[s2], t)] }) ∧
      (c.op = .vxor gd d s1 (.v s2) → exec (.vectorCommandStart core) s = Claim.resultOf s core c rest
        { vds := [(d, (s.slot core (Fin.ofNat 16 c.slot)).regs.v[s1] ^^^ (s.slot core (Fin.ofNat 16 c.slot)).regs.v[s2], t)] })) ∧
    (∀ (gd : Guard) (k : Fin 16) (mode : BitVec 2) (r : Fin 32) (w : Word) (b : Bound), Claim.VecHead s core c rest → c.started = false →
      c.gd = .known true → c.op = .bndset gd k false mode r → c.xs = [some w] → (s.core core).meng.q = [] →
      b = { v := true, mode, lo := w.extractLsb' 0 32, hi := w.extractLsb' 32 32 } → b.ok = true →
      exec (.vectorCommandStart core) s = .next ((s.modCore core fun x => { x with bs := x.bs.set k b }).popVec core c)) ∧
    (∀ (d : Fin 16) (v : Vec) (t : Tag), (s.core core).veng.q = c :: rest → c.slot < 16 →
      c.res = some { vds := [(d, v, t)] } → (s.slot core (Fin.ofNat 16 c.slot)).park ≠ .marker → (s.core core).thresholds = false →
      (c.eng = 1 → ∃ u, exec (.vectorResultWrite core) s = .next u ∧ Claim.Written s u core c rest d v t) ∧
      (c.eng = 2 → ∃ u, exec (.reedResult core) s = .next u ∧ Claim.Written s u core c rest d v t)) ∧
    (∀ (gd : Guard) (s1 : Fin 32) (w : Word) (u : State), (s.core core).veng.q = c :: rest → c.op = .cxload gd s1 → c.started = true →
      c.xs = [some w] → (s.core core).veng.reload = [] → (s.cxHead core w.toNat).2 = none → s.cxInstall core (Fin.ofNat 4 c.cxslot) w.toNat = (u, 0, 0) →
      exec (.cxloadInstall core) s = .next ((u.popVec core c).arrived core c.k)) ∧
    (∀ (gd : Guard) (s1 : Fin 32) (w : Word) (u : State) (why : Nat), (s.core core).veng.q = c :: rest → c.op = .cxload gd s1 →
      c.started = true → c.xs = [some w] → (s.core core).veng.reload = [] → (s.cxHead core w.toNat).2 = none → s.cxInstall core (Fin.ofNat 4 c.cxslot) w.toNat = (u, 0x1D, why) →
      exec (.cxloadInstall core) s = .next (u.vecFault core c ⟨0x1D, BitVec.ofNat 64 why, 0⟩))

/-- The matrix unit: a grant goes to the ready member that has credit; it ends; a command at its queue's head completes; a command without a grant
executes there; a failure in service clears the members' tiles and is reported to the PCTL.
Where the spec leaves a point open it follows the model's readings: log 73, 75, 76, 77. -/
def Obligations.MatrixEngine : Prop :=
  ∀ (cl core : Nat) (c : MCmd) (rest : List MCmd) (s : State),
    (∀ m : Fin 8, (s.cluster cl).mabs = false → (s.cluster cl).grant = none → (∀ j : Nat, j < 8 → s.mReady cl j = decide (j = m.val)) →
      (s.cluster cl).c[m] ≠ 0 →
      ∃ t, exec (.matrixGrant cl) s = .next t ∧ (t.cluster cl).grant = some m.val ∧ (t.cluster cl).c[m] = (s.cluster cl).c[m] - 1 ∧
        (t.cluster cl).p = if (s.cluster cl).c[m] = 1 then (m.val + 1) % 8 else m.val) ∧
    (∀ m : Fin 8, (s.cluster cl).grant = some m.val → (s.core (memberLcn cl m.val)).meng.q = c :: rest → mmaOf c.op = none →
      c.done = false → (∀ x ∈ rest, x.no ≠ c.no) →
      (∀ j : Nat, j < 8 → (s.core (memberLcn cl j)).meng.holds = [] ∧ (s.core (memberLcn cl j)).waits = [] ∧
        ∀ k : Fin 16, (s.slot (memberLcn cl j) k).late = []) →
      exec (.matrixGrantEnd cl) s = .next ((s.modCluster cl fun k => { k with grant := none }).modCore (memberLcn cl m.val) fun k =>
        { k with meng := { k.meng with q := { c with k := c.k + 1, done := true } :: rest } })) ∧
    (∀ (m : Fin 8) (f : Mma), (s.cluster cl).grant = some m.val → (s.core (memberLcn cl m.val)).meng.q = c :: rest → mmaOf c.op = some f →
      c.done = false → (∀ x ∈ rest, x.no ≠ c.no) → c.k + 1 < c.grants (s.core (memberLcn cl m.val)).meng →
      ∃ t, exec (.matrixGrantEnd cl) s = .next t ∧ (t.cluster cl).grant = none ∧
        (t.core (memberLcn cl m.val)).meng.tiles[f.d] = (c.mmaStep f (s.core (memberLcn cl m.val)).meng.tiles[f.d]).1 ∧
        ∃ x, (t.core (memberLcn cl m.val)).meng.q = x :: rest ∧ x.k = c.k + 1 ∧ x.done = false) ∧
    (∀ (gd : Guard) (d : Fin 8) (tag : Tag), (s.core core).meng.q = c :: rest → c.done = true → c.op = .mzero gd d tag →
      exec (.matrixCommandComplete core) s = .next ((s.modCore core fun k => { k with meng := { k.meng with
        tiles := k.meng.tiles.set d { k.meng.tiles[d] with e := Vector.replicate 1024 0, tag, tnt := false } } }).popMat core c)) ∧
    (∀ (gd : Guard) (d : Fin 8) (s1 : Fin 32) (off : BitVec 32) (v : BitVec 256), (s.core core).meng.q = c :: rest → c.started = false →
      c.gd = .known true → (s.core core).flt.frozen = false → (s.core core).stopping = none → c.op = .mshld gd d s1 off → c.data = some v →
      (s.core core).bndAhead c.no = false → (∀ k : Fin 16, (s.slot core k).path = []) →
      ∃ t, t = (s.modCore core fun k => { k with meng := { k.meng with sh := k.meng.sh.set d v } }).popMat core c ∧
        exec (.matrixQueueHeadExecute core) s = .next (if c.slot < 16 then t.wakeMarker core (Fin.ofNat 16 c.slot) else t)) ∧
    (∀ (gd : Guard) (d : Fin 32) (z : Fin 8), (s.core core).meng.q = c :: rest → c.started = false → c.slot < 16 →
      c.gd = .known true → (s.core core).flt.frozen = false → (s.core core).stopping = none → c.op = .mcnt gd false d z →
      (s.core core).bndAhead c.no = false → (∀ k : Fin 16, (s.slot core k).path = []) →
      ∃ v : Word, exec (.matrixQueueHeadExecute core) s = .next ((s.popMat core c).deliverX core (Fin.ofNat 16 c.slot) d v) ∧
        v.extractLsb' 0 16 = (s.core core).meng.tiles[z].tag ∧ v.getLsbD 16 = (s.core core).meng.tiles[z].tnt ∧
        v.getLsbD 17 = decide ((s.core core).meng.tiles[z].ctr.sat ≠ 0) ∧ v.getLsbD 18 = decide ((s.core core).meng.tiles[z].ctr.nan ≠ 0) ∧
        v.getLsbD 19 = decide ((s.core core).meng.tiles[z].ctr.bso ≠ 0) ∧ v.getLsbD 20 = decide ((s.core core).meng.tiles[z].ctr.bnd ≠ 0)) ∧
    ((s.core core).meng.q = c :: rest → c.started = false → c.gd = .known false → (s.core core).flt.frozen = false →
      (∀ k : Fin 16, (s.slot core k).path = []) → (s.core core).stopping = none → exec (.matrixQueueHeadExecute core) s = .next (s.dropMat core c)) ∧
    ((s.cluster cl).mabs = false → (∀ j : Nat, j < 8 → (s.core (memberLcn cl j)).meng.q = [] ∧ (s.core (memberLcn cl j)).meng.holds = []) →
      ∃ t, exec (.cmuFailure cl) s = .next t ∧ (t.cluster cl).mabs = true ∧ (t.cluster cl).cmboff = true ∧ (t.cluster cl).grant = none ∧
        (∀ (j : Nat) (z : Fin 8), j < 8 → (t.core (memberLcn cl j)).meng.tiles[z].e = Vector.replicate 1024 0 ∧
          (t.core (memberLcn cl j)).meng.tiles[z].tag = 0) ∧
        ∃ a ∈ t.net, a.dest = Config.srcPctl ∧ ∃ p, a.body = .packet p ∧ p.cause = 0x3B ∧ p.info = BitVec.ofNat 64 cl)

/-- Copies at issue and in the engine.
Where the spec leaves a point open it follows the model's readings: log 79, 80, 81, 82, 83, 84. -/
def Obligations.Copies : Prop := Part.CopyInstructions ∧ Part.CopyEngine

/-- A bank with eight uncorrectable sectors in a window is reported to the PCTL; a memory bridge serves loads and stores and refuses those to a failed
channel; lost channels are recorded and reported; the L2 TLB and the walkers answer what waits for them; an invalidation takes its entries out.
Where the spec leaves a point open it follows the model's readings: log 13, 97, 104. -/
def Obligations.MemoryTranslation : Prop :=
  ∀ (core bank b : Nat) (k : Fin 16) (m : Msg) (s : State), s.Inv →
    (s.present core = true → bank < 16 → bank ∉ (s.core core).health.badBanks → (s.core core).bankFails bank = true →
      ∃ t, exec (.bankFailed core bank) s = .next t ∧ (t.core core).health.badBanks = (s.core core).health.badBanks ++ [bank] ∧
        ∃ a ∈ t.net, a.dest = Config.srcPctl ∧ ∃ p, a.body = .packet p ∧ p.cause = 0x3A) ∧
    (∀ (pa n slot : Nat) (apc : Addr), Claim.First8 s (Config.srcMem b) m (.mem pa (.load n) slot apc) → m.vc = 0 → Claim.SoundHbm s pa n false →
      exec (.hbmAccess b) s = .next ((s.takeMsg (Config.srcMem b) m).answer (Config.srcMem b) m.reply
        { data := s.mem.read pa n, w := BitVec.ofNat 64 (ofBytes (s.mem.read pa n)) })) ∧
    (∀ (pa slot : Nat) (d : List Byte) (apc : Addr), Claim.First8 s (Config.srcMem b) m (.mem pa (.store d) slot apc) → m.vc = 0 → d ≠ [] →
      Claim.SoundHbm s pa d.length true →
      ∃ t, exec (.hbmAccess b) s = .next t ∧ Claim.Stored s t pa d) ∧
    (∀ (pa slot : Nat) (op : MemOp) (apc : Addr), Claim.First8 s (Config.srcMem b) m (.mem pa op slot apc) → m.vc = 0 →
      op = .ldw ∨ op = .ldt ∨ op = .lrq ∨ op = .relq →
      exec (.hbmAccess b) s = .next ((s.takeMsg (Config.srcMem b) m).answer (Config.srcMem b) m.reply { cause := 0x0F, info := 1 })) ∧
    (∀ ch : BitVec 32, b < 24 →
      ∃ t, exec (.hbmStackFailure b ch) s = .next t ∧ (t.bridge b).failed = (s.bridge b).failed ||| ch ∧
        ∃ a ∈ t.net, a.dest = Config.srcPctl ∧ ∃ p, a.body = .packet p ∧ p.cause = 0x34) ∧
    (∀ (a : Acc) (rest : List Acc), (s.slot core k).path = a :: rest → a.st = .l2 → s.l2 (dieOf core) (s.core core).ctxid a.va.toNat = none →
      exec (.l2TlbLookup core k.val) s = .next (s.modSlot core k fun t => { t with path := { a with st := .walk } :: rest })) ∧
    (∀ (a : Acc) (rest : List Acc) (e : TlbEnt), (s.slot core k).path = a :: rest → a.st = .l2 →
      s.l2 (dieOf core) (s.core core).ctxid a.va.toNat = some e →
      exec (.l2TlbLookup core k.val) s = .next (((s.modCore core fun c => { c with tlb := tlbPut 96 c.tlb ({ e with
        ctx := (s.core core).ctxid, vpn := a.va.toNat / 65536 } : TlbEnt) }).modSlot core k fun t =>
          { t with path := { a with st := .queued } :: rest }).pump core k)) ∧
    (∀ (a : Acc) (rest : List Acc) (u : State) (e : TlbEnt), (s.slot core k).path = a :: rest → a.st = .walk →
      s.walkers (dieOf core) (s.core core).ctxid (a.va.toNat / 65536) = [(core, k)] →
      s.walk (dieOf core) (s.core core).ctxid a.va.toNat = (u, .inl e) → (u.slot core k).path = a :: rest →
      exec (.pageWalk core k.val) s = .next ((((u.modDie (dieOf core) fun x => { x with l2 := l2Put x.l2 e }).modCore core fun c =>
        { c with tlb := tlbPut 96 c.tlb e }).modSlot core k fun t => { t with path := { a with st := .queued } :: rest }).pump core k)) ∧
    (∀ (a : Acc) (rest : List Acc) (u : State) (cause why : Nat), (s.slot core k).path = a :: rest → a.st = .walk →
      s.walkers (dieOf core) (s.core core).ctxid (a.va.toNat / 65536) = [(core, k)] →
      s.walk (dieOf core) (s.core core).ctxid a.va.toNat = (u, .inr (cause, why)) → (u.slot core k).path = a :: rest →
      exec (.pageWalk core k.val) s = .next ((u.modSlot core k fun t => { t with path := { a with st := .failed } :: rest }).deferFault core k 5
        a.apc ⟨cause, BitVec.ofNat 64 why, a.va⟩)) ∧
    (∀ (d : Nat) (v : Inv) (rest : List Inv), s.pctl.invs = v :: rest → 8192 + d ∈ v.left → (∀ e ∈ v.pend, e.1 ≠ 8192 + d) →
      v.scope ≤ 2 → (∀ x ∈ rest, x.reply ≠ v.reply) →
      ∃ t, exec (.tlbinvRequest (8192 + d)) s = .next t ∧ (t.die d).l2 = (s.die d).l2.filter (fun e => !v.covers e) ∧
        ∃ w, t.pctl.invs = w :: rest ∧ w.left = v.left) ∧
    (∀ (d : Nat) (v : Inv) (rest : List Inv) (e : Nat × (List Nat × Nat)), s.pctl.invs = v :: rest → v.left = [8192 + d] → v.pend = [e] →
      e.1 = 8192 + d → (∀ x ∈ rest, x.reply ≠ v.reply) →
      exec (.tlbinvRequest (8192 + d)) s = .next ((s.modPctl fun p => { p with invs := rest }).answer v.core v.reply {}))

/-- A sweep takes the sums of every running context; its result confirms a context quiet whose sums balance twice and are equal, answers its QUIESCE, and
settles an armed set whose conditions held twice; a set is armed once.
Where the spec leaves a point open it follows the model's readings: log 88, 89, 90. -/
def Obligations.SweepsSettleSets : Prop :=
  ∀ (ctx at_ : Nat) (l dealt : List Nat) (m : Msg) (s : State),
    (s.gtb.toNat % 3000 = 0 → s.pctl.sweep = none → (s.ni Config.srcPctl).inq = [] →
      (∀ c, (s.core c).health.missed = 0 ∧ s.answersSweep c = true) →
      exec .sweep s = .next (s.modPctl fun p => { p with sweep := some (Sweep.mk s.time
        (s.runningCtxs.map fun c => (c, s.sums c)) (s.dealtLaunches s.runningCtxs)) })) ∧
    (s.gtb.toNat % 3000 ≠ 0 → exec .sweep s = .next s) ∧
    (∀ q : Quiesce, s.pctl.sweep = some { at_, sums := [(ctx, l)], dealt } → (s.ctx ctx).st = .running → nth 0 l 0 = nth 0 l 1 →
      nth 0 l 2 = nth 0 l 3 → nth 0 l 4 = 0 → nth 0 l 5 = 1 → (s.ctx ctx).quiet = some (l.take 5) → (s.ctx ctx).launches = [] →
      (s.ctx ctx).quiesce = [q] → q.at_ ≤ at_ → (∀ i : Fin 16, ((s.ctx ctx).sets[i]).arm = false) →
      exec .sweepResult s = .next ((((s.modPctl fun p => { p with sweep := none }).modCtx ctx fun c => { c with quiesce := [] }).answer
        Config.srcPctl q.reply { w := BitVec.ofNat 64 at_ }).modCtx ctx fun c => { c with quiet := some (l.take 5) })) ∧
    (s.pctl.sweep = some { at_, sums := [(ctx, l)], dealt } → (s.ctx ctx).st = .running → nth 0 l 5 ≠ 1 →
      (∀ i : Fin 16, ((s.ctx ctx).sets[i]).arm = false) →
      exec .sweepResult s = .next ((s.modPctl fun p => { p with sweep := none }).modCtx ctx fun c => { c with quiet := none })) ∧
    (∀ (k : Fin 16) (e : SetEnt), s.pctl.sweep = some { at_, sums := [(ctx, l)], dealt } → (s.ctx ctx).st = .running → nth 0 l 0 = nth 0 l 1 →
      nth 0 l 2 = nth 0 l 3 → nth 0 l 4 = 0 → nth 0 l 5 = 0 → nth 0 l 6 = 1 → nth 0 l (7 + k.val) = 1 → (s.ctx ctx).sets[k] = e → e.arm = true →
      e.prev = some (l.take 5) → (s.ctx ctx).launches = [] → (∀ i : Fin 16, i ≠ k → ((s.ctx ctx).sets[i]).arm = false) →
      ∃ t, exec .sweepResult s = .next t ∧ ((t.ctx ctx).sets[k]).arm = false ∧
        t.mem = (((s.modPctl fun p => { p with sweep := none }).modCtx ctx fun c => { c with quiet := none }).fillVa ctx e.swa
          (BitVec.ofNat 64 e.nh)).mem) ∧
    (∀ (i : Fin 16) (nh swa pa p : Nat) (u v : State) (e : TlbEnt), Claim.Next s Config.srcPctl m (.settleArm i.val nh swa) →
      ((s.ctx m.ctx).sets[i]).arm = false → (s.takeMsg Config.srcPctl m).walk 0 m.ctx swa = (u, .inl e) →
      e.check .rw .sync swa u.panelId = .ok p pa → u.writeOwned pa (toBytes 8 0) m.ctx 0 none = (v, 0) →
      (v.core (sliceLcn pa)).waits = [] →
      exec .settleArm s = .next (((v.modMem fun x => x.setFull pa false).modCtx m.ctx fun c =>
        { c with sets := c.sets.set i { arm := true, nh, swa } }).answer Config.srcPctl m.reply {})) ∧
    (∀ (i : Fin 16) (nh swa : Nat), Claim.Next s Config.srcPctl m (.settleArm i.val nh swa) → ((s.ctx m.ctx).sets[i]).arm = true →
      exec .settleArm s = .next ((s.takeMsg Config.srcPctl m).answer Config.srcPctl m.reply { cause := 0x2E, info := 10 }))

/-- The dies' dealers and governors.
Where the spec leaves a point open it follows the model's readings: log 85, 86, 87. -/
def Obligations.DealersGovernor : Prop := Part.DealersCards ∧ Part.Governor

/-- Links and the fences of route changes.
Where the spec leaves a point open it follows the model's readings: log 95, 96. -/
def Obligations.LinksRemapFences : Prop := Part.LinksReplayRetrainFail ∧ Part.RemapFences

/-- An NI takes a request or a posted write whose number is the one expected, and expects the next; the credit of a posted write leaves with its
acceptance, or later when its bank or its deque may hold it back (R215); one that runs ahead gets a retry; a message of the system channel and a read of a line are taken as they come; a core that its context leaves keeps its messages in the parked-message ring.
Where the spec leaves a point open it follows the model's readings: log 14, 36, 38, 39, 92, 142. -/
def Obligations.MessagesAccepted : Prop :=
  ∀ (a k : Nat) (m : Msg) (s : State),
    (Claim.Arrives s a k m → m.search = false → m.isLine = false → m.vc = 0 → m.seq = (Claim.peer s a m).rx0 → m.seq < 2 ^ 21 →
      ((s.ni a).inq.filter fun x => x.vc == m.vc).length < 64 →
      ∃ t, exec (.messageAccept a k) s = .next t ∧ (t.ni a).inq = (s.ni a).inq ++ [{ m with late := false }] ∧ t.net = s.net.erase m ∧
        t.mem = s.mem ∧ (Claim.peer t a m).rx0 = (m.seq + 1) % 2 ^ 21 ∧ (Claim.peer t a m).rx2 = (Claim.peer s a m).rx2) ∧
    (Claim.Arrives s a k m → m.search = false → m.isLine = false → m.vc = 2 → m.seq = (Claim.peer s a m).rx2 → m.seq < 2 ^ 21 →
      ((s.ni a).inq.filter fun x => x.vc == m.vc).length < 64 →
      ∃ t, exec (.messageAccept a k) s = .next t ∧ (t.ni a).inq = (s.ni a).inq ++ [{ m with late := s.creditsLate a m }] ∧ t.mem = s.mem ∧
        (Claim.peer t a m).rx2 = (m.seq + 1) % 2 ^ 21 ∧ (Claim.peer t a m).rx0 = (Claim.peer s a m).rx0 ∧
        (s.creditsLate a m = true → t.net = s.net.erase m) ∧
        (s.creditsLate a m = false → m.spanel = s.panelId → ∃ z ∈ t.net, z.dest = m.src ∧ z.seq = m.seq ∧ z.vc = 1 ∧ z.body = .credit)) ∧
    (Claim.Arrives s a k m → m.apart = false → m.vc = 0 → seqGap m.seq (Claim.peer s a m).rx0 ≠ 0 → seqGap m.seq (Claim.peer s a m).rx0 < 2 ^ 20 →
      exec (.messageAccept a k) s = .next ((s.unsend m).nack a m { retry := true })) ∧
    (Claim.Arrives s a k m → m.seeks = true → m.vc = 0 → seqGap m.seq (Claim.peer s a m).rxs < 2 ^ 20 →
      ((s.ni a).inq.filter fun x => x.vc == m.vc).length < 64 →
      ∃ t, exec (.messageAccept a k) s = .next t ∧ (t.ni a).inq = (s.ni a).inq ++ [{ m with late := false }] ∧ t.net = s.net.erase m ∧
        t.mem = s.mem ∧ (Claim.peer t a m).rxs = (m.seq + 1) % 2 ^ 21 ∧ (Claim.peer t a m).rx0 = (Claim.peer s a m).rx0) ∧
    (Claim.Arrives s a k m → m.isLine = true → m.vc = 0 → ((s.ni a).inq.filter fun x => x.vc == m.vc).length < 64 →
      ∃ t, exec (.messageAccept a k) s = .next t ∧ (t.ni a).inq = (s.ni a).inq ++ [{ m with late := false }] ∧ t.net = s.net.erase m ∧
        t.mem = s.mem ∧ Claim.peer t a m = Claim.peer s a m) ∧
    (Claim.Arrives s a k m → m.vc = 3 →
      exec (.messageAccept a k) s = .next ((s.unsend m).modNi a fun n => { n with inq := n.inq ++ [m] })) ∧
    (∀ n, s.net = [m] → m.dest = a → m.dpanel = s.panelId → m.vc = 0 → a < 8192 → (s.core a).diverted = true →
      (s.core a).ctxid = m.ctx → s.reachable m = true → (s.core a).health.iso = false → (s.core a).ckpt.chk = none →
      m.apart = false → m.seq = (Claim.peer s a m).rx0 → m.seq < 2 ^ 21 → s.saveOf m.ctx a = some n →
      (Fmap.get {} s.pctl.saves n).bad = false → ringBytes ((Fmap.get {} s.pctl.saves n).ring ++ [m]) ≤ 262144 →
      ∃ t, exec (.messageDivert a) s = .next t ∧ t.net = [] ∧ (t.ni a).inq = (s.ni a).inq ∧ t.mem = s.mem ∧
        (Fmap.get {} t.pctl.saves n).ring = (Fmap.get {} s.pctl.saves n).ring ++ [m] ∧ (Claim.peer t a m).rx0 = (m.seq + 1) % 2 ^ 21)

/-- A pre-emption stops the context's cores die by die; a context that does not run cannot be pre-empted (0x11, information 0x2B); once every engine of
every core has acknowledged, the context is saved, its cores are free, and the asker gets their number; a context that cannot be restored answers 0x11 with
information 0x2C, one that can runs again.
Where the spec leaves a point open it follows the model's readings: log 91, 92, 93, 94. -/
def Obligations.PreemptionRestore : Prop :=
  ∀ (d c : Nat) (m : Msg) (r : Reply) (s : State),
    (Claim.Sole s Config.srcPctl m (.preempt c) → (s.ctx c).st = .running →
      ∃ t, exec (.preemptStop d) s = .next t ∧ (t.ctx c).st = .stopping ∧ (t.ctx c).waiter = some m.reply ∧ t.mem = s.mem ∧
        ∀ l ∈ s.ctxCores c, dieOf l = d → (s.core l).ctxid = c →
          (t.core l).stopping = some c ∧ (t.core l).steal.active = false ∧ ((s.core l).mt = none → (t.core l).diverted = true)) ∧
    (Claim.Sole s Config.srcPctl m (.preempt c) → (s.ctx c).st ≠ .running → s.stoppingCtxs = [] →
      exec (.preemptStop d) s = .next ((s.takeMsg Config.srcPctl m).answer Config.srcPctl m.reply
        { cause := 0x11, info := 0x2B })) ∧
    (s.stoppingCtxs = [c] → s.ctxStopped c = false → exec .preemptComplete s = .next s) ∧
    (s.stoppingCtxs = [c] → s.ctxStopped c = true → (s.ctx c).waiter = some r → r.vc = 0 → r.panel = s.panelId →
      ∃ t, exec .preemptComplete s = .next t ∧ (t.ctx c).st = .saved ∧ (t.ctx c).waiter = none ∧
        (∀ l ∈ s.ctxCores c, ((s.ctx c).ccnOf l).isSome = true → (t.core l).ctxid = 0) ∧
        ∃ a ∈ t.net, a.dest = r.src ∧ a.body = .resp 0 { w := word (s.ctxCores c).length }) ∧
    (Claim.Sole s Config.srcPctl m (.resume c) → s.canRestore c = false →
      exec .contextRestore s = .next ((s.takeMsg Config.srcPctl m).answer Config.srcPctl m.reply
        { cause := 0x11, info := 0x2C })) ∧
    (Claim.Sole s Config.srcPctl m (.resume c) → s.canRestore c = true → c < 4096 → m.vc = 0 → m.spanel = s.panelId →
      ∃ t, exec .contextRestore s = .next t ∧ (t.ctx c).st = .running ∧
        (∀ n ∈ s.ccns c, ∀ l, (s.ctx c).lcnOf n = some l → (t.core l).ctxid = c) ∧
        ∃ a ∈ t.net, a.dest = m.src ∧ a.body = .resp 0 { w := word (s.ccns c).length })

/-- Barriers: the instructions and the wires.
Where the spec leaves a point open it follows the model's readings: log 107, 108. -/
def Obligations.BarriersCauseway : Prop := Part.Barriers ∧ Part.BarrierWires

/-- Checkpoints and containment.
Where the spec leaves a point open it follows the model's readings: log 98, 99, 100, 101, 102, 103. -/
def Obligations.CheckpointsContainment : Prop := Part.Checkpoints ∧ Part.ContainmentSteps

/-- A reset leaves every register, table and link at its reset value, and what the self-test found: harvest maps, the LPT they give, a report 0x3E for each
core that failed; a warm reset keeps HBM. A die at 105 °C or an input below 46 V stops the panel; a condition held for 100 ms pre-empts every running context,
and one cleared for 10 s lets them go on.
Where the spec leaves a point open it follows the model's readings: log 104, 105, 106. -/
def Obligations.ResetsPowerCooling : Prop :=
  ∀ (bad : List Nat) (s : State),
    (∃ t, exec (.powerOnReset bad) s = .next t ∧ t.panelId = s.panelId ∧ t.cores = [] ∧ t.nis = [] ∧ t.net = [] ∧ t.mem = {} ∧ t.gtb = 0 ∧
      t.pctl.ctxs = [] ∧ t.fab = {} ∧ t.stopped = false ∧
      (∀ p, p < 9216 → (t.die (p / 36)).hmap.getLsbD (p % 36) = !bad.contains p) ∧
      (∀ d, d < 256 → (t.die d).lpt = lptOf (t.die d).hmap) ∧
      ∀ p ∈ bad, p < 9216 → ∃ x ∈ t.pctl.packets, x.cause = 0x3E ∧ x.info = word p) ∧
    (∃ t, exec (.warmReset bad) s = .next t ∧ t.cores = [] ∧ t.nis = [] ∧ t.net = [] ∧ t.gtb = 0 ∧ t.pctl.ctxs = [] ∧ t.fab = {} ∧
      t.mem.bytes = (s.mem.bytes.filter fun x => spaceOf x.1 == 2) ∧ t.mem.fe = [] ∧ t.mem.psn = [] ∧
      ∀ p, p < 9216 → (t.die (p / 36)).hmap.getLsbD (p % 36) = !bad.contains p) ∧
    (∀ i f v h, ∃ t, exec (.environmentSample i f v h) s = .next t ∧ t.pctl.env = some (i, f, v, h) ∧ t.mem = s.mem ∧ t.cores = s.cores ∧
      t.stopped = (s.stopped || decide (105 ≤ h) || decide (v < 46)) ∧
      (45 < i ∨ f < 16 ∨ v < 50 → t.pctl.badAt = some (s.pctl.badAt.getD s.time) ∧ t.pctl.goodAt = none) ∧
      (¬(45 < i ∨ f < 16 ∨ v < 50) → t.pctl.goodAt = some (s.pctl.goodAt.getD s.time) ∧ t.pctl.badAt = none)) ∧
    (∀ n, s.pctl.hold = false → s.pctl.badAt = some n → n + 150000000 ≤ s.time →
      ∃ t, exec .thermalHold s = .next t ∧ t.pctl.hold = true ∧ t.pctl.held = s.runningCtxs ∧ t.mem = s.mem ∧
        ∀ c ∈ s.runningCtxs, (t.ctx c).st = .stopping) ∧
    (∀ n, s.pctl.badAt = some n → s.time < n + 150000000 → exec .thermalHold s = .next s) ∧
    (∀ n c, s.pctl.hold = true → s.pctl.goodAt = some n → n + 15000000000 ≤ s.time → s.pctl.held = [c] → s.canRestore c = true →
      ∃ t, exec .thermalResume s = .next t ∧ t.pctl.hold = false ∧ t.pctl.held = [] ∧ (t.ctx c).st = .running) ∧
    (∀ n, s.pctl.goodAt = some n → s.time < n + 15000000000 → exec .thermalResume s = .next s)

/-- The fabric: ports, time, ingress, fences.
Where the spec leaves a point open it follows the model's readings: log 109, 110, 111, 112. -/
def Obligations.FabricSide : Prop := Part.WelkinPortsTime ∧ Part.IngressFabricFences

/-- The host bridges.
Where the spec leaves a point open it follows the model's readings: log 112, 115, 116. -/
def Obligations.HostSide : Prop := Part.HostTransfers ∧ Part.HostSendsFailures

/-- Groups: the instructions, the anchors, the tree.
Where the spec leaves a point open it follows the model's readings: log 113, 114. -/
def Obligations.GroupsCollectives : Prop := Part.GroupInstructions ∧ Part.GroupAgents

/-- A scalar instruction that ends in sequence, with no bound register among its operands, changes nothing but its destination registers and guards, and STEALDOM its
system register: no other thread, core or agent, no memory, no pending mark, no loop, no event, no vector register. -/
def Obligations.ScalarFrame : Prop :=
  ∀ (i : Instr) (s t : State), Claim.scalar i = true → (∀ r ∈ i.uses.rx ++ i.uses.wx, s.thr.bind r = none) → exec i s = .next t →
    t.thr.ctl = .seq →
    t = { s with cores := t.cores } ∧ (∀ l, l ≠ s.cur.lcn → t.core l = s.core l) ∧
    t.me = { s.me with slots := t.me.slots, sysr := t.me.sysr } ∧
    (∀ k : Fin 16, k ≠ s.cur.slot → t.slot s.cur.lcn k = s.slot s.cur.lcn k) ∧
    t.thr = { s.thr with regs := { s.thr.regs with x := t.thr.regs.x, g := t.thr.regs.g }, ctl := .seq } ∧
    (∀ r : Fin 32, r ∉ i.uses.wx → t.thr.regs.x[r] = s.thr.regs.x[r]) ∧ (∀ r : Fin 16, r ∉ i.uses.wg → t.thr.regs.g[r] = s.thr.regs.g[r]) ∧
    (∀ n, n ≠ 3 → t.me.sys n = s.me.sys n) ∧ ((∀ gd x, i ≠ .stealdom gd x) → t.me.sysr = s.me.sysr)

/-- An access served at its home changes no register of any thread and no system register, and no byte or full mark outside the bytes that it names. -/
def Obligations.HomeFrame : Prop :=
  ∀ (core slot pa n : Nat) (m : Msg) (op : MemOp) (i : Instr) (s t : State), s.Inv → (s.core core).waits = [] → 0 < n →
    pa % n = 0 → 8 % n = 0 → op.bytes.1 = n → Claim.Access s core m pa n op slot → (∀ k : Fin 16, (s.slot core k).path = []) →
    i ∈ [Instr.loadHandler core, .storeHandler core, .atomicHandler core, .ldwHandler core, .ldtHandler core, .stfHandler core,
      .stwHandler core, .lrqHandler core, .scqHandler core, .relqHandler core] → exec i s = .next t →
    (∀ (l : Nat) (k : Fin 16), (t.slot l k).regs = (s.slot l k).regs ∧ (t.slot l k).loops = (s.slot l k).loops ∧
      (t.slot l k).binds = (s.slot l k).binds) ∧
    (∀ l : Nat, (t.core l).sysr = (s.core l).sysr) ∧
    (∀ a : Nat, a < pa ∨ pa + n ≤ a → t.mem.byte a = s.mem.byte a) ∧ (∀ a : Nat, a / 8 ≠ pa / 8 → t.mem.full a = s.mem.full a)

/-- A register bound to a private queue: an instruction that reads it takes the head of the queue, once however often it names it; one that writes it pushes
its result and leaves the register; an empty or a full queue parks it, and the wrong direction faults with 0x27, reason 10.
Where the spec leaves a point open it follows the model's readings: log 45. -/
def Obligations.BoundRegisters : Prop :=
  ∀ (a : Alu) (q : Fin 4) (b : Bind) (w : Word) (rest : List QWord) (s : State), a.w = false → a.gd = ⟨0, false⟩ →
    (∀ r : Fin 32, s.thr.regs.xp[r].n = 0) → (∀ k : Fin 16, (s.slot s.cur.lcn k).late = []) → s.me.vecMemQueued s.cur.slot.val = false →
    (s.thr.bind a.s1 = some b → b.push = false → b.ep = .pqF q → b.pf = false → s.thr.bind a.d = none → (∀ v, a.src = .imm v →
      s.me.links.pqF[q] = ⟨w, false⟩ :: rest →
      ∃ t, exec (.add a) s = .next t ∧ t.me.links.pqF[q] = rest ∧ t.mem = s.mem ∧ Claim.x t a.d = (if a.d = 0 then 0 else w + v.signExtend 64) ∧
        ∀ r : Fin 32, r ≠ a.d → t.thr.regs.x[r] = s.thr.regs.x[r])) ∧
    (s.thr.bind a.s1 = some b → b.push = false → b.ep = .pqF q → b.pf = false → s.thr.bind a.d = none → a.src = .reg a.s1 →
      s.me.links.pqF[q] = ⟨w, false⟩ :: rest →
      ∃ t, exec (.add a) s = .next t ∧ t.me.links.pqF[q] = rest ∧ Claim.x t a.d = (if a.d = 0 then 0 else w + w)) ∧
    (s.thr.bind a.s1 = some b → b.push = false → b.ep = .pqF q → s.me.links.pqF[q] = [] →
      exec (.add a) s = .next (s.begin.modThr fun t => t.parkRetry .qEmpty)) ∧
    (s.thr.bind a.d = some b → b.push = true → b.ep = .pqF q → s.thr.bind a.s1 = none → (∀ v, a.src = .imm v →
      s.me.links.pqF[q].length < 32 →
      ∃ t, exec (.add a) s = .next t ∧ t.me.links.pqF[q] = s.me.links.pqF[q] ++ [⟨Claim.x s a.s1 + v.signExtend 64, false⟩] ∧
        t.thr.regs.x = s.thr.regs.x ∧ t.mem = s.mem)) ∧
    (s.thr.bind a.d = some b → b.push = true → b.ep = .pqF q → s.thr.bind a.s1 = none → (∀ v, a.src = .imm v →
      32 ≤ s.me.links.pqF[q].length → exec (.add a) s = .next (s.begin.modThr fun t => t.parkRetry .qFull))) ∧
    (s.thr.bind a.s1 = some b → b.push = true → exec (.add a) s = .next (s.begin.takeFault ⟨0x27, 10, 0⟩))

/-- A step makes the next move of the agenda. An issue runs the instruction that the line at the PC decodes to, alone or as a pair, and then moves on in sequence, along a
loop or to the target; an agent's move runs that agent's step; on a stopped panel only a power-on reset is a move.
Where the spec leaves a point open it follows the model's readings: log 15. -/
def Obligations.StepRunsDecoded : Prop :=
  ∀ (l : Nat) (mt : Bool) (k : Fin 16) (x : Line) (i j : Instr) (rest : List Move) (s u : State), s.stopped = false →
    u = ({ s with agenda := rest } : State).recheckCore l →
    (s.agenda = .issue l mt :: rest → Claim.Turn u l mt k → (u.core l).line? (u.slot l k).pc = some x → Claim.Legal u l k x →
      pairFirst (linePair x.data) (slotIdx (u.slot l k).pc) = false → decode (lineSlot x.data (slotIdx (u.slot l k).pc)) = .ok i →
      ∀ v t, v = Claim.issuing u l k (u.slot l k).pc (u.slot l k).pc (lineSwm x.data (slotIdx (u.slot l k).pc)) → exec i v = .next t →
        (t.thr.ctl.goes = true → step s = .next ((v.finish t t.thr.ctl.taken).issued l k)) ∧
        (t.thr.ctl.goes = false → step s = .next (t.issued l k))) ∧
    (s.agenda = .issue l mt :: rest → Claim.Turn u l mt k → (u.core l).line? (u.slot l k).pc = some x → Claim.Legal u l k x →
      pairFirst (linePair x.data) (slotIdx (u.slot l k).pc) = true → sparOk x.data (slotIdx (u.slot l k).pc + 1) = true →
      x.badAt (slotIdx (u.slot l k).pc + 1) = none →
      decode (lineSlot x.data (slotIdx (u.slot l k).pc)) = .ok i → decode (lineSlot x.data (slotIdx (u.slot l k).pc + 1)) = .ok j →
      ∀ v t w, v = Claim.issuing u l k (u.slot l k).pc (nextSlot (u.slot l k).pc)
          (lineSwm x.data (slotIdx (u.slot l k).pc) || lineSwm x.data (slotIdx (u.slot l k).pc + 1)) →
        v.me.pairOk v.cur.slot i j = true → v.early i = none → v.early j = none → exec i v = .next t → t.thr.ctl.goes = true →
        exec j (t.atSlot (nextSlot (u.slot l k).pc)) = .next w → w.thr.ctl.goes = true →
        step s = .next ((v.finish w w.thr.ctl.taken).issued l k)) ∧
    (∀ r, s.agenda = .issue l mt :: rest → Claim.Turn u l mt k → (u.core l).line? (u.slot l k).pc = some x → Claim.Legal u l k x →
      pairFirst (linePair x.data) (slotIdx (u.slot l k).pc) = false → decode (lineSlot x.data (slotIdx (u.slot l k).pc)) = .error r →
      step s = .next (((Claim.issue u l k (u.slot l k).pc (u.slot l k).pc (lineSwm x.data (slotIdx (u.slot l k).pc))).takeFault
        (mkCause 0x01 (decodeInfo (lineSlot x.data (slotIdx (u.slot l k).pc)) r) 0)).issued l k)) ∧
    (s.agenda = .issue l false :: rest → (u.core l).portAt = some u.time ∨ u.workerTurn l = none → step s = .next u) ∧
    (s.agenda = .ev i :: rest → step s = exec i { s with agenda := rest }) ∧
    (∀ z : State, z.stopped = true → z.agenda = .issue l mt :: rest → step z = .fault .emergencyStopped)

/-- For every well-formed instruction of the slots, the decoder reads back from its encoding that instruction, with every operand.
Where the spec leaves a point open it follows the model's readings: log 117. -/
def Obligations.DecodeEncode : Prop :=
  ∀ i : Instr, i.wf = true → decode (encode i) = .ok i

/-- Every step keeps the canonical form of memory: addresses and marks strictly rise, and no byte is listed that reads as an unlisted one. -/
def Obligations.StepKeepsInv : Prop :=
  ∀ s t : State, s.Inv → step s = .next t → t.Inv

/-- After reset the invariant holds; every word of every slice is 0, empty and not poisoned; the worker rotation stands at 14; every slot is idle; STEALLIM is 4 and
every other system register 0; tiles hold +0 with tag 0, no counts and no taint; the arbiters' pointers and the panel map are 0. -/
def Obligations.ResetState : Prop :=
  State.reset.Inv ∧
  (∀ a : Nat, State.reset.mem.byte a = 0 ∧ State.reset.mem.full a = false ∧ State.reset.mem.poisoned a = false) ∧
  (∀ l : Nat, (State.reset.core l).lastW = 14 ∧ (∀ k : Fin 16, (State.reset.slot l k).state = .idle) ∧ (State.reset.core l).sys 3 = 4 ∧
    (∀ n, n ≠ 3 → (State.reset.core l).sys n = 0) ∧
    ∀ z : Fin 8, (State.reset.core l).meng.tiles[z].e = Vector.replicate 1024 0 ∧ (State.reset.core l).meng.tiles[z].tag = 0 ∧
      (State.reset.core l).meng.tiles[z].tnt = false ∧ (State.reset.core l).meng.tiles[z].ctr = {}) ∧
  (∀ n : Nat, (State.reset.cluster n).p = 0) ∧ ∀ p : Fin 64, State.reset.fab.pmap[p] = 0

/-- R109: the words that decode to NOP are those of opcode 0x01 with VAR 0 and nothing but a guard in any other field; NOP has no effect, whatever its guard; it is of
class S, and two of them pair. -/
def Obligations.NopHasNoEffect : Prop :=
  (∀ (w : BitVec 96) (gd : Guard), decode w = .ok (.nop gd) ↔ gd.wf = true ∧ w = Claim.word 0x01 0 gd 0 0 0) ∧
  (∀ (gd : Guard) (b : Bool) (s : State), s.thr.gate gd = some b → exec (.nop gd) s = .next s.begin) ∧
  pairClass 0x01 = .s ∧ ∀ (gd gd' : Guard) (c : Machine.Core) (k : Fin 16), c.pairOk k (.nop gd) (.nop gd') = true

/-- R80: the immediate forms of SLL, SRL and SRA shift by IMM32, which lies below 64, or below 32 for `.W`; a larger value is rejected with reason 4, and the slot that
issues it takes fault 0x01 with that reason; the register forms shift by the low bits of x[S2]. -/
def Obligations.ShiftAmounts : Prop :=
  ∀ (op : Nat) (mk : Alu → Instr) (f64 : Word → Nat → Word) (f32 : BitVec 32 → Nat → BitVec 32),
    (op = 0x15 ∧ mk = .sll ∧ f64 = (fun x n => x <<< n) ∧ f32 = fun x n => x <<< n) ∨
      (op = 0x16 ∧ mk = .srl ∧ f64 = (fun x n => x >>> n) ∧ f32 = fun x n => x >>> n) ∨
      (op = 0x17 ∧ mk = .sra ∧ f64 = (fun x n => x.sshiftRight n) ∧ f32 = fun x n => x.sshiftRight n) →
    (∀ (w : Bool) (gd : Guard) (d s1 : Fin 32) (i : BitVec 32), gd.wf = true → i.toNat < (if w then 32 else 64) →
      decode (Claim.word op (if w then 6 else 7) gd d s1 i) = .ok (mk ⟨gd, w, d, s1, .imm i⟩)) ∧
    (∀ (w : Bool) (gd : Guard) (d s1 : Fin 32) (i : BitVec 32), gd.wf = true → (if w then 32 else 64) ≤ i.toNat →
      ∃ r, decode (Claim.word op (if w then 6 else 7) gd d s1 i) = .error r ∧ r.reason = 4) ∧
    (∀ (w : Bool) (gd : Guard) (d s1 : Fin 32) (i : BitVec 32) (l : Nat) (mt : Bool) (k : Fin 16) (x : Line) (rest : List Move) (s u : State),
      gd.wf = true → (if w then 32 else 64) ≤ i.toNat → s.stopped = false →
      u = ({ s with agenda := rest } : State).recheckCore l → s.agenda = .issue l mt :: rest → Claim.Turn u l mt k → (u.core l).line? (u.slot l k).pc = some x → Claim.Legal u l k x →
      pairFirst (linePair x.data) (slotIdx (u.slot l k).pc) = false →
      lineSlot x.data (slotIdx (u.slot l k).pc) = Claim.word op (if w then 6 else 7) gd d s1 i →
      ∃ info, info % 256 = 4 ∧ step s = .next (((Claim.issue u l k (u.slot l k).pc (u.slot l k).pc
        (lineSwm x.data (slotIdx (u.slot l k).pc))).takeFault (mkCause 0x01 info 0)).issued l k)) ∧
    (∀ (gd : Guard) (d s1 : Fin 32) (i : BitVec 32) (s : State), i.toNat < 64 → s.Ready (mk ⟨gd, false, d, s1, .imm i⟩).uses →
      exec (mk ⟨gd, false, d, s1, .imm i⟩) s = .next (Claim.setX s d (f64 (Claim.x s s1) i.toNat))) ∧
    (∀ (gd : Guard) (d s1 : Fin 32) (i : BitVec 32) (s : State), i.toNat < 32 → s.Ready (mk ⟨gd, true, d, s1, .imm i⟩).uses →
      exec (mk ⟨gd, true, d, s1, .imm i⟩) s = .next (Claim.setX s d ((f32 ((Claim.x s s1).setWidth 32) i.toNat).signExtend 64))) ∧
    (∀ (gd : Guard) (d s1 s2 : Fin 32) (s : State), s.Ready (mk ⟨gd, false, d, s1, .reg s2⟩).uses →
      exec (mk ⟨gd, false, d, s1, .reg s2⟩) s = .next (Claim.setX s d (f64 (Claim.x s s1) ((Claim.x s s2).toNat % 64)))) ∧
    (∀ (gd : Guard) (d s1 s2 : Fin 32) (s : State), s.Ready (mk ⟨gd, true, d, s1, .reg s2⟩).uses →
      exec (mk ⟨gd, true, d, s1, .reg s2⟩) s =
        .next (Claim.setX s d ((f32 ((Claim.x s s1).setWidth 32) ((Claim.x s s2).toNat % 32)).signExtend 64)))

/-- R81: LI is the opcode 0x22 of format I with VAR 0, FN10 0 and D below 32; x[D] takes the 64-bit immediate. -/
def Obligations.LoadsItsImmediate : Prop :=
  (∀ (w : BitVec 96) (gd : Guard) (d : Fin 32) (imm : Word), decode w = .ok (.li gd d imm) ↔
    gd.wf = true ∧ w = Claim.word 0x22 0 gd d 0 0 + imm.setWidth 96) ∧
  ∀ (gd : Guard) (d : Fin 32) (imm : Word) (s : State), s.Ready (Instr.li gd d imm).uses →
    exec (.li gd d imm) s = .next (Claim.setX s d imm)

/-- R84: TST is the opcode 0x41 with VAR 3 or 7 and a sense in M8[0]; its guard becomes whether x[S1] and b share a bit, or share none, where b is x[S2] or the
immediate, sign-extended. -/
def Obligations.TestWritesGuard : Prop :=
  (∀ (w : BitVec 96) (gd : Guard) (z : Bool) (d : Fin 16) (s1 s2 : Fin 32), decode w = .ok (.tst gd z d s1 (.reg s2)) ↔
    gd.wf = true ∧ w = Claim.word 0x41 3 gd (Fin.ofNat 32 d.val) s1 0 + BitVec.ofNat 96 (s2.val * 2 ^ 62 + z.toNat * 2 ^ 48)) ∧
  (∀ (w : BitVec 96) (gd : Guard) (z : Bool) (d : Fin 16) (s1 : Fin 32) (imm : BitVec 32), decode w = .ok (.tst gd z d s1 (.imm imm)) ↔
    gd.wf = true ∧ w = Claim.word 0x41 7 gd (Fin.ofNat 32 d.val) s1 imm + BitVec.ofNat 96 (z.toNat * 2 ^ 48)) ∧
  (∀ (gd : Guard) (d : Fin 16) (s1 : Fin 32) (src : Src) (s : State), s.Ready (Instr.tst gd false d s1 src).uses →
    exec (.tst gd false d s1 src) s = .next (Claim.setG s d (Claim.x s s1 &&& Claim.y s src != 0))) ∧
  ∀ (gd : Guard) (d : Fin 16) (s1 : Fin 32) (src : Src) (s : State), s.Ready (Instr.tst gd true d s1 src).uses →
    exec (.tst gd true d s1 src) s = .next (Claim.setG s d (!(Claim.x s s1 &&& Claim.y s src != 0)))

/-- Words written out from the spec's encodings, most of them its own examples, decode to the instructions that they stand for: ADD under a negated guard (Example
3.3), a jump backwards, LI, CMP.LTU.W, LOOPI, LD, AMO.CAS.W.AQ (Chapter 8), STF (Example 16.1), WRSYS, VADD.RTZ, AMCALL (Example 18.1), MMA.AD (Example 11.2), REFCHK
(Example 12.3), LAUNCH (Example 14.1), RDLPT (Example 13.2), BARWAIT (Example 15.4), GRPRED.SUM (Chapter 17), FREMAP; an all-zero slot is rejected. -/
def Obligations.DecodedWords : Prop :=
  decode 0x102B14A2C000000000000000 = .ok (.add ⟨⟨2, true⟩, false, 5, 10, .reg 11⟩) ∧
  decode 0x02000000000000FFFFFFFFF8 = .ok (.j ⟨0, false⟩ 0xFFFFFFFFF8) ∧
  decode 0x22001C00123456789ABCDEF0 = .ok (.li ⟨0, false⟩ 7 0x123456789ABCDEF0) ∧
  decode 0x400610500004000000000064 = .ok (.cmp ⟨0, false⟩ true .ltu 4 5 (.imm 100)) ∧
  decode 0x080100000000180000000003 = .ok (.loopi ⟨0, false⟩ 1 24 3) ∧
  decode 0x600718200000000000000010 = .ok (.ld ⟨⟨0, false⟩, 3, 6, 2, .imm 16⟩) ∧
  decode 0x6C0215418789000000000000 = .ok (.amo ⟨0, false⟩ true .cas true false 5 20 (.reg 6) 7) ∧
  decode 0x670701400500000000000000 = .ok (.stf ⟨⟨0, false⟩, 3, 5, 20, .imm 0⟩) ∧
  decode 0x0D0100800000000000000003 = .ok (.wrsys ⟨0, false⟩ 3 8) ∧
  decode 0x80000420C000000100000000 = .ok (.vadd ⟨⟨0, false⟩, 1, 2, .v 3, .rtz⟩) ∧
  decode 0xB60000C00000000000001040 = .ok (.amcall ⟨0, false⟩ 12 0 0x40 16) ∧
  decode 0xC10004000001002000000000 = .ok (.mma ⟨0, false⟩ 1 0 1 ⟨false, false, true⟩) ∧
  decode 0xDE0008A00000000000000000 = .ok (.refchk ⟨0, false⟩ 2 10) ∧
  decode 0xE00058A00000000000000000 = .ok (.launch ⟨0, false⟩ 22 10) ∧
  decode 0xE50114600000000000000001 = .ok (.rdlpt ⟨0, false⟩ 5 6 true) ∧
  decode 0xEA000C100000000000000BB8 = .ok (.barwait ⟨0, false⟩ 3 1 3000) ∧
  decode 0xF2000D410000000000000000 = .ok (.grpred ⟨0, false⟩ .sum 3 20 4) ∧
  decode 0xF5000420C000000000000000 = .ok (.fremap ⟨0, false⟩ 1 2 3) ∧
  (∃ r, decode 0 = .error r)

end
end

