-- ==== Sys2Proof/Laws/Encoding.lean ====
section
/-! SUPPORT. The fields a word of the encoder gives back to the decoder (R60-R68): header, format A, C, E and
I fields, register fields, values, and the packed operands of single instructions. -/

namespace Sys2Proof
@[simp] theorem Hdr.ofBits_append (h : Hdr) (x : BitVec 80) : Hdr.ofBits (h.bits ++ x : BitVec 96) = h := by
  cases h
  simp only [Hdr.ofBits, Hdr.bits, Hdr.mk.injEq]
  refine ⟨?_, ?_, ?_, ?_⟩ <;> (apply BitVec.eq_of_getLsbD_eq; intro i hi; simp; try grind)
@[simp] theorem FA.ofBits_append (h : BitVec 16) (f : FA) : FA.ofBits (h ++ f.bits : BitVec 96) = f := by
  cases f
  simp only [FA.ofBits, FA.bits, FA.mk.injEq]
  refine ⟨?_, ?_, ?_, ?_, ?_, ?_, ?_⟩ <;> (apply BitVec.eq_of_getLsbD_eq; intro i hi; simp; try grind)
@[simp] theorem FI.ofBits_append (h : BitVec 16) (f : FI) : FI.ofBits (h ++ f.bits : BitVec 96) = f := by
  cases f
  simp only [FI.ofBits, FI.bits, FI.mk.injEq]
  refine ⟨?_, ?_, ?_⟩ <;> (apply BitVec.eq_of_getLsbD_eq; intro i hi; simp; try grind)
@[simp] theorem FC.ofBits_append (h : BitVec 16) (f : FC) : FC.ofBits (h ++ f.bits : BitVec 96) = f := by
  cases f
  simp only [FC.ofBits, FC.bits, FC.mk.injEq]
  refine ⟨?_, ?_, ?_, ?_, ?_⟩ <;> (apply BitVec.eq_of_getLsbD_eq; intro i hi; simp; try grind)
@[simp] theorem FE.ofBits_append (h : BitVec 16) (f : FE) : FE.ofBits (h ++ f.bits : BitVec 96) = f := by
  cases f
  simp only [FE.ofBits, FE.bits, FE.mk.injEq]
  refine ⟨?_, ?_, ?_, ?_, ?_, ?_, ?_, ?_⟩ <;> (apply BitVec.eq_of_getLsbD_eq; intro i hi; simp; try grind)
@[simp] theorem Hdr.guard_mk (op : BitVec 8) (g : Guard) (var : BitVec 3) :
    Hdr.guard ⟨op, BitVec.ofFin g.g, BitVec.ofBool g.neg, var⟩ = g := by
  cases g with
  | mk g n =>
    simp only [Hdr.guard, Guard.mk.injEq]
    refine ⟨?_, ?_⟩
    · rfl
    · cases n <;> rfl
@[simp] theorem reg_fld (n : Nat) (r : Fin (n + 1)) (h : n < 64) : reg n (fld r) = r := by
  apply Fin.ext
  have := r.isLt
  simp [reg, fld]
  rw [Nat.mod_eq_of_lt (by omega : r.val < 64)]
  exact Nat.mod_eq_of_lt this
@[simp] theorem inFile_fld (n : Nat) (r : Fin n) (h : n ≤ 64) : inFile n (fld r) = true := by
  have := r.isLt
  simp [inFile, fld]
  omega


theorem decode_of {w : BitVec 96} {i : Instr} (hp : parse w = .ok false false false false i) (hg : (Hdr.ofBits w).guard.wf = true) :
    decode w = .ok i := by simp [decode, hp, hg]


@[simp] theorem ofNat4 (g : Fin 16) : BitVec.ofNat 4 g.val = BitVec.ofFin g := by
  apply BitVec.eq_of_toNat_eq; simp

@[simp] theorem toNat_zext {w : Nat} (x : BitVec w) (h : w ≤ 32) : (BitVec.zeroExtend 32 x).toNat = x.toNat := by
  have := x.isLt
  have : 2 ^ w ≤ 2 ^ 32 := Nat.pow_le_pow_right (by omega) h
  simp; omega
@[simp] theorem low_zext {w : Nat} (x : BitVec w) (h : w ≤ 32) : (BitVec.zeroExtend 32 x).extractLsb' 0 w = x := by
  apply BitVec.eq_of_toNat_eq
  rw [BitVec.extractLsb'_toNat, toNat_zext x h]
  simp
@[simp] theorem toNat_imm16 (x : BitVec 16) : (imm16 x).toNat = x.toNat := toNat_zext x (by omega)
@[simp] theorem low_imm16 (x : BitVec 16) : (imm16 x).extractLsb' 0 16 = x := low_zext x (by omega)
@[simp] theorem lt16 (x : BitVec 16) : x.toNat < 65536 := x.isLt
@[simp] theorem lt12 (x : BitVec 12) : x.toNat < 4096 := x.isLt
@[simp] theorem lt8 (x : BitVec 8) : x.toNat < 256 := x.isLt
@[simp] theorem mod32_16 (x : BitVec 16) : x.toNat % 4294967296 = x.toNat := by omega
@[simp] theorem mod32_12 (x : BitVec 12) : x.toNat % 4294967296 = x.toNat := by omega
@[simp] theorem mod32_8 (x : BitVec 8) : x.toNat % 4294967296 = x.toNat := by omega
@[simp] theorem mod8_4 (x : BitVec 4) : x.toNat % 256 = x.toNat := by omega
@[simp] theorem low_set4 (x : BitVec 4) : (BitVec.setWidth 8 x).extractLsb' 0 4 = x := by
  apply BitVec.eq_of_toNat_eq; simpa using x.isLt
@[simp] theorem low_set8 (x : BitVec 8) : (BitVec.setWidth 32 x).extractLsb' 0 8 = x := low_zext x (by omega)
@[simp] theorem low_set12 (x : BitVec 12) : (BitVec.setWidth 32 x).extractLsb' 0 12 = x := low_zext x (by omega)
@[simp] theorem imm16_bit0 (x : BitVec 16) : (imm16 x)[0] = decide (x.toNat % 2 = 1) := by
  simp only [imm16, BitVec.getElem_eq_testBit_toNat, toNat_zext x (by omega : 16 ≤ 32)]
  simp [Nat.testBit_zero]
theorem fork_fields (t j : BitVec 6) (dom : Fin 8) (pri : Fin 4) :
    (forkFn t j dom pri).extractLsb' 0 6 = j ∧ (forkFn t j dom pri).extractLsb' 12 6 = t ∧
    (forkFn t j dom pri).extractLsb' 18 6 = 0 ∧ (forkFn t j dom pri).getLsbD 11 = false ∧
    Fin.ofNat 8 ((forkFn t j dom pri).extractLsb' 8 3).toNat = dom ∧ Fin.ofNat 4 ((forkFn t j dom pri).extractLsb' 6 2).toNat = pri := by
  have h8 : (forkFn t j dom pri).extractLsb' 8 3 = BitVec.ofNat 3 dom.val := by
    unfold forkFn; generalize BitVec.ofNat 2 pri.val = p; generalize BitVec.ofNat 3 dom.val = q
    apply BitVec.eq_of_getLsbD_eq; intro i hi; simp only [BitVec.getLsbD_extractLsb', BitVec.getLsbD_append, hi]; simp; try grind
  have h6 : (forkFn t j dom pri).extractLsb' 6 2 = BitVec.ofNat 2 pri.val := by
    unfold forkFn; generalize BitVec.ofNat 2 pri.val = p; generalize BitVec.ofNat 3 dom.val = q
    apply BitVec.eq_of_getLsbD_eq; intro i hi; simp only [BitVec.getLsbD_extractLsb', BitVec.getLsbD_append, hi]; simp; try grind
  rw [h8, h6]
  refine ⟨?_, ?_, ?_, ?_, ?_, ?_⟩
  · unfold forkFn; apply BitVec.eq_of_getLsbD_eq; intro i hi; simp; try grind
  · unfold forkFn; apply BitVec.eq_of_getLsbD_eq; intro i hi; simp; try grind
  · unfold forkFn; apply BitVec.eq_of_getLsbD_eq; intro i hi; simp; try grind
  · unfold forkFn; simp; try grind
  · apply Fin.ext; simp
  · apply Fin.ext; simp
@[simp] theorem lt4 (x : BitVec 4) : x.toNat < 16 := x.isLt
@[simp] theorem badSh_zero : badSh 0#4 = false := rfl
@[simp] theorem fld_zero (n : Nat) : fld (0 : Fin (n + 1)) = 0#6 := rfl
@[simp] theorem badSh_fin (k : Fin 8) : badSh (BitVec.ofNat 4 k.val) = false := by revert k; decide
@[simp] theorem shr_fin (k : Fin 8) : shr (BitVec.ofNat 4 k.val) = k := by revert k; decide
@[simp] theorem fin_mod8 {n : Nat} (k : Fin n) (h : n ≤ 256) : k.val % 256 = k.val := Nat.mod_eq_of_lt (by omega)
@[simp] theorem fin_mod32 {n : Nat} (k : Fin n) (h : n ≤ 256) : k.val % 4294967296 = k.val := Nat.mod_eq_of_lt (by omega)
@[simp] theorem loopx_low (f : BitVec 6) : (0#18 ++ f).extractLsb' 0 6 = f := by
  apply BitVec.eq_of_getLsbD_eq; intro i hi; simp; try grind
@[simp] theorem loopx_high (f : BitVec 6) : (0#18 ++ f).extractLsb' 6 18 = 0#18 := by
  apply BitVec.eq_of_getLsbD_eq; intro i hi; simp; try grind
@[simp] theorem cxop_fields (f : BitVec 6) (n : BitVec 8) : (0#18 ++ f ++ n).extractLsb' 8 6 = f ∧ (0#18 ++ f ++ n).extractLsb' 14 18 = 0#18 ∧
    (0#18 ++ f ++ n).extractLsb' 0 8 = n := by
  refine ⟨?_, ?_, ?_⟩ <;> (apply BitVec.eq_of_getLsbD_eq; intro i hi; simp; try grind)
theorem settle_fields (nh set : BitVec 8) : ((0 : BitVec 16) ++ nh ++ set).toNat < 65536 ∧ ((0 : BitVec 16) ++ nh ++ set).extractLsb' 0 8 = set ∧
    ((0 : BitVec 16) ++ nh ++ set).extractLsb' 8 8 = nh := by
  refine ⟨?_, ?_, ?_⟩
  · have h1 := nh.isLt; have h2 := set.isLt
    rw [BitVec.toNat_append, BitVec.toNat_append]
    have z : ((0 : BitVec 16)).toNat = 0 := rfl
    rw [z, Nat.zero_shiftLeft, Nat.zero_or]
    have : nh.toNat <<< 8 ||| set.toNat = nh.toNat <<< 8 + set.toNat := (Nat.shiftLeft_add_eq_or_of_lt h2 _).symm
    rw [this, Nat.shiftLeft_eq]; omega
  all_goals (apply BitVec.eq_of_getLsbD_eq; intro i hi; simp; try grind)
theorem amcall_fields (len : BitVec 9) (kind : BitVec 8) : ((0 : BitVec 15) ++ len ++ kind).extractLsb' 0 8 = kind ∧
    ((0 : BitVec 15) ++ len ++ kind).extractLsb' 8 9 = len ∧ ((0 : BitVec 15) ++ len ++ kind).extractLsb' 17 15 = 0#15 := by
  refine ⟨?_, ?_, ?_⟩ <;> (apply BitVec.eq_of_getLsbD_eq; intro i hi; simp; try grind)

theorem mma_mod (o : MmaOpts) (spn : Fin 3) (mg : Fin 4) : let m := BitVec.ofNat 16 (o.mod spn.val mg.val)
    mmaOpts m = o ∧ m.extractLsb' 0 3 = 0 ∧ m.extractLsb' 10 6 = 0 ∧ m.extractLsb' 6 2 = BitVec.ofNat 2 spn.val ∧
    m.extractLsb' 8 2 = BitVec.ofNat 2 mg.val := by
  rcases o with ⟨a, b, c⟩; cases a <;> cases b <;> cases c <;> revert spn mg <;> decide
theorem mma_fin (spn : Fin 3) (mg : Fin 4) : Fin.ofNat 3 (BitVec.ofNat 2 spn.val).toNat = spn ∧ Fin.ofNat 4 (BitVec.ofNat 2 mg.val).toNat = mg ∧
    (BitVec.ofNat 2 spn.val == 3#2) = false := by revert spn mg; decide
theorem mrow_mod (mode : RMode) (op : Red3) (part : Bool) (nc : BitVec 5) :
    let m := BitVec.ofNat 16 (mode.code + 16 * op.code + (if part then 64 else 0) + 128 * nc.toNat)
    RMode.ofCode (m.extractLsb' 0 3).toNat = mode ∧ (m.extractLsb' 0 3).toNat < 5 ∧ Red3.ofCode (m.extractLsb' 4 2).toNat = op ∧
    ((m.extractLsb' 4 2).toNat == 3) = false ∧ m.getLsbD 6 = part ∧ m.extractLsb' 7 5 = nc ∧ m.getLsbD 3 = false ∧ m.extractLsb' 12 4 = 0 := by
  cases mode <;> cases op <;> cases part <;> revert nc <;> decide
theorem bnd_mode (clr : Bool) (mode : BitVec 2) : let m := BitVec.ofNat 8 ((if clr then 128 else 0) + mode.toNat)
    m.getLsbD 7 = clr ∧ m.extractLsb' 2 5 = 0 ∧ m.extractLsb' 0 2 = mode := by cases clr <;> revert mode <;> decide
theorem bnd_k (k : Fin 16) (h : k ≠ 0) : (BitVec.ofNat 32 k.val == 0) = false ∧ Fin.ofNat 16 (BitVec.ofNat 32 k.val).toNat = k ∧
    (BitVec.ofNat 32 k.val).toNat < 16 := by revert k; decide
theorem cnt_m (k hd : Fin 4) : let m := BitVec.ofNat 8 (k.val + 4 * hd.val)
    m.toNat < 16 ∧ Fin.ofNat 4 (m.toNat % 4) = k ∧ Fin.ofNat 4 (m.toNat / 4) = hd := by revert k hd; decide
theorem cnt_z (hd : Fin 4) (t : Fin 8) (h : (hd == 2 || t == 0) = true) : (hd != 2 && BitVec.ofNat 32 t.val != 0) = false := by revert hd t; decide
theorem cnt_t (t : Fin 8) : (BitVec.ofNat 32 t.val).toNat < 8 ∧ Fin.ofNat 8 (BitVec.ofNat 32 t.val).toNat = t := by revert t; decide
theorem fld_ne {n : Nat} (r : Fin (n + 1)) (hn : n < 64) (h : r ≠ 0) : (fld r == 0) = false := by
  simp only [beq_eq_false_iff_ne, ne_eq]; intro e; apply h; have := reg_fld n r hn; rw [e] at this; rw [← this]; apply Fin.ext; simp [reg]

theorem amcall_s2 (s2 : Fin 32) (len : BitVec 9) (hs : (s2 != 0 || decide (len.toNat ≤ 32)) = true) : (fld s2 == 0 && decide (32 < len.toNat)) = false := by
  by_cases e : s2 = 0
  · subst e; simpa using hs
  · rw [fld_ne s2 (by omega) e]; rfl

end Sys2Proof
end

