-- ==== Sys2Proof/Laws/State.lean ====
section
/-! SUPPORT. What the updates of the state do to each of its parts: one lemma for each part and update. -/

namespace Sys2Proof.Machine

/-! ## Maps -/

@[simp] theorem Fmap.get_set_self {α : Type} (d : α) (m : Fmap α) (k : Nat) (v : α) :
    Fmap.get d (Fmap.set m k v) k = v := by
  induction m with
  | nil => simp [Fmap.set, Fmap.get]
  | cons e t ih =>
    rcases e with ⟨k', v'⟩
    by_cases h : k' = k <;> simp [Fmap.set, Fmap.get, h, ih]

theorem Fmap.get_set_of_ne {α : Type} (d : α) (m : Fmap α) {k j : Nat} (v : α) (h : j ≠ k) :
    Fmap.get d (Fmap.set m k v) j = Fmap.get d m j := by
  induction m with
  | nil => simp [Fmap.set, Fmap.get, Ne.symm h]
  | cons e t ih =>
    rcases e with ⟨k', v'⟩
    by_cases hk : k' = k
    · subst hk; simp [Fmap.set, Fmap.get, Ne.symm h]
    · simp only [Fmap.set, hk, if_false, Fmap.get, ih]

/-! ## Cores and slots -/

@[simp] theorem State.core_setCore (s : State) (l : Nat) (c : Core) : (s.setCore l c).core l = c := by
  simp [State.core, State.setCore]
theorem State.core_setCore_of_ne (s : State) {l j : Nat} (c : Core) (h : j ≠ l) : (s.setCore l c).core j = s.core j := by
  simp [State.core, State.setCore, Fmap.get_set_of_ne _ _ _ h]
@[simp] theorem State.core_modCore (s : State) (l : Nat) (f : Core → Core) : (s.modCore l f).core l = f (s.core l) := by
  simp [State.modCore]
theorem State.core_modCore_of_ne (s : State) {l j : Nat} (f : Core → Core) (h : j ≠ l) :
    (s.modCore l f).core j = s.core j := State.core_setCore_of_ne s _ h
@[simp] theorem Core.slot_setSlot (c : Core) (k : Fin 16) (t : Slot) : (c.setSlot k t).slot k = t := by
  simp [Core.slot, Core.setSlot]
theorem Core.slot_setSlot_of_ne (c : Core) {k j : Fin 16} (t : Slot) (h : j ≠ k) : (c.setSlot k t).slot j = c.slot j := by
  have : k.val ≠ j.val := fun e => h (Fin.ext e.symm)
  simp [Core.slot, Core.setSlot, this]
@[simp] theorem Core.slot_modSlot (c : Core) (k : Fin 16) (f : Slot → Slot) : (c.modSlot k f).slot k = f (c.slot k) := by
  simp [Core.modSlot]
theorem Core.slot_modSlot_of_ne (c : Core) {k j : Fin 16} (f : Slot → Slot) (h : j ≠ k) :
    (c.modSlot k f).slot j = c.slot j := Core.slot_setSlot_of_ne c _ h
@[simp] theorem State.slot_modSlot (s : State) (l : Nat) (k : Fin 16) (f : Slot → Slot) :
    (s.modSlot l k f).slot l k = f (s.slot l k) := by simp [State.slot, State.modSlot]
theorem State.slot_modSlot_of_ne (s : State) (l : Nat) {k j : Fin 16} (f : Slot → Slot) (h : j ≠ k) :
    (s.modSlot l k f).slot l j = s.slot l j := by simp [State.slot, State.modSlot, Core.slot_modSlot_of_ne _ _ h]
theorem State.slot_modSlot_of_core_ne (s : State) {l m : Nat} (k j : Fin 16) (f : Slot → Slot) (h : m ≠ l) :
    (s.modSlot l k f).slot m j = s.slot m j := by simp [State.slot, State.modSlot, State.core_modCore_of_ne _ _ h]

/-! ## Parts that an update leaves alone -/

@[simp] theorem State.setCore_time (s : State) (i : Nat) (c : Core) : (s.setCore i c).time = s.time := rfl
@[simp] theorem State.setCore_gtb (s : State) (i : Nat) (c : Core) : (s.setCore i c).gtb = s.gtb := by simp [State.gtb]
@[simp] theorem State.setCore_panelId (s : State) (i : Nat) (c : Core) : (s.setCore i c).panelId = s.panelId := rfl
@[simp] theorem State.setCore_mem (s : State) (i : Nat) (c : Core) : (s.setCore i c).mem = s.mem := rfl
@[simp] theorem State.setCore_clusters (s : State) (i : Nat) (c : Core) : (s.setCore i c).clusters = s.clusters := rfl
@[simp] theorem State.setCore_dies (s : State) (i : Nat) (c : Core) : (s.setCore i c).dies = s.dies := rfl
@[simp] theorem State.setCore_bridges (s : State) (i : Nat) (c : Core) : (s.setCore i c).bridges = s.bridges := rfl
@[simp] theorem State.setCore_nis (s : State) (i : Nat) (c : Core) : (s.setCore i c).nis = s.nis := rfl
@[simp] theorem State.setCore_rmap (s : State) (i : Nat) (c : Core) : (s.setCore i c).rmap = s.rmap := rfl
@[simp] theorem State.setCore_dead (s : State) (i : Nat) (c : Core) : (s.setCore i c).dead = s.dead := rfl
@[simp] theorem State.setCore_rlyf (s : State) (i : Nat) (c : Core) : (s.setCore i c).rlyf = s.rlyf := rfl
@[simp] theorem State.setCore_pctl (s : State) (i : Nat) (c : Core) : (s.setCore i c).pctl = s.pctl := rfl
@[simp] theorem State.setCore_peats (s : State) (i : Nat) (c : Core) : (s.setCore i c).peats = s.peats := rfl
@[simp] theorem State.setCore_fab (s : State) (i : Nat) (c : Core) : (s.setCore i c).fab = s.fab := rfl
@[simp] theorem State.setCore_net (s : State) (i : Nat) (c : Core) : (s.setCore i c).net = s.net := rfl
@[simp] theorem State.setCore_stopped (s : State) (i : Nat) (c : Core) : (s.setCore i c).stopped = s.stopped := rfl
@[simp] theorem State.setCore_agenda (s : State) (i : Nat) (c : Core) : (s.setCore i c).agenda = s.agenda := rfl
@[simp] theorem State.setCore_turn (s : State) (i : Nat) (c : Core) : (s.setCore i c).turn = s.turn := rfl
@[simp] theorem State.setCore_freeCtr (s : State) (i : Nat) (c : Core) : (s.setCore i c).freeCtr = s.freeCtr := rfl
@[simp] theorem State.setCore_cur (s : State) (i : Nat) (c : Core) : (s.setCore i c).cur = s.cur := rfl
@[simp] theorem State.setCore_cluster (s : State) (i : Nat) (c : Core) (n : Nat) : (s.setCore i c).cluster n = s.cluster n := rfl
@[simp] theorem State.setCore_die (s : State) (i : Nat) (c : Core) (d : Nat) : (s.setCore i c).die d = s.die d := rfl
@[simp] theorem State.setCore_bridge (s : State) (i : Nat) (c : Core) (b : Nat) : (s.setCore i c).bridge b = s.bridge b := rfl
@[simp] theorem State.setCore_ni (s : State) (i : Nat) (c : Core) (a : Nat) : (s.setCore i c).ni a = s.ni a := rfl
@[simp] theorem State.setCore_ctx (s : State) (i : Nat) (c : Core) (n : Nat) : (s.setCore i c).ctx n = s.ctx n := rfl
@[simp] theorem State.setCore_present (s : State) (i : Nat) (c : Core) (l : Nat) : (s.setCore i c).present l = s.present l := rfl

@[simp] theorem State.modCore_time (s : State) (i : Nat) (f : Core → Core) : (s.modCore i f).time = s.time := rfl
@[simp] theorem State.modCore_gtb (s : State) (i : Nat) (f : Core → Core) : (s.modCore i f).gtb = s.gtb := by simp [State.gtb]
@[simp] theorem State.modCore_panelId (s : State) (i : Nat) (f : Core → Core) : (s.modCore i f).panelId = s.panelId := rfl
@[simp] theorem State.modCore_mem (s : State) (i : Nat) (f : Core → Core) : (s.modCore i f).mem = s.mem := rfl
@[simp] theorem State.modCore_clusters (s : State) (i : Nat) (f : Core → Core) : (s.modCore i f).clusters = s.clusters := rfl
@[simp] theorem State.modCore_dies (s : State) (i : Nat) (f : Core → Core) : (s.modCore i f).dies = s.dies := rfl
@[simp] theorem State.modCore_bridges (s : State) (i : Nat) (f : Core → Core) : (s.modCore i f).bridges = s.bridges := rfl
@[simp] theorem State.modCore_nis (s : State) (i : Nat) (f : Core → Core) : (s.modCore i f).nis = s.nis := rfl
@[simp] theorem State.modCore_rmap (s : State) (i : Nat) (f : Core → Core) : (s.modCore i f).rmap = s.rmap := rfl
@[simp] theorem State.modCore_dead (s : State) (i : Nat) (f : Core → Core) : (s.modCore i f).dead = s.dead := rfl
@[simp] theorem State.modCore_rlyf (s : State) (i : Nat) (f : Core → Core) : (s.modCore i f).rlyf = s.rlyf := rfl
@[simp] theorem State.modCore_pctl (s : State) (i : Nat) (f : Core → Core) : (s.modCore i f).pctl = s.pctl := rfl
@[simp] theorem State.modCore_peats (s : State) (i : Nat) (f : Core → Core) : (s.modCore i f).peats = s.peats := rfl
@[simp] theorem State.modCore_fab (s : State) (i : Nat) (f : Core → Core) : (s.modCore i f).fab = s.fab := rfl
@[simp] theorem State.modCore_net (s : State) (i : Nat) (f : Core → Core) : (s.modCore i f).net = s.net := rfl
@[simp] theorem State.modCore_stopped (s : State) (i : Nat) (f : Core → Core) : (s.modCore i f).stopped = s.stopped := rfl
@[simp] theorem State.modCore_agenda (s : State) (i : Nat) (f : Core → Core) : (s.modCore i f).agenda = s.agenda := rfl
@[simp] theorem State.modCore_turn (s : State) (i : Nat) (f : Core → Core) : (s.modCore i f).turn = s.turn := rfl
@[simp] theorem State.modCore_freeCtr (s : State) (i : Nat) (f : Core → Core) : (s.modCore i f).freeCtr = s.freeCtr := rfl
@[simp] theorem State.modCore_cur (s : State) (i : Nat) (f : Core → Core) : (s.modCore i f).cur = s.cur := rfl
@[simp] theorem State.modCore_cluster (s : State) (i : Nat) (f : Core → Core) (n : Nat) : (s.modCore i f).cluster n = s.cluster n := rfl
@[simp] theorem State.modCore_die (s : State) (i : Nat) (f : Core → Core) (d : Nat) : (s.modCore i f).die d = s.die d := rfl
@[simp] theorem State.modCore_bridge (s : State) (i : Nat) (f : Core → Core) (b : Nat) : (s.modCore i f).bridge b = s.bridge b := rfl
@[simp] theorem State.modCore_ni (s : State) (i : Nat) (f : Core → Core) (a : Nat) : (s.modCore i f).ni a = s.ni a := rfl
@[simp] theorem State.modCore_ctx (s : State) (i : Nat) (f : Core → Core) (c : Nat) : (s.modCore i f).ctx c = s.ctx c := rfl
@[simp] theorem State.modCore_present (s : State) (i : Nat) (f : Core → Core) (l : Nat) : (s.modCore i f).present l = s.present l := rfl

@[simp] theorem State.modSlot_time (s : State) (i : Nat) (j : Fin 16) (f : Slot → Slot) : (s.modSlot i j f).time = s.time := rfl
@[simp] theorem State.modSlot_gtb (s : State) (i : Nat) (j : Fin 16) (f : Slot → Slot) : (s.modSlot i j f).gtb = s.gtb := by simp [State.gtb]
@[simp] theorem State.modSlot_panelId (s : State) (i : Nat) (j : Fin 16) (f : Slot → Slot) : (s.modSlot i j f).panelId = s.panelId := rfl
@[simp] theorem State.modSlot_mem (s : State) (i : Nat) (j : Fin 16) (f : Slot → Slot) : (s.modSlot i j f).mem = s.mem := rfl
@[simp] theorem State.modSlot_clusters (s : State) (i : Nat) (j : Fin 16) (f : Slot → Slot) : (s.modSlot i j f).clusters = s.clusters := rfl
@[simp] theorem State.modSlot_dies (s : State) (i : Nat) (j : Fin 16) (f : Slot → Slot) : (s.modSlot i j f).dies = s.dies := rfl
@[simp] theorem State.modSlot_bridges (s : State) (i : Nat) (j : Fin 16) (f : Slot → Slot) : (s.modSlot i j f).bridges = s.bridges := rfl
@[simp] theorem State.modSlot_nis (s : State) (i : Nat) (j : Fin 16) (f : Slot → Slot) : (s.modSlot i j f).nis = s.nis := rfl
@[simp] theorem State.modSlot_rmap (s : State) (i : Nat) (j : Fin 16) (f : Slot → Slot) : (s.modSlot i j f).rmap = s.rmap := rfl
@[simp] theorem State.modSlot_dead (s : State) (i : Nat) (j : Fin 16) (f : Slot → Slot) : (s.modSlot i j f).dead = s.dead := rfl
@[simp] theorem State.modSlot_rlyf (s : State) (i : Nat) (j : Fin 16) (f : Slot → Slot) : (s.modSlot i j f).rlyf = s.rlyf := rfl
@[simp] theorem State.modSlot_pctl (s : State) (i : Nat) (j : Fin 16) (f : Slot → Slot) : (s.modSlot i j f).pctl = s.pctl := rfl
@[simp] theorem State.modSlot_peats (s : State) (i : Nat) (j : Fin 16) (f : Slot → Slot) : (s.modSlot i j f).peats = s.peats := rfl
@[simp] theorem State.modSlot_fab (s : State) (i : Nat) (j : Fin 16) (f : Slot → Slot) : (s.modSlot i j f).fab = s.fab := rfl
@[simp] theorem State.modSlot_net (s : State) (i : Nat) (j : Fin 16) (f : Slot → Slot) : (s.modSlot i j f).net = s.net := rfl
@[simp] theorem State.modSlot_stopped (s : State) (i : Nat) (j : Fin 16) (f : Slot → Slot) : (s.modSlot i j f).stopped = s.stopped := rfl
@[simp] theorem State.modSlot_agenda (s : State) (i : Nat) (j : Fin 16) (f : Slot → Slot) : (s.modSlot i j f).agenda = s.agenda := rfl
@[simp] theorem State.modSlot_turn (s : State) (i : Nat) (j : Fin 16) (f : Slot → Slot) : (s.modSlot i j f).turn = s.turn := rfl
@[simp] theorem State.modSlot_freeCtr (s : State) (i : Nat) (j : Fin 16) (f : Slot → Slot) : (s.modSlot i j f).freeCtr = s.freeCtr := rfl
@[simp] theorem State.modSlot_cur (s : State) (i : Nat) (j : Fin 16) (f : Slot → Slot) : (s.modSlot i j f).cur = s.cur := rfl
@[simp] theorem State.modSlot_cluster (s : State) (i : Nat) (j : Fin 16) (f : Slot → Slot) (n : Nat) : (s.modSlot i j f).cluster n = s.cluster n := rfl
@[simp] theorem State.modSlot_die (s : State) (i : Nat) (j : Fin 16) (f : Slot → Slot) (d : Nat) : (s.modSlot i j f).die d = s.die d := rfl
@[simp] theorem State.modSlot_bridge (s : State) (i : Nat) (j : Fin 16) (f : Slot → Slot) (b : Nat) : (s.modSlot i j f).bridge b = s.bridge b := rfl
@[simp] theorem State.modSlot_ni (s : State) (i : Nat) (j : Fin 16) (f : Slot → Slot) (a : Nat) : (s.modSlot i j f).ni a = s.ni a := rfl
@[simp] theorem State.modSlot_ctx (s : State) (i : Nat) (j : Fin 16) (f : Slot → Slot) (c : Nat) : (s.modSlot i j f).ctx c = s.ctx c := rfl
@[simp] theorem State.modSlot_present (s : State) (i : Nat) (j : Fin 16) (f : Slot → Slot) (l : Nat) : (s.modSlot i j f).present l = s.present l := rfl

@[simp] theorem State.modThr_time (s : State) (f : Slot → Slot) : (s.modThr f).time = s.time := rfl
@[simp] theorem State.modThr_gtb (s : State) (f : Slot → Slot) : (s.modThr f).gtb = s.gtb := by simp [State.gtb]
@[simp] theorem State.modThr_panelId (s : State) (f : Slot → Slot) : (s.modThr f).panelId = s.panelId := rfl
@[simp] theorem State.modThr_mem (s : State) (f : Slot → Slot) : (s.modThr f).mem = s.mem := rfl
@[simp] theorem State.modThr_clusters (s : State) (f : Slot → Slot) : (s.modThr f).clusters = s.clusters := rfl
@[simp] theorem State.modThr_dies (s : State) (f : Slot → Slot) : (s.modThr f).dies = s.dies := rfl
@[simp] theorem State.modThr_bridges (s : State) (f : Slot → Slot) : (s.modThr f).bridges = s.bridges := rfl
@[simp] theorem State.modThr_nis (s : State) (f : Slot → Slot) : (s.modThr f).nis = s.nis := rfl
@[simp] theorem State.modThr_rmap (s : State) (f : Slot → Slot) : (s.modThr f).rmap = s.rmap := rfl
@[simp] theorem State.modThr_dead (s : State) (f : Slot → Slot) : (s.modThr f).dead = s.dead := rfl
@[simp] theorem State.modThr_rlyf (s : State) (f : Slot → Slot) : (s.modThr f).rlyf = s.rlyf := rfl
@[simp] theorem State.modThr_pctl (s : State) (f : Slot → Slot) : (s.modThr f).pctl = s.pctl := rfl
@[simp] theorem State.modThr_peats (s : State) (f : Slot → Slot) : (s.modThr f).peats = s.peats := rfl
@[simp] theorem State.modThr_fab (s : State) (f : Slot → Slot) : (s.modThr f).fab = s.fab := rfl
@[simp] theorem State.modThr_net (s : State) (f : Slot → Slot) : (s.modThr f).net = s.net := rfl
@[simp] theorem State.modThr_stopped (s : State) (f : Slot → Slot) : (s.modThr f).stopped = s.stopped := rfl
@[simp] theorem State.modThr_agenda (s : State) (f : Slot → Slot) : (s.modThr f).agenda = s.agenda := rfl
@[simp] theorem State.modThr_turn (s : State) (f : Slot → Slot) : (s.modThr f).turn = s.turn := rfl
@[simp] theorem State.modThr_freeCtr (s : State) (f : Slot → Slot) : (s.modThr f).freeCtr = s.freeCtr := rfl
@[simp] theorem State.modThr_cur (s : State) (f : Slot → Slot) : (s.modThr f).cur = s.cur := rfl
@[simp] theorem State.modThr_cluster (s : State) (f : Slot → Slot) (n : Nat) : (s.modThr f).cluster n = s.cluster n := rfl
@[simp] theorem State.modThr_die (s : State) (f : Slot → Slot) (d : Nat) : (s.modThr f).die d = s.die d := rfl
@[simp] theorem State.modThr_bridge (s : State) (f : Slot → Slot) (b : Nat) : (s.modThr f).bridge b = s.bridge b := rfl
@[simp] theorem State.modThr_ni (s : State) (f : Slot → Slot) (a : Nat) : (s.modThr f).ni a = s.ni a := rfl
@[simp] theorem State.modThr_ctx (s : State) (f : Slot → Slot) (c : Nat) : (s.modThr f).ctx c = s.ctx c := rfl
@[simp] theorem State.modThr_present (s : State) (f : Slot → Slot) (l : Nat) : (s.modThr f).present l = s.present l := rfl

@[simp] theorem State.modMe_time (s : State) (f : Core → Core) : (s.modMe f).time = s.time := rfl
@[simp] theorem State.modMe_gtb (s : State) (f : Core → Core) : (s.modMe f).gtb = s.gtb := by simp [State.gtb]
@[simp] theorem State.modMe_panelId (s : State) (f : Core → Core) : (s.modMe f).panelId = s.panelId := rfl
@[simp] theorem State.modMe_mem (s : State) (f : Core → Core) : (s.modMe f).mem = s.mem := rfl
@[simp] theorem State.modMe_clusters (s : State) (f : Core → Core) : (s.modMe f).clusters = s.clusters := rfl
@[simp] theorem State.modMe_dies (s : State) (f : Core → Core) : (s.modMe f).dies = s.dies := rfl
@[simp] theorem State.modMe_bridges (s : State) (f : Core → Core) : (s.modMe f).bridges = s.bridges := rfl
@[simp] theorem State.modMe_nis (s : State) (f : Core → Core) : (s.modMe f).nis = s.nis := rfl
@[simp] theorem State.modMe_rmap (s : State) (f : Core → Core) : (s.modMe f).rmap = s.rmap := rfl
@[simp] theorem State.modMe_dead (s : State) (f : Core → Core) : (s.modMe f).dead = s.dead := rfl
@[simp] theorem State.modMe_rlyf (s : State) (f : Core → Core) : (s.modMe f).rlyf = s.rlyf := rfl
@[simp] theorem State.modMe_pctl (s : State) (f : Core → Core) : (s.modMe f).pctl = s.pctl := rfl
@[simp] theorem State.modMe_peats (s : State) (f : Core → Core) : (s.modMe f).peats = s.peats := rfl
@[simp] theorem State.modMe_fab (s : State) (f : Core → Core) : (s.modMe f).fab = s.fab := rfl
@[simp] theorem State.modMe_net (s : State) (f : Core → Core) : (s.modMe f).net = s.net := rfl
@[simp] theorem State.modMe_stopped (s : State) (f : Core → Core) : (s.modMe f).stopped = s.stopped := rfl
@[simp] theorem State.modMe_agenda (s : State) (f : Core → Core) : (s.modMe f).agenda = s.agenda := rfl
@[simp] theorem State.modMe_turn (s : State) (f : Core → Core) : (s.modMe f).turn = s.turn := rfl
@[simp] theorem State.modMe_freeCtr (s : State) (f : Core → Core) : (s.modMe f).freeCtr = s.freeCtr := rfl
@[simp] theorem State.modMe_cur (s : State) (f : Core → Core) : (s.modMe f).cur = s.cur := rfl
@[simp] theorem State.modMe_cluster (s : State) (f : Core → Core) (n : Nat) : (s.modMe f).cluster n = s.cluster n := rfl
@[simp] theorem State.modMe_die (s : State) (f : Core → Core) (d : Nat) : (s.modMe f).die d = s.die d := rfl
@[simp] theorem State.modMe_bridge (s : State) (f : Core → Core) (b : Nat) : (s.modMe f).bridge b = s.bridge b := rfl
@[simp] theorem State.modMe_ni (s : State) (f : Core → Core) (a : Nat) : (s.modMe f).ni a = s.ni a := rfl
@[simp] theorem State.modMe_ctx (s : State) (f : Core → Core) (c : Nat) : (s.modMe f).ctx c = s.ctx c := rfl
@[simp] theorem State.modMe_present (s : State) (f : Core → Core) (l : Nat) : (s.modMe f).present l = s.present l := rfl

@[simp] theorem State.modCluster_time (s : State) (i : Nat) (f : Cluster → Cluster) : (s.modCluster i f).time = s.time := rfl
@[simp] theorem State.modCluster_gtb (s : State) (i : Nat) (f : Cluster → Cluster) : (s.modCluster i f).gtb = s.gtb := by simp [State.gtb]
@[simp] theorem State.modCluster_panelId (s : State) (i : Nat) (f : Cluster → Cluster) : (s.modCluster i f).panelId = s.panelId := rfl
@[simp] theorem State.modCluster_mem (s : State) (i : Nat) (f : Cluster → Cluster) : (s.modCluster i f).mem = s.mem := rfl
@[simp] theorem State.modCluster_cores (s : State) (i : Nat) (f : Cluster → Cluster) : (s.modCluster i f).cores = s.cores := rfl
@[simp] theorem State.modCluster_dies (s : State) (i : Nat) (f : Cluster → Cluster) : (s.modCluster i f).dies = s.dies := rfl
@[simp] theorem State.modCluster_bridges (s : State) (i : Nat) (f : Cluster → Cluster) : (s.modCluster i f).bridges = s.bridges := rfl
@[simp] theorem State.modCluster_nis (s : State) (i : Nat) (f : Cluster → Cluster) : (s.modCluster i f).nis = s.nis := rfl
@[simp] theorem State.modCluster_rmap (s : State) (i : Nat) (f : Cluster → Cluster) : (s.modCluster i f).rmap = s.rmap := rfl
@[simp] theorem State.modCluster_dead (s : State) (i : Nat) (f : Cluster → Cluster) : (s.modCluster i f).dead = s.dead := rfl
@[simp] theorem State.modCluster_rlyf (s : State) (i : Nat) (f : Cluster → Cluster) : (s.modCluster i f).rlyf = s.rlyf := rfl
@[simp] theorem State.modCluster_pctl (s : State) (i : Nat) (f : Cluster → Cluster) : (s.modCluster i f).pctl = s.pctl := rfl
@[simp] theorem State.modCluster_peats (s : State) (i : Nat) (f : Cluster → Cluster) : (s.modCluster i f).peats = s.peats := rfl
@[simp] theorem State.modCluster_fab (s : State) (i : Nat) (f : Cluster → Cluster) : (s.modCluster i f).fab = s.fab := rfl
@[simp] theorem State.modCluster_net (s : State) (i : Nat) (f : Cluster → Cluster) : (s.modCluster i f).net = s.net := rfl
@[simp] theorem State.modCluster_stopped (s : State) (i : Nat) (f : Cluster → Cluster) : (s.modCluster i f).stopped = s.stopped := rfl
@[simp] theorem State.modCluster_agenda (s : State) (i : Nat) (f : Cluster → Cluster) : (s.modCluster i f).agenda = s.agenda := rfl
@[simp] theorem State.modCluster_turn (s : State) (i : Nat) (f : Cluster → Cluster) : (s.modCluster i f).turn = s.turn := rfl
@[simp] theorem State.modCluster_freeCtr (s : State) (i : Nat) (f : Cluster → Cluster) : (s.modCluster i f).freeCtr = s.freeCtr := rfl
@[simp] theorem State.modCluster_cur (s : State) (i : Nat) (f : Cluster → Cluster) : (s.modCluster i f).cur = s.cur := rfl
@[simp] theorem State.modCluster_core (s : State) (i : Nat) (f : Cluster → Cluster) (l : Nat) : (s.modCluster i f).core l = s.core l := rfl
@[simp] theorem State.modCluster_slot (s : State) (i : Nat) (f : Cluster → Cluster) (l : Nat) (k : Fin 16) : (s.modCluster i f).slot l k = s.slot l k := rfl
@[simp] theorem State.modCluster_die (s : State) (i : Nat) (f : Cluster → Cluster) (d : Nat) : (s.modCluster i f).die d = s.die d := rfl
@[simp] theorem State.modCluster_bridge (s : State) (i : Nat) (f : Cluster → Cluster) (b : Nat) : (s.modCluster i f).bridge b = s.bridge b := rfl
@[simp] theorem State.modCluster_ni (s : State) (i : Nat) (f : Cluster → Cluster) (a : Nat) : (s.modCluster i f).ni a = s.ni a := rfl
@[simp] theorem State.modCluster_ctx (s : State) (i : Nat) (f : Cluster → Cluster) (c : Nat) : (s.modCluster i f).ctx c = s.ctx c := rfl
@[simp] theorem State.modCluster_present (s : State) (i : Nat) (f : Cluster → Cluster) (l : Nat) : (s.modCluster i f).present l = s.present l := rfl
@[simp] theorem State.modCluster_me (s : State) (i : Nat) (f : Cluster → Cluster) : (s.modCluster i f).me = s.me := rfl
@[simp] theorem State.modCluster_thr (s : State) (i : Nat) (f : Cluster → Cluster) : (s.modCluster i f).thr = s.thr := rfl

@[simp] theorem State.modDie_time (s : State) (i : Nat) (f : Die → Die) : (s.modDie i f).time = s.time := rfl
@[simp] theorem State.modDie_gtb (s : State) (i : Nat) (f : Die → Die) : (s.modDie i f).gtb = s.gtb := by simp [State.gtb]
@[simp] theorem State.modDie_panelId (s : State) (i : Nat) (f : Die → Die) : (s.modDie i f).panelId = s.panelId := rfl
@[simp] theorem State.modDie_mem (s : State) (i : Nat) (f : Die → Die) : (s.modDie i f).mem = s.mem := rfl
@[simp] theorem State.modDie_cores (s : State) (i : Nat) (f : Die → Die) : (s.modDie i f).cores = s.cores := rfl
@[simp] theorem State.modDie_clusters (s : State) (i : Nat) (f : Die → Die) : (s.modDie i f).clusters = s.clusters := rfl
@[simp] theorem State.modDie_bridges (s : State) (i : Nat) (f : Die → Die) : (s.modDie i f).bridges = s.bridges := rfl
@[simp] theorem State.modDie_nis (s : State) (i : Nat) (f : Die → Die) : (s.modDie i f).nis = s.nis := rfl
@[simp] theorem State.modDie_rmap (s : State) (i : Nat) (f : Die → Die) : (s.modDie i f).rmap = s.rmap := rfl
@[simp] theorem State.modDie_dead (s : State) (i : Nat) (f : Die → Die) : (s.modDie i f).dead = s.dead := rfl
@[simp] theorem State.modDie_rlyf (s : State) (i : Nat) (f : Die → Die) : (s.modDie i f).rlyf = s.rlyf := rfl
@[simp] theorem State.modDie_pctl (s : State) (i : Nat) (f : Die → Die) : (s.modDie i f).pctl = s.pctl := rfl
@[simp] theorem State.modDie_peats (s : State) (i : Nat) (f : Die → Die) : (s.modDie i f).peats = s.peats := rfl
@[simp] theorem State.modDie_fab (s : State) (i : Nat) (f : Die → Die) : (s.modDie i f).fab = s.fab := rfl
@[simp] theorem State.modDie_net (s : State) (i : Nat) (f : Die → Die) : (s.modDie i f).net = s.net := rfl
@[simp] theorem State.modDie_stopped (s : State) (i : Nat) (f : Die → Die) : (s.modDie i f).stopped = s.stopped := rfl
@[simp] theorem State.modDie_agenda (s : State) (i : Nat) (f : Die → Die) : (s.modDie i f).agenda = s.agenda := rfl
@[simp] theorem State.modDie_turn (s : State) (i : Nat) (f : Die → Die) : (s.modDie i f).turn = s.turn := rfl
@[simp] theorem State.modDie_freeCtr (s : State) (i : Nat) (f : Die → Die) : (s.modDie i f).freeCtr = s.freeCtr := rfl
@[simp] theorem State.modDie_cur (s : State) (i : Nat) (f : Die → Die) : (s.modDie i f).cur = s.cur := rfl
@[simp] theorem State.modDie_core (s : State) (i : Nat) (f : Die → Die) (l : Nat) : (s.modDie i f).core l = s.core l := rfl
@[simp] theorem State.modDie_slot (s : State) (i : Nat) (f : Die → Die) (l : Nat) (k : Fin 16) : (s.modDie i f).slot l k = s.slot l k := rfl
@[simp] theorem State.modDie_cluster (s : State) (i : Nat) (f : Die → Die) (n : Nat) : (s.modDie i f).cluster n = s.cluster n := rfl
@[simp] theorem State.modDie_bridge (s : State) (i : Nat) (f : Die → Die) (b : Nat) : (s.modDie i f).bridge b = s.bridge b := rfl
@[simp] theorem State.modDie_ni (s : State) (i : Nat) (f : Die → Die) (a : Nat) : (s.modDie i f).ni a = s.ni a := rfl
@[simp] theorem State.modDie_ctx (s : State) (i : Nat) (f : Die → Die) (c : Nat) : (s.modDie i f).ctx c = s.ctx c := rfl
@[simp] theorem State.modDie_me (s : State) (i : Nat) (f : Die → Die) : (s.modDie i f).me = s.me := rfl
@[simp] theorem State.modDie_thr (s : State) (i : Nat) (f : Die → Die) : (s.modDie i f).thr = s.thr := rfl

@[simp] theorem State.modBridge_time (s : State) (i : Nat) (f : MemBridge → MemBridge) : (s.modBridge i f).time = s.time := rfl
@[simp] theorem State.modBridge_gtb (s : State) (i : Nat) (f : MemBridge → MemBridge) : (s.modBridge i f).gtb = s.gtb := by simp [State.gtb]
@[simp] theorem State.modBridge_panelId (s : State) (i : Nat) (f : MemBridge → MemBridge) : (s.modBridge i f).panelId = s.panelId := rfl
@[simp] theorem State.modBridge_mem (s : State) (i : Nat) (f : MemBridge → MemBridge) : (s.modBridge i f).mem = s.mem := rfl
@[simp] theorem State.modBridge_cores (s : State) (i : Nat) (f : MemBridge → MemBridge) : (s.modBridge i f).cores = s.cores := rfl
@[simp] theorem State.modBridge_clusters (s : State) (i : Nat) (f : MemBridge → MemBridge) : (s.modBridge i f).clusters = s.clusters := rfl
@[simp] theorem State.modBridge_dies (s : State) (i : Nat) (f : MemBridge → MemBridge) : (s.modBridge i f).dies = s.dies := rfl
@[simp] theorem State.modBridge_nis (s : State) (i : Nat) (f : MemBridge → MemBridge) : (s.modBridge i f).nis = s.nis := rfl
@[simp] theorem State.modBridge_rmap (s : State) (i : Nat) (f : MemBridge → MemBridge) : (s.modBridge i f).rmap = s.rmap := rfl
@[simp] theorem State.modBridge_dead (s : State) (i : Nat) (f : MemBridge → MemBridge) : (s.modBridge i f).dead = s.dead := rfl
@[simp] theorem State.modBridge_rlyf (s : State) (i : Nat) (f : MemBridge → MemBridge) : (s.modBridge i f).rlyf = s.rlyf := rfl
@[simp] theorem State.modBridge_pctl (s : State) (i : Nat) (f : MemBridge → MemBridge) : (s.modBridge i f).pctl = s.pctl := rfl
@[simp] theorem State.modBridge_peats (s : State) (i : Nat) (f : MemBridge → MemBridge) : (s.modBridge i f).peats = s.peats := rfl
@[simp] theorem State.modBridge_fab (s : State) (i : Nat) (f : MemBridge → MemBridge) : (s.modBridge i f).fab = s.fab := rfl
@[simp] theorem State.modBridge_net (s : State) (i : Nat) (f : MemBridge → MemBridge) : (s.modBridge i f).net = s.net := rfl
@[simp] theorem State.modBridge_stopped (s : State) (i : Nat) (f : MemBridge → MemBridge) : (s.modBridge i f).stopped = s.stopped := rfl
@[simp] theorem State.modBridge_agenda (s : State) (i : Nat) (f : MemBridge → MemBridge) : (s.modBridge i f).agenda = s.agenda := rfl
@[simp] theorem State.modBridge_turn (s : State) (i : Nat) (f : MemBridge → MemBridge) : (s.modBridge i f).turn = s.turn := rfl
@[simp] theorem State.modBridge_freeCtr (s : State) (i : Nat) (f : MemBridge → MemBridge) : (s.modBridge i f).freeCtr = s.freeCtr := rfl
@[simp] theorem State.modBridge_cur (s : State) (i : Nat) (f : MemBridge → MemBridge) : (s.modBridge i f).cur = s.cur := rfl
@[simp] theorem State.modBridge_core (s : State) (i : Nat) (f : MemBridge → MemBridge) (l : Nat) : (s.modBridge i f).core l = s.core l := rfl
@[simp] theorem State.modBridge_slot (s : State) (i : Nat) (f : MemBridge → MemBridge) (l : Nat) (k : Fin 16) : (s.modBridge i f).slot l k = s.slot l k := rfl
@[simp] theorem State.modBridge_cluster (s : State) (i : Nat) (f : MemBridge → MemBridge) (n : Nat) : (s.modBridge i f).cluster n = s.cluster n := rfl
@[simp] theorem State.modBridge_die (s : State) (i : Nat) (f : MemBridge → MemBridge) (d : Nat) : (s.modBridge i f).die d = s.die d := rfl
@[simp] theorem State.modBridge_ni (s : State) (i : Nat) (f : MemBridge → MemBridge) (a : Nat) : (s.modBridge i f).ni a = s.ni a := rfl
@[simp] theorem State.modBridge_ctx (s : State) (i : Nat) (f : MemBridge → MemBridge) (c : Nat) : (s.modBridge i f).ctx c = s.ctx c := rfl
@[simp] theorem State.modBridge_present (s : State) (i : Nat) (f : MemBridge → MemBridge) (l : Nat) : (s.modBridge i f).present l = s.present l := rfl
@[simp] theorem State.modBridge_me (s : State) (i : Nat) (f : MemBridge → MemBridge) : (s.modBridge i f).me = s.me := rfl
@[simp] theorem State.modBridge_thr (s : State) (i : Nat) (f : MemBridge → MemBridge) : (s.modBridge i f).thr = s.thr := rfl

@[simp] theorem State.modNi_time (s : State) (i : Nat) (f : Ni → Ni) : (s.modNi i f).time = s.time := rfl
@[simp] theorem State.modNi_gtb (s : State) (i : Nat) (f : Ni → Ni) : (s.modNi i f).gtb = s.gtb := by simp [State.gtb]
@[simp] theorem State.modNi_panelId (s : State) (i : Nat) (f : Ni → Ni) : (s.modNi i f).panelId = s.panelId := rfl
@[simp] theorem State.modNi_mem (s : State) (i : Nat) (f : Ni → Ni) : (s.modNi i f).mem = s.mem := rfl
@[simp] theorem State.modNi_cores (s : State) (i : Nat) (f : Ni → Ni) : (s.modNi i f).cores = s.cores := rfl
@[simp] theorem State.modNi_clusters (s : State) (i : Nat) (f : Ni → Ni) : (s.modNi i f).clusters = s.clusters := rfl
@[simp] theorem State.modNi_dies (s : State) (i : Nat) (f : Ni → Ni) : (s.modNi i f).dies = s.dies := rfl
@[simp] theorem State.modNi_bridges (s : State) (i : Nat) (f : Ni → Ni) : (s.modNi i f).bridges = s.bridges := rfl
@[simp] theorem State.modNi_rmap (s : State) (i : Nat) (f : Ni → Ni) : (s.modNi i f).rmap = s.rmap := rfl
@[simp] theorem State.modNi_dead (s : State) (i : Nat) (f : Ni → Ni) : (s.modNi i f).dead = s.dead := rfl
@[simp] theorem State.modNi_rlyf (s : State) (i : Nat) (f : Ni → Ni) : (s.modNi i f).rlyf = s.rlyf := rfl
@[simp] theorem State.modNi_pctl (s : State) (i : Nat) (f : Ni → Ni) : (s.modNi i f).pctl = s.pctl := rfl
@[simp] theorem State.modNi_peats (s : State) (i : Nat) (f : Ni → Ni) : (s.modNi i f).peats = s.peats := rfl
@[simp] theorem State.modNi_fab (s : State) (i : Nat) (f : Ni → Ni) : (s.modNi i f).fab = s.fab := rfl
@[simp] theorem State.modNi_net (s : State) (i : Nat) (f : Ni → Ni) : (s.modNi i f).net = s.net := rfl
@[simp] theorem State.modNi_stopped (s : State) (i : Nat) (f : Ni → Ni) : (s.modNi i f).stopped = s.stopped := rfl
@[simp] theorem State.modNi_agenda (s : State) (i : Nat) (f : Ni → Ni) : (s.modNi i f).agenda = s.agenda := rfl
@[simp] theorem State.modNi_turn (s : State) (i : Nat) (f : Ni → Ni) : (s.modNi i f).turn = s.turn := rfl
@[simp] theorem State.modNi_freeCtr (s : State) (i : Nat) (f : Ni → Ni) : (s.modNi i f).freeCtr = s.freeCtr := rfl
@[simp] theorem State.modNi_cur (s : State) (i : Nat) (f : Ni → Ni) : (s.modNi i f).cur = s.cur := rfl
@[simp] theorem State.modNi_core (s : State) (i : Nat) (f : Ni → Ni) (l : Nat) : (s.modNi i f).core l = s.core l := rfl
@[simp] theorem State.modNi_slot (s : State) (i : Nat) (f : Ni → Ni) (l : Nat) (k : Fin 16) : (s.modNi i f).slot l k = s.slot l k := rfl
@[simp] theorem State.modNi_cluster (s : State) (i : Nat) (f : Ni → Ni) (n : Nat) : (s.modNi i f).cluster n = s.cluster n := rfl
@[simp] theorem State.modNi_die (s : State) (i : Nat) (f : Ni → Ni) (d : Nat) : (s.modNi i f).die d = s.die d := rfl
@[simp] theorem State.modNi_bridge (s : State) (i : Nat) (f : Ni → Ni) (b : Nat) : (s.modNi i f).bridge b = s.bridge b := rfl
@[simp] theorem State.modNi_ctx (s : State) (i : Nat) (f : Ni → Ni) (c : Nat) : (s.modNi i f).ctx c = s.ctx c := rfl
@[simp] theorem State.modNi_present (s : State) (i : Nat) (f : Ni → Ni) (l : Nat) : (s.modNi i f).present l = s.present l := rfl
@[simp] theorem State.modNi_me (s : State) (i : Nat) (f : Ni → Ni) : (s.modNi i f).me = s.me := rfl
@[simp] theorem State.modNi_thr (s : State) (i : Nat) (f : Ni → Ni) : (s.modNi i f).thr = s.thr := rfl

@[simp] theorem State.modPctl_time (s : State) (f : Pctl → Pctl) : (s.modPctl f).time = s.time := rfl
@[simp] theorem State.modPctl_gtb (s : State) (f : Pctl → Pctl) : (s.modPctl f).gtb = s.gtb := by simp [State.gtb]
@[simp] theorem State.modPctl_panelId (s : State) (f : Pctl → Pctl) : (s.modPctl f).panelId = s.panelId := rfl
@[simp] theorem State.modPctl_mem (s : State) (f : Pctl → Pctl) : (s.modPctl f).mem = s.mem := rfl
@[simp] theorem State.modPctl_cores (s : State) (f : Pctl → Pctl) : (s.modPctl f).cores = s.cores := rfl
@[simp] theorem State.modPctl_clusters (s : State) (f : Pctl → Pctl) : (s.modPctl f).clusters = s.clusters := rfl
@[simp] theorem State.modPctl_dies (s : State) (f : Pctl → Pctl) : (s.modPctl f).dies = s.dies := rfl
@[simp] theorem State.modPctl_bridges (s : State) (f : Pctl → Pctl) : (s.modPctl f).bridges = s.bridges := rfl
@[simp] theorem State.modPctl_nis (s : State) (f : Pctl → Pctl) : (s.modPctl f).nis = s.nis := rfl
@[simp] theorem State.modPctl_rmap (s : State) (f : Pctl → Pctl) : (s.modPctl f).rmap = s.rmap := rfl
@[simp] theorem State.modPctl_dead (s : State) (f : Pctl → Pctl) : (s.modPctl f).dead = s.dead := rfl
@[simp] theorem State.modPctl_rlyf (s : State) (f : Pctl → Pctl) : (s.modPctl f).rlyf = s.rlyf := rfl
@[simp] theorem State.modPctl_peats (s : State) (f : Pctl → Pctl) : (s.modPctl f).peats = s.peats := rfl
@[simp] theorem State.modPctl_fab (s : State) (f : Pctl → Pctl) : (s.modPctl f).fab = s.fab := rfl
@[simp] theorem State.modPctl_net (s : State) (f : Pctl → Pctl) : (s.modPctl f).net = s.net := rfl
@[simp] theorem State.modPctl_stopped (s : State) (f : Pctl → Pctl) : (s.modPctl f).stopped = s.stopped := rfl
@[simp] theorem State.modPctl_agenda (s : State) (f : Pctl → Pctl) : (s.modPctl f).agenda = s.agenda := rfl
@[simp] theorem State.modPctl_turn (s : State) (f : Pctl → Pctl) : (s.modPctl f).turn = s.turn := rfl
@[simp] theorem State.modPctl_freeCtr (s : State) (f : Pctl → Pctl) : (s.modPctl f).freeCtr = s.freeCtr := rfl
@[simp] theorem State.modPctl_cur (s : State) (f : Pctl → Pctl) : (s.modPctl f).cur = s.cur := rfl
@[simp] theorem State.modPctl_core (s : State) (f : Pctl → Pctl) (l : Nat) : (s.modPctl f).core l = s.core l := rfl
@[simp] theorem State.modPctl_slot (s : State) (f : Pctl → Pctl) (l : Nat) (k : Fin 16) : (s.modPctl f).slot l k = s.slot l k := rfl
@[simp] theorem State.modPctl_cluster (s : State) (f : Pctl → Pctl) (n : Nat) : (s.modPctl f).cluster n = s.cluster n := rfl
@[simp] theorem State.modPctl_die (s : State) (f : Pctl → Pctl) (d : Nat) : (s.modPctl f).die d = s.die d := rfl
@[simp] theorem State.modPctl_bridge (s : State) (f : Pctl → Pctl) (b : Nat) : (s.modPctl f).bridge b = s.bridge b := rfl
@[simp] theorem State.modPctl_ni (s : State) (f : Pctl → Pctl) (a : Nat) : (s.modPctl f).ni a = s.ni a := rfl
@[simp] theorem State.modPctl_present (s : State) (f : Pctl → Pctl) (l : Nat) : (s.modPctl f).present l = s.present l := rfl
@[simp] theorem State.modPctl_me (s : State) (f : Pctl → Pctl) : (s.modPctl f).me = s.me := rfl
@[simp] theorem State.modPctl_thr (s : State) (f : Pctl → Pctl) : (s.modPctl f).thr = s.thr := rfl

@[simp] theorem State.modCtx_time (s : State) (i : Nat) (f : Ctx → Ctx) : (s.modCtx i f).time = s.time := rfl
@[simp] theorem State.modCtx_gtb (s : State) (i : Nat) (f : Ctx → Ctx) : (s.modCtx i f).gtb = s.gtb := by simp [State.gtb]
@[simp] theorem State.modCtx_panelId (s : State) (i : Nat) (f : Ctx → Ctx) : (s.modCtx i f).panelId = s.panelId := rfl
@[simp] theorem State.modCtx_mem (s : State) (i : Nat) (f : Ctx → Ctx) : (s.modCtx i f).mem = s.mem := rfl
@[simp] theorem State.modCtx_cores (s : State) (i : Nat) (f : Ctx → Ctx) : (s.modCtx i f).cores = s.cores := rfl
@[simp] theorem State.modCtx_clusters (s : State) (i : Nat) (f : Ctx → Ctx) : (s.modCtx i f).clusters = s.clusters := rfl
@[simp] theorem State.modCtx_dies (s : State) (i : Nat) (f : Ctx → Ctx) : (s.modCtx i f).dies = s.dies := rfl
@[simp] theorem State.modCtx_bridges (s : State) (i : Nat) (f : Ctx → Ctx) : (s.modCtx i f).bridges = s.bridges := rfl
@[simp] theorem State.modCtx_nis (s : State) (i : Nat) (f : Ctx → Ctx) : (s.modCtx i f).nis = s.nis := rfl
@[simp] theorem State.modCtx_rmap (s : State) (i : Nat) (f : Ctx → Ctx) : (s.modCtx i f).rmap = s.rmap := rfl
@[simp] theorem State.modCtx_dead (s : State) (i : Nat) (f : Ctx → Ctx) : (s.modCtx i f).dead = s.dead := rfl
@[simp] theorem State.modCtx_rlyf (s : State) (i : Nat) (f : Ctx → Ctx) : (s.modCtx i f).rlyf = s.rlyf := rfl
@[simp] theorem State.modCtx_peats (s : State) (i : Nat) (f : Ctx → Ctx) : (s.modCtx i f).peats = s.peats := rfl
@[simp] theorem State.modCtx_fab (s : State) (i : Nat) (f : Ctx → Ctx) : (s.modCtx i f).fab = s.fab := rfl
@[simp] theorem State.modCtx_net (s : State) (i : Nat) (f : Ctx → Ctx) : (s.modCtx i f).net = s.net := rfl
@[simp] theorem State.modCtx_stopped (s : State) (i : Nat) (f : Ctx → Ctx) : (s.modCtx i f).stopped = s.stopped := rfl
@[simp] theorem State.modCtx_agenda (s : State) (i : Nat) (f : Ctx → Ctx) : (s.modCtx i f).agenda = s.agenda := rfl
@[simp] theorem State.modCtx_turn (s : State) (i : Nat) (f : Ctx → Ctx) : (s.modCtx i f).turn = s.turn := rfl
@[simp] theorem State.modCtx_freeCtr (s : State) (i : Nat) (f : Ctx → Ctx) : (s.modCtx i f).freeCtr = s.freeCtr := rfl
@[simp] theorem State.modCtx_cur (s : State) (i : Nat) (f : Ctx → Ctx) : (s.modCtx i f).cur = s.cur := rfl
@[simp] theorem State.modCtx_core (s : State) (i : Nat) (f : Ctx → Ctx) (l : Nat) : (s.modCtx i f).core l = s.core l := rfl
@[simp] theorem State.modCtx_slot (s : State) (i : Nat) (f : Ctx → Ctx) (l : Nat) (k : Fin 16) : (s.modCtx i f).slot l k = s.slot l k := rfl
@[simp] theorem State.modCtx_cluster (s : State) (i : Nat) (f : Ctx → Ctx) (n : Nat) : (s.modCtx i f).cluster n = s.cluster n := rfl
@[simp] theorem State.modCtx_die (s : State) (i : Nat) (f : Ctx → Ctx) (d : Nat) : (s.modCtx i f).die d = s.die d := rfl
@[simp] theorem State.modCtx_bridge (s : State) (i : Nat) (f : Ctx → Ctx) (b : Nat) : (s.modCtx i f).bridge b = s.bridge b := rfl
@[simp] theorem State.modCtx_ni (s : State) (i : Nat) (f : Ctx → Ctx) (a : Nat) : (s.modCtx i f).ni a = s.ni a := rfl
@[simp] theorem State.modCtx_present (s : State) (i : Nat) (f : Ctx → Ctx) (l : Nat) : (s.modCtx i f).present l = s.present l := rfl
@[simp] theorem State.modCtx_me (s : State) (i : Nat) (f : Ctx → Ctx) : (s.modCtx i f).me = s.me := rfl
@[simp] theorem State.modCtx_thr (s : State) (i : Nat) (f : Ctx → Ctx) : (s.modCtx i f).thr = s.thr := rfl

@[simp] theorem State.modFab_time (s : State) (f : Fabric → Fabric) : (s.modFab f).time = s.time := rfl
@[simp] theorem State.modFab_gtb (s : State) (f : Fabric → Fabric) : (s.modFab f).gtb = s.gtb := by simp [State.gtb]
@[simp] theorem State.modFab_panelId (s : State) (f : Fabric → Fabric) : (s.modFab f).panelId = s.panelId := rfl
@[simp] theorem State.modFab_mem (s : State) (f : Fabric → Fabric) : (s.modFab f).mem = s.mem := rfl
@[simp] theorem State.modFab_cores (s : State) (f : Fabric → Fabric) : (s.modFab f).cores = s.cores := rfl
@[simp] theorem State.modFab_clusters (s : State) (f : Fabric → Fabric) : (s.modFab f).clusters = s.clusters := rfl
@[simp] theorem State.modFab_dies (s : State) (f : Fabric → Fabric) : (s.modFab f).dies = s.dies := rfl
@[simp] theorem State.modFab_bridges (s : State) (f : Fabric → Fabric) : (s.modFab f).bridges = s.bridges := rfl
@[simp] theorem State.modFab_nis (s : State) (f : Fabric → Fabric) : (s.modFab f).nis = s.nis := rfl
@[simp] theorem State.modFab_rmap (s : State) (f : Fabric → Fabric) : (s.modFab f).rmap = s.rmap := rfl
@[simp] theorem State.modFab_dead (s : State) (f : Fabric → Fabric) : (s.modFab f).dead = s.dead := rfl
@[simp] theorem State.modFab_rlyf (s : State) (f : Fabric → Fabric) : (s.modFab f).rlyf = s.rlyf := rfl
@[simp] theorem State.modFab_pctl (s : State) (f : Fabric → Fabric) : (s.modFab f).pctl = s.pctl := rfl
@[simp] theorem State.modFab_peats (s : State) (f : Fabric → Fabric) : (s.modFab f).peats = s.peats := rfl
@[simp] theorem State.modFab_net (s : State) (f : Fabric → Fabric) : (s.modFab f).net = s.net := rfl
@[simp] theorem State.modFab_stopped (s : State) (f : Fabric → Fabric) : (s.modFab f).stopped = s.stopped := rfl
@[simp] theorem State.modFab_agenda (s : State) (f : Fabric → Fabric) : (s.modFab f).agenda = s.agenda := rfl
@[simp] theorem State.modFab_turn (s : State) (f : Fabric → Fabric) : (s.modFab f).turn = s.turn := rfl
@[simp] theorem State.modFab_freeCtr (s : State) (f : Fabric → Fabric) : (s.modFab f).freeCtr = s.freeCtr := rfl
@[simp] theorem State.modFab_cur (s : State) (f : Fabric → Fabric) : (s.modFab f).cur = s.cur := rfl
@[simp] theorem State.modFab_core (s : State) (f : Fabric → Fabric) (l : Nat) : (s.modFab f).core l = s.core l := rfl
@[simp] theorem State.modFab_slot (s : State) (f : Fabric → Fabric) (l : Nat) (k : Fin 16) : (s.modFab f).slot l k = s.slot l k := rfl
@[simp] theorem State.modFab_cluster (s : State) (f : Fabric → Fabric) (n : Nat) : (s.modFab f).cluster n = s.cluster n := rfl
@[simp] theorem State.modFab_die (s : State) (f : Fabric → Fabric) (d : Nat) : (s.modFab f).die d = s.die d := rfl
@[simp] theorem State.modFab_bridge (s : State) (f : Fabric → Fabric) (b : Nat) : (s.modFab f).bridge b = s.bridge b := rfl
@[simp] theorem State.modFab_ni (s : State) (f : Fabric → Fabric) (a : Nat) : (s.modFab f).ni a = s.ni a := rfl
@[simp] theorem State.modFab_ctx (s : State) (f : Fabric → Fabric) (c : Nat) : (s.modFab f).ctx c = s.ctx c := rfl
@[simp] theorem State.modFab_present (s : State) (f : Fabric → Fabric) (l : Nat) : (s.modFab f).present l = s.present l := rfl
@[simp] theorem State.modFab_me (s : State) (f : Fabric → Fabric) : (s.modFab f).me = s.me := rfl
@[simp] theorem State.modFab_thr (s : State) (f : Fabric → Fabric) : (s.modFab f).thr = s.thr := rfl

@[simp] theorem State.modMem_time (s : State) (f : Mem → Mem) : (s.modMem f).time = s.time := rfl
@[simp] theorem State.modMem_gtb (s : State) (f : Mem → Mem) : (s.modMem f).gtb = s.gtb := by simp [State.gtb]
@[simp] theorem State.modMem_panelId (s : State) (f : Mem → Mem) : (s.modMem f).panelId = s.panelId := rfl
@[simp] theorem State.modMem_cores (s : State) (f : Mem → Mem) : (s.modMem f).cores = s.cores := rfl
@[simp] theorem State.modMem_clusters (s : State) (f : Mem → Mem) : (s.modMem f).clusters = s.clusters := rfl
@[simp] theorem State.modMem_dies (s : State) (f : Mem → Mem) : (s.modMem f).dies = s.dies := rfl
@[simp] theorem State.modMem_bridges (s : State) (f : Mem → Mem) : (s.modMem f).bridges = s.bridges := rfl
@[simp] theorem State.modMem_nis (s : State) (f : Mem → Mem) : (s.modMem f).nis = s.nis := rfl
@[simp] theorem State.modMem_rmap (s : State) (f : Mem → Mem) : (s.modMem f).rmap = s.rmap := rfl
@[simp] theorem State.modMem_dead (s : State) (f : Mem → Mem) : (s.modMem f).dead = s.dead := rfl
@[simp] theorem State.modMem_rlyf (s : State) (f : Mem → Mem) : (s.modMem f).rlyf = s.rlyf := rfl
@[simp] theorem State.modMem_pctl (s : State) (f : Mem → Mem) : (s.modMem f).pctl = s.pctl := rfl
@[simp] theorem State.modMem_peats (s : State) (f : Mem → Mem) : (s.modMem f).peats = s.peats := rfl
@[simp] theorem State.modMem_fab (s : State) (f : Mem → Mem) : (s.modMem f).fab = s.fab := rfl
@[simp] theorem State.modMem_net (s : State) (f : Mem → Mem) : (s.modMem f).net = s.net := rfl
@[simp] theorem State.modMem_stopped (s : State) (f : Mem → Mem) : (s.modMem f).stopped = s.stopped := rfl
@[simp] theorem State.modMem_agenda (s : State) (f : Mem → Mem) : (s.modMem f).agenda = s.agenda := rfl
@[simp] theorem State.modMem_turn (s : State) (f : Mem → Mem) : (s.modMem f).turn = s.turn := rfl
@[simp] theorem State.modMem_freeCtr (s : State) (f : Mem → Mem) : (s.modMem f).freeCtr = s.freeCtr := rfl
@[simp] theorem State.modMem_cur (s : State) (f : Mem → Mem) : (s.modMem f).cur = s.cur := rfl
@[simp] theorem State.modMem_core (s : State) (f : Mem → Mem) (l : Nat) : (s.modMem f).core l = s.core l := rfl
@[simp] theorem State.modMem_slot (s : State) (f : Mem → Mem) (l : Nat) (k : Fin 16) : (s.modMem f).slot l k = s.slot l k := rfl
@[simp] theorem State.modMem_cluster (s : State) (f : Mem → Mem) (n : Nat) : (s.modMem f).cluster n = s.cluster n := rfl
@[simp] theorem State.modMem_die (s : State) (f : Mem → Mem) (d : Nat) : (s.modMem f).die d = s.die d := rfl
@[simp] theorem State.modMem_bridge (s : State) (f : Mem → Mem) (b : Nat) : (s.modMem f).bridge b = s.bridge b := rfl
@[simp] theorem State.modMem_ni (s : State) (f : Mem → Mem) (a : Nat) : (s.modMem f).ni a = s.ni a := rfl
@[simp] theorem State.modMem_ctx (s : State) (f : Mem → Mem) (c : Nat) : (s.modMem f).ctx c = s.ctx c := rfl
@[simp] theorem State.modMem_present (s : State) (f : Mem → Mem) (l : Nat) : (s.modMem f).present l = s.present l := rfl
@[simp] theorem State.modMem_me (s : State) (f : Mem → Mem) : (s.modMem f).me = s.me := rfl
@[simp] theorem State.modMem_thr (s : State) (f : Mem → Mem) : (s.modMem f).thr = s.thr := rfl

@[simp] theorem State.send_time (s : State) (m : Msg) : (s.send m).time = s.time := rfl
@[simp] theorem State.send_gtb (s : State) (m : Msg) : (s.send m).gtb = s.gtb := by simp [State.gtb]
@[simp] theorem State.send_panelId (s : State) (m : Msg) : (s.send m).panelId = s.panelId := rfl
@[simp] theorem State.send_mem (s : State) (m : Msg) : (s.send m).mem = s.mem := rfl
@[simp] theorem State.send_cores (s : State) (m : Msg) : (s.send m).cores = s.cores := rfl
@[simp] theorem State.send_clusters (s : State) (m : Msg) : (s.send m).clusters = s.clusters := rfl
@[simp] theorem State.send_dies (s : State) (m : Msg) : (s.send m).dies = s.dies := rfl
@[simp] theorem State.send_bridges (s : State) (m : Msg) : (s.send m).bridges = s.bridges := rfl
@[simp] theorem State.send_nis (s : State) (m : Msg) : (s.send m).nis = s.nis := rfl
@[simp] theorem State.send_rmap (s : State) (m : Msg) : (s.send m).rmap = s.rmap := rfl
@[simp] theorem State.send_dead (s : State) (m : Msg) : (s.send m).dead = s.dead := rfl
@[simp] theorem State.send_rlyf (s : State) (m : Msg) : (s.send m).rlyf = s.rlyf := rfl
@[simp] theorem State.send_pctl (s : State) (m : Msg) : (s.send m).pctl = s.pctl := rfl
@[simp] theorem State.send_peats (s : State) (m : Msg) : (s.send m).peats = s.peats := rfl
@[simp] theorem State.send_fab (s : State) (m : Msg) : (s.send m).fab = s.fab := rfl
@[simp] theorem State.send_stopped (s : State) (m : Msg) : (s.send m).stopped = s.stopped := rfl
@[simp] theorem State.send_agenda (s : State) (m : Msg) : (s.send m).agenda = s.agenda := rfl
@[simp] theorem State.send_turn (s : State) (m : Msg) : (s.send m).turn = s.turn := rfl
@[simp] theorem State.send_freeCtr (s : State) (m : Msg) : (s.send m).freeCtr = s.freeCtr := rfl
@[simp] theorem State.send_cur (s : State) (m : Msg) : (s.send m).cur = s.cur := rfl
@[simp] theorem State.send_core (s : State) (m : Msg) (l : Nat) : (s.send m).core l = s.core l := rfl
@[simp] theorem State.send_slot (s : State) (m : Msg) (l : Nat) (k : Fin 16) : (s.send m).slot l k = s.slot l k := rfl
@[simp] theorem State.send_cluster (s : State) (m : Msg) (n : Nat) : (s.send m).cluster n = s.cluster n := rfl
@[simp] theorem State.send_die (s : State) (m : Msg) (d : Nat) : (s.send m).die d = s.die d := rfl
@[simp] theorem State.send_bridge (s : State) (m : Msg) (b : Nat) : (s.send m).bridge b = s.bridge b := rfl
@[simp] theorem State.send_ni (s : State) (m : Msg) (a : Nat) : (s.send m).ni a = s.ni a := rfl
@[simp] theorem State.send_ctx (s : State) (m : Msg) (c : Nat) : (s.send m).ctx c = s.ctx c := rfl
@[simp] theorem State.send_present (s : State) (m : Msg) (l : Nat) : (s.send m).present l = s.present l := rfl
@[simp] theorem State.send_me (s : State) (m : Msg) : (s.send m).me = s.me := rfl
@[simp] theorem State.send_thr (s : State) (m : Msg) : (s.send m).thr = s.thr := rfl

@[simp] theorem State.tickFree_time (s : State) : (s.tickFree).time = s.time := rfl
@[simp] theorem State.tickFree_gtb (s : State) : (s.tickFree).gtb = s.gtb := by simp [State.gtb]
@[simp] theorem State.tickFree_panelId (s : State) : (s.tickFree).panelId = s.panelId := rfl
@[simp] theorem State.tickFree_mem (s : State) : (s.tickFree).mem = s.mem := rfl
@[simp] theorem State.tickFree_cores (s : State) : (s.tickFree).cores = s.cores := rfl
@[simp] theorem State.tickFree_clusters (s : State) : (s.tickFree).clusters = s.clusters := rfl
@[simp] theorem State.tickFree_dies (s : State) : (s.tickFree).dies = s.dies := rfl
@[simp] theorem State.tickFree_bridges (s : State) : (s.tickFree).bridges = s.bridges := rfl
@[simp] theorem State.tickFree_nis (s : State) : (s.tickFree).nis = s.nis := rfl
@[simp] theorem State.tickFree_rmap (s : State) : (s.tickFree).rmap = s.rmap := rfl
@[simp] theorem State.tickFree_dead (s : State) : (s.tickFree).dead = s.dead := rfl
@[simp] theorem State.tickFree_rlyf (s : State) : (s.tickFree).rlyf = s.rlyf := rfl
@[simp] theorem State.tickFree_pctl (s : State) : (s.tickFree).pctl = s.pctl := rfl
@[simp] theorem State.tickFree_peats (s : State) : (s.tickFree).peats = s.peats := rfl
@[simp] theorem State.tickFree_fab (s : State) : (s.tickFree).fab = s.fab := rfl
@[simp] theorem State.tickFree_net (s : State) : (s.tickFree).net = s.net := rfl
@[simp] theorem State.tickFree_stopped (s : State) : (s.tickFree).stopped = s.stopped := rfl
@[simp] theorem State.tickFree_agenda (s : State) : (s.tickFree).agenda = s.agenda := rfl
@[simp] theorem State.tickFree_turn (s : State) : (s.tickFree).turn = s.turn := rfl
@[simp] theorem State.tickFree_cur (s : State) : (s.tickFree).cur = s.cur := rfl
@[simp] theorem State.tickFree_core (s : State) (l : Nat) : (s.tickFree).core l = s.core l := rfl
@[simp] theorem State.tickFree_slot (s : State) (l : Nat) (k : Fin 16) : (s.tickFree).slot l k = s.slot l k := rfl
@[simp] theorem State.tickFree_cluster (s : State) (n : Nat) : (s.tickFree).cluster n = s.cluster n := rfl
@[simp] theorem State.tickFree_die (s : State) (d : Nat) : (s.tickFree).die d = s.die d := rfl
@[simp] theorem State.tickFree_bridge (s : State) (b : Nat) : (s.tickFree).bridge b = s.bridge b := rfl
@[simp] theorem State.tickFree_ni (s : State) (a : Nat) : (s.tickFree).ni a = s.ni a := rfl
@[simp] theorem State.tickFree_ctx (s : State) (c : Nat) : (s.tickFree).ctx c = s.ctx c := rfl
@[simp] theorem State.tickFree_present (s : State) (l : Nat) : (s.tickFree).present l = s.present l := rfl
@[simp] theorem State.tickFree_me (s : State) : (s.tickFree).me = s.me := rfl
@[simp] theorem State.tickFree_thr (s : State) : (s.tickFree).thr = s.thr := rfl

@[simp] theorem State.onSlot_time (s : State) (i : Nat) (j : Fin 16) : (s.onSlot i j).time = s.time := rfl
@[simp] theorem State.onSlot_gtb (s : State) (i : Nat) (j : Fin 16) : (s.onSlot i j).gtb = s.gtb := by simp [State.gtb]
@[simp] theorem State.onSlot_panelId (s : State) (i : Nat) (j : Fin 16) : (s.onSlot i j).panelId = s.panelId := rfl
@[simp] theorem State.onSlot_mem (s : State) (i : Nat) (j : Fin 16) : (s.onSlot i j).mem = s.mem := rfl
@[simp] theorem State.onSlot_cores (s : State) (i : Nat) (j : Fin 16) : (s.onSlot i j).cores = s.cores := rfl
@[simp] theorem State.onSlot_clusters (s : State) (i : Nat) (j : Fin 16) : (s.onSlot i j).clusters = s.clusters := rfl
@[simp] theorem State.onSlot_dies (s : State) (i : Nat) (j : Fin 16) : (s.onSlot i j).dies = s.dies := rfl
@[simp] theorem State.onSlot_bridges (s : State) (i : Nat) (j : Fin 16) : (s.onSlot i j).bridges = s.bridges := rfl
@[simp] theorem State.onSlot_nis (s : State) (i : Nat) (j : Fin 16) : (s.onSlot i j).nis = s.nis := rfl
@[simp] theorem State.onSlot_rmap (s : State) (i : Nat) (j : Fin 16) : (s.onSlot i j).rmap = s.rmap := rfl
@[simp] theorem State.onSlot_dead (s : State) (i : Nat) (j : Fin 16) : (s.onSlot i j).dead = s.dead := rfl
@[simp] theorem State.onSlot_rlyf (s : State) (i : Nat) (j : Fin 16) : (s.onSlot i j).rlyf = s.rlyf := rfl
@[simp] theorem State.onSlot_pctl (s : State) (i : Nat) (j : Fin 16) : (s.onSlot i j).pctl = s.pctl := rfl
@[simp] theorem State.onSlot_peats (s : State) (i : Nat) (j : Fin 16) : (s.onSlot i j).peats = s.peats := rfl
@[simp] theorem State.onSlot_fab (s : State) (i : Nat) (j : Fin 16) : (s.onSlot i j).fab = s.fab := rfl
@[simp] theorem State.onSlot_net (s : State) (i : Nat) (j : Fin 16) : (s.onSlot i j).net = s.net := rfl
@[simp] theorem State.onSlot_stopped (s : State) (i : Nat) (j : Fin 16) : (s.onSlot i j).stopped = s.stopped := rfl
@[simp] theorem State.onSlot_agenda (s : State) (i : Nat) (j : Fin 16) : (s.onSlot i j).agenda = s.agenda := rfl
@[simp] theorem State.onSlot_turn (s : State) (i : Nat) (j : Fin 16) : (s.onSlot i j).turn = s.turn := rfl
@[simp] theorem State.onSlot_freeCtr (s : State) (i : Nat) (j : Fin 16) : (s.onSlot i j).freeCtr = s.freeCtr := rfl
@[simp] theorem State.onSlot_core (s : State) (i : Nat) (j : Fin 16) (l : Nat) : (s.onSlot i j).core l = s.core l := rfl
@[simp] theorem State.onSlot_slot (s : State) (i : Nat) (j : Fin 16) (l : Nat) (k : Fin 16) : (s.onSlot i j).slot l k = s.slot l k := rfl
@[simp] theorem State.onSlot_cluster (s : State) (i : Nat) (j : Fin 16) (n : Nat) : (s.onSlot i j).cluster n = s.cluster n := rfl
@[simp] theorem State.onSlot_die (s : State) (i : Nat) (j : Fin 16) (d : Nat) : (s.onSlot i j).die d = s.die d := rfl
@[simp] theorem State.onSlot_bridge (s : State) (i : Nat) (j : Fin 16) (b : Nat) : (s.onSlot i j).bridge b = s.bridge b := rfl
@[simp] theorem State.onSlot_ni (s : State) (i : Nat) (j : Fin 16) (a : Nat) : (s.onSlot i j).ni a = s.ni a := rfl
@[simp] theorem State.onSlot_ctx (s : State) (i : Nat) (j : Fin 16) (c : Nat) : (s.onSlot i j).ctx c = s.ctx c := rfl
@[simp] theorem State.onSlot_present (s : State) (i : Nat) (j : Fin 16) (l : Nat) : (s.onSlot i j).present l = s.present l := rfl

/-! ## Parts that an update writes -/

@[simp] theorem State.modMem_mem (s : State) (f : Mem → Mem) : (s.modMem f).mem = f s.mem := rfl
@[simp] theorem State.send_net (s : State) (m : Msg) : (s.send m).net = s.net ++ [m] := rfl
@[simp] theorem State.modPctl_pctl (s : State) (f : Pctl → Pctl) : (s.modPctl f).pctl = f s.pctl := rfl
@[simp] theorem State.modFab_fab (s : State) (f : Fabric → Fabric) : (s.modFab f).fab = f s.fab := rfl
@[simp] theorem State.onSlot_cur (s : State) (l : Nat) (k : Fin 16) : (s.onSlot l k).cur = ⟨l, k⟩ := rfl
@[simp] theorem State.onSlot_thr (s : State) (l : Nat) (k : Fin 16) : (s.onSlot l k).thr = s.slot l k := rfl
@[simp] theorem State.onSlot_me (s : State) (l : Nat) (k : Fin 16) : (s.onSlot l k).me = s.core l := rfl
@[simp] theorem State.ni_modNi (s : State) (a : Nat) (f : Ni → Ni) : (s.modNi a f).ni a = f (s.ni a) := by
  simp [State.ni, State.modNi]
@[simp] theorem State.cluster_modCluster (s : State) (n : Nat) (f : Cluster → Cluster) :
    (s.modCluster n f).cluster n = f (s.cluster n) := by simp [State.cluster, State.modCluster]
@[simp] theorem State.die_modDie (s : State) (d : Nat) (f : Die → Die) : (s.modDie d f).die d = f (s.die d) := by
  simp [State.die, State.modDie]
@[simp] theorem State.bridge_modBridge (s : State) (b : Nat) (f : MemBridge → MemBridge) :
    (s.modBridge b f).bridge b = f (s.bridge b) := by simp [State.bridge, State.modBridge]
@[simp] theorem State.ctx_modCtx (s : State) (c : Nat) (f : Ctx → Ctx) : (s.modCtx c f).ctx c = f (s.ctx c) := by
  simp [State.ctx, State.modCtx]
theorem State.ni_modNi_of_ne (s : State) {a b : Nat} (f : Ni → Ni) (h : b ≠ a) : (s.modNi a f).ni b = s.ni b := by
  simp [State.ni, State.modNi, Fmap.get_set_of_ne _ _ _ h]
theorem State.ctx_modCtx_of_ne (s : State) {a b : Nat} (f : Ctx → Ctx) (h : b ≠ a) : (s.modCtx a f).ctx b = s.ctx b := by
  simp [State.ctx, State.modCtx, Fmap.get_set_of_ne _ _ _ h]
theorem State.die_modDie_of_ne (s : State) {a b : Nat} (f : Die → Die) (h : b ≠ a) : (s.modDie a f).die b = s.die b := by
  simp [State.die, State.modDie, Fmap.get_set_of_ne _ _ _ h]
theorem State.core_modSlot (s : State) (l : Nat) (k : Fin 16) (f : Slot → Slot) :
    (s.modSlot l k f).core l = (s.core l).modSlot k f := State.core_modCore s l _

/-! ## The executing thread -/

@[simp] theorem State.thr_modThr (s : State) (f : Slot → Slot) : (s.modThr f).thr = f s.thr := by
  simp [State.thr, State.modThr]
@[simp] theorem State.me_modMe (s : State) (f : Core → Core) : (s.modMe f).me = f s.me := by simp [State.me, State.modMe]
theorem State.thr_modMe (s : State) (f : Core → Core) : (s.modMe f).thr = (f s.me).slot s.cur.slot := by
  simp [State.thr, State.slot, State.modMe, State.me]
theorem State.me_modThr (s : State) (f : Slot → Slot) : (s.modThr f).me = s.me.modSlot s.cur.slot f := by
  simp [State.me, State.modThr, State.modSlot]
@[simp] theorem Core.modSlot_sysr (c : Core) (k : Fin 16) (f : Slot → Slot) : (c.modSlot k f).sysr = c.sysr := rfl
@[simp] theorem Core.modSlot_sys (c : Core) (k : Fin 16) (f : Slot → Slot) (n : Nat) : (c.modSlot k f).sys n = c.sys n := rfl
@[simp] theorem Core.modSlot_lastW (c : Core) (k : Fin 16) (f : Slot → Slot) : (c.modSlot k f).lastW = c.lastW := rfl
@[simp] theorem Core.modSlot_dq (c : Core) (k : Fin 16) (f : Slot → Slot) : (c.modSlot k f).dq = c.dq := rfl
@[simp] theorem Core.modSlot_pushes (c : Core) (k : Fin 16) (f : Slot → Slot) : (c.modSlot k f).pushes = c.pushes := rfl
@[simp] theorem Core.modSlot_steal (c : Core) (k : Fin 16) (f : Slot → Slot) : (c.modSlot k f).steal = c.steal := rfl
@[simp] theorem Core.modSlot_handles (c : Core) (k : Fin 16) (f : Slot → Slot) : (c.modSlot k f).handles = c.handles := rfl
@[simp] theorem Core.modSlot_waits (c : Core) (k : Fin 16) (f : Slot → Slot) : (c.modSlot k f).waits = c.waits := rfl
@[simp] theorem Core.modSlot_links (c : Core) (k : Fin 16) (f : Slot → Slot) : (c.modSlot k f).links = c.links := rfl
@[simp] theorem Core.modSlot_tlb (c : Core) (k : Fin 16) (f : Slot → Slot) : (c.modSlot k f).tlb = c.tlb := rfl
@[simp] theorem Core.modSlot_lines (c : Core) (k : Fin 16) (f : Slot → Slot) : (c.modSlot k f).lines = c.lines := rfl
@[simp] theorem Core.modSlot_veng (c : Core) (k : Fin 16) (f : Slot → Slot) : (c.modSlot k f).veng = c.veng := rfl
@[simp] theorem Core.modSlot_meng (c : Core) (k : Fin 16) (f : Slot → Slot) : (c.modSlot k f).meng = c.meng := rfl
@[simp] theorem Core.modSlot_cq (c : Core) (k : Fin 16) (f : Slot → Slot) : (c.modSlot k f).cq = c.cq := rfl
@[simp] theorem Core.modSlot_cmdNo (c : Core) (k : Fin 16) (f : Slot → Slot) : (c.modSlot k f).cmdNo = c.cmdNo := rfl
@[simp] theorem Core.modSlot_bs (c : Core) (k : Fin 16) (f : Slot → Slot) : (c.modSlot k f).bs = c.bs := rfl
@[simp] theorem Core.modSlot_bars (c : Core) (k : Fin 16) (f : Slot → Slot) : (c.modSlot k f).bars = c.bars := rfl
@[simp] theorem Core.modSlot_sw (c : Core) (k : Fin 16) (f : Slot → Slot) : (c.modSlot k f).sw = c.sw := rfl
@[simp] theorem Core.modSlot_mt (c : Core) (k : Fin 16) (f : Slot → Slot) : (c.modSlot k f).mt = c.mt := rfl
@[simp] theorem Core.modSlot_reqs (c : Core) (k : Fin 16) (f : Slot → Slot) : (c.modSlot k f).reqs = c.reqs := rfl
@[simp] theorem Core.modSlot_colls (c : Core) (k : Fin 16) (f : Slot → Slot) : (c.modSlot k f).colls = c.colls := rfl
@[simp] theorem Core.modSlot_gparts (c : Core) (k : Fin 16) (f : Slot → Slot) : (c.modSlot k f).gparts = c.gparts := rfl
@[simp] theorem Core.modSlot_flt (c : Core) (k : Fin 16) (f : Slot → Slot) : (c.modSlot k f).flt = c.flt := rfl
@[simp] theorem Core.modSlot_health (c : Core) (k : Fin 16) (f : Slot → Slot) : (c.modSlot k f).health = c.health := rfl
@[simp] theorem Core.modSlot_ckpt (c : Core) (k : Fin 16) (f : Slot → Slot) : (c.modSlot k f).ckpt = c.ckpt := rfl
@[simp] theorem Core.modSlot_diverted (c : Core) (k : Fin 16) (f : Slot → Slot) : (c.modSlot k f).diverted = c.diverted := rfl
@[simp] theorem Core.modSlot_stopping (c : Core) (k : Fin 16) (f : Slot → Slot) : (c.modSlot k f).stopping = c.stopping := rfl
@[simp] theorem Core.modSlot_ctxid (c : Core) (k : Fin 16) (f : Slot → Slot) : (c.modSlot k f).ctxid = c.ctxid := rfl
@[simp] theorem Core.modSlot_level (c : Core) (k : Fin 16) (f : Slot → Slot) : (c.modSlot k f).level = c.level := rfl
@[simp] theorem State.level_modThr (s : State) (f : Slot → Slot) : (s.modThr f).me.level = s.me.level := by
  simp [State.me_modThr]
@[simp] theorem State.sys_modThr (s : State) (f : Slot → Slot) (n : Nat) : (s.modThr f).me.sys n = s.me.sys n := by
  simp [State.me_modThr]

/-! ## Registers -/

@[simp] theorem Slot.rx_zero (t : Slot) : t.rx 0 = 0 := rfl
@[simp] theorem Slot.setX_zero (t : Slot) (w : Word) : t.setX 0 w = t := rfl
@[simp] theorem Slot.rx_setX (t : Slot) {d : Fin 32} (w : Word) (h : d ≠ 0) : (t.setX d w).rx d = w := by
  simp [Slot.rx, Slot.setX, h]
theorem Slot.rx_setX_of_ne (t : Slot) {d r : Fin 32} (w : Word) (h : r ≠ d) : (t.setX d w).rx r = t.rx r := by
  have : d.val ≠ r.val := fun e => h (Fin.ext e.symm)
  by_cases hd : d = 0 <;> simp [Slot.rx, Slot.setX, hd, this]
@[simp] theorem Slot.rg_setG (t : Slot) {d : Fin 16} (b : Bool) (h : d ≠ 0) : (t.setG d b).rg d = b := by
  simp [Slot.rg, Slot.setG, h]
theorem Slot.rg_setG_of_ne (t : Slot) {d r : Fin 16} (b : Bool) (h : r ≠ d) : (t.setG d b).rg r = t.rg r := by
  have : d.val ≠ r.val := fun e => h (Fin.ext e.symm)
  by_cases hd : d = 0 <;> simp [Slot.rg, Slot.setG, hd, this]
@[simp] theorem Slot.rg_zero (t : Slot) : t.rg 0 = true := rfl
@[simp] theorem Slot.setX_ctl (t : Slot) (d : Fin 32) (w : Word) : (t.setX d w).ctl = t.ctl := by
  unfold Slot.setX; split <;> rfl
@[simp] theorem Slot.setG_ctl (t : Slot) (d : Fin 16) (b : Bool) : (t.setG d b).ctl = t.ctl := by
  unfold Slot.setG; split <;> rfl
@[simp] theorem Slot.setX_binds (t : Slot) (d : Fin 32) (w : Word) : (t.setX d w).binds = t.binds := by
  unfold Slot.setX; split <;> rfl
@[simp] theorem Slot.setG_binds (t : Slot) (d : Fin 16) (b : Bool) : (t.setG d b).binds = t.binds := by
  unfold Slot.setG; split <;> rfl
@[simp] theorem Slot.setX_iss (t : Slot) (d : Fin 32) (w : Word) : (t.setX d w).iss = t.iss := by
  unfold Slot.setX; split <;> rfl
@[simp] theorem Slot.setX_pc (t : Slot) (d : Fin 32) (w : Word) : (t.setX d w).pc = t.pc := by
  unfold Slot.setX; split <;> rfl

/-! ## The start of an instruction -/

@[simp] theorem State.begin_cur (s : State) : s.begin.cur = s.cur := rfl
@[simp] theorem State.begin_mem (s : State) : s.begin.mem = s.mem := rfl
@[simp] theorem State.begin_time (s : State) : s.begin.time = s.time := rfl
@[simp] theorem State.begin_gtb (s : State) : s.begin.gtb = s.gtb := by simp [State.gtb]
@[simp] theorem State.begin_net (s : State) : s.begin.net = s.net := rfl
theorem State.begin_thr (s : State) : s.begin.thr = { s.thr with ctl := .seq } := State.thr_modThr s _
@[simp] theorem State.begin_state (s : State) : s.begin.thr.state = s.thr.state := by simp [State.begin_thr]
@[simp] theorem State.begin_park (s : State) : s.begin.thr.park = s.thr.park := by simp [State.begin_thr]
@[simp] theorem State.begin_pc (s : State) : s.begin.thr.pc = s.thr.pc := by simp [State.begin_thr]
@[simp] theorem State.begin_regs (s : State) : s.begin.thr.regs = s.thr.regs := by simp [State.begin_thr]
@[simp] theorem State.begin_loops (s : State) : s.begin.thr.loops = s.thr.loops := by simp [State.begin_thr]
@[simp] theorem State.begin_ev (s : State) : s.begin.thr.ev = s.thr.ev := by simp [State.begin_thr]
@[simp] theorem State.begin_evMask (s : State) : s.begin.thr.evMask = s.thr.evMask := by simp [State.begin_thr]
@[simp] theorem State.begin_watch (s : State) : s.begin.thr.watch = s.thr.watch := by simp [State.begin_thr]
@[simp] theorem State.begin_binds (s : State) : s.begin.thr.binds = s.thr.binds := by simp [State.begin_thr]
@[simp] theorem State.begin_held (s : State) : s.begin.thr.held = s.thr.held := by simp [State.begin_thr]
@[simp] theorem State.begin_barw (s : State) : s.begin.thr.barw = s.thr.barw := by simp [State.begin_thr]
@[simp] theorem State.begin_ctr (s : State) : s.begin.thr.ctr = s.thr.ctr := by simp [State.begin_thr]
@[simp] theorem State.begin_lfsr (s : State) : s.begin.thr.lfsr = s.thr.lfsr := by simp [State.begin_thr]
@[simp] theorem State.begin_record (s : State) : s.begin.thr.record = s.thr.record := by simp [State.begin_thr]
@[simp] theorem State.begin_fresh (s : State) : s.begin.thr.fresh = s.thr.fresh := by simp [State.begin_thr]
@[simp] theorem State.begin_pri (s : State) : s.begin.thr.pri = s.thr.pri := by simp [State.begin_thr]
@[simp] theorem State.begin_until (s : State) : s.begin.thr.until_ = s.thr.until_ := by simp [State.begin_thr]
@[simp] theorem State.begin_nap (s : State) : s.begin.thr.nap = s.thr.nap := by simp [State.begin_thr]
@[simp] theorem State.begin_path (s : State) : s.begin.thr.path = s.thr.path := by simp [State.begin_thr]
@[simp] theorem State.begin_outst (s : State) : s.begin.thr.outst = s.thr.outst := by simp [State.begin_thr]
@[simp] theorem State.begin_acq (s : State) : s.begin.thr.acq = s.thr.acq := by simp [State.begin_thr]
@[simp] theorem State.begin_engOut (s : State) : s.begin.thr.engOut = s.thr.engOut := by simp [State.begin_thr]
@[simp] theorem State.begin_iss (s : State) : s.begin.thr.iss = s.thr.iss := by simp [State.begin_thr]
@[simp] theorem State.begin_refused (s : State) : s.begin.thr.refused = s.thr.refused := by simp [State.begin_thr]
@[simp] theorem State.begin_late (s : State) : s.begin.thr.late = s.thr.late := by simp [State.begin_thr]
@[simp] theorem State.begin_buf (s : State) : s.begin.thr.buf = s.thr.buf := by simp [State.begin_thr]
@[simp] theorem State.begin_mark (s : State) : s.begin.thr.mark = s.thr.mark := by simp [State.begin_thr]
@[simp] theorem State.begin_load (s : State) : s.begin.thr.load = s.thr.load := by simp [State.begin_thr]
@[simp] theorem State.begin_level (s : State) : s.begin.me.level = s.me.level := State.level_modThr s _
@[simp] theorem State.begin_sys (s : State) (n : Nat) : s.begin.me.sys n = s.me.sys n := State.sys_modThr s _ n
@[simp] theorem State.begin_ctl (s : State) : s.begin.thr.ctl = .seq := by simp [State.begin_thr]
@[simp] theorem State.begin_quiet (s : State) : s.begin.thr.quiet = s.thr.quiet := by simp [Slot.quiet]

end Sys2Proof.Machine
end

