-- ==== Sys2Proof/Laws/Memory.lean ====
section
/-! SUPPORT. Memory: its canonical form is kept by every operation, and a read after a write gives the value written. -/

namespace Sys2Proof.Machine

/-! ## The canonical form as an order -/

theorem cellsWf_iff (l : List Host.Cell) :
    cellsWf l = true ↔ l.Pairwise (fun a b => a.1 < b.1) ∧ ∀ e ∈ l, e.2 ≠ 0 := by
  induction l with
  | nil => simp [cellsWf]
  | cons e t ih =>
    rcases e with ⟨a, b⟩
    cases t with
    | nil => simp [cellsWf]
    | cons e' t =>
      rcases e' with ⟨a', b'⟩
      simp only [cellsWf, Bool.and_eq_true, bne_iff_ne, ne_eq, decide_eq_true_eq, ih]
      simp only [List.pairwise_cons, List.mem_cons, forall_eq_or_imp]
      constructor
      · rintro ⟨⟨hb, hlt⟩, ⟨hp, hq⟩, h0, hz⟩
        exact ⟨⟨⟨hlt, fun x hx => Nat.lt_trans hlt (hp x hx)⟩, hp, hq⟩, hb, h0, hz⟩
      · rintro ⟨⟨⟨hlt, -⟩, hp, hq⟩, hb, h0, hz⟩
        exact ⟨⟨hb, hlt⟩, ⟨hp, hq⟩, h0, hz⟩

theorem marksWf_iff (l : List Nat) : marksWf l = true ↔ l.Pairwise (· < ·) := by
  induction l with
  | nil => simp [marksWf]
  | cons a t ih =>
    cases t with
    | nil => simp [marksWf]
    | cons b t =>
      simp only [marksWf, Bool.and_eq_true, decide_eq_true_eq, ih, List.pairwise_cons, List.mem_cons, forall_eq_or_imp]
      constructor
      · rintro ⟨h, hb, ht⟩; exact ⟨⟨h, fun x hx => Nat.lt_trans h (hb x hx)⟩, hb, ht⟩
      · rintro ⟨⟨h, -⟩, hb, ht⟩; exact ⟨h, hb, ht⟩

/-! ## Cells -/

theorem Cells.mem_write {l : List Host.Cell} {a : Nat} {b : Byte} {e : Host.Cell} (h : e ∈ Cells.write l a b) :
    e ∈ l ∨ (e = (a, b) ∧ b ≠ 0) := by
  induction l with
  | nil => unfold Cells.write at h; split at h <;> simp_all [Cells.blank]
  | cons x t ih =>
    rcases x with ⟨a', b'⟩
    unfold Cells.write at h
    (repeat' split at h) <;> simp_all [Cells.blank] <;> grind

theorem Cells.write_wf {l : List Host.Cell} (a : Nat) (b : Byte) (h : cellsWf l = true) :
    cellsWf (Cells.write l a b) = true := by
  rw [cellsWf_iff] at h ⊢
  refine ⟨?_, fun e he => (Cells.mem_write he).elim (h.2 e) fun x => x.1 ▸ x.2⟩
  obtain ⟨hp, -⟩ := h
  induction l with
  | nil => unfold Cells.write; split <;> simp
  | cons x t ih =>
    rcases x with ⟨a', b'⟩
    rw [List.pairwise_cons] at hp
    unfold Cells.write
    (repeat' split)
    · exact List.pairwise_cons.2 hp
    · rename_i hlt _
      refine List.pairwise_cons.2 ⟨fun e he => ?_, List.pairwise_cons.2 hp⟩
      rcases List.mem_cons.1 he with rfl | he
      · exact hlt
      · exact Nat.lt_trans hlt (hp.1 e he)
    · exact hp.2
    · rename_i e _; subst e; exact List.pairwise_cons.2 hp
    · refine List.pairwise_cons.2 ⟨fun e he => ?_, ih hp.2⟩
      rcases Cells.mem_write he with he | ⟨rfl, -⟩
      · exact hp.1 e he
      · omega

theorem Cells.writes_wf {l : List Host.Cell} (a : Nat) (bs : List Byte) (h : cellsWf l = true) :
    cellsWf (Cells.writes l a bs) = true := by
  induction bs generalizing l a with
  | nil => simpa [Cells.writes]
  | cons b t ih => exact ih (a + 1) (Cells.write_wf a b h)

theorem Cells.filter_wf {l : List Host.Cell} (p : Host.Cell → Bool) (h : cellsWf l = true) :
    cellsWf (l.filter p) = true := by
  rw [cellsWf_iff] at h ⊢
  exact ⟨h.1.filter p, fun e he => h.2 e (List.mem_filter.1 he).1⟩

theorem Cells.read_of_lt {l : List Host.Cell} {a : Nat} (h : ∀ e ∈ l, a < e.1) : Cells.read l a = 0 := by
  induction l with
  | nil => rfl
  | cons x t ih =>
    have := h x (by simp)
    unfold Cells.read
    rw [if_neg (by omega)]
    exact ih fun e he => h e (List.mem_cons_of_mem _ he)

/-- A read after a write to the same byte gives the byte written. -/
theorem Cells.read_write_self {l : List Host.Cell} (a : Nat) (b : Byte) (h : cellsWf l = true) :
    Cells.read (Cells.write l a b) a = b := by
  rw [cellsWf_iff] at h
  obtain ⟨hp, -⟩ := h
  induction l with
  | nil => unfold Cells.write; split <;> simp_all [Cells.read, Cells.blank]
  | cons x t ih =>
    rcases x with ⟨a', b'⟩
    rw [List.pairwise_cons] at hp
    unfold Cells.write
    (repeat' split)
    · rename_i hlt e
      rw [e]
      exact Cells.read_of_lt fun x hx => by
        rcases List.mem_cons.1 hx with rfl | hx
        · exact hlt
        · exact Nat.lt_trans hlt (hp.1 x hx)
    · simp [Cells.read]
    · rename_i e' e
      subst e'; rw [e]; exact Cells.read_of_lt hp.1
    · simp [Cells.read]
    · rename_i hne
      simp only [Cells.read, if_neg hne]; exact ih hp.2

/-- A write leaves every other byte alone. -/
theorem Cells.read_write_of_ne (l : List Host.Cell) {a c : Nat} (b : Byte) (h : c ≠ a) :
    Cells.read (Cells.write l a b) c = Cells.read l c := by
  induction l with
  | nil => unfold Cells.write; split <;> simp [Cells.read, Ne.symm h]
  | cons x t ih =>
    rcases x with ⟨a', b'⟩
    unfold Cells.write
    (repeat' split) <;> simp_all [Cells.read] <;> grind

/-- A write of bytes leaves every byte outside them alone. -/
theorem Cells.read_writes_of_out (l : List Host.Cell) (a : Nat) (bs : List Byte) {c : Nat}
    (h : c < a ∨ a + bs.length ≤ c) : Cells.read (Cells.writes l a bs) c = Cells.read l c := by
  induction bs generalizing l a with
  | nil => rfl
  | cons b t ih =>
    simp only [List.length_cons] at h
    rw [Cells.writes, ih _ (a + 1) (by omega), Cells.read_write_of_ne _ _ (by omega)]

/-- The bytes written are read. -/
theorem Cells.read_writes_in {l : List Host.Cell} (a : Nat) (bs : List Byte) (hw : cellsWf l = true) {i : Nat}
    (h : i < bs.length) : Cells.read (Cells.writes l a bs) (a + i) = bs[i] := by
  induction bs generalizing l a i with
  | nil => simp at h
  | cons b t ih =>
    cases i with
    | zero =>
      rw [Cells.writes, Cells.read_writes_of_out _ _ _ (by omega), Nat.add_zero, Cells.read_write_self _ _ hw]; rfl
    | succ i =>
      have h' : i < t.length := by simpa using h
      rw [Cells.writes, show a + (i + 1) = a + 1 + i by omega, ih (a + 1) (Cells.write_wf a b hw) h']; rfl

/-! ## Marks -/

theorem Marks.mem_ins {l : List Nat} {k x : Nat} : x ∈ Marks.ins l k ↔ x = k ∨ x ∈ l := by
  induction l with
  | nil => simp [Marks.ins]
  | cons a t ih => unfold Marks.ins; (repeat' split) <;> simp_all <;> grind

theorem Marks.ins_wf {l : List Nat} (k : Nat) (h : marksWf l = true) : marksWf (Marks.ins l k) = true := by
  rw [marksWf_iff] at h ⊢
  induction l with
  | nil => simp [Marks.ins]
  | cons a t ih =>
    rw [List.pairwise_cons] at h
    unfold Marks.ins
    (repeat' split)
    · rename_i hlt
      refine List.pairwise_cons.2 ⟨fun e he => ?_, List.pairwise_cons.2 h⟩
      rcases List.mem_cons.1 he with rfl | he
      · exact hlt
      · exact Nat.lt_trans hlt (h.1 e he)
    · exact List.pairwise_cons.2 h
    · refine List.pairwise_cons.2 ⟨fun e he => ?_, ih h.2⟩
      rcases Marks.mem_ins.1 he with rfl | he
      · omega
      · exact h.1 e he

theorem Marks.filter_wf {l : List Nat} (p : Nat → Bool) (h : marksWf l = true) : marksWf (l.filter p) = true := by
  rw [marksWf_iff] at h ⊢; exact h.filter p

theorem Marks.del_wf {l : List Nat} (k : Nat) (h : marksWf l = true) : marksWf (Marks.del l k) = true :=
  Marks.filter_wf _ h

theorem Marks.put_wf {l : List Nat} (k : Nat) (b : Bool) (h : marksWf l = true) : marksWf (Marks.put l k b) = true := by
  unfold Marks.put; split
  · exact Marks.ins_wf k h
  · exact Marks.del_wf k h

theorem Marks.contains_put_self (l : List Nat) (k : Nat) (b : Bool) : (Marks.put l k b).contains k = b := by
  cases b <;> simp [Marks.put, Marks.del, Marks.mem_ins]

theorem Marks.contains_put_of_ne (l : List Nat) {k j : Nat} (b : Bool) (h : j ≠ k) :
    (Marks.put l k b).contains j = l.contains j := by
  cases b <;> simp [Marks.put, Marks.del, Marks.mem_ins, h]

/-! ## Memory operations -/

theorem Mem.wf_iff (m : Mem) : m.wf = true ↔ cellsWf m.bytes = true ∧ marksWf m.fe = true ∧ marksWf m.psn = true ∧
    marksWf m.single = true ∧ marksWf m.double = true := by
  simp only [Mem.wf, Bool.and_eq_true, and_assoc]

theorem Mem.write_wf {m : Mem} (a : Nat) (bs : List Byte) (h : m.wf = true) : (m.write a bs).wf = true := by
  rw [Mem.wf_iff] at h ⊢; exact ⟨Cells.writes_wf a bs h.1, h.2⟩

theorem Mem.setFull_wf {m : Mem} (a : Nat) (b : Bool) (h : m.wf = true) : (m.setFull a b).wf = true := by
  rw [Mem.wf_iff] at h ⊢; exact ⟨h.1, Marks.put_wf _ b h.2.1, h.2.2⟩

theorem Mem.setPoison_wf {m : Mem} (a : Nat) (b : Bool) (h : m.wf = true) : (m.setPoison a b).wf = true := by
  rw [Mem.wf_iff] at h ⊢; exact ⟨h.1, h.2.1, Marks.put_wf _ b h.2.2.1, h.2.2.2⟩

theorem Mem.encodeWord_wf {m : Mem} (a : Nat) (h : m.wf = true) : (m.encodeWord a).wf = true := by
  rw [Mem.wf_iff] at h ⊢; exact ⟨h.1, h.2.1, h.2.2.1, Marks.del_wf _ h.2.2.2.1, Marks.del_wf _ h.2.2.2.2⟩

theorem Mem.scrub_wf {m : Mem} (a : Nat) (h : m.wf = true) : (m.scrub a).wf = true := by
  rw [Mem.wf_iff] at h ⊢; exact ⟨h.1, h.2.1, h.2.2.1, Marks.filter_wf _ h.2.2.2.1, h.2.2.2.2⟩

theorem Mem.upset_wf {m : Mem} (a : Nat) (b : Bool) (h : m.wf = true) : (m.upset a b).wf = true := by
  rw [Mem.wf_iff] at h ⊢
  cases b
  · exact ⟨h.1, h.2.1, h.2.2.1, Marks.ins_wf _ h.2.2.2.1, h.2.2.2.2⟩
  · exact ⟨h.1, h.2.1, h.2.2.1, h.2.2.2.1, Marks.ins_wf _ h.2.2.2.2⟩

/-- Cells written one by one keep the canonical form. -/
theorem Cells.foldl_write_wf (cells : List Host.Cell) : ∀ {l : List Host.Cell}, cellsWf l = true →
    cellsWf (cells.foldl (fun b x => Cells.write b x.1 x.2) l) = true := by
  induction cells with
  | nil => intro l h; exact h
  | cons c t ih => intro l h; exact ih (Cells.write_wf c.1 c.2 h)

theorem Mem.fill_wf {m : Mem} (inside : Nat → Bool) (cells : List Host.Cell) (h : m.wf = true) : (m.fill inside cells).wf = true := by
  rw [Mem.wf_iff] at h ⊢
  exact ⟨Cells.foldl_write_wf cells (Cells.filter_wf _ h.1), h.2⟩

theorem Mem.foldl_wf {α : Type} (f : Mem → α → Mem) (hf : ∀ m x, m.wf = true → (f m x).wf = true) (l : List α) {m : Mem}
    (h : m.wf = true) : (l.foldl f m).wf = true := by
  induction l generalizing m with
  | nil => exact h
  | cons x t ih => exact ih (hf m x h)

theorem Mem.store_wf {m : Mem} (a : Nat) (bs : List Byte) (h : m.wf = true) : (m.store a bs).wf = true := by
  have h1 := Mem.write_wf a bs h
  have poison : ∀ (ws : List Nat) {m : Mem}, m.wf = true → (ws.foldl (fun m w => m.setPoison w false) m).wf = true :=
    fun ws _ hm => Mem.foldl_wf _ (fun m x => Mem.setPoison_wf x false) ws hm
  have enc : ∀ (ws : List Nat) {m : Mem}, m.wf = true → (ws.foldl Mem.encodeWord m).wf = true :=
    fun ws _ hm => Mem.foldl_wf _ (fun m x => Mem.encodeWord_wf x) ws hm
  unfold Mem.store
  dsimp only
  split <;> split
  · exact h1
  · exact poison _ h1
  · exact enc _ h1
  · exact poison _ (enc _ h1)

theorem Mem.foldl_encode_bytes (ws : List Nat) (m : Mem) : (ws.foldl Mem.encodeWord m).bytes = m.bytes := by
  induction ws generalizing m with
  | nil => rfl
  | cons w t ih => rw [List.foldl_cons, ih]; rfl

theorem Mem.foldl_poison_bytes (ws : List Nat) (b : Bool) (m : Mem) :
    (ws.foldl (fun m w => m.setPoison w b) m).bytes = m.bytes := by
  induction ws generalizing m with
  | nil => rfl
  | cons w t ih => rw [List.foldl_cons, ih]; rfl

/-- A store writes its bytes, whatever it does to marks. -/
@[simp] theorem Mem.store_bytes (m : Mem) (a : Nat) (bs : List Byte) : (m.store a bs).bytes = Cells.writes m.bytes a bs := by
  unfold Mem.store
  dsimp only
  split <;> split <;> simp [Mem.foldl_encode_bytes, Mem.foldl_poison_bytes, Mem.write]

/-- A store leaves every byte outside it alone. -/
theorem Mem.byte_store_of_out (m : Mem) (a : Nat) (bs : List Byte) {c : Nat} (h : c < a ∨ a + bs.length ≤ c) :
    (m.store a bs).byte c = m.byte c := by
  simp only [Mem.byte, Mem.store_bytes]; exact Cells.read_writes_of_out _ _ _ h

/-- The memory after reset has the canonical form. -/
theorem reset_mem_wf : State.reset.mem.wf = true := rfl

/-- The pages of a restored core: marks put in one by one. -/
theorem Marks.foldl_ins_wf (f : Nat → Nat) (ns : List Nat) : ∀ {l : List Nat}, marksWf l = true →
    marksWf (ns.foldl (fun m o => Marks.ins m (f o)) l) = true := by
  induction ns with
  | nil => intro l h; exact h
  | cons n t ih => intro l h; exact ih (Marks.ins_wf (f n) h)

theorem State.putPages_wf (s : State) (l : Nat) (mine : Nat → Bool) (mem : List Host.Cell) (fe psn : List Nat) (h : s.mem.wf = true) :
    (s.putPages l mine mem fe psn).mem.wf = true := by
  rw [Mem.wf_iff] at h
  obtain ⟨h1, h2, h3, h4, h5⟩ := h
  simp only [State.putPages, State.modMem_mem, Mem.wf_iff]
  exact ⟨Cells.foldl_write_wf _ (Cells.filter_wf _ h1), Marks.foldl_ins_wf _ _ (Marks.filter_wf _ h2),
    Marks.foldl_ins_wf _ _ (Marks.filter_wf _ h3), Marks.filter_wf _ h4, Marks.filter_wf _ h5⟩

theorem State.saveImage_wf (s : State) (ctx l base : Nat) (h : s.mem.wf = true) : (s.saveImage ctx l base).mem.wf = true := by
  rw [Mem.wf_iff] at h
  obtain ⟨h1, h2, h3, h4, h5⟩ := h
  simp only [State.saveImage, State.modMem_mem, Mem.wf_iff]
  exact ⟨Cells.foldl_write_wf _ (Cells.filter_wf _ h1), h2, h3, Marks.filter_wf _ h4, Marks.filter_wf _ h5⟩

end Sys2Proof.Machine
end

