-- ==== Sys2Proof/Laws/Mesh.lean ====
section
/-! SUPPORT. What the sending of messages does (R343, R377-R380, R392): of a core it changes its counts, its send log and its
checkpoint state, and nothing else. -/

namespace Sys2Proof.Machine

/-! ## On the way -/

@[simp] theorem State.toPort_time (s : State) (m : Msg) : (s.toPort m).time = s.time := by
  unfold State.toPort; split <;> simp
@[simp] theorem State.toPort_gtb (s : State) (m : Msg) : (s.toPort m).gtb = s.gtb := by simp [State.gtb]
@[simp] theorem State.toPort_panelId (s : State) (m : Msg) : (s.toPort m).panelId = s.panelId := by
  unfold State.toPort; split <;> simp
@[simp] theorem State.toPort_mem (s : State) (m : Msg) : (s.toPort m).mem = s.mem := by
  unfold State.toPort; split <;> simp
@[simp] theorem State.toPort_clusters (s : State) (m : Msg) : (s.toPort m).clusters = s.clusters := by
  unfold State.toPort; split <;> simp
@[simp] theorem State.toPort_dies (s : State) (m : Msg) : (s.toPort m).dies = s.dies := by
  unfold State.toPort; split <;> simp
@[simp] theorem State.toPort_bridges (s : State) (m : Msg) : (s.toPort m).bridges = s.bridges := by
  unfold State.toPort; split <;> simp
@[simp] theorem State.toPort_rmap (s : State) (m : Msg) : (s.toPort m).rmap = s.rmap := by
  unfold State.toPort; split <;> simp
@[simp] theorem State.toPort_dead (s : State) (m : Msg) : (s.toPort m).dead = s.dead := by
  unfold State.toPort; split <;> simp
@[simp] theorem State.toPort_rlyf (s : State) (m : Msg) : (s.toPort m).rlyf = s.rlyf := by
  unfold State.toPort; split <;> simp
@[simp] theorem State.toPort_peats (s : State) (m : Msg) : (s.toPort m).peats = s.peats := by
  unfold State.toPort; split <;> simp
@[simp] theorem State.toPort_stopped (s : State) (m : Msg) : (s.toPort m).stopped = s.stopped := by
  unfold State.toPort; split <;> simp
@[simp] theorem State.toPort_agenda (s : State) (m : Msg) : (s.toPort m).agenda = s.agenda := by
  unfold State.toPort; split <;> simp
@[simp] theorem State.toPort_turn (s : State) (m : Msg) : (s.toPort m).turn = s.turn := by
  unfold State.toPort; split <;> simp
@[simp] theorem State.toPort_freeCtr (s : State) (m : Msg) : (s.toPort m).freeCtr = s.freeCtr := by
  unfold State.toPort; split <;> simp
@[simp] theorem State.toPort_cur (s : State) (m : Msg) : (s.toPort m).cur = s.cur := by
  unfold State.toPort; split <;> simp
@[simp] theorem State.toPort_nis (s : State) (m : Msg) : (s.toPort m).nis = s.nis := by
  unfold State.toPort; split <;> simp
@[simp] theorem State.toPort_cores (s : State) (m : Msg) : (s.toPort m).cores = s.cores := by
  unfold State.toPort; split <;> simp
@[simp] theorem State.toPort_net (s : State) (m : Msg) : (s.toPort m).net = s.net := by
  unfold State.toPort; split <;> simp
@[simp] theorem State.toPort_pctl (s : State) (m : Msg) : (s.toPort m).pctl = s.pctl := by
  unfold State.toPort; split <;> simp
@[simp] theorem State.toPort_core (s : State) (m : Msg) (l : Nat) : (s.toPort m).core l = s.core l := by simp [State.core]
@[simp] theorem State.toPort_ctx (s : State) (m : Msg) (l : Nat) : (s.toPort m).ctx l = s.ctx l := by simp [State.ctx]
@[simp] theorem State.inject_time (s : State) (m : Msg) : (s.inject m).time = s.time := by
  unfold State.inject; (repeat' split) <;> simp
@[simp] theorem State.inject_gtb (s : State) (m : Msg) : (s.inject m).gtb = s.gtb := by simp [State.gtb]
@[simp] theorem State.inject_panelId (s : State) (m : Msg) : (s.inject m).panelId = s.panelId := by
  unfold State.inject; (repeat' split) <;> simp
@[simp] theorem State.inject_mem (s : State) (m : Msg) : (s.inject m).mem = s.mem := by
  unfold State.inject; (repeat' split) <;> simp
@[simp] theorem State.inject_clusters (s : State) (m : Msg) : (s.inject m).clusters = s.clusters := by
  unfold State.inject; (repeat' split) <;> simp
@[simp] theorem State.inject_dies (s : State) (m : Msg) : (s.inject m).dies = s.dies := by
  unfold State.inject; (repeat' split) <;> simp
@[simp] theorem State.inject_bridges (s : State) (m : Msg) : (s.inject m).bridges = s.bridges := by
  unfold State.inject; (repeat' split) <;> simp
@[simp] theorem State.inject_rmap (s : State) (m : Msg) : (s.inject m).rmap = s.rmap := by
  unfold State.inject; (repeat' split) <;> simp
@[simp] theorem State.inject_dead (s : State) (m : Msg) : (s.inject m).dead = s.dead := by
  unfold State.inject; (repeat' split) <;> simp
@[simp] theorem State.inject_rlyf (s : State) (m : Msg) : (s.inject m).rlyf = s.rlyf := by
  unfold State.inject; (repeat' split) <;> simp
@[simp] theorem State.inject_peats (s : State) (m : Msg) : (s.inject m).peats = s.peats := by
  unfold State.inject; (repeat' split) <;> simp
@[simp] theorem State.inject_stopped (s : State) (m : Msg) : (s.inject m).stopped = s.stopped := by
  unfold State.inject; (repeat' split) <;> simp
@[simp] theorem State.inject_agenda (s : State) (m : Msg) : (s.inject m).agenda = s.agenda := by
  unfold State.inject; (repeat' split) <;> simp
@[simp] theorem State.inject_turn (s : State) (m : Msg) : (s.inject m).turn = s.turn := by
  unfold State.inject; (repeat' split) <;> simp
@[simp] theorem State.inject_freeCtr (s : State) (m : Msg) : (s.inject m).freeCtr = s.freeCtr := by
  unfold State.inject; (repeat' split) <;> simp
@[simp] theorem State.inject_cur (s : State) (m : Msg) : (s.inject m).cur = s.cur := by
  unfold State.inject; (repeat' split) <;> simp
@[simp] theorem State.inject_cores (s : State) (m : Msg) : (s.inject m).cores = s.cores := by
  unfold State.inject; (repeat' split) <;> simp
@[simp] theorem State.inject_pctl (s : State) (m : Msg) : (s.inject m).pctl = s.pctl := by
  unfold State.inject; (repeat' split) <;> simp
@[simp] theorem State.inject_core (s : State) (m : Msg) (l : Nat) : (s.inject m).core l = s.core l := by simp [State.core]
@[simp] theorem State.inject_slot (s : State) (m : Msg) (l : Nat) (k : Fin 16) : (s.inject m).slot l k = s.slot l k := by simp [State.slot]
@[simp] theorem State.inject_ctx (s : State) (m : Msg) (l : Nat) : (s.inject m).ctx l = s.ctx l := by simp [State.ctx]
@[simp] theorem State.counted_time (s : State) (m : Msg) : (s.counted m).time = s.time := by
  unfold State.counted; (repeat' split) <;> simp
@[simp] theorem State.counted_gtb (s : State) (m : Msg) : (s.counted m).gtb = s.gtb := by simp [State.gtb]
@[simp] theorem State.counted_panelId (s : State) (m : Msg) : (s.counted m).panelId = s.panelId := by
  unfold State.counted; (repeat' split) <;> simp
@[simp] theorem State.counted_mem (s : State) (m : Msg) : (s.counted m).mem = s.mem := by
  unfold State.counted; (repeat' split) <;> simp
@[simp] theorem State.counted_clusters (s : State) (m : Msg) : (s.counted m).clusters = s.clusters := by
  unfold State.counted; (repeat' split) <;> simp
@[simp] theorem State.counted_dies (s : State) (m : Msg) : (s.counted m).dies = s.dies := by
  unfold State.counted; (repeat' split) <;> simp
@[simp] theorem State.counted_bridges (s : State) (m : Msg) : (s.counted m).bridges = s.bridges := by
  unfold State.counted; (repeat' split) <;> simp
@[simp] theorem State.counted_rmap (s : State) (m : Msg) : (s.counted m).rmap = s.rmap := by
  unfold State.counted; (repeat' split) <;> simp
@[simp] theorem State.counted_dead (s : State) (m : Msg) : (s.counted m).dead = s.dead := by
  unfold State.counted; (repeat' split) <;> simp
@[simp] theorem State.counted_rlyf (s : State) (m : Msg) : (s.counted m).rlyf = s.rlyf := by
  unfold State.counted; (repeat' split) <;> simp
@[simp] theorem State.counted_peats (s : State) (m : Msg) : (s.counted m).peats = s.peats := by
  unfold State.counted; (repeat' split) <;> simp
@[simp] theorem State.counted_stopped (s : State) (m : Msg) : (s.counted m).stopped = s.stopped := by
  unfold State.counted; (repeat' split) <;> simp
@[simp] theorem State.counted_agenda (s : State) (m : Msg) : (s.counted m).agenda = s.agenda := by
  unfold State.counted; (repeat' split) <;> simp
@[simp] theorem State.counted_turn (s : State) (m : Msg) : (s.counted m).turn = s.turn := by
  unfold State.counted; (repeat' split) <;> simp
@[simp] theorem State.counted_freeCtr (s : State) (m : Msg) : (s.counted m).freeCtr = s.freeCtr := by
  unfold State.counted; (repeat' split) <;> simp
@[simp] theorem State.counted_cur (s : State) (m : Msg) : (s.counted m).cur = s.cur := by
  unfold State.counted; (repeat' split) <;> simp
@[simp] theorem State.counted_cores (s : State) (m : Msg) : (s.counted m).cores = s.cores := by
  unfold State.counted; (repeat' split) <;> simp
@[simp] theorem State.counted_pctl (s : State) (m : Msg) : (s.counted m).pctl = s.pctl := by
  unfold State.counted; (repeat' split) <;> simp
@[simp] theorem State.counted_net (s : State) (m : Msg) : (s.counted m).net = s.net := by
  unfold State.counted; (repeat' split) <;> simp
@[simp] theorem State.counted_fab (s : State) (m : Msg) : (s.counted m).fab = s.fab := by
  unfold State.counted; (repeat' split) <;> simp
@[simp] theorem State.counted_core (s : State) (m : Msg) (l : Nat) : (s.counted m).core l = s.core l := by simp [State.core]
@[simp] theorem State.counted_ctx (s : State) (m : Msg) (l : Nat) : (s.counted m).ctx l = s.ctx l := by simp [State.ctx]
@[simp] theorem State.logMsg_time (s : State) (m : Msg) : (s.logMsg m).time = s.time := by
  unfold State.logMsg; split <;> simp
@[simp] theorem State.logMsg_gtb (s : State) (m : Msg) : (s.logMsg m).gtb = s.gtb := by simp [State.gtb]
@[simp] theorem State.logMsg_panelId (s : State) (m : Msg) : (s.logMsg m).panelId = s.panelId := by
  unfold State.logMsg; split <;> simp
@[simp] theorem State.logMsg_mem (s : State) (m : Msg) : (s.logMsg m).mem = s.mem := by
  unfold State.logMsg; split <;> simp
@[simp] theorem State.logMsg_clusters (s : State) (m : Msg) : (s.logMsg m).clusters = s.clusters := by
  unfold State.logMsg; split <;> simp
@[simp] theorem State.logMsg_dies (s : State) (m : Msg) : (s.logMsg m).dies = s.dies := by
  unfold State.logMsg; split <;> simp
@[simp] theorem State.logMsg_bridges (s : State) (m : Msg) : (s.logMsg m).bridges = s.bridges := by
  unfold State.logMsg; split <;> simp
@[simp] theorem State.logMsg_rmap (s : State) (m : Msg) : (s.logMsg m).rmap = s.rmap := by
  unfold State.logMsg; split <;> simp
@[simp] theorem State.logMsg_dead (s : State) (m : Msg) : (s.logMsg m).dead = s.dead := by
  unfold State.logMsg; split <;> simp
@[simp] theorem State.logMsg_rlyf (s : State) (m : Msg) : (s.logMsg m).rlyf = s.rlyf := by
  unfold State.logMsg; split <;> simp
@[simp] theorem State.logMsg_peats (s : State) (m : Msg) : (s.logMsg m).peats = s.peats := by
  unfold State.logMsg; split <;> simp
@[simp] theorem State.logMsg_stopped (s : State) (m : Msg) : (s.logMsg m).stopped = s.stopped := by
  unfold State.logMsg; split <;> simp
@[simp] theorem State.logMsg_agenda (s : State) (m : Msg) : (s.logMsg m).agenda = s.agenda := by
  unfold State.logMsg; split <;> simp
@[simp] theorem State.logMsg_turn (s : State) (m : Msg) : (s.logMsg m).turn = s.turn := by
  unfold State.logMsg; split <;> simp
@[simp] theorem State.logMsg_freeCtr (s : State) (m : Msg) : (s.logMsg m).freeCtr = s.freeCtr := by
  unfold State.logMsg; split <;> simp
@[simp] theorem State.logMsg_cur (s : State) (m : Msg) : (s.logMsg m).cur = s.cur := by
  unfold State.logMsg; split <;> simp
@[simp] theorem State.logMsg_pctl (s : State) (m : Msg) : (s.logMsg m).pctl = s.pctl := by
  unfold State.logMsg; split <;> simp
@[simp] theorem State.logMsg_net (s : State) (m : Msg) : (s.logMsg m).net = s.net := by
  unfold State.logMsg; split <;> simp
@[simp] theorem State.logMsg_fab (s : State) (m : Msg) : (s.logMsg m).fab = s.fab := by
  unfold State.logMsg; split <;> simp
@[simp] theorem State.logMsg_nis (s : State) (m : Msg) : (s.logMsg m).nis = s.nis := by
  unfold State.logMsg; split <;> simp
@[simp] theorem State.logMsg_ctx (s : State) (m : Msg) (l : Nat) : (s.logMsg m).ctx l = s.ctx l := by simp [State.ctx]
theorem State.logMsg_core (s : State) (m : Msg) (l : Nat) :
    ∃ k sw, (s.logMsg m).core l = { s.core l with ckpt := k, sw := sw } := by
  unfold State.logMsg
  split
  · by_cases h : l = m.src
    · subst h; simp only [State.core_modCore]; split <;> exact ⟨_, _, rfl⟩
    · simp only [State.core_modCore_of_ne _ _ h]; exact ⟨_, _, rfl⟩
  · exact ⟨_, _, rfl⟩
@[simp] theorem State.modStill_time (s : State) (a c : Nat) (f : Still → Still) : (s.modStill a c f).time = s.time := by
  unfold State.modStill; (repeat' split) <;> simp
@[simp] theorem State.modStill_gtb (s : State) (a c : Nat) (f : Still → Still) : (s.modStill a c f).gtb = s.gtb := by simp [State.gtb]
@[simp] theorem State.modStill_panelId (s : State) (a c : Nat) (f : Still → Still) : (s.modStill a c f).panelId = s.panelId := by
  unfold State.modStill; (repeat' split) <;> simp
@[simp] theorem State.modStill_mem (s : State) (a c : Nat) (f : Still → Still) : (s.modStill a c f).mem = s.mem := by
  unfold State.modStill; (repeat' split) <;> simp
@[simp] theorem State.modStill_clusters (s : State) (a c : Nat) (f : Still → Still) : (s.modStill a c f).clusters = s.clusters := by
  unfold State.modStill; (repeat' split) <;> simp
@[simp] theorem State.modStill_dies (s : State) (a c : Nat) (f : Still → Still) : (s.modStill a c f).dies = s.dies := by
  unfold State.modStill; (repeat' split) <;> simp
@[simp] theorem State.modStill_bridges (s : State) (a c : Nat) (f : Still → Still) : (s.modStill a c f).bridges = s.bridges := by
  unfold State.modStill; (repeat' split) <;> simp
@[simp] theorem State.modStill_rmap (s : State) (a c : Nat) (f : Still → Still) : (s.modStill a c f).rmap = s.rmap := by
  unfold State.modStill; (repeat' split) <;> simp
@[simp] theorem State.modStill_dead (s : State) (a c : Nat) (f : Still → Still) : (s.modStill a c f).dead = s.dead := by
  unfold State.modStill; (repeat' split) <;> simp
@[simp] theorem State.modStill_rlyf (s : State) (a c : Nat) (f : Still → Still) : (s.modStill a c f).rlyf = s.rlyf := by
  unfold State.modStill; (repeat' split) <;> simp
@[simp] theorem State.modStill_peats (s : State) (a c : Nat) (f : Still → Still) : (s.modStill a c f).peats = s.peats := by
  unfold State.modStill; (repeat' split) <;> simp
@[simp] theorem State.modStill_stopped (s : State) (a c : Nat) (f : Still → Still) : (s.modStill a c f).stopped = s.stopped := by
  unfold State.modStill; (repeat' split) <;> simp
@[simp] theorem State.modStill_agenda (s : State) (a c : Nat) (f : Still → Still) : (s.modStill a c f).agenda = s.agenda := by
  unfold State.modStill; (repeat' split) <;> simp
@[simp] theorem State.modStill_turn (s : State) (a c : Nat) (f : Still → Still) : (s.modStill a c f).turn = s.turn := by
  unfold State.modStill; (repeat' split) <;> simp
@[simp] theorem State.modStill_freeCtr (s : State) (a c : Nat) (f : Still → Still) : (s.modStill a c f).freeCtr = s.freeCtr := by
  unfold State.modStill; (repeat' split) <;> simp
@[simp] theorem State.modStill_cur (s : State) (a c : Nat) (f : Still → Still) : (s.modStill a c f).cur = s.cur := by
  unfold State.modStill; (repeat' split) <;> simp
@[simp] theorem State.modStill_net (s : State) (a c : Nat) (f : Still → Still) : (s.modStill a c f).net = s.net := by
  unfold State.modStill; (repeat' split) <;> simp
@[simp] theorem State.modStill_fab (s : State) (a c : Nat) (f : Still → Still) : (s.modStill a c f).fab = s.fab := by
  unfold State.modStill; (repeat' split) <;> simp
theorem State.modStill_core (s : State) (a c : Nat) (f : Still → Still) (l : Nat) :
    ∃ k sw, (s.modStill a c f).core l = { s.core l with ckpt := k, sw := sw } := by
  unfold State.modStill
  split
  · simp only [State.modPctl_core]; exact ⟨_, _, rfl⟩
  split
  · by_cases h : l = a
    · subst h; simp only [State.core_modCore]; exact ⟨_, _, rfl⟩
    · simp only [State.core_modCore_of_ne _ _ h]; exact ⟨_, _, rfl⟩
  · simp only [State.modNi_core]; exact ⟨_, _, rfl⟩
@[simp] theorem State.modStill_core_slots (s : State) (a c : Nat) (f : Still → Still) (l : Nat) : ((s.modStill a c f).core l).slots = (s.core l).slots := by
  obtain ⟨_, _, h⟩ := State.modStill_core s a c f l; rw [h]
@[simp] theorem State.modStill_core_lastW (s : State) (a c : Nat) (f : Still → Still) (l : Nat) : ((s.modStill a c f).core l).lastW = (s.core l).lastW := by
  obtain ⟨_, _, h⟩ := State.modStill_core s a c f l; rw [h]
@[simp] theorem State.modStill_core_dq (s : State) (a c : Nat) (f : Still → Still) (l : Nat) : ((s.modStill a c f).core l).dq = (s.core l).dq := by
  obtain ⟨_, _, h⟩ := State.modStill_core s a c f l; rw [h]
@[simp] theorem State.modStill_core_pushes (s : State) (a c : Nat) (f : Still → Still) (l : Nat) : ((s.modStill a c f).core l).pushes = (s.core l).pushes := by
  obtain ⟨_, _, h⟩ := State.modStill_core s a c f l; rw [h]
@[simp] theorem State.modStill_core_steal (s : State) (a c : Nat) (f : Still → Still) (l : Nat) : ((s.modStill a c f).core l).steal = (s.core l).steal := by
  obtain ⟨_, _, h⟩ := State.modStill_core s a c f l; rw [h]
@[simp] theorem State.modStill_core_sysr (s : State) (a c : Nat) (f : Still → Still) (l : Nat) : ((s.modStill a c f).core l).sysr = (s.core l).sysr := by
  obtain ⟨_, _, h⟩ := State.modStill_core s a c f l; rw [h]
@[simp] theorem State.modStill_core_handles (s : State) (a c : Nat) (f : Still → Still) (l : Nat) : ((s.modStill a c f).core l).handles = (s.core l).handles := by
  obtain ⟨_, _, h⟩ := State.modStill_core s a c f l; rw [h]
@[simp] theorem State.modStill_core_waits (s : State) (a c : Nat) (f : Still → Still) (l : Nat) : ((s.modStill a c f).core l).waits = (s.core l).waits := by
  obtain ⟨_, _, h⟩ := State.modStill_core s a c f l; rw [h]
@[simp] theorem State.modStill_core_links (s : State) (a c : Nat) (f : Still → Still) (l : Nat) : ((s.modStill a c f).core l).links = (s.core l).links := by
  obtain ⟨_, _, h⟩ := State.modStill_core s a c f l; rw [h]
@[simp] theorem State.modStill_core_tlb (s : State) (a c : Nat) (f : Still → Still) (l : Nat) : ((s.modStill a c f).core l).tlb = (s.core l).tlb := by
  obtain ⟨_, _, h⟩ := State.modStill_core s a c f l; rw [h]
@[simp] theorem State.modStill_core_lines (s : State) (a c : Nat) (f : Still → Still) (l : Nat) : ((s.modStill a c f).core l).lines = (s.core l).lines := by
  obtain ⟨_, _, h⟩ := State.modStill_core s a c f l; rw [h]
@[simp] theorem State.modStill_core_veng (s : State) (a c : Nat) (f : Still → Still) (l : Nat) : ((s.modStill a c f).core l).veng = (s.core l).veng := by
  obtain ⟨_, _, h⟩ := State.modStill_core s a c f l; rw [h]
@[simp] theorem State.modStill_core_meng (s : State) (a c : Nat) (f : Still → Still) (l : Nat) : ((s.modStill a c f).core l).meng = (s.core l).meng := by
  obtain ⟨_, _, h⟩ := State.modStill_core s a c f l; rw [h]
@[simp] theorem State.modStill_core_cq (s : State) (a c : Nat) (f : Still → Still) (l : Nat) : ((s.modStill a c f).core l).cq = (s.core l).cq := by
  obtain ⟨_, _, h⟩ := State.modStill_core s a c f l; rw [h]
@[simp] theorem State.modStill_core_cmdNo (s : State) (a c : Nat) (f : Still → Still) (l : Nat) : ((s.modStill a c f).core l).cmdNo = (s.core l).cmdNo := by
  obtain ⟨_, _, h⟩ := State.modStill_core s a c f l; rw [h]
@[simp] theorem State.modStill_core_bs (s : State) (a c : Nat) (f : Still → Still) (l : Nat) : ((s.modStill a c f).core l).bs = (s.core l).bs := by
  obtain ⟨_, _, h⟩ := State.modStill_core s a c f l; rw [h]
@[simp] theorem State.modStill_core_bars (s : State) (a c : Nat) (f : Still → Still) (l : Nat) : ((s.modStill a c f).core l).bars = (s.core l).bars := by
  obtain ⟨_, _, h⟩ := State.modStill_core s a c f l; rw [h]
@[simp] theorem State.modStill_core_mt (s : State) (a c : Nat) (f : Still → Still) (l : Nat) : ((s.modStill a c f).core l).mt = (s.core l).mt := by
  obtain ⟨_, _, h⟩ := State.modStill_core s a c f l; rw [h]
@[simp] theorem State.modStill_core_reqs (s : State) (a c : Nat) (f : Still → Still) (l : Nat) : ((s.modStill a c f).core l).reqs = (s.core l).reqs := by
  obtain ⟨_, _, h⟩ := State.modStill_core s a c f l; rw [h]
@[simp] theorem State.modStill_core_colls (s : State) (a c : Nat) (f : Still → Still) (l : Nat) : ((s.modStill a c f).core l).colls = (s.core l).colls := by
  obtain ⟨_, _, h⟩ := State.modStill_core s a c f l; rw [h]
@[simp] theorem State.modStill_core_gparts (s : State) (a c : Nat) (f : Still → Still) (l : Nat) : ((s.modStill a c f).core l).gparts = (s.core l).gparts := by
  obtain ⟨_, _, h⟩ := State.modStill_core s a c f l; rw [h]
@[simp] theorem State.modStill_core_flt (s : State) (a c : Nat) (f : Still → Still) (l : Nat) : ((s.modStill a c f).core l).flt = (s.core l).flt := by
  obtain ⟨_, _, h⟩ := State.modStill_core s a c f l; rw [h]
@[simp] theorem State.modStill_core_health (s : State) (a c : Nat) (f : Still → Still) (l : Nat) : ((s.modStill a c f).core l).health = (s.core l).health := by
  obtain ⟨_, _, h⟩ := State.modStill_core s a c f l; rw [h]
@[simp] theorem State.modStill_core_diverted (s : State) (a c : Nat) (f : Still → Still) (l : Nat) : ((s.modStill a c f).core l).diverted = (s.core l).diverted := by
  obtain ⟨_, _, h⟩ := State.modStill_core s a c f l; rw [h]
@[simp] theorem State.modStill_core_stopping (s : State) (a c : Nat) (f : Still → Still) (l : Nat) : ((s.modStill a c f).core l).stopping = (s.core l).stopping := by
  obtain ⟨_, _, h⟩ := State.modStill_core s a c f l; rw [h]
@[simp] theorem State.modStill_slot (s : State) (a c : Nat) (f : Still → Still) (l : Nat) (k : Fin 16) : (s.modStill a c f).slot l k = s.slot l k := by
  simp [State.slot, Core.slot]
@[simp] theorem State.modStill_ctx (s : State) (a c : Nat) (f : Still → Still) (n : Nat) :
    (s.modStill a c f).ctx n = s.ctx n := by
  unfold State.modStill
  (repeat' split) <;> first | rfl | simp [State.ctx]
@[simp] theorem State.logMsg_core_slots (s : State) (m : Msg) (l : Nat) : ((s.logMsg m).core l).slots = (s.core l).slots := by
  obtain ⟨_, _, h⟩ := State.logMsg_core s m l; rw [h]
@[simp] theorem State.logMsg_core_lastW (s : State) (m : Msg) (l : Nat) : ((s.logMsg m).core l).lastW = (s.core l).lastW := by
  obtain ⟨_, _, h⟩ := State.logMsg_core s m l; rw [h]
@[simp] theorem State.logMsg_core_dq (s : State) (m : Msg) (l : Nat) : ((s.logMsg m).core l).dq = (s.core l).dq := by
  obtain ⟨_, _, h⟩ := State.logMsg_core s m l; rw [h]
@[simp] theorem State.logMsg_core_pushes (s : State) (m : Msg) (l : Nat) : ((s.logMsg m).core l).pushes = (s.core l).pushes := by
  obtain ⟨_, _, h⟩ := State.logMsg_core s m l; rw [h]
@[simp] theorem State.logMsg_core_steal (s : State) (m : Msg) (l : Nat) : ((s.logMsg m).core l).steal = (s.core l).steal := by
  obtain ⟨_, _, h⟩ := State.logMsg_core s m l; rw [h]
@[simp] theorem State.logMsg_core_sysr (s : State) (m : Msg) (l : Nat) : ((s.logMsg m).core l).sysr = (s.core l).sysr := by
  obtain ⟨_, _, h⟩ := State.logMsg_core s m l; rw [h]
@[simp] theorem State.logMsg_core_handles (s : State) (m : Msg) (l : Nat) : ((s.logMsg m).core l).handles = (s.core l).handles := by
  obtain ⟨_, _, h⟩ := State.logMsg_core s m l; rw [h]
@[simp] theorem State.logMsg_core_waits (s : State) (m : Msg) (l : Nat) : ((s.logMsg m).core l).waits = (s.core l).waits := by
  obtain ⟨_, _, h⟩ := State.logMsg_core s m l; rw [h]
@[simp] theorem State.logMsg_core_links (s : State) (m : Msg) (l : Nat) : ((s.logMsg m).core l).links = (s.core l).links := by
  obtain ⟨_, _, h⟩ := State.logMsg_core s m l; rw [h]
@[simp] theorem State.logMsg_core_tlb (s : State) (m : Msg) (l : Nat) : ((s.logMsg m).core l).tlb = (s.core l).tlb := by
  obtain ⟨_, _, h⟩ := State.logMsg_core s m l; rw [h]
@[simp] theorem State.logMsg_core_lines (s : State) (m : Msg) (l : Nat) : ((s.logMsg m).core l).lines = (s.core l).lines := by
  obtain ⟨_, _, h⟩ := State.logMsg_core s m l; rw [h]
@[simp] theorem State.logMsg_core_veng (s : State) (m : Msg) (l : Nat) : ((s.logMsg m).core l).veng = (s.core l).veng := by
  obtain ⟨_, _, h⟩ := State.logMsg_core s m l; rw [h]
@[simp] theorem State.logMsg_core_meng (s : State) (m : Msg) (l : Nat) : ((s.logMsg m).core l).meng = (s.core l).meng := by
  obtain ⟨_, _, h⟩ := State.logMsg_core s m l; rw [h]
@[simp] theorem State.logMsg_core_cq (s : State) (m : Msg) (l : Nat) : ((s.logMsg m).core l).cq = (s.core l).cq := by
  obtain ⟨_, _, h⟩ := State.logMsg_core s m l; rw [h]
@[simp] theorem State.logMsg_core_cmdNo (s : State) (m : Msg) (l : Nat) : ((s.logMsg m).core l).cmdNo = (s.core l).cmdNo := by
  obtain ⟨_, _, h⟩ := State.logMsg_core s m l; rw [h]
@[simp] theorem State.logMsg_core_bs (s : State) (m : Msg) (l : Nat) : ((s.logMsg m).core l).bs = (s.core l).bs := by
  obtain ⟨_, _, h⟩ := State.logMsg_core s m l; rw [h]
@[simp] theorem State.logMsg_core_bars (s : State) (m : Msg) (l : Nat) : ((s.logMsg m).core l).bars = (s.core l).bars := by
  obtain ⟨_, _, h⟩ := State.logMsg_core s m l; rw [h]
@[simp] theorem State.logMsg_core_mt (s : State) (m : Msg) (l : Nat) : ((s.logMsg m).core l).mt = (s.core l).mt := by
  obtain ⟨_, _, h⟩ := State.logMsg_core s m l; rw [h]
@[simp] theorem State.logMsg_core_reqs (s : State) (m : Msg) (l : Nat) : ((s.logMsg m).core l).reqs = (s.core l).reqs := by
  obtain ⟨_, _, h⟩ := State.logMsg_core s m l; rw [h]
@[simp] theorem State.logMsg_core_colls (s : State) (m : Msg) (l : Nat) : ((s.logMsg m).core l).colls = (s.core l).colls := by
  obtain ⟨_, _, h⟩ := State.logMsg_core s m l; rw [h]
@[simp] theorem State.logMsg_core_gparts (s : State) (m : Msg) (l : Nat) : ((s.logMsg m).core l).gparts = (s.core l).gparts := by
  obtain ⟨_, _, h⟩ := State.logMsg_core s m l; rw [h]
@[simp] theorem State.logMsg_core_flt (s : State) (m : Msg) (l : Nat) : ((s.logMsg m).core l).flt = (s.core l).flt := by
  obtain ⟨_, _, h⟩ := State.logMsg_core s m l; rw [h]
@[simp] theorem State.logMsg_core_health (s : State) (m : Msg) (l : Nat) : ((s.logMsg m).core l).health = (s.core l).health := by
  obtain ⟨_, _, h⟩ := State.logMsg_core s m l; rw [h]
@[simp] theorem State.logMsg_core_diverted (s : State) (m : Msg) (l : Nat) : ((s.logMsg m).core l).diverted = (s.core l).diverted := by
  obtain ⟨_, _, h⟩ := State.logMsg_core s m l; rw [h]
@[simp] theorem State.logMsg_core_stopping (s : State) (m : Msg) (l : Nat) : ((s.logMsg m).core l).stopping = (s.core l).stopping := by
  obtain ⟨_, _, h⟩ := State.logMsg_core s m l; rw [h]
@[simp] theorem State.logMsg_slot (s : State) (m : Msg) (l : Nat) (k : Fin 16) : (s.logMsg m).slot l k = s.slot l k := by
  simp [State.slot, Core.slot]

/-! ## Sent -/

@[simp] theorem State.post_time (s : State) (m : Msg) : (s.post m).time = s.time := by
  unfold State.post; split <;> simp
@[simp] theorem State.post_gtb (s : State) (m : Msg) : (s.post m).gtb = s.gtb := by simp [State.gtb]
@[simp] theorem State.post_panelId (s : State) (m : Msg) : (s.post m).panelId = s.panelId := by
  unfold State.post; split <;> simp
@[simp] theorem State.post_mem (s : State) (m : Msg) : (s.post m).mem = s.mem := by
  unfold State.post; split <;> simp
@[simp] theorem State.post_clusters (s : State) (m : Msg) : (s.post m).clusters = s.clusters := by
  unfold State.post; split <;> simp
@[simp] theorem State.post_dies (s : State) (m : Msg) : (s.post m).dies = s.dies := by
  unfold State.post; split <;> simp
@[simp] theorem State.post_bridges (s : State) (m : Msg) : (s.post m).bridges = s.bridges := by
  unfold State.post; split <;> simp
@[simp] theorem State.post_rmap (s : State) (m : Msg) : (s.post m).rmap = s.rmap := by
  unfold State.post; split <;> simp
@[simp] theorem State.post_dead (s : State) (m : Msg) : (s.post m).dead = s.dead := by
  unfold State.post; split <;> simp
@[simp] theorem State.post_rlyf (s : State) (m : Msg) : (s.post m).rlyf = s.rlyf := by
  unfold State.post; split <;> simp
@[simp] theorem State.post_peats (s : State) (m : Msg) : (s.post m).peats = s.peats := by
  unfold State.post; split <;> simp
@[simp] theorem State.post_stopped (s : State) (m : Msg) : (s.post m).stopped = s.stopped := by
  unfold State.post; split <;> simp
@[simp] theorem State.post_agenda (s : State) (m : Msg) : (s.post m).agenda = s.agenda := by
  unfold State.post; split <;> simp
@[simp] theorem State.post_turn (s : State) (m : Msg) : (s.post m).turn = s.turn := by
  unfold State.post; split <;> simp
@[simp] theorem State.post_freeCtr (s : State) (m : Msg) : (s.post m).freeCtr = s.freeCtr := by
  unfold State.post; split <;> simp
@[simp] theorem State.post_cur (s : State) (m : Msg) : (s.post m).cur = s.cur := by
  unfold State.post; split <;> simp
@[simp] theorem State.post_ctx (s : State) (m : Msg) (n : Nat) : (s.post m).ctx n = s.ctx n := by
  unfold State.post; split <;> simp
theorem State.post_core (s : State) (m : Msg) (l : Nat) : ∃ k sw, (s.post m).core l = { s.core l with ckpt := k, sw := sw } := by
  unfold State.post
  simp only [inject_core]
  obtain ⟨a, b, h⟩ := State.logMsg_core (s.counted m) (s.numbered m) l
  split
  · obtain ⟨a', b', h'⟩ := State.modStill_core ((s.counted m).logMsg (s.numbered m)) m.src m.ctx (fun w => { w with sent := w.sent + 1 }) l
    rw [h', h, counted_core]; exact ⟨_, _, rfl⟩
  · rw [h, counted_core]; exact ⟨_, _, rfl⟩
@[simp] theorem State.post_core_slots (s : State) (m : Msg) (l : Nat) : ((s.post m).core l).slots = (s.core l).slots := by
  obtain ⟨_, _, h⟩ := State.post_core s m l; rw [h]
@[simp] theorem State.post_core_lastW (s : State) (m : Msg) (l : Nat) : ((s.post m).core l).lastW = (s.core l).lastW := by
  obtain ⟨_, _, h⟩ := State.post_core s m l; rw [h]
@[simp] theorem State.post_core_dq (s : State) (m : Msg) (l : Nat) : ((s.post m).core l).dq = (s.core l).dq := by
  obtain ⟨_, _, h⟩ := State.post_core s m l; rw [h]
@[simp] theorem State.post_core_pushes (s : State) (m : Msg) (l : Nat) : ((s.post m).core l).pushes = (s.core l).pushes := by
  obtain ⟨_, _, h⟩ := State.post_core s m l; rw [h]
@[simp] theorem State.post_core_steal (s : State) (m : Msg) (l : Nat) : ((s.post m).core l).steal = (s.core l).steal := by
  obtain ⟨_, _, h⟩ := State.post_core s m l; rw [h]
@[simp] theorem State.post_core_sysr (s : State) (m : Msg) (l : Nat) : ((s.post m).core l).sysr = (s.core l).sysr := by
  obtain ⟨_, _, h⟩ := State.post_core s m l; rw [h]
@[simp] theorem State.post_core_handles (s : State) (m : Msg) (l : Nat) : ((s.post m).core l).handles = (s.core l).handles := by
  obtain ⟨_, _, h⟩ := State.post_core s m l; rw [h]
@[simp] theorem State.post_core_waits (s : State) (m : Msg) (l : Nat) : ((s.post m).core l).waits = (s.core l).waits := by
  obtain ⟨_, _, h⟩ := State.post_core s m l; rw [h]
@[simp] theorem State.post_core_links (s : State) (m : Msg) (l : Nat) : ((s.post m).core l).links = (s.core l).links := by
  obtain ⟨_, _, h⟩ := State.post_core s m l; rw [h]
@[simp] theorem State.post_core_tlb (s : State) (m : Msg) (l : Nat) : ((s.post m).core l).tlb = (s.core l).tlb := by
  obtain ⟨_, _, h⟩ := State.post_core s m l; rw [h]
@[simp] theorem State.post_core_lines (s : State) (m : Msg) (l : Nat) : ((s.post m).core l).lines = (s.core l).lines := by
  obtain ⟨_, _, h⟩ := State.post_core s m l; rw [h]
@[simp] theorem State.post_core_veng (s : State) (m : Msg) (l : Nat) : ((s.post m).core l).veng = (s.core l).veng := by
  obtain ⟨_, _, h⟩ := State.post_core s m l; rw [h]
@[simp] theorem State.post_core_meng (s : State) (m : Msg) (l : Nat) : ((s.post m).core l).meng = (s.core l).meng := by
  obtain ⟨_, _, h⟩ := State.post_core s m l; rw [h]
@[simp] theorem State.post_core_cq (s : State) (m : Msg) (l : Nat) : ((s.post m).core l).cq = (s.core l).cq := by
  obtain ⟨_, _, h⟩ := State.post_core s m l; rw [h]
@[simp] theorem State.post_core_cmdNo (s : State) (m : Msg) (l : Nat) : ((s.post m).core l).cmdNo = (s.core l).cmdNo := by
  obtain ⟨_, _, h⟩ := State.post_core s m l; rw [h]
@[simp] theorem State.post_core_bs (s : State) (m : Msg) (l : Nat) : ((s.post m).core l).bs = (s.core l).bs := by
  obtain ⟨_, _, h⟩ := State.post_core s m l; rw [h]
@[simp] theorem State.post_core_bars (s : State) (m : Msg) (l : Nat) : ((s.post m).core l).bars = (s.core l).bars := by
  obtain ⟨_, _, h⟩ := State.post_core s m l; rw [h]
@[simp] theorem State.post_core_mt (s : State) (m : Msg) (l : Nat) : ((s.post m).core l).mt = (s.core l).mt := by
  obtain ⟨_, _, h⟩ := State.post_core s m l; rw [h]
@[simp] theorem State.post_core_reqs (s : State) (m : Msg) (l : Nat) : ((s.post m).core l).reqs = (s.core l).reqs := by
  obtain ⟨_, _, h⟩ := State.post_core s m l; rw [h]
@[simp] theorem State.post_core_colls (s : State) (m : Msg) (l : Nat) : ((s.post m).core l).colls = (s.core l).colls := by
  obtain ⟨_, _, h⟩ := State.post_core s m l; rw [h]
@[simp] theorem State.post_core_gparts (s : State) (m : Msg) (l : Nat) : ((s.post m).core l).gparts = (s.core l).gparts := by
  obtain ⟨_, _, h⟩ := State.post_core s m l; rw [h]
@[simp] theorem State.post_core_flt (s : State) (m : Msg) (l : Nat) : ((s.post m).core l).flt = (s.core l).flt := by
  obtain ⟨_, _, h⟩ := State.post_core s m l; rw [h]
@[simp] theorem State.post_core_health (s : State) (m : Msg) (l : Nat) : ((s.post m).core l).health = (s.core l).health := by
  obtain ⟨_, _, h⟩ := State.post_core s m l; rw [h]
@[simp] theorem State.post_core_diverted (s : State) (m : Msg) (l : Nat) : ((s.post m).core l).diverted = (s.core l).diverted := by
  obtain ⟨_, _, h⟩ := State.post_core s m l; rw [h]
@[simp] theorem State.post_core_stopping (s : State) (m : Msg) (l : Nat) : ((s.post m).core l).stopping = (s.core l).stopping := by
  obtain ⟨_, _, h⟩ := State.post_core s m l; rw [h]
@[simp] theorem State.post_slot (s : State) (m : Msg) (l : Nat) (k : Fin 16) : (s.post m).slot l k = s.slot l k := by
  simp [State.slot, Core.slot]

/-! ## Answers -/

@[simp] theorem State.system_time (s : State) (a d k c : Nat) (b : Body) : (s.system a d k c b).time = s.time := by
  simp [State.system]
@[simp] theorem State.system_gtb (s : State) (a d k c : Nat) (b : Body) : (s.system a d k c b).gtb = s.gtb := by simp [State.gtb]
@[simp] theorem State.system_panelId (s : State) (a d k c : Nat) (b : Body) : (s.system a d k c b).panelId = s.panelId := by
  simp [State.system]
@[simp] theorem State.system_mem (s : State) (a d k c : Nat) (b : Body) : (s.system a d k c b).mem = s.mem := by
  simp [State.system]
@[simp] theorem State.system_clusters (s : State) (a d k c : Nat) (b : Body) : (s.system a d k c b).clusters = s.clusters := by
  simp [State.system]
@[simp] theorem State.system_dies (s : State) (a d k c : Nat) (b : Body) : (s.system a d k c b).dies = s.dies := by
  simp [State.system]
@[simp] theorem State.system_bridges (s : State) (a d k c : Nat) (b : Body) : (s.system a d k c b).bridges = s.bridges := by
  simp [State.system]
@[simp] theorem State.system_rmap (s : State) (a d k c : Nat) (b : Body) : (s.system a d k c b).rmap = s.rmap := by
  simp [State.system]
@[simp] theorem State.system_dead (s : State) (a d k c : Nat) (b : Body) : (s.system a d k c b).dead = s.dead := by
  simp [State.system]
@[simp] theorem State.system_rlyf (s : State) (a d k c : Nat) (b : Body) : (s.system a d k c b).rlyf = s.rlyf := by
  simp [State.system]
@[simp] theorem State.system_peats (s : State) (a d k c : Nat) (b : Body) : (s.system a d k c b).peats = s.peats := by
  simp [State.system]
@[simp] theorem State.system_stopped (s : State) (a d k c : Nat) (b : Body) : (s.system a d k c b).stopped = s.stopped := by
  simp [State.system]
@[simp] theorem State.system_agenda (s : State) (a d k c : Nat) (b : Body) : (s.system a d k c b).agenda = s.agenda := by
  simp [State.system]
@[simp] theorem State.system_turn (s : State) (a d k c : Nat) (b : Body) : (s.system a d k c b).turn = s.turn := by
  simp [State.system]
@[simp] theorem State.system_freeCtr (s : State) (a d k c : Nat) (b : Body) : (s.system a d k c b).freeCtr = s.freeCtr := by
  simp [State.system]
@[simp] theorem State.system_cur (s : State) (a d k c : Nat) (b : Body) : (s.system a d k c b).cur = s.cur := by
  simp [State.system]
@[simp] theorem State.system_slot (s : State) (a d k c : Nat) (b : Body) (l : Nat) (j : Fin 16) : (s.system a d k c b).slot l j = s.slot l j := by simp [State.system]
@[simp] theorem State.freezeChan_time (s : State) (p c b : Nat) : (s.freezeChan p c b).time = s.time := by
  unfold State.freezeChan; simp only []; split <;> simp
@[simp] theorem State.freezeChan_gtb (s : State) (p c b : Nat) : (s.freezeChan p c b).gtb = s.gtb := by simp [State.gtb]
@[simp] theorem State.freezeChan_panelId (s : State) (p c b : Nat) : (s.freezeChan p c b).panelId = s.panelId := by
  unfold State.freezeChan; simp only []; split <;> simp
@[simp] theorem State.freezeChan_mem (s : State) (p c b : Nat) : (s.freezeChan p c b).mem = s.mem := by
  unfold State.freezeChan; simp only []; split <;> simp
@[simp] theorem State.freezeChan_clusters (s : State) (p c b : Nat) : (s.freezeChan p c b).clusters = s.clusters := by
  unfold State.freezeChan; simp only []; split <;> simp
@[simp] theorem State.freezeChan_dies (s : State) (p c b : Nat) : (s.freezeChan p c b).dies = s.dies := by
  unfold State.freezeChan; simp only []; split <;> simp
@[simp] theorem State.freezeChan_bridges (s : State) (p c b : Nat) : (s.freezeChan p c b).bridges = s.bridges := by
  unfold State.freezeChan; simp only []; split <;> simp
@[simp] theorem State.freezeChan_rmap (s : State) (p c b : Nat) : (s.freezeChan p c b).rmap = s.rmap := by
  unfold State.freezeChan; simp only []; split <;> simp
@[simp] theorem State.freezeChan_dead (s : State) (p c b : Nat) : (s.freezeChan p c b).dead = s.dead := by
  unfold State.freezeChan; simp only []; split <;> simp
@[simp] theorem State.freezeChan_rlyf (s : State) (p c b : Nat) : (s.freezeChan p c b).rlyf = s.rlyf := by
  unfold State.freezeChan; simp only []; split <;> simp
@[simp] theorem State.freezeChan_peats (s : State) (p c b : Nat) : (s.freezeChan p c b).peats = s.peats := by
  unfold State.freezeChan; simp only []; split <;> simp
@[simp] theorem State.freezeChan_stopped (s : State) (p c b : Nat) : (s.freezeChan p c b).stopped = s.stopped := by
  unfold State.freezeChan; simp only []; split <;> simp
@[simp] theorem State.freezeChan_agenda (s : State) (p c b : Nat) : (s.freezeChan p c b).agenda = s.agenda := by
  unfold State.freezeChan; simp only []; split <;> simp
@[simp] theorem State.freezeChan_turn (s : State) (p c b : Nat) : (s.freezeChan p c b).turn = s.turn := by
  unfold State.freezeChan; simp only []; split <;> simp
@[simp] theorem State.freezeChan_freeCtr (s : State) (p c b : Nat) : (s.freezeChan p c b).freeCtr = s.freeCtr := by
  unfold State.freezeChan; simp only []; split <;> simp
@[simp] theorem State.freezeChan_cur (s : State) (p c b : Nat) : (s.freezeChan p c b).cur = s.cur := by
  unfold State.freezeChan; simp only []; split <;> simp
theorem State.freezeChan_core (s : State) (p c b : Nat) (l : Nat) :
    ∃ k sw, (s.freezeChan p c b).core l = { s.core l with ckpt := k, sw := sw } := by
  unfold State.freezeChan
  simp only []
  split
  · exact State.post_core _ _ l
  · exact ⟨_, _, rfl⟩
@[simp] theorem State.farRefusal_time (s : State) (p c : Nat) (v : Option Nat) : (s.farRefusal p c v).time = s.time := by
  unfold State.farRefusal; split <;> simp
@[simp] theorem State.farRefusal_gtb (s : State) (p c : Nat) (v : Option Nat) : (s.farRefusal p c v).gtb = s.gtb := by
  unfold State.farRefusal; split <;> simp
@[simp] theorem State.farRefusal_panelId (s : State) (p c : Nat) (v : Option Nat) : (s.farRefusal p c v).panelId = s.panelId := by
  unfold State.farRefusal; split <;> simp
@[simp] theorem State.farRefusal_mem (s : State) (p c : Nat) (v : Option Nat) : (s.farRefusal p c v).mem = s.mem := by
  unfold State.farRefusal; split <;> simp
@[simp] theorem State.farRefusal_clusters (s : State) (p c : Nat) (v : Option Nat) : (s.farRefusal p c v).clusters = s.clusters := by
  unfold State.farRefusal; split <;> simp
@[simp] theorem State.farRefusal_dies (s : State) (p c : Nat) (v : Option Nat) : (s.farRefusal p c v).dies = s.dies := by
  unfold State.farRefusal; split <;> simp
@[simp] theorem State.farRefusal_bridges (s : State) (p c : Nat) (v : Option Nat) : (s.farRefusal p c v).bridges = s.bridges := by
  unfold State.farRefusal; split <;> simp
@[simp] theorem State.farRefusal_rmap (s : State) (p c : Nat) (v : Option Nat) : (s.farRefusal p c v).rmap = s.rmap := by
  unfold State.farRefusal; split <;> simp
@[simp] theorem State.farRefusal_dead (s : State) (p c : Nat) (v : Option Nat) : (s.farRefusal p c v).dead = s.dead := by
  unfold State.farRefusal; split <;> simp
@[simp] theorem State.farRefusal_rlyf (s : State) (p c : Nat) (v : Option Nat) : (s.farRefusal p c v).rlyf = s.rlyf := by
  unfold State.farRefusal; split <;> simp
@[simp] theorem State.farRefusal_peats (s : State) (p c : Nat) (v : Option Nat) : (s.farRefusal p c v).peats = s.peats := by
  unfold State.farRefusal; split <;> simp
@[simp] theorem State.farRefusal_stopped (s : State) (p c : Nat) (v : Option Nat) : (s.farRefusal p c v).stopped = s.stopped := by
  unfold State.farRefusal; split <;> simp
@[simp] theorem State.farRefusal_agenda (s : State) (p c : Nat) (v : Option Nat) : (s.farRefusal p c v).agenda = s.agenda := by
  unfold State.farRefusal; split <;> simp
@[simp] theorem State.farRefusal_turn (s : State) (p c : Nat) (v : Option Nat) : (s.farRefusal p c v).turn = s.turn := by
  unfold State.farRefusal; split <;> simp
@[simp] theorem State.farRefusal_freeCtr (s : State) (p c : Nat) (v : Option Nat) : (s.farRefusal p c v).freeCtr = s.freeCtr := by
  unfold State.farRefusal; split <;> simp
@[simp] theorem State.farRefusal_cur (s : State) (p c : Nat) (v : Option Nat) : (s.farRefusal p c v).cur = s.cur := by
  unfold State.farRefusal; split <;> simp
theorem State.farRefusal_core (s : State) (p c : Nat) (v : Option Nat) (l : Nat) :
    ∃ k sw, (s.farRefusal p c v).core l = { s.core l with ckpt := k, sw := sw } := by
  unfold State.farRefusal
  split
  · exact State.freezeChan_core _ _ _ _ l
  · exact ⟨_, _, rfl⟩
@[simp] theorem State.answer_time (s : State) (a : Nat) (r : Reply) (x : Resp) : (s.answer a r x).time = s.time := by
  unfold State.answer; simp only []; (repeat' split) <;> simp
@[simp] theorem State.answer_gtb (s : State) (a : Nat) (r : Reply) (x : Resp) : (s.answer a r x).gtb = s.gtb := by simp [State.gtb]
@[simp] theorem State.answer_panelId (s : State) (a : Nat) (r : Reply) (x : Resp) : (s.answer a r x).panelId = s.panelId := by
  unfold State.answer; simp only []; (repeat' split) <;> simp
@[simp] theorem State.answer_mem (s : State) (a : Nat) (r : Reply) (x : Resp) : (s.answer a r x).mem = s.mem := by
  unfold State.answer; simp only []; (repeat' split) <;> simp
@[simp] theorem State.answer_clusters (s : State) (a : Nat) (r : Reply) (x : Resp) : (s.answer a r x).clusters = s.clusters := by
  unfold State.answer; simp only []; (repeat' split) <;> simp
@[simp] theorem State.answer_dies (s : State) (a : Nat) (r : Reply) (x : Resp) : (s.answer a r x).dies = s.dies := by
  unfold State.answer; simp only []; (repeat' split) <;> simp
@[simp] theorem State.answer_bridges (s : State) (a : Nat) (r : Reply) (x : Resp) : (s.answer a r x).bridges = s.bridges := by
  unfold State.answer; simp only []; (repeat' split) <;> simp
@[simp] theorem State.answer_rmap (s : State) (a : Nat) (r : Reply) (x : Resp) : (s.answer a r x).rmap = s.rmap := by
  unfold State.answer; simp only []; (repeat' split) <;> simp
@[simp] theorem State.answer_dead (s : State) (a : Nat) (r : Reply) (x : Resp) : (s.answer a r x).dead = s.dead := by
  unfold State.answer; simp only []; (repeat' split) <;> simp
@[simp] theorem State.answer_rlyf (s : State) (a : Nat) (r : Reply) (x : Resp) : (s.answer a r x).rlyf = s.rlyf := by
  unfold State.answer; simp only []; (repeat' split) <;> simp
@[simp] theorem State.answer_peats (s : State) (a : Nat) (r : Reply) (x : Resp) : (s.answer a r x).peats = s.peats := by
  unfold State.answer; simp only []; (repeat' split) <;> simp
@[simp] theorem State.answer_stopped (s : State) (a : Nat) (r : Reply) (x : Resp) : (s.answer a r x).stopped = s.stopped := by
  unfold State.answer; simp only []; (repeat' split) <;> simp
@[simp] theorem State.answer_agenda (s : State) (a : Nat) (r : Reply) (x : Resp) : (s.answer a r x).agenda = s.agenda := by
  unfold State.answer; simp only []; (repeat' split) <;> simp
@[simp] theorem State.answer_turn (s : State) (a : Nat) (r : Reply) (x : Resp) : (s.answer a r x).turn = s.turn := by
  unfold State.answer; simp only []; (repeat' split) <;> simp
@[simp] theorem State.answer_freeCtr (s : State) (a : Nat) (r : Reply) (x : Resp) : (s.answer a r x).freeCtr = s.freeCtr := by
  unfold State.answer; simp only []; (repeat' split) <;> simp
@[simp] theorem State.answer_cur (s : State) (a : Nat) (r : Reply) (x : Resp) : (s.answer a r x).cur = s.cur := by
  unfold State.answer; simp only []; (repeat' split) <;> simp
theorem State.answer_core (s : State) (a : Nat) (r : Reply) (x : Resp) (l : Nat) :
    ∃ k sw, (s.answer a r x).core l = { s.core l with ckpt := k, sw := sw } := by
  have h1 : ∃ k sw, (if x.cause = 0x0D then s.farRefusal r.panel r.ctx r.via else s).core l =
      { s.core l with ckpt := k, sw := sw } := by
    split
    · exact State.farRefusal_core _ _ _ _ l
    · exact ⟨_, _, rfl⟩
  obtain ⟨k1, w1, h1⟩ := h1
  unfold State.answer
  simp only []
  split
  · rw [State.send_core, h1]; exact ⟨_, _, rfl⟩
  · split
    · obtain ⟨k, w, h⟩ := State.post_core _ _ l; rw [h, State.modNi_core, h1]; exact ⟨_, _, rfl⟩
    · obtain ⟨k, w, h⟩ := State.post_core _ _ l; rw [h, h1]; exact ⟨_, _, rfl⟩
@[simp] theorem State.answer_core_slots (s : State) (a : Nat) (r : Reply) (x : Resp) (l : Nat) : ((s.answer a r x).core l).slots = (s.core l).slots := by
  obtain ⟨_, _, h⟩ := State.answer_core s a r x l; rw [h]
@[simp] theorem State.answer_core_lastW (s : State) (a : Nat) (r : Reply) (x : Resp) (l : Nat) : ((s.answer a r x).core l).lastW = (s.core l).lastW := by
  obtain ⟨_, _, h⟩ := State.answer_core s a r x l; rw [h]
@[simp] theorem State.answer_core_dq (s : State) (a : Nat) (r : Reply) (x : Resp) (l : Nat) : ((s.answer a r x).core l).dq = (s.core l).dq := by
  obtain ⟨_, _, h⟩ := State.answer_core s a r x l; rw [h]
@[simp] theorem State.answer_core_pushes (s : State) (a : Nat) (r : Reply) (x : Resp) (l : Nat) : ((s.answer a r x).core l).pushes = (s.core l).pushes := by
  obtain ⟨_, _, h⟩ := State.answer_core s a r x l; rw [h]
@[simp] theorem State.answer_core_steal (s : State) (a : Nat) (r : Reply) (x : Resp) (l : Nat) : ((s.answer a r x).core l).steal = (s.core l).steal := by
  obtain ⟨_, _, h⟩ := State.answer_core s a r x l; rw [h]
@[simp] theorem State.answer_core_sysr (s : State) (a : Nat) (r : Reply) (x : Resp) (l : Nat) : ((s.answer a r x).core l).sysr = (s.core l).sysr := by
  obtain ⟨_, _, h⟩ := State.answer_core s a r x l; rw [h]
@[simp] theorem State.answer_core_handles (s : State) (a : Nat) (r : Reply) (x : Resp) (l : Nat) : ((s.answer a r x).core l).handles = (s.core l).handles := by
  obtain ⟨_, _, h⟩ := State.answer_core s a r x l; rw [h]
@[simp] theorem State.answer_core_waits (s : State) (a : Nat) (r : Reply) (x : Resp) (l : Nat) : ((s.answer a r x).core l).waits = (s.core l).waits := by
  obtain ⟨_, _, h⟩ := State.answer_core s a r x l; rw [h]
@[simp] theorem State.answer_core_links (s : State) (a : Nat) (r : Reply) (x : Resp) (l : Nat) : ((s.answer a r x).core l).links = (s.core l).links := by
  obtain ⟨_, _, h⟩ := State.answer_core s a r x l; rw [h]
@[simp] theorem State.answer_core_tlb (s : State) (a : Nat) (r : Reply) (x : Resp) (l : Nat) : ((s.answer a r x).core l).tlb = (s.core l).tlb := by
  obtain ⟨_, _, h⟩ := State.answer_core s a r x l; rw [h]
@[simp] theorem State.answer_core_lines (s : State) (a : Nat) (r : Reply) (x : Resp) (l : Nat) : ((s.answer a r x).core l).lines = (s.core l).lines := by
  obtain ⟨_, _, h⟩ := State.answer_core s a r x l; rw [h]
@[simp] theorem State.answer_core_veng (s : State) (a : Nat) (r : Reply) (x : Resp) (l : Nat) : ((s.answer a r x).core l).veng = (s.core l).veng := by
  obtain ⟨_, _, h⟩ := State.answer_core s a r x l; rw [h]
@[simp] theorem State.answer_core_meng (s : State) (a : Nat) (r : Reply) (x : Resp) (l : Nat) : ((s.answer a r x).core l).meng = (s.core l).meng := by
  obtain ⟨_, _, h⟩ := State.answer_core s a r x l; rw [h]
@[simp] theorem State.answer_core_cq (s : State) (a : Nat) (r : Reply) (x : Resp) (l : Nat) : ((s.answer a r x).core l).cq = (s.core l).cq := by
  obtain ⟨_, _, h⟩ := State.answer_core s a r x l; rw [h]
@[simp] theorem State.answer_core_cmdNo (s : State) (a : Nat) (r : Reply) (x : Resp) (l : Nat) : ((s.answer a r x).core l).cmdNo = (s.core l).cmdNo := by
  obtain ⟨_, _, h⟩ := State.answer_core s a r x l; rw [h]
@[simp] theorem State.answer_core_bs (s : State) (a : Nat) (r : Reply) (x : Resp) (l : Nat) : ((s.answer a r x).core l).bs = (s.core l).bs := by
  obtain ⟨_, _, h⟩ := State.answer_core s a r x l; rw [h]
@[simp] theorem State.answer_core_bars (s : State) (a : Nat) (r : Reply) (x : Resp) (l : Nat) : ((s.answer a r x).core l).bars = (s.core l).bars := by
  obtain ⟨_, _, h⟩ := State.answer_core s a r x l; rw [h]
@[simp] theorem State.answer_core_mt (s : State) (a : Nat) (r : Reply) (x : Resp) (l : Nat) : ((s.answer a r x).core l).mt = (s.core l).mt := by
  obtain ⟨_, _, h⟩ := State.answer_core s a r x l; rw [h]
@[simp] theorem State.answer_core_reqs (s : State) (a : Nat) (r : Reply) (x : Resp) (l : Nat) : ((s.answer a r x).core l).reqs = (s.core l).reqs := by
  obtain ⟨_, _, h⟩ := State.answer_core s a r x l; rw [h]
@[simp] theorem State.answer_core_colls (s : State) (a : Nat) (r : Reply) (x : Resp) (l : Nat) : ((s.answer a r x).core l).colls = (s.core l).colls := by
  obtain ⟨_, _, h⟩ := State.answer_core s a r x l; rw [h]
@[simp] theorem State.answer_core_gparts (s : State) (a : Nat) (r : Reply) (x : Resp) (l : Nat) : ((s.answer a r x).core l).gparts = (s.core l).gparts := by
  obtain ⟨_, _, h⟩ := State.answer_core s a r x l; rw [h]
@[simp] theorem State.answer_core_flt (s : State) (a : Nat) (r : Reply) (x : Resp) (l : Nat) : ((s.answer a r x).core l).flt = (s.core l).flt := by
  obtain ⟨_, _, h⟩ := State.answer_core s a r x l; rw [h]
@[simp] theorem State.answer_core_health (s : State) (a : Nat) (r : Reply) (x : Resp) (l : Nat) : ((s.answer a r x).core l).health = (s.core l).health := by
  obtain ⟨_, _, h⟩ := State.answer_core s a r x l; rw [h]
@[simp] theorem State.answer_core_diverted (s : State) (a : Nat) (r : Reply) (x : Resp) (l : Nat) : ((s.answer a r x).core l).diverted = (s.core l).diverted := by
  obtain ⟨_, _, h⟩ := State.answer_core s a r x l; rw [h]
@[simp] theorem State.answer_core_acked (s : State) (a : Nat) (r : Reply) (x : Resp) (l : Nat) : ((s.answer a r x).core l).acked = (s.core l).acked := by
  obtain ⟨_, _, h⟩ := State.answer_core s a r x l; rw [h]
@[simp] theorem State.answer_core_stopping (s : State) (a : Nat) (r : Reply) (x : Resp) (l : Nat) : ((s.answer a r x).core l).stopping = (s.core l).stopping := by
  obtain ⟨_, _, h⟩ := State.answer_core s a r x l; rw [h]
@[simp] theorem State.answer_slot (s : State) (a : Nat) (r : Reply) (x : Resp) (l : Nat) (k : Fin 16) : (s.answer a r x).slot l k = s.slot l k := by
  simp [State.slot, Core.slot]

end Sys2Proof.Machine
end

