-- ==== Sys2Proof/Laws/Requests.lean ====
section
/-! SUPPORT. What the sending of a request does at its source (R215): it is remembered with its continuation, and its thread counts
it; nothing else of the core changes but its counts and its send log. -/

namespace Sys2Proof.Machine

@[simp] theorem State.freshId_core (s : State) (a l : Nat) : (s.freshId a).1.core l = s.core l := rfl
@[simp] theorem State.freshId_mem (s : State) (a : Nat) : (s.freshId a).1.mem = s.mem := rfl
@[simp] theorem State.freshId_dies (s : State) (a : Nat) : (s.freshId a).1.dies = s.dies := rfl
@[simp] theorem State.freshId_pctl (s : State) (a : Nat) : (s.freshId a).1.pctl = s.pctl := rfl
@[simp] theorem State.freshId_panelId (s : State) (a : Nat) : (s.freshId a).1.panelId = s.panelId := rfl
@[simp] theorem State.freshId_cur (s : State) (a : Nat) : (s.freshId a).1.cur = s.cur := rfl
@[simp] theorem State.freshId_net (s : State) (a : Nat) : (s.freshId a).1.net = s.net := rfl

@[simp] theorem State.numbered_dest (s : State) (m : Msg) : (s.numbered m).dest = m.dest := by
  unfold State.numbered; (repeat' split) <;> rfl
@[simp] theorem State.numbered_kind (s : State) (m : Msg) : (s.numbered m).kind = m.kind := by
  unfold State.numbered; (repeat' split) <;> rfl
@[simp] theorem State.numbered_body (s : State) (m : Msg) : (s.numbered m).body = m.body := by
  unfold State.numbered; (repeat' split) <;> rfl
@[simp] theorem State.numbered_src (s : State) (m : Msg) : (s.numbered m).src = m.src := by
  unfold State.numbered; (repeat' split) <;> rfl
@[simp] theorem State.numbered_ctx (s : State) (m : Msg) : (s.numbered m).ctx = m.ctx := by
  unfold State.numbered; (repeat' split) <;> rfl
@[simp] theorem State.numbered_len (s : State) (m : Msg) : (s.numbered m).len = m.len := by
  unfold State.numbered; (repeat' split) <;> rfl

/-- A remembered request is one of its core's, and the core's slots are as they were but for the account of the slot that made it. -/
theorem State.remember_reqs (s : State) (l key : Nat) (q : Req) : ((s.remember l key q).core l).reqs = (s.core l).reqs ++ [q] := by
  unfold State.remember
  split <;> simp [State.core_modSlot, Core.modSlot, Core.setSlot]

@[simp] theorem State.remember_mem (s : State) (l key : Nat) (q : Req) : (s.remember l key q).mem = s.mem := by
  unfold State.remember; split <;> simp
@[simp] theorem State.remember_net (s : State) (l key : Nat) (q : Req) : (s.remember l key q).net = s.net := by
  unfold State.remember; split <;> simp
@[simp] theorem State.remember_cur (s : State) (l key : Nat) (q : Req) : (s.remember l key q).cur = s.cur := by
  unfold State.remember; split <;> simp
@[simp] theorem State.remember_nis (s : State) (l key : Nat) (q : Req) : (s.remember l key q).nis = s.nis := by
  unfold State.remember; split <;> simp

/-- The request of a unit that is no slot changes only the core's list of requests. -/
theorem State.remember_unit (s : State) (l key : Nat) (q : Req) (h : ¬ q.slot < 16) :
    s.remember l key q = s.modCore l fun c => { c with reqs := c.reqs ++ [q] } := by
  simp [State.remember, h]

/-- A request of a slot: the core's list, and the slot's account. -/
theorem State.remember_slot (s : State) (l key : Nat) (q : Req) (h : q.slot < 16) :
    s.remember l key q = (s.modCore l fun c => { c with reqs := c.reqs ++ [q] }).modSlot l (Fin.ofNat 16 q.slot) fun t =>
      { t with outst := t.outst ++ [⟨key, q.msg.vc, q.id⟩] } := by
  simp [State.remember, h]

/-- What `State.request` remembers. -/
structure Req.IsOf (q : Req) (unit : Nat) (apc : Addr) (va : Word) (cont : Cont) (m : Msg) : Prop where
  slot : q.slot = unit
  apc  : q.apc = apc
  va   : q.va = va
  cont : q.cont = cont
  dest : q.msg.dest = m.dest
  kind : q.msg.kind = m.kind
  body : q.msg.body = m.body
  src  : q.msg.src = m.src
  ctx  : q.msg.ctx = m.ctx

/-- A request sent is remembered, and its core keeps everything else but its counts, its send log and the slot's account. -/
theorem State.request_reqs (s : State) (l unit : Nat) (apc : Addr) (va : Word) (key : Nat) (cont : Cont) (m : Msg) :
    ∃ q, Req.IsOf q unit apc va cont m ∧
      ((s.request l unit apc va key cont m).core l).reqs = (s.core l).reqs ++ [q] := by
  unfold State.request
  simp only []
  split
  · refine ⟨{ id := (s.freshId l).2, slot := unit, apc, va, msg := { m with vc := 4, seq := (s.freshId l).2 }, cont },
      ⟨rfl, rfl, rfl, rfl, rfl, rfl, rfl, rfl, rfl⟩, ?_⟩
    simp [State.selfAnswer, State.remember_reqs]
  · refine ⟨{ id := (s.freshId l).2, slot := unit, apc, va, msg :=
        (if m.vc = 0 then (s.freshId l).1.numbered m else { m with seq := (s.freshId l).2 }), cont }, ?_, ?_⟩
    · constructor <;> first | rfl | (dsimp only; split <;> simp)
    · split <;> simp [State.remember_reqs]

@[simp] theorem State.request_mem (s : State) (l unit : Nat) (apc : Addr) (va : Word) (key : Nat) (cont : Cont) (m : Msg) :
    (s.request l unit apc va key cont m).mem = s.mem := by
  unfold State.request
  simp only []
  split
  · simp [State.selfAnswer]
  · split <;> simp
@[simp] theorem State.request_cur (s : State) (l unit : Nat) (apc : Addr) (va : Word) (key : Nat) (cont : Cont) (m : Msg) :
    (s.request l unit apc va key cont m).cur = s.cur := by
  unfold State.request
  simp only []
  split
  · simp [State.selfAnswer]
  · split <;> simp

/-- A request of a unit that is no slot leaves all of the core alone but its list of requests, its counts and its send log. -/
theorem State.request_core_unit (s : State) (l unit : Nat) (apc : Addr) (va : Word) (key : Nat) (cont : Cont) (m : Msg)
    (hu : ¬ unit < 16) : ∃ k sw q, (s.request l unit apc va key cont m).core l =
      { s.core l with reqs := (s.core l).reqs ++ [q], ckpt := k, sw := sw } ∧ Req.IsOf q unit apc va cont m := by
  unfold State.request
  simp only []
  split
  · refine ⟨(s.core l).ckpt, (s.core l).sw, { id := (s.freshId l).2, slot := unit, apc, va, msg := { m with vc := 4, seq := (s.freshId l).2 }, cont }, ?_,
      ⟨rfl, rfl, rfl, rfl, rfl, rfl, rfl, rfl, rfl⟩⟩
    simp only [State.selfAnswer, State.send_core]
    rw [State.remember_unit _ _ _ _ (by exact hu), State.core_modCore]
    rfl
  · have hq : Req.IsOf { id := (s.freshId l).2, slot := unit, apc, va, msg :=
        (if m.vc = 0 then (s.freshId l).1.numbered m else { m with seq := (s.freshId l).2 }), cont } unit apc va cont m := by
      constructor <;> first | rfl | (dsimp only; split <;> simp)
    split
    · refine ⟨(s.core l).ckpt, (s.core l).sw, _, ?_, hq⟩
      rw [State.remember_unit _ _ _ _ (by exact hu), State.core_modCore]
      rfl
    · obtain ⟨k, w, h⟩ := State.post_core ((s.freshId l).1.remember l key { id := (s.freshId l).2, slot := unit, apc, va, msg :=
        (if m.vc = 0 then (s.freshId l).1.numbered m else { m with seq := (s.freshId l).2 }), cont })
        (if m.vc = 0 then (s.freshId l).1.numbered m else { m with seq := (s.freshId l).2 }) l
      refine ⟨k, w, _, ?_, hq⟩
      rw [h, State.remember_unit _ _ _ _ (by exact hu), State.core_modCore]
      rfl

end Sys2Proof.Machine
end

