-- ==== Sys2Proof/Laws/Home.lean ====
section
/-! SUPPORT. What a home does with sound words (R117-R124): reads give the bytes of memory, writes store theirs. -/

namespace Sys2Proof.Machine

theorem State.chkAll_ok {s : State} {chk : State → Nat → State × Nat} {l : List Nat} (h : ∀ w ∈ l, chk s w = (s, 0)) :
    State.chkAll chk s l = (s, 0) := by
  induction l with
  | nil => rfl
  | cons a t ih =>
    have ha := h a (by simp)
    simp only [State.chkAll, ha, if_true]
    exact ih fun w hw => h w (by simp [hw])

theorem State.Sound.chk {s : State} {pa n : Nat} (h : s.Sound pa n) {w : Nat} (hw : w ∈ wordsIn pa n) :
    s.chkSlice (sliceLcn pa) w = (s, 0) := by
  obtain ⟨h1, h2, h3⟩ := h.words w hw
  simp [State.chkSlice, h.banks, h1, -List.contains_eq_mem, h2, h3]

/-- Sound words read as memory has them. -/
theorem State.readSlice_sound {s : State} {pa n : Nat} (h : s.Sound pa n) :
    s.readSlice (sliceLcn pa) pa n = (s, 0, s.mem.read pa n) := by
  have := State.chkAll_ok (s := s) (chk := fun s a => s.chkSlice (sliceLcn pa) a) fun w hw => h.chk hw
  simp [State.readSlice, this, State.sliceBytes, h.listed]

/-- Sound words take what is stored. -/
theorem State.writeSlice_sound {s : State} {pa : Nat} {bs : List Byte} (who : Option Nat) (h : s.Sound pa bs.length) :
    s.writeSlice (sliceLcn pa) pa bs who =
      ((s.modMem fun m => m.store pa bs).watched (sliceLcn pa) pa bs.length who, 0) := by
  have := State.chkAll_ok (s := s) (chk := fun s a => s.chkSlice (sliceLcn pa) a) (l := partWords pa bs.length) fun w hw =>
    h.chk (List.mem_filter.1 hw).1
  simp [State.writeSlice, h.banks, this]

/-- A watched write marks events in slots, and nothing else. -/
theorem State.watched_core (s : State) (l pa n : Nat) (who : Option Nat) (j : Nat) :
    ∃ ts, (s.watched l pa n who).core j = { s.core j with slots := ts } := by
  unfold State.watched
  simp only []
  split
  · by_cases h : j = l
    · subst h; rw [State.core_setCore]; exact ⟨_, rfl⟩
    · rw [State.core_setCore_of_ne _ _ h]; exact ⟨(s.core j).slots, rfl⟩
  · exact ⟨(s.core j).slots, rfl⟩
@[simp] theorem State.watched_time (s : State) (l pa n : Nat) (who : Option Nat) : (s.watched l pa n who).time = s.time := by
  unfold State.watched; simp only []; split <;> simp
@[simp] theorem State.watched_gtb (s : State) (l pa n : Nat) (who : Option Nat) : (s.watched l pa n who).gtb = s.gtb := by simp [State.gtb]
@[simp] theorem State.watched_panelId (s : State) (l pa n : Nat) (who : Option Nat) : (s.watched l pa n who).panelId = s.panelId := by
  unfold State.watched; simp only []; split <;> simp
@[simp] theorem State.watched_mem (s : State) (l pa n : Nat) (who : Option Nat) : (s.watched l pa n who).mem = s.mem := by
  unfold State.watched; simp only []; split <;> simp
@[simp] theorem State.watched_clusters (s : State) (l pa n : Nat) (who : Option Nat) : (s.watched l pa n who).clusters = s.clusters := by
  unfold State.watched; simp only []; split <;> simp
@[simp] theorem State.watched_dies (s : State) (l pa n : Nat) (who : Option Nat) : (s.watched l pa n who).dies = s.dies := by
  unfold State.watched; simp only []; split <;> simp
@[simp] theorem State.watched_bridges (s : State) (l pa n : Nat) (who : Option Nat) : (s.watched l pa n who).bridges = s.bridges := by
  unfold State.watched; simp only []; split <;> simp
@[simp] theorem State.watched_nis (s : State) (l pa n : Nat) (who : Option Nat) : (s.watched l pa n who).nis = s.nis := by
  unfold State.watched; simp only []; split <;> simp
@[simp] theorem State.watched_rmap (s : State) (l pa n : Nat) (who : Option Nat) : (s.watched l pa n who).rmap = s.rmap := by
  unfold State.watched; simp only []; split <;> simp
@[simp] theorem State.watched_dead (s : State) (l pa n : Nat) (who : Option Nat) : (s.watched l pa n who).dead = s.dead := by
  unfold State.watched; simp only []; split <;> simp
@[simp] theorem State.watched_rlyf (s : State) (l pa n : Nat) (who : Option Nat) : (s.watched l pa n who).rlyf = s.rlyf := by
  unfold State.watched; simp only []; split <;> simp
@[simp] theorem State.watched_pctl (s : State) (l pa n : Nat) (who : Option Nat) : (s.watched l pa n who).pctl = s.pctl := by
  unfold State.watched; simp only []; split <;> simp
@[simp] theorem State.watched_peats (s : State) (l pa n : Nat) (who : Option Nat) : (s.watched l pa n who).peats = s.peats := by
  unfold State.watched; simp only []; split <;> simp
@[simp] theorem State.watched_fab (s : State) (l pa n : Nat) (who : Option Nat) : (s.watched l pa n who).fab = s.fab := by
  unfold State.watched; simp only []; split <;> simp
@[simp] theorem State.watched_net (s : State) (l pa n : Nat) (who : Option Nat) : (s.watched l pa n who).net = s.net := by
  unfold State.watched; simp only []; split <;> simp
@[simp] theorem State.watched_stopped (s : State) (l pa n : Nat) (who : Option Nat) : (s.watched l pa n who).stopped = s.stopped := by
  unfold State.watched; simp only []; split <;> simp
@[simp] theorem State.watched_agenda (s : State) (l pa n : Nat) (who : Option Nat) : (s.watched l pa n who).agenda = s.agenda := by
  unfold State.watched; simp only []; split <;> simp
@[simp] theorem State.watched_turn (s : State) (l pa n : Nat) (who : Option Nat) : (s.watched l pa n who).turn = s.turn := by
  unfold State.watched; simp only []; split <;> simp
@[simp] theorem State.watched_freeCtr (s : State) (l pa n : Nat) (who : Option Nat) : (s.watched l pa n who).freeCtr = s.freeCtr := by
  unfold State.watched; simp only []; split <;> simp
@[simp] theorem State.watched_cur (s : State) (l pa n : Nat) (who : Option Nat) : (s.watched l pa n who).cur = s.cur := by
  unfold State.watched; simp only []; split <;> simp
@[simp] theorem State.watched_core_lastW (s : State) (l pa n : Nat) (who : Option Nat) (j : Nat) :
    ((s.watched l pa n who).core j).lastW = (s.core j).lastW := by
  obtain ⟨_, h⟩ := State.watched_core s l pa n who j; rw [h]
@[simp] theorem State.watched_core_dq (s : State) (l pa n : Nat) (who : Option Nat) (j : Nat) :
    ((s.watched l pa n who).core j).dq = (s.core j).dq := by
  obtain ⟨_, h⟩ := State.watched_core s l pa n who j; rw [h]
@[simp] theorem State.watched_core_pushes (s : State) (l pa n : Nat) (who : Option Nat) (j : Nat) :
    ((s.watched l pa n who).core j).pushes = (s.core j).pushes := by
  obtain ⟨_, h⟩ := State.watched_core s l pa n who j; rw [h]
@[simp] theorem State.watched_core_steal (s : State) (l pa n : Nat) (who : Option Nat) (j : Nat) :
    ((s.watched l pa n who).core j).steal = (s.core j).steal := by
  obtain ⟨_, h⟩ := State.watched_core s l pa n who j; rw [h]
@[simp] theorem State.watched_core_sysr (s : State) (l pa n : Nat) (who : Option Nat) (j : Nat) :
    ((s.watched l pa n who).core j).sysr = (s.core j).sysr := by
  obtain ⟨_, h⟩ := State.watched_core s l pa n who j; rw [h]
@[simp] theorem State.watched_core_handles (s : State) (l pa n : Nat) (who : Option Nat) (j : Nat) :
    ((s.watched l pa n who).core j).handles = (s.core j).handles := by
  obtain ⟨_, h⟩ := State.watched_core s l pa n who j; rw [h]
@[simp] theorem State.watched_core_waits (s : State) (l pa n : Nat) (who : Option Nat) (j : Nat) :
    ((s.watched l pa n who).core j).waits = (s.core j).waits := by
  obtain ⟨_, h⟩ := State.watched_core s l pa n who j; rw [h]
@[simp] theorem State.watched_core_links (s : State) (l pa n : Nat) (who : Option Nat) (j : Nat) :
    ((s.watched l pa n who).core j).links = (s.core j).links := by
  obtain ⟨_, h⟩ := State.watched_core s l pa n who j; rw [h]
@[simp] theorem State.watched_core_tlb (s : State) (l pa n : Nat) (who : Option Nat) (j : Nat) :
    ((s.watched l pa n who).core j).tlb = (s.core j).tlb := by
  obtain ⟨_, h⟩ := State.watched_core s l pa n who j; rw [h]
@[simp] theorem State.watched_core_lines (s : State) (l pa n : Nat) (who : Option Nat) (j : Nat) :
    ((s.watched l pa n who).core j).lines = (s.core j).lines := by
  obtain ⟨_, h⟩ := State.watched_core s l pa n who j; rw [h]
@[simp] theorem State.watched_core_veng (s : State) (l pa n : Nat) (who : Option Nat) (j : Nat) :
    ((s.watched l pa n who).core j).veng = (s.core j).veng := by
  obtain ⟨_, h⟩ := State.watched_core s l pa n who j; rw [h]
@[simp] theorem State.watched_core_meng (s : State) (l pa n : Nat) (who : Option Nat) (j : Nat) :
    ((s.watched l pa n who).core j).meng = (s.core j).meng := by
  obtain ⟨_, h⟩ := State.watched_core s l pa n who j; rw [h]
@[simp] theorem State.watched_core_cq (s : State) (l pa n : Nat) (who : Option Nat) (j : Nat) :
    ((s.watched l pa n who).core j).cq = (s.core j).cq := by
  obtain ⟨_, h⟩ := State.watched_core s l pa n who j; rw [h]
@[simp] theorem State.watched_core_cmdNo (s : State) (l pa n : Nat) (who : Option Nat) (j : Nat) :
    ((s.watched l pa n who).core j).cmdNo = (s.core j).cmdNo := by
  obtain ⟨_, h⟩ := State.watched_core s l pa n who j; rw [h]
@[simp] theorem State.watched_core_bs (s : State) (l pa n : Nat) (who : Option Nat) (j : Nat) :
    ((s.watched l pa n who).core j).bs = (s.core j).bs := by
  obtain ⟨_, h⟩ := State.watched_core s l pa n who j; rw [h]
@[simp] theorem State.watched_core_bars (s : State) (l pa n : Nat) (who : Option Nat) (j : Nat) :
    ((s.watched l pa n who).core j).bars = (s.core j).bars := by
  obtain ⟨_, h⟩ := State.watched_core s l pa n who j; rw [h]
@[simp] theorem State.watched_core_sw (s : State) (l pa n : Nat) (who : Option Nat) (j : Nat) :
    ((s.watched l pa n who).core j).sw = (s.core j).sw := by
  obtain ⟨_, h⟩ := State.watched_core s l pa n who j; rw [h]
@[simp] theorem State.watched_core_mt (s : State) (l pa n : Nat) (who : Option Nat) (j : Nat) :
    ((s.watched l pa n who).core j).mt = (s.core j).mt := by
  obtain ⟨_, h⟩ := State.watched_core s l pa n who j; rw [h]
@[simp] theorem State.watched_core_reqs (s : State) (l pa n : Nat) (who : Option Nat) (j : Nat) :
    ((s.watched l pa n who).core j).reqs = (s.core j).reqs := by
  obtain ⟨_, h⟩ := State.watched_core s l pa n who j; rw [h]
@[simp] theorem State.watched_core_colls (s : State) (l pa n : Nat) (who : Option Nat) (j : Nat) :
    ((s.watched l pa n who).core j).colls = (s.core j).colls := by
  obtain ⟨_, h⟩ := State.watched_core s l pa n who j; rw [h]
@[simp] theorem State.watched_core_gparts (s : State) (l pa n : Nat) (who : Option Nat) (j : Nat) :
    ((s.watched l pa n who).core j).gparts = (s.core j).gparts := by
  obtain ⟨_, h⟩ := State.watched_core s l pa n who j; rw [h]
@[simp] theorem State.watched_core_flt (s : State) (l pa n : Nat) (who : Option Nat) (j : Nat) :
    ((s.watched l pa n who).core j).flt = (s.core j).flt := by
  obtain ⟨_, h⟩ := State.watched_core s l pa n who j; rw [h]
@[simp] theorem State.watched_core_health (s : State) (l pa n : Nat) (who : Option Nat) (j : Nat) :
    ((s.watched l pa n who).core j).health = (s.core j).health := by
  obtain ⟨_, h⟩ := State.watched_core s l pa n who j; rw [h]
@[simp] theorem State.watched_core_ckpt (s : State) (l pa n : Nat) (who : Option Nat) (j : Nat) :
    ((s.watched l pa n who).core j).ckpt = (s.core j).ckpt := by
  obtain ⟨_, h⟩ := State.watched_core s l pa n who j; rw [h]
@[simp] theorem State.watched_core_diverted (s : State) (l pa n : Nat) (who : Option Nat) (j : Nat) :
    ((s.watched l pa n who).core j).diverted = (s.core j).diverted := by
  obtain ⟨_, h⟩ := State.watched_core s l pa n who j; rw [h]
@[simp] theorem State.watched_core_stopping (s : State) (l pa n : Nat) (who : Option Nat) (j : Nat) :
    ((s.watched l pa n who).core j).stopping = (s.core j).stopping := by
  obtain ⟨_, h⟩ := State.watched_core s l pa n who j; rw [h]

theorem State.settle_nil {s : State} {l : Nat} (a : Nat) (h : (s.core l).waits = []) : s.settle l a = s := by
  simp [State.settle, h]

/-- What is posted on VC 1 within the panel is on the mesh as it is. -/
theorem State.mem_post {t : State} {y : Msg} (hv : y.vc = 1) (hp : y.dpanel = t.panelId) (hs : y.apart = false) : y ∈ (t.post y).net := by
  have hn : t.numbered y = y := by simp [State.numbered, hv, hs]
  have hi (u : State) (hu : u.panelId = t.panelId) : y ∈ (u.inject y).net := by
    have hh : u.holdsBack y = false := by simp [State.holdsBack, hv]
    simp [State.inject, hh, hp, hu]
  unfold State.post
  simp only [hn]
  exact hi _ (by split <;> simp)

/-- An answer to a request of the panel is on the mesh. -/
theorem State.answer_net {s : State} {a : Nat} {m : Msg} (x : Resp) (hv : m.vc = 0) (hp : m.spanel = s.panelId) :
    ∃ y ∈ (s.answer a m.reply x).net, y.dest = m.src ∧ y.dpanel = m.spanel ∧ y.src = a ∧ y.vc = 1 ∧ y.seq = m.seq ∧
      y.body = .resp 0 x := by
  unfold State.answer
  simp only [Msg.reply, hv, Nat.reduceEqDiff, ite_false, ite_true]
  refine ⟨_, State.mem_post rfl ?_ rfl, rfl, rfl, rfl, rfl, rfl, rfl⟩
  simp only [State.modNi_panelId, hp]
  split <;> simp

end Sys2Proof.Machine
end

