-- ==== Sys2Proof/Laws/Operands.lean ====
section
/-! SUPPORT. The tests before an instruction: what an instruction that is ready, or that its guard stops, comes to. -/

namespace Sys2Proof.Machine

theorem State.Ready.unsync {s : State} {u : Uses} (h : s.Ready u) : s.thr.unsync u = none := by
  have hx : (u.rx ++ u.wx).find? (fun (r : Fin 32) => r != 0 && s.thr.regs.xp[r].foreign u.eng) = none := by
    rw [List.find?_eq_none]
    intro r hr
    by_cases h0 : r = 0
    · simp [h0]
    · have := h.x r hr h0
      simp_all [Pend.foreign]
  have hv : (u.rv ++ u.wv).find? (fun r => s.thr.regs.vp[r].foreign u.eng) = none := by
    rw [List.find?_eq_none]
    intro r hr
    have := h.v r hr
    simp_all [Pend.foreign]
  have hg : u.wg.find? (fun g => g != 0 && s.thr.regs.gp[g].n != 0) = none := by
    rw [List.find?_eq_none]
    intro r hr
    by_cases h0 : r = 0
    · simp [h0]
    · have := h.g r (List.mem_append_right _ hr) h0
      simp_all
  simp only [Slot.unsync, hx, hv, hg]

theorem State.Ready.bindStop {s : State} {u : Uses} (h : s.Ready u) : s.bindStop u = none := by
  have hr : ∀ r ∈ u.rx, s.thr.bind r = none := fun r m => h.unbound r (List.mem_append_left _ m)
  have hw : ∀ r ∈ u.wx, s.thr.bind r = none := fun r m => h.unbound r (List.mem_append_right _ m)
  unfold State.bindStop
  dsimp only
  rw [List.findSome?_eq_none_iff.2 fun r m => by simp [hr r m], List.findSome?_eq_none_iff.2 fun r m => by simp [hw r m]]
  rfl

theorem State.Ready.gate {s : State} {u : Uses} (h : s.Ready u) : s.gate u = .go := by
  have hl : ¬ s.me.level < u.lvl := by have := h.level; omega
  have hg : (u.rg.any fun g => (s.thr.guard g).isNone) = false := by
    rw [List.any_eq_false]
    intro r hr
    by_cases h0 : r = 0
    · simp [Slot.guard, h0]
    · have := h.g r (List.mem_append_left _ hr) h0
      simp_all [Slot.guard]
  simp only [State.gate, hl, if_false, h.guard, h.unsync, hg, h.bindStop, Bool.false_eq_true]

theorem State.Ready.gateEng {s : State} {u : Uses} (h : s.Ready u) : s.gateEng u = .go := by
  have hl : ¬ s.me.level < u.lvl := by have := h.level; omega
  simp only [State.gateEng, hl, if_false, h.guard, h.unsync, h.bindStop]

/-- Being ready does not depend on how the last instruction ended. -/
theorem State.Ready.begin {s : State} {u : Uses} (h : s.Ready u) : s.begin.Ready u := by
  constructor
  · simpa using h.level
  · simpa [Slot.gate, Slot.guard] using h.guard
  · simpa using h.x
  · simpa using h.v
  · simpa using h.g
  · simpa [Slot.bind] using h.unbound

/-- A register that is not bound reads as its file has it. -/
theorem State.rx_of_unbound {s : State} {r : Fin 32} (h : s.thr.bind r = none) : s.rx r = s.thr.rx r := by
  simp [State.rx, h]

@[simp] theorem State.begin_bind (s : State) (d : Fin 32) : s.begin.thr.bind d = s.thr.bind d := by simp [Slot.bind]
@[simp] theorem State.begin_thr_rx (s : State) (r : Fin 32) : s.begin.thr.rx r = s.thr.rx r := by simp [Slot.rx]
@[simp] theorem State.begin_thr_rg (s : State) (r : Fin 16) : s.begin.thr.rg r = s.thr.rg r := by simp [Slot.rg]

/-- The second operand of a scalar instruction, from the register file. -/
theorem State.src_of_unbound {s : State} {x : Src} (h : ∀ r ∈ x.regs, s.thr.bind r = none) :
    s.src x = match x with
      | .reg r => s.thr.rx r
      | .imm v => v.signExtend 64 := by
  cases x with
  | reg r => exact State.rx_of_unbound (h r (by simp [Src.regs]))
  | imm v => rfl

theorem State.popAll_of_unbound {s : State} {rs : List (Fin 32)} (h : ∀ r ∈ rs, s.thr.bind r = none) : s.popAll rs = s := by
  have : (rs.any fun r => (s.thr.bind r).isSome) = false := by
    rw [List.any_eq_false]; intro r hr; simp [h r hr]
  simp [State.popAll, this]

theorem State.pops_of_unbound {s : State} (t : State) {rs : List (Fin 32)} (h : ∀ r ∈ rs, s.thr.bind r = none) :
    s.pops t rs = t := by
  have : (rs.all fun r => (s.thr.bind r).isNone) = true := by
    rw [List.all_eq_true]; intro r hr; simp [h r hr]
  simp [State.pops, this]

/-- An instruction that is ready has its effect. -/
theorem State.Ready.run {s : State} {i : Instr} (h : s.Ready i.uses) (k : State → State) :
    s.run i k = .next (k s.begin) := by
  unfold State.run State.issue
  simp only [h.begin.gate]
  rw [State.pops_of_unbound _ fun r m => h.begin.unbound r (List.mem_append_left _ m)]

theorem State.mtRemote_of_worker {s : State} (va : Word) (p : Perm) (u : Sup) (h : s.cur.slot ≠ 15) :
    s.mtRemote va p u = (s, false) := by simp [State.mtRemote, h]

/-- A worker's read is not kept from other homes. -/
theorem State.localOnMt_of_worker {s : State} (va : Word) (p : Perm) (u : Sup) (k : State → State) (h : s.cur.slot ≠ 15) :
    s.localOnMt va p u k = k s := by simp [State.localOnMt, State.mtRemote_of_worker va p u h]

/-- A worker may issue what a message thread may not. -/
theorem State.notOnMt_of_worker {s : State} (i : Instr) (k : State → State) (h : s.cur.slot ≠ 15) : s.notOnMt i k = k s := by
  simp [State.notOnMt, h]

theorem addrStop_none {va : Word} {n : Nat} (h48 : va.toNat < 2 ^ 48) (hn : va.toNat % n = 0) : addrStop va n = none := by
  rw [addrStop, if_neg (Nat.not_le.2 h48), if_neg (by simp [hn])]

/-- An access whose address passes its checks and that nothing keeps back enters the path. -/
theorem State.access_go {s : State} {va : Word} {n : Nat} {release : Bool} (perm : Perm) (op : PathOp) (cont : Cont)
    (posted : Bool) (k : State → State) (h48 : va.toNat < 2 ^ 48) (hn : va.toNat % n = 0) (ho : s.orderStop release = none) :
    s.access va n perm op cont release posted k = (k s).enqueue { va, bytes := n, perm, op, apc := s.here, cont, posted } := by
  simp [State.access, addrStop_none h48 hn, ho]

/-- An instruction whose guard is false does nothing. -/
theorem State.run_skip {s : State} {i : Instr} {k : State → State} (hl : i.uses.lvl ≤ s.me.level)
    (hg : s.thr.gate i.uses.gd = some false) : s.run i k = .next s.begin := by
  have hl' : ¬ s.begin.me.level < i.uses.lvl := by simp; omega
  have hg' : s.begin.thr.gate i.uses.gd = some false := by simpa [Slot.gate, Slot.guard] using hg
  simp only [State.run, State.issue, State.gate, hl', if_false, hg']

@[simp] theorem State.wx_of_unbound {s : State} {d : Fin 32} (w : Word) (h : s.thr.bind d = none) :
    s.wx d w = s.modThr fun t => t.setX d w := by
  have h' : (s.slot s.cur.lcn s.cur.slot).bind d = none := h
  simp [State.wx, State.putX, h', State.modThr]

end Sys2Proof.Machine
end

