-- ==== Sys2Proof/Laws/PerInstr.lean ====
section
/-! SUPPORT. The round trip of the encoding, instruction by instruction (R60-R68): what each opcode's slot
decodes to, and for every constructor that the decoder gives back the well-formed instruction the encoder wrote. -/

set_option maxRecDepth 8000

namespace Sys2Proof

theorem parse_01 {w : BitVec 96} {gd gn var} (e : Hdr.ofBits w = ⟨0x01#8, gd, gn, var⟩) : parse w =
    (
    let h : Hdr := ⟨0x01#8, gd, gn, var⟩
    let g := h.guard
    let a := FA.ofBits w
    parseX false false false h a (.nop g)) := by
  unfold parse parseLow
  rw [e]
  rfl

theorem parse_02 {w : BitVec 96} {gd gn var} (e : Hdr.ofBits w = ⟨0x02#8, gd, gn, var⟩) : parse w =
    (
    let h : Hdr := ⟨0x02#8, gd, gn, var⟩
    let g := h.guard
    let c := FC.ofBits w
    if h.var != 0 then .badVar else c.ok false (c.d != 0 || c.s1 != 0 || c.g2 != 0 || c.fn != 0) (.j g c.off)) := by
  unfold parse parseLow
  rw [e]
  rfl

theorem parse_03 {w : BitVec 96} {gd gn var} (e : Hdr.ofBits w = ⟨0x03#8, gd, gn, var⟩) : parse w =
    (
    let h : Hdr := ⟨0x03#8, gd, gn, var⟩
    let g := h.guard
    let c := FC.ofBits w
    if h.var != 0 then .badVar else c.ok (!inFile 32 c.d) (c.s1 != 0 || c.g2 != 0 || c.fn != 0) (.jal g (reg 31 c.d) c.off)) := by
  unfold parse parseLow
  rw [e]
  rfl

theorem parse_04 {w : BitVec 96} {gd gn var} (e : Hdr.ofBits w = ⟨0x04#8, gd, gn, var⟩) : parse w =
    (
    let h : Hdr := ⟨0x04#8, gd, gn, var⟩
    let g := h.guard
    let c := FC.ofBits w
    if h.var != 0 then .badVar else c.ok (!inFile 32 c.s1) (c.d != 0 || c.g2 != 0 || c.fn != 0 || c.off != 0) (.jr g (reg 31 c.s1))) := by
  unfold parse parseLow
  rw [e]
  rfl

theorem parse_05 {w : BitVec 96} {gd gn var} (e : Hdr.ofBits w = ⟨0x05#8, gd, gn, var⟩) : parse w =
    (
    let h : Hdr := ⟨0x05#8, gd, gn, var⟩
    let g := h.guard
    let c := FC.ofBits w
    if h.var != 0 then .badVar else c.ok (!inFile 32 c.d || !inFile 32 c.s1) (c.g2 != 0 || c.fn != 0 || c.off != 0)
      (.jalr g (reg 31 c.d) (reg 31 c.s1))) := by
  unfold parse parseLow
  rw [e]
  rfl

theorem parse_06 {w : BitVec 96} {gd gn var} (e : Hdr.ofBits w = ⟨0x06#8, gd, gn, var⟩) : parse w =
    (
    let h : Hdr := ⟨0x06#8, gd, gn, var⟩
    let g := h.guard
    let c := FC.ofBits w
    let bad := c.d != 0 || c.s1 != 0 || c.fn != 0
    let g2 : Fin 16 := ⟨c.g2.toNat, c.g2.isLt⟩
    if h.var == 0 then c.ok false bad (.br g g2 c.off)
    else if h.var == 1 then c.ok false bad (.brF g g2 c.off) else .badVar) := by
  unfold parse parseLow
  rw [e]
  rfl

theorem parse_07 {w : BitVec 96} {gd gn var} (e : Hdr.ofBits w = ⟨0x07#8, gd, gn, var⟩) : parse w =
    (
    let h : Hdr := ⟨0x07#8, gd, gn, var⟩
    let g := h.guard
    let c := FC.ofBits w
    if h.var.toNat ≥ 2 then .badVar else c.ok (!inFile 32 c.s1) (c.d != 0 || c.g2 != 0 || c.fn != 0)
      (.loop g (Fin.ofNat 2 h.var.toNat) (reg 31 c.s1) c.off)) := by
  unfold parse parseLow
  rw [e]
  rfl

theorem parse_08 {w : BitVec 96} {gd gn var} (e : Hdr.ofBits w = ⟨0x08#8, gd, gn, var⟩) : parse w =
    (
    let h : Hdr := ⟨0x08#8, gd, gn, var⟩
    let g := h.guard
    let c := FC.ofBits w
    if h.var.toNat ≥ 2 then .badVar else c.ok false (c.d != 0 || c.s1 != 0 || c.g2 != 0) (.loopi g (Fin.ofNat 2 h.var.toNat) c.fn c.off)) := by
  unfold parse parseLow
  rw [e]
  rfl

theorem parse_09 {w : BitVec 96} {gd gn var} (e : Hdr.ofBits w = ⟨0x09#8, gd, gn, var⟩) : parse w =
    (
    let h : Hdr := ⟨0x09#8, gd, gn, var⟩
    let g := h.guard
    let c := FC.ofBits w
    if h.var.toNat ≥ 2 then .badVar
    else c.ok (!inFile 32 c.d || !inFile 32 c.s1 || !inFile 32 (c.fn.extractLsb' 0 6))
      (c.g2 != 0 || c.fn.extractLsb' 6 18 != 0)
      (.loopx g (Fin.ofNat 2 h.var.toNat) (reg 31 c.d) (reg 31 c.s1) (reg 31 (c.fn.extractLsb' 0 6)) c.off)) := by
  unfold parse parseLow
  rw [e]
  rfl

theorem parse_0A {w : BitVec 96} {gd gn var} (e : Hdr.ofBits w = ⟨0x0A#8, gd, gn, var⟩) : parse w =
    (
    let h : Hdr := ⟨0x0A#8, gd, gn, var⟩
    let g := h.guard
    let a := FA.ofBits w
    if h.var != 0 then .badVar
    else a.ok false (a.d != 0 || a.s1 != 0 || a.s2 != 0 || a.s3 != 0 || a.m8 != 0 || a.imm.toNat ≥ 65536)
      (.trap g (a.imm.extractLsb' 0 16))) := by
  unfold parse parseLow
  rw [e]
  rfl

theorem parse_0B {w : BitVec 96} {gd gn var} (e : Hdr.ofBits w = ⟨0x0B#8, gd, gn, var⟩) : parse w =
    (
    let h : Hdr := ⟨0x0B#8, gd, gn, var⟩
    let g := h.guard
    let a := FA.ofBits w
    if h.var != 0 then .badVar
    else a.ok false (a.d != 0 || a.s1 != 0 || a.s2 != 0 || a.s3 != 0 || a.m8 != 0 || a.imm.toNat ≥ 65536)
      (.brk g (a.imm.extractLsb' 0 16))) := by
  unfold parse parseLow
  rw [e]
  rfl

theorem parse_0C {w : BitVec 96} {gd gn var} (e : Hdr.ofBits w = ⟨0x0C#8, gd, gn, var⟩) : parse w =
    (
    let h : Hdr := ⟨0x0C#8, gd, gn, var⟩
    let g := h.guard
    let a := FA.ofBits w
    if h.var != 0 then .badVar
    else a.ok false (a.d != 0 || a.s1 != 0 || a.s2 != 0 || a.s3 != 0 || a.m8 != 0 || a.imm.toNat ≥ 65536)
      (.supcall g (a.imm.extractLsb' 0 16))) := by
  unfold parse parseLow
  rw [e]
  rfl

theorem parse_0D {w : BitVec 96} {gd gn var} (e : Hdr.ofBits w = ⟨0x0D#8, gd, gn, var⟩) : parse w =
    (
    let h : Hdr := ⟨0x0D#8, gd, gn, var⟩
    let g := h.guard
    let a := FA.ofBits w
    let bad := a.s2 != 0 || a.s3 != 0 || a.m8 != 0 || a.imm.toNat ≥ 4096
    if h.var == 0 then a.ok (!inFile 32 a.d) (bad || a.s1 != 0) (.rdsys g (reg 31 a.d) (a.imm.extractLsb' 0 12))
    else if h.var == 1 then a.ok (!inFile 32 a.s1) (bad || a.d != 0) (.wrsys g (a.imm.extractLsb' 0 12) (reg 31 a.s1))
    else .badVar) := by
  unfold parse parseLow
  rw [e]
  rfl

theorem parse_0E {w : BitVec 96} {gd gn var} (e : Hdr.ofBits w = ⟨0x0E#8, gd, gn, var⟩) : parse w =
    (
    let h : Hdr := ⟨0x0E#8, gd, gn, var⟩
    let g := h.guard
    let a := FA.ofBits w
    parseX true false false h a (.rdtime g (reg 31 a.d))) := by
  unfold parse parseLow
  rw [e]
  rfl

theorem parse_0F {w : BitVec 96} {gd gn var} (e : Hdr.ofBits w = ⟨0x0F#8, gd, gn, var⟩) : parse w =
    (
    let h : Hdr := ⟨0x0F#8, gd, gn, var⟩
    let g := h.guard
    let a := FA.ofBits w
    parseX false true true h a (.sleepuntil g (reg 31 a.s1) (reg 31 a.s2))) := by
  unfold parse parseLow
  rw [e]
  rfl

theorem parse_10 {w : BitVec 96} {gd gn var} (e : Hdr.ofBits w = ⟨0x10#8, gd, gn, var⟩) : parse w =
    (
    let h : Hdr := ⟨0x10#8, gd, gn, var⟩
    let a := FA.ofBits w
    parseAlu .add true false h a) := by
  unfold parse parseLow
  rw [e]
  rfl

theorem parse_11 {w : BitVec 96} {gd gn var} (e : Hdr.ofBits w = ⟨0x11#8, gd, gn, var⟩) : parse w =
    (
    let h : Hdr := ⟨0x11#8, gd, gn, var⟩
    let a := FA.ofBits w
    parseAlu .sub true false h a) := by
  unfold parse parseLow
  rw [e]
  rfl

theorem parse_12 {w : BitVec 96} {gd gn var} (e : Hdr.ofBits w = ⟨0x12#8, gd, gn, var⟩) : parse w =
    (
    let h : Hdr := ⟨0x12#8, gd, gn, var⟩
    let a := FA.ofBits w
    parseAlu .and false false h a) := by
  unfold parse parseLow
  rw [e]
  rfl

theorem parse_13 {w : BitVec 96} {gd gn var} (e : Hdr.ofBits w = ⟨0x13#8, gd, gn, var⟩) : parse w =
    (
    let h : Hdr := ⟨0x13#8, gd, gn, var⟩
    let a := FA.ofBits w
    parseAlu .or false false h a) := by
  unfold parse parseLow
  rw [e]
  rfl

theorem parse_14 {w : BitVec 96} {gd gn var} (e : Hdr.ofBits w = ⟨0x14#8, gd, gn, var⟩) : parse w =
    (
    let h : Hdr := ⟨0x14#8, gd, gn, var⟩
    let a := FA.ofBits w
    parseAlu .xor false false h a) := by
  unfold parse parseLow
  rw [e]
  rfl

theorem parse_15 {w : BitVec 96} {gd gn var} (e : Hdr.ofBits w = ⟨0x15#8, gd, gn, var⟩) : parse w =
    (
    let h : Hdr := ⟨0x15#8, gd, gn, var⟩
    let a := FA.ofBits w
    parseAlu .sll true true h a) := by
  unfold parse parseLow
  rw [e]
  rfl

theorem parse_16 {w : BitVec 96} {gd gn var} (e : Hdr.ofBits w = ⟨0x16#8, gd, gn, var⟩) : parse w =
    (
    let h : Hdr := ⟨0x16#8, gd, gn, var⟩
    let a := FA.ofBits w
    parseAlu .srl true true h a) := by
  unfold parse parseLow
  rw [e]
  rfl

theorem parse_17 {w : BitVec 96} {gd gn var} (e : Hdr.ofBits w = ⟨0x17#8, gd, gn, var⟩) : parse w =
    (
    let h : Hdr := ⟨0x17#8, gd, gn, var⟩
    let a := FA.ofBits w
    parseAlu .sra true true h a) := by
  unfold parse parseLow
  rw [e]
  rfl

theorem parse_18 {w : BitVec 96} {gd gn var} (e : Hdr.ofBits w = ⟨0x18#8, gd, gn, var⟩) : parse w =
    (
    let h : Hdr := ⟨0x18#8, gd, gn, var⟩
    let a := FA.ofBits w
    parseAlu .slt false false h a) := by
  unfold parse parseLow
  rw [e]
  rfl

theorem parse_19 {w : BitVec 96} {gd gn var} (e : Hdr.ofBits w = ⟨0x19#8, gd, gn, var⟩) : parse w =
    (
    let h : Hdr := ⟨0x19#8, gd, gn, var⟩
    let a := FA.ofBits w
    parseAlu .sltu false false h a) := by
  unfold parse parseLow
  rw [e]
  rfl

theorem parse_1A {w : BitVec 96} {gd gn var} (e : Hdr.ofBits w = ⟨0x1A#8, gd, gn, var⟩) : parse w =
    (
    let h : Hdr := ⟨0x1A#8, gd, gn, var⟩
    let a := FA.ofBits w
    parseAlu .mul true false h a) := by
  unfold parse parseLow
  rw [e]
  rfl

theorem parse_1B {w : BitVec 96} {gd gn var} (e : Hdr.ofBits w = ⟨0x1B#8, gd, gn, var⟩) : parse w =
    (
    let h : Hdr := ⟨0x1B#8, gd, gn, var⟩
    let a := FA.ofBits w
    parseAlu .mulh false false h a) := by
  unfold parse parseLow
  rw [e]
  rfl

theorem parse_1C {w : BitVec 96} {gd gn var} (e : Hdr.ofBits w = ⟨0x1C#8, gd, gn, var⟩) : parse w =
    (
    let h : Hdr := ⟨0x1C#8, gd, gn, var⟩
    let a := FA.ofBits w
    parseAlu .mulhm false false h a) := by
  unfold parse parseLow
  rw [e]
  rfl

theorem parse_1D {w : BitVec 96} {gd gn var} (e : Hdr.ofBits w = ⟨0x1D#8, gd, gn, var⟩) : parse w =
    (
    let h : Hdr := ⟨0x1D#8, gd, gn, var⟩
    let a := FA.ofBits w
    parseAlu .mulhu false false h a) := by
  unfold parse parseLow
  rw [e]
  rfl

theorem parse_1E {w : BitVec 96} {gd gn var} (e : Hdr.ofBits w = ⟨0x1E#8, gd, gn, var⟩) : parse w =
    (
    let h : Hdr := ⟨0x1E#8, gd, gn, var⟩
    let a := FA.ofBits w
    parseAlu .div true false h a) := by
  unfold parse parseLow
  rw [e]
  rfl

theorem parse_1F {w : BitVec 96} {gd gn var} (e : Hdr.ofBits w = ⟨0x1F#8, gd, gn, var⟩) : parse w =
    (
    let h : Hdr := ⟨0x1F#8, gd, gn, var⟩
    let a := FA.ofBits w
    parseAlu .divu true false h a) := by
  unfold parse parseLow
  rw [e]
  rfl

theorem parse_20 {w : BitVec 96} {gd gn var} (e : Hdr.ofBits w = ⟨0x20#8, gd, gn, var⟩) : parse w =
    (
    let h : Hdr := ⟨0x20#8, gd, gn, var⟩
    let a := FA.ofBits w
    parseAlu .rem true false h a) := by
  unfold parse parseLow
  rw [e]
  rfl

theorem parse_21 {w : BitVec 96} {gd gn var} (e : Hdr.ofBits w = ⟨0x21#8, gd, gn, var⟩) : parse w =
    (
    let h : Hdr := ⟨0x21#8, gd, gn, var⟩
    let a := FA.ofBits w
    parseAlu .remu true false h a) := by
  unfold parse parseLow
  rw [e]
  rfl

theorem parse_22 {w : BitVec 96} {gd gn var} (e : Hdr.ofBits w = ⟨0x22#8, gd, gn, var⟩) : parse w =
    (
    let h : Hdr := ⟨0x22#8, gd, gn, var⟩
    let g := h.guard
    let f := FI.ofBits w
    if h.var != 0 then .badVar else .ok (!inFile 32 f.d) false false (f.fn != 0) (.li g (reg 31 f.d) f.imm)) := by
  unfold parse parseLow
  rw [e]
  rfl

theorem parse_23 {w : BitVec 96} {gd gn var} (e : Hdr.ofBits w = ⟨0x23#8, gd, gn, var⟩) : parse w =
    (
    let h : Hdr := ⟨0x23#8, gd, gn, var⟩
    let g := h.guard
    let a := FA.ofBits w
    if h.var != 7 then .badVar
    else a.ok (!inFile 32 a.d) (a.s1 != 0 || a.s2 != 0 || a.s3 != 0 || a.m8 != 0) (.addpc g (reg 31 a.d) a.imm)) := by
  unfold parse parseLow
  rw [e]
  rfl

theorem parse_24 {w : BitVec 96} {gd gn var} (e : Hdr.ofBits w = ⟨0x24#8, gd, gn, var⟩) : parse w =
    (
    let h : Hdr := ⟨0x24#8, gd, gn, var⟩
    let a := FA.ofBits w
    parseAlu .min false false h a) := by
  unfold parse parseLow
  rw [e]
  rfl

theorem parse_25 {w : BitVec 96} {gd gn var} (e : Hdr.ofBits w = ⟨0x25#8, gd, gn, var⟩) : parse w =
    (
    let h : Hdr := ⟨0x25#8, gd, gn, var⟩
    let a := FA.ofBits w
    parseAlu .max false false h a) := by
  unfold parse parseLow
  rw [e]
  rfl

theorem parse_26 {w : BitVec 96} {gd gn var} (e : Hdr.ofBits w = ⟨0x26#8, gd, gn, var⟩) : parse w =
    (
    let h : Hdr := ⟨0x26#8, gd, gn, var⟩
    let a := FA.ofBits w
    parseAlu .minu false false h a) := by
  unfold parse parseLow
  rw [e]
  rfl

theorem parse_27 {w : BitVec 96} {gd gn var} (e : Hdr.ofBits w = ⟨0x27#8, gd, gn, var⟩) : parse w =
    (
    let h : Hdr := ⟨0x27#8, gd, gn, var⟩
    let a := FA.ofBits w
    parseAlu .maxu false false h a) := by
  unfold parse parseLow
  rw [e]
  rfl

theorem parse_28 {w : BitVec 96} {gd gn var} (e : Hdr.ofBits w = ⟨0x28#8, gd, gn, var⟩) : parse w =
    (
    let h : Hdr := ⟨0x28#8, gd, gn, var⟩
    let a := FA.ofBits w
    parseUn .clz h a) := by
  unfold parse parseLow
  rw [e]
  rfl

theorem parse_29 {w : BitVec 96} {gd gn var} (e : Hdr.ofBits w = ⟨0x29#8, gd, gn, var⟩) : parse w =
    (
    let h : Hdr := ⟨0x29#8, gd, gn, var⟩
    let a := FA.ofBits w
    parseUn .ctz h a) := by
  unfold parse parseLow
  rw [e]
  rfl

theorem parse_2A {w : BitVec 96} {gd gn var} (e : Hdr.ofBits w = ⟨0x2A#8, gd, gn, var⟩) : parse w =
    (
    let h : Hdr := ⟨0x2A#8, gd, gn, var⟩
    let a := FA.ofBits w
    parseUn .cpop h a) := by
  unfold parse parseLow
  rw [e]
  rfl

theorem parse_40 {w : BitVec 96} {gd gn var} (e : Hdr.ofBits w = ⟨0x40#8, gd, gn, var⟩) : parse w =
    (
    let h : Hdr := ⟨0x40#8, gd, gn, var⟩
    let g := h.guard
    let a := FA.ofBits w
    if h.size < 2 then .badVar
    else a.ok (!inFile 16 a.d || !inFile 32 a.s1 || a.srcFile h.i) (a.srcValue h.i || a.s3 != 0 || a.m8.toNat ≥ 6)
      (.cmp g (h.size == 2) (Cond.ofCode a.m8.toNat) (reg 15 a.d) (reg 31 a.s1) (a.src h.i))) := by
  unfold parse parseLow
  rw [e]
  rfl

theorem parse_41 {w : BitVec 96} {gd gn var} (e : Hdr.ofBits w = ⟨0x41#8, gd, gn, var⟩) : parse w =
    (
    let h : Hdr := ⟨0x41#8, gd, gn, var⟩
    let g := h.guard
    let a := FA.ofBits w
    if h.size != 3 then .badVar
    else a.ok (!inFile 16 a.d || !inFile 32 a.s1 || a.srcFile h.i) (a.srcValue h.i || a.s3 != 0 || a.m8.toNat ≥ 2)
      (.tst g (a.m8 == 1) (reg 15 a.d) (reg 31 a.s1) (a.src h.i))) := by
  unfold parse parseLow
  rw [e]
  rfl

theorem parse_42 {w : BitVec 96} {gd gn var} (e : Hdr.ofBits w = ⟨0x42#8, gd, gn, var⟩) : parse w =
    (
    let h : Hdr := ⟨0x42#8, gd, gn, var⟩
    let g := h.guard
    let a := FA.ofBits w
    if h.var != 0 then .badVar
    else a.ok (!inFile 16 a.d || !inFile 16 a.s1 || !inFile 16 a.s2) (a.s3 != 0 || a.m8.toNat ≥ 16 || a.imm != 0)
      (.glog g (reg 15 a.d) (reg 15 a.s1) (reg 15 a.s2) (a.m8.extractLsb' 0 4))) := by
  unfold parse parseLow
  rw [e]
  rfl

theorem parse_43 {w : BitVec 96} {gd gn var} (e : Hdr.ofBits w = ⟨0x43#8, gd, gn, var⟩) : parse w =
    (
    let h : Hdr := ⟨0x43#8, gd, gn, var⟩
    let g := h.guard
    let a := FA.ofBits w
    parseX true false false h a (.grd g (reg 31 a.d))) := by
  unfold parse parseLow
  rw [e]
  rfl

theorem parse_44 {w : BitVec 96} {gd gn var} (e : Hdr.ofBits w = ⟨0x44#8, gd, gn, var⟩) : parse w =
    (
    let h : Hdr := ⟨0x44#8, gd, gn, var⟩
    let g := h.guard
    let a := FA.ofBits w
    if h.var != 0 then .badVar
    else a.ok (!inFile 32 a.s1)
      (a.d != 0 || a.s2 != 0 || a.s3 != 0 || a.m8 != 0 || a.imm.toNat ≥ 65536 || a.imm.getLsbD 0)
      (.gwr g (reg 31 a.s1) (a.imm.extractLsb' 0 16))) := by
  unfold parse parseLow
  rw [e]
  rfl

theorem parse_50 {w : BitVec 96} {gd gn var} (e : Hdr.ofBits w = ⟨0x50#8, gd, gn, var⟩) : parse w =
    (
    let h : Hdr := ⟨0x50#8, gd, gn, var⟩
    let g := h.guard
    let c := FC.ofBits w
    if h.var != 0 then .badVar
    else c.ok (!inFile 32 c.s1 || !inFile 32 (c.fn.extractLsb' 0 6)) (c.d != 0 || c.g2 != 0 || forkZero c.fn false)
      (.fork g (reg 31 c.s1) (reg 31 (c.fn.extractLsb' 0 6)) (Fin.ofNat 8 (c.fn.extractLsb' 8 3).toNat) (Fin.ofNat 4 (c.fn.extractLsb' 6 2).toNat) c.off)) := by
  unfold parse parseLow
  rw [e]
  rfl

theorem parse_51 {w : BitVec 96} {gd gn var} (e : Hdr.ofBits w = ⟨0x51#8, gd, gn, var⟩) : parse w =
    (
    let h : Hdr := ⟨0x51#8, gd, gn, var⟩
    let g := h.guard
    let c := FC.ofBits w
    if h.var != 0 then .badVar
    else c.ok (!inFile 32 c.s1 || !inFile 32 (c.fn.extractLsb' 0 6) || !inFile 32 (c.fn.extractLsb' 12 6))
      (c.d != 0 || c.g2 != 0 || forkZero c.fn true)
      (.spawn g (reg 31 c.s1) (reg 31 (c.fn.extractLsb' 12 6)) (reg 31 (c.fn.extractLsb' 0 6)) (Fin.ofNat 8 (c.fn.extractLsb' 8 3).toNat) (Fin.ofNat 4 (c.fn.extractLsb' 6 2).toNat) c.off)) := by
  unfold parse parseLow
  rw [e]
  rfl

theorem parse_52 {w : BitVec 96} {gd gn var} (e : Hdr.ofBits w = ⟨0x52#8, gd, gn, var⟩) : parse w =
    (
    let h : Hdr := ⟨0x52#8, gd, gn, var⟩
    let g := h.guard
    let a := FA.ofBits w
    parseX false true false h a (.joindec g (reg 31 a.s1))) := by
  unfold parse parseLow
  rw [e]
  rfl

theorem parse_53 {w : BitVec 96} {gd gn var} (e : Hdr.ofBits w = ⟨0x53#8, gd, gn, var⟩) : parse w =
    (
    let h : Hdr := ⟨0x53#8, gd, gn, var⟩
    let g := h.guard
    let a := FA.ofBits w
    if h.var == 0 then parseXv false false false a (.suspend g)
    else if h.var == 1 then parseXv false true false a (.suspendJ g (reg 31 a.s1)) else .badVar) := by
  unfold parse parseLow
  rw [e]
  rfl

theorem parse_54 {w : BitVec 96} {gd gn var} (e : Hdr.ofBits w = ⟨0x54#8, gd, gn, var⟩) : parse w =
    (
    let h : Hdr := ⟨0x54#8, gd, gn, var⟩
    let g := h.guard
    let a := FA.ofBits w
    parseX false true false h a (.await g (reg 31 a.s1))) := by
  unfold parse parseLow
  rw [e]
  rfl

theorem parse_55 {w : BitVec 96} {gd gn var} (e : Hdr.ofBits w = ⟨0x55#8, gd, gn, var⟩) : parse w =
    (
    let h : Hdr := ⟨0x55#8, gd, gn, var⟩
    let g := h.guard
    let a := FA.ofBits w
    parseX false false false h a (.yield g)) := by
  unfold parse parseLow
  rw [e]
  rfl

theorem parse_56 {w : BitVec 96} {gd gn var} (e : Hdr.ofBits w = ⟨0x56#8, gd, gn, var⟩) : parse w =
    (
    let h : Hdr := ⟨0x56#8, gd, gn, var⟩
    let g := h.guard
    let a := FA.ofBits w
    parseX false false false h a (.exit g)) := by
  unfold parse parseLow
  rw [e]
  rfl

theorem parse_57 {w : BitVec 96} {gd gn var} (e : Hdr.ofBits w = ⟨0x57#8, gd, gn, var⟩) : parse w =
    (
    let h : Hdr := ⟨0x57#8, gd, gn, var⟩
    let g := h.guard
    let a := FA.ofBits w
    if h.var != 0 && h.var != 4 then .badVar
    else a.ok (a.srcFile h.i) (a.d != 0 || a.s1 != 0 || a.srcValue h.i || a.s3 != 0 || a.m8 != 0)
      (.stealdom g (a.src h.i))) := by
  unfold parse parseLow
  rw [e]
  rfl

theorem parse_58 {w : BitVec 96} {gd gn var} (e : Hdr.ofBits w = ⟨0x58#8, gd, gn, var⟩) : parse w =
    (
    let h : Hdr := ⟨0x58#8, gd, gn, var⟩
    let g := h.guard
    let a := FA.ofBits w
    if h.var != 0 then .badVar
    else a.ok (!inFile 32 a.d) (a.s1 != 0 || a.s2 != 0 || a.s3 != 0 || a.imm != 0 || a.m8.toNat ≥ 9)
      (.getid g (reg 31 a.d) (Fin.ofNat 9 a.m8.toNat))) := by
  unfold parse parseLow
  rw [e]
  rfl

theorem parse_59 {w : BitVec 96} {gd gn var} (e : Hdr.ofBits w = ⟨0x59#8, gd, gn, var⟩) : parse w =
    (
    let h : Hdr := ⟨0x59#8, gd, gn, var⟩
    let g := h.guard
    let a := FA.ofBits w
    if h.var != 0 && h.var != 4 then .badVar
    else a.ok (!inFile 32 a.d || a.srcFile h.i || (a.m8 == 1 && !inFile 32 a.s3))
      (a.s1 != 0 || a.srcValue h.i || (h.i && a.imm.toNat ≥ 65536) || a.m8.toNat ≥ 2 || (a.m8 != 1 && a.s3 != 0))
      (.waitev g (reg 31 a.d) (a.src h.i) (if a.m8 == 1 then some (reg 31 a.s3) else none))) := by
  unfold parse parseLow
  rw [e]
  rfl

theorem parse_5A {w : BitVec 96} {gd gn var} (e : Hdr.ofBits w = ⟨0x5A#8, gd, gn, var⟩) : parse w =
    (
    let h : Hdr := ⟨0x5A#8, gd, gn, var⟩
    let g := h.guard
    let a := FA.ofBits w
    parseX false true true h a (.sigev g (reg 31 a.s1) (reg 31 a.s2))) := by
  unfold parse parseLow
  rw [e]
  rfl

theorem parse_60 {w : BitVec 96} {gd gn var} (e : Hdr.ofBits w = ⟨0x60#8, gd, gn, var⟩) : parse w =
    (
    let h : Hdr := ⟨0x60#8, gd, gn, var⟩
    let a := FA.ofBits w
    parseLoad .ld (fun _ => true) h a) := by
  unfold parse parseLow
  rw [e]
  rfl

theorem parse_61 {w : BitVec 96} {gd gn var} (e : Hdr.ofBits w = ⟨0x61#8, gd, gn, var⟩) : parse w =
    (
    let h : Hdr := ⟨0x61#8, gd, gn, var⟩
    let a := FA.ofBits w
    parseLoad .ldu (· < 3) h a) := by
  unfold parse parseLow
  rw [e]
  rfl

theorem parse_62 {w : BitVec 96} {gd gn var} (e : Hdr.ofBits w = ⟨0x62#8, gd, gn, var⟩) : parse w =
    (
    let h : Hdr := ⟨0x62#8, gd, gn, var⟩
    let a := FA.ofBits w
    parseStore .st (fun _ => true) h a) := by
  unfold parse parseLow
  rw [e]
  rfl

theorem parse_63 {w : BitVec 96} {gd gn var} (e : Hdr.ofBits w = ⟨0x63#8, gd, gn, var⟩) : parse w =
    (
    let h : Hdr := ⟨0x63#8, gd, gn, var⟩
    let a := FA.ofBits w
    parseLoad .ldAcq (fun _ => true) h a) := by
  unfold parse parseLow
  rw [e]
  rfl

theorem parse_64 {w : BitVec 96} {gd gn var} (e : Hdr.ofBits w = ⟨0x64#8, gd, gn, var⟩) : parse w =
    (
    let h : Hdr := ⟨0x64#8, gd, gn, var⟩
    let a := FA.ofBits w
    parseStore .stRel (fun _ => true) h a) := by
  unfold parse parseLow
  rw [e]
  rfl

theorem parse_65 {w : BitVec 96} {gd gn var} (e : Hdr.ofBits w = ⟨0x65#8, gd, gn, var⟩) : parse w =
    (
    let h : Hdr := ⟨0x65#8, gd, gn, var⟩
    let a := FA.ofBits w
    parseLoad .ldw (· == 3) h a) := by
  unfold parse parseLow
  rw [e]
  rfl

theorem parse_66 {w : BitVec 96} {gd gn var} (e : Hdr.ofBits w = ⟨0x66#8, gd, gn, var⟩) : parse w =
    (
    let h : Hdr := ⟨0x66#8, gd, gn, var⟩
    let a := FA.ofBits w
    parseLoad .ldt (· == 3) h a) := by
  unfold parse parseLow
  rw [e]
  rfl

theorem parse_67 {w : BitVec 96} {gd gn var} (e : Hdr.ofBits w = ⟨0x67#8, gd, gn, var⟩) : parse w =
    (
    let h : Hdr := ⟨0x67#8, gd, gn, var⟩
    let a := FA.ofBits w
    parseStore .stf (· == 3) h a) := by
  unfold parse parseLow
  rw [e]
  rfl

theorem parse_68 {w : BitVec 96} {gd gn var} (e : Hdr.ofBits w = ⟨0x68#8, gd, gn, var⟩) : parse w =
    (
    let h : Hdr := ⟨0x68#8, gd, gn, var⟩
    let a := FA.ofBits w
    parseStore .stw (· == 3) h a) := by
  unfold parse parseLow
  rw [e]
  rfl

theorem parse_69 {w : BitVec 96} {gd gn var} (e : Hdr.ofBits w = ⟨0x69#8, gd, gn, var⟩) : parse w =
    (
    let h : Hdr := ⟨0x69#8, gd, gn, var⟩
    let a := FA.ofBits w
    parseLoad .lrq (· == 3) h a) := by
  unfold parse parseLow
  rw [e]
  rfl

theorem parse_6A {w : BitVec 96} {gd gn var} (e : Hdr.ofBits w = ⟨0x6A#8, gd, gn, var⟩) : parse w =
    (
    let h : Hdr := ⟨0x6A#8, gd, gn, var⟩
    let a := FA.ofBits w
    parseStore .scq (· == 3) h a) := by
  unfold parse parseLow
  rw [e]
  rfl

theorem parse_6B {w : BitVec 96} {gd gn var} (e : Hdr.ofBits w = ⟨0x6B#8, gd, gn, var⟩) : parse w =
    (
    let h : Hdr := ⟨0x6B#8, gd, gn, var⟩
    let g := h.guard
    let a := FA.ofBits w
    if h.size != 3 then .badVar
    else a.ok (!inFile 32 a.s1 || a.srcFile h.i) (a.srcValue h.i || a.d != 0 || a.s3 != 0 || a.m8 != 0)
      (.relq ⟨g, 3, 0, reg 31 a.s1, a.src h.i⟩)) := by
  unfold parse parseLow
  rw [e]
  rfl

theorem parse_6C {w : BitVec 96} {gd gn var} (e : Hdr.ofBits w = ⟨0x6C#8, gd, gn, var⟩) : parse w =
    (
    let h : Hdr := ⟨0x6C#8, gd, gn, var⟩
    let g := h.guard
    let a := FA.ofBits w
    let n := a.m8.toNat % 16
    if h.size < 2 then .badVar
    else a.ok (!inFile 32 a.d || !inFile 32 a.s1 || a.srcFile h.i || (n == 9 && !inFile 32 a.s3))
      (a.srcValue h.i || (n != 9 && a.s3 != 0) || a.m8.extractLsb' 4 2 != 0 || n ≥ 13 || (n ≥ 10 && h.size == 3))
      (.amo g (h.size == 2) (AmoOp.ofCode n) (a.m8.getLsbD 7) (a.m8.getLsbD 6) (reg 31 a.d) (reg 31 a.s1)
        (a.src h.i) (if n == 9 then reg 31 a.s3 else 0))) := by
  unfold parse parseLow
  rw [e]
  rfl

theorem parse_6D {w : BitVec 96} {gd gn var} (e : Hdr.ofBits w = ⟨0x6D#8, gd, gn, var⟩) : parse w =
    (
    let h : Hdr := ⟨0x6D#8, gd, gn, var⟩
    let g := h.guard
    let a := FA.ofBits w
    if h.var == 0 then parseXv false false false a (.fence g)
    else if h.var == 1 then parseXv false false false a (.fenceEng g)
    else if h.var == 2 then parseXv false false false a (.fenceI g) else .badVar) := by
  unfold parse parseLow
  rw [e]
  rfl

theorem parse_80 {w : BitVec 96} {gd gn var} (e : Hdr.ofBits w = ⟨0x80#8, gd, gn, var⟩) : parse w =
    (
    let h : Hdr := ⟨0x80#8, gd, gn, var⟩
    let e := FE.ofBits w
    parseVBin .vadd h e) := by
  unfold parse parseVec
  rw [e]
  rfl

theorem parse_81 {w : BitVec 96} {gd gn var} (e : Hdr.ofBits w = ⟨0x81#8, gd, gn, var⟩) : parse w =
    (
    let h : Hdr := ⟨0x81#8, gd, gn, var⟩
    let e := FE.ofBits w
    parseVBin .vsub h e) := by
  unfold parse parseVec
  rw [e]
  rfl

theorem parse_82 {w : BitVec 96} {gd gn var} (e : Hdr.ofBits w = ⟨0x82#8, gd, gn, var⟩) : parse w =
    (
    let h : Hdr := ⟨0x82#8, gd, gn, var⟩
    let e := FE.ofBits w
    parseVBin .vmul h e) := by
  unfold parse parseVec
  rw [e]
  rfl

theorem parse_83 {w : BitVec 96} {gd gn var} (e : Hdr.ofBits w = ⟨0x83#8, gd, gn, var⟩) : parse w =
    (
    let h : Hdr := ⟨0x83#8, gd, gn, var⟩
    let g := h.guard
    let e := FE.ofBits w
    if h.var != 0 && h.var != 1 then .badVar
    else e.ok (!inFile 16 e.d || !inFile 16 e.s1 || e.vsrcFile h || !inFile 16 e.s3) (e.imm != 0 || e.modeOnly)
      (.vfma ⟨g, reg 15 e.d, reg 15 e.s1, e.vsrc h, e.mode⟩ (reg 15 e.s3))) := by
  unfold parse parseVec
  rw [e]
  rfl

theorem parse_84 {w : BitVec 96} {gd gn var} (e : Hdr.ofBits w = ⟨0x84#8, gd, gn, var⟩) : parse w =
    (
    let h : Hdr := ⟨0x84#8, gd, gn, var⟩
    let e := FE.ofBits w
    parseVBin .vmin h e) := by
  unfold parse parseVec
  rw [e]
  rfl

theorem parse_85 {w : BitVec 96} {gd gn var} (e : Hdr.ofBits w = ⟨0x85#8, gd, gn, var⟩) : parse w =
    (
    let h : Hdr := ⟨0x85#8, gd, gn, var⟩
    let e := FE.ofBits w
    parseVBin .vmax h e) := by
  unfold parse parseVec
  rw [e]
  rfl

theorem parse_86 {w : BitVec 96} {gd gn var} (e : Hdr.ofBits w = ⟨0x86#8, gd, gn, var⟩) : parse w =
    (
    let h : Hdr := ⟨0x86#8, gd, gn, var⟩
    let e := FE.ofBits w
    parseVUn .vabs h e) := by
  unfold parse parseVec
  rw [e]
  rfl

theorem parse_87 {w : BitVec 96} {gd gn var} (e : Hdr.ofBits w = ⟨0x87#8, gd, gn, var⟩) : parse w =
    (
    let h : Hdr := ⟨0x87#8, gd, gn, var⟩
    let e := FE.ofBits w
    parseVUn .vneg h e) := by
  unfold parse parseVec
  rw [e]
  rfl

theorem parse_88 {w : BitVec 96} {gd gn var} (e : Hdr.ofBits w = ⟨0x88#8, gd, gn, var⟩) : parse w =
    (
    let h : Hdr := ⟨0x88#8, gd, gn, var⟩
    let e := FE.ofBits w
    parseVLogic .vand h e) := by
  unfold parse parseVec
  rw [e]
  rfl

theorem parse_89 {w : BitVec 96} {gd gn var} (e : Hdr.ofBits w = ⟨0x89#8, gd, gn, var⟩) : parse w =
    (
    let h : Hdr := ⟨0x89#8, gd, gn, var⟩
    let e := FE.ofBits w
    parseVLogic .vor h e) := by
  unfold parse parseVec
  rw [e]
  rfl

theorem parse_8A {w : BitVec 96} {gd gn var} (e : Hdr.ofBits w = ⟨0x8A#8, gd, gn, var⟩) : parse w =
    (
    let h : Hdr := ⟨0x8A#8, gd, gn, var⟩
    let e := FE.ofBits w
    parseVLogic .vxor h e) := by
  unfold parse parseVec
  rw [e]
  rfl

theorem parse_8B {w : BitVec 96} {gd gn var} (e : Hdr.ofBits w = ⟨0x8B#8, gd, gn, var⟩) : parse w =
    (
    let h : Hdr := ⟨0x8B#8, gd, gn, var⟩
    let e := FE.ofBits w
    parseVLogic .vshl h e) := by
  unfold parse parseVec
  rw [e]
  rfl

theorem parse_8C {w : BitVec 96} {gd gn var} (e : Hdr.ofBits w = ⟨0x8C#8, gd, gn, var⟩) : parse w =
    (
    let h : Hdr := ⟨0x8C#8, gd, gn, var⟩
    let g := h.guard
    let e := FE.ofBits w
    if !h.vvar then .badVar
    else e.ok (!inFile 16 e.d || !inFile 16 e.s1 || e.vsrcFile h)
      (e.vsrcValue h || e.s3 != 0 || (e.mod != 0 && e.mod != 0x100))
      (.vshr g (e.mod == 0x100) (reg 15 e.d) (reg 15 e.s1) (e.vsrc h))) := by
  unfold parse parseVec
  rw [e]
  rfl

theorem parse_90 {w : BitVec 96} {gd gn var} (e : Hdr.ofBits w = ⟨0x90#8, gd, gn, var⟩) : parse w =
    (
    let h : Hdr := ⟨0x90#8, gd, gn, var⟩
    let g := h.guard
    let e := FE.ofBits w
    let kind := (e.mod.extractLsb' 8 2).toNat
    let cond := (e.mod.extractLsb' 4 3).toNat
    if !h.vvar then .badVar
    else e.ok (!inFile 16 e.d || !inFile 16 e.s1 || e.vsrcFile h)
      (e.vsrcValue h || e.s3 != 0 || cond == 7 || kind == 3 || e.mod.extractLsb' 0 4 != 0 || e.mod.getLsbD 7 ||
        e.mod.extractLsb' 10 6 != 0)
      (.vcmp g (VCond.ofCode cond)
        (if kind == 0 then .mask (reg 15 e.d) else if kind == 1 then .any (reg 15 e.d) else .all (reg 15 e.d))
        (reg 15 e.s1) (e.vsrc h))) := by
  unfold parse parseVec
  rw [e]
  rfl

theorem parse_91 {w : BitVec 96} {gd gn var} (e : Hdr.ofBits w = ⟨0x91#8, gd, gn, var⟩) : parse w =
    (
    let h : Hdr := ⟨0x91#8, gd, gn, var⟩
    let g := h.guard
    let e := FE.ofBits w
    if h.var != 0 then .badVar
    else e.ok (!inFile 16 e.d || !inFile 16 e.s1 || !inFile 16 e.s2 || !inFile 16 e.s3) (e.mod != 0 || e.imm != 0)
      (.vsel g (reg 15 e.d) (reg 15 e.s1) (reg 15 e.s2) (reg 15 e.s3))) := by
  unfold parse parseVec
  rw [e]
  rfl

theorem parse_92 {w : BitVec 96} {gd gn var} (e : Hdr.ofBits w = ⟨0x92#8, gd, gn, var⟩) : parse w =
    (
    let h : Hdr := ⟨0x92#8, gd, gn, var⟩
    let g := h.guard
    let e := FE.ofBits w
    if h.var != 0 then .badVar
    else e.ok (!inFile 16 e.d || !inFile 16 e.s1 || !inFile 16 e.s2) (e.s3 != 0 || e.mod != 0 || e.imm != 0)
      (.vperm g (reg 15 e.d) (reg 15 e.s1) (reg 15 e.s2))) := by
  unfold parse parseVec
  rw [e]
  rfl

theorem parse_93 {w : BitVec 96} {gd gn var} (e : Hdr.ofBits w = ⟨0x93#8, gd, gn, var⟩) : parse w =
    (
    let h : Hdr := ⟨0x93#8, gd, gn, var⟩
    let g := h.guard
    let e := FE.ofBits w
    if !h.xvar then .badVar
    else e.ok (!inFile 16 e.d || e.vsrcFile h) (e.s1 != 0 || e.vsrcValue h || e.s3 != 0 || e.modeOnly)
      (.vbcast g (reg 15 e.d) (e.xsrc h) e.mode)) := by
  unfold parse parseVec
  rw [e]
  rfl

theorem parse_94 {w : BitVec 96} {gd gn var} (e : Hdr.ofBits w = ⟨0x94#8, gd, gn, var⟩) : parse w =
    (
    let h : Hdr := ⟨0x94#8, gd, gn, var⟩
    let g := h.guard
    let e := FE.ofBits w
    if !h.xvar then .badVar
    else e.ok (!inFile 16 e.d || !inFile 16 e.s1 || e.vsrcFile h) (e.vsrcValue h || e.s3 != 0 || e.mod != 0)
      (.vslide g (reg 15 e.d) (reg 15 e.s1) (e.xsrc h))) := by
  unfold parse parseVec
  rw [e]
  rfl

theorem parse_95 {w : BitVec 96} {gd gn var} (e : Hdr.ofBits w = ⟨0x95#8, gd, gn, var⟩) : parse w =
    (
    let h : Hdr := ⟨0x95#8, gd, gn, var⟩
    let g := h.guard
    let e := FE.ofBits w
    let op := (e.mod.extractLsb' 4 3).toNat
    let x := e.mod.getLsbD 8
    let m := e.mod.getLsbD 9
    if h.var != 0 then .badVar
    else e.ok (!inFile (if x then 32 else 16) e.d || !inFile 16 e.s1 || (m && !inFile 16 e.s2))
      ((!m && e.s2 != 0) || e.s3 != 0 || e.imm != 0 || e.badMode || op ≥ 5 || (op ≥ 3 && !x) || e.mod.getLsbD 3 ||
        e.mod.getLsbD 7 || e.mod.extractLsb' 10 6 != 0)
      (.vred g (RedOp.ofCode op) e.mode (if x then .x (reg 31 e.d) else .v (reg 15 e.d)) (reg 15 e.s1)
        (if m then some (reg 15 e.s2) else none))) := by
  unfold parse parseVec
  rw [e]
  rfl

theorem parse_96 {w : BitVec 96} {gd gn var} (e : Hdr.ofBits w = ⟨0x96#8, gd, gn, var⟩) : parse w =
    (
    let h : Hdr := ⟨0x96#8, gd, gn, var⟩
    let g := h.guard
    let e := FE.ofBits w
    if h.var != 0 then .badVar
    else e.ok (!inFile 16 e.d || !inFile 16 e.s1)
      (e.s2 != 0 || e.s3 != 0 || e.imm.toNat ≥ 65536 || e.badMode || e.mod.extractLsb' 3 5 != 0 ||
        e.mod.extractLsb' 10 6 != 0)
      (.vcvt g e.mode (Fin.ofNat 4 (e.mod.extractLsb' 8 2).toNat) (reg 15 e.d) (reg 15 e.s1) (e.imm.extractLsb' 0 16))) := by
  unfold parse parseVec
  rw [e]
  rfl

theorem parse_97 {w : BitVec 96} {gd gn var} (e : Hdr.ofBits w = ⟨0x97#8, gd, gn, var⟩) : parse w =
    (
    let h : Hdr := ⟨0x97#8, gd, gn, var⟩
    let g := h.guard
    let e := FE.ofBits w
    if h.var != 0 then .badVar
    else e.ok (!inFile 16 e.d || !inFile 16 e.s1 || !inFile 32 e.s3) (e.s2 != 0 || e.imm.toNat ≥ 65536 || e.modeOnly)
      (.vqnt g e.mode (reg 15 e.d) (reg 15 e.s1) (reg 31 e.s3) (e.imm.extractLsb' 0 16))) := by
  unfold parse parseVec
  rw [e]
  rfl

theorem parse_98 {w : BitVec 96} {gd gn var} (e : Hdr.ofBits w = ⟨0x98#8, gd, gn, var⟩) : parse w =
    (
    let h : Hdr := ⟨0x98#8, gd, gn, var⟩
    let g := h.guard
    let e := FE.ofBits w
    if h.var != 0 then .badVar
    else e.ok (!inFile 16 e.d || !inFile 16 e.s1 || !inFile 32 e.s2) (e.s3 != 0 || e.imm.toNat ≥ 65536 || e.modeOnly)
      (.vdqnt g e.mode (reg 15 e.d) (reg 15 e.s1) (reg 31 e.s2) (e.imm.extractLsb' 0 16))) := by
  unfold parse parseVec
  rw [e]
  rfl

theorem parse_99 {w : BitVec 96} {gd gn var} (e : Hdr.ofBits w = ⟨0x99#8, gd, gn, var⟩) : parse w =
    (
    let h : Hdr := ⟨0x99#8, gd, gn, var⟩
    let g := h.guard
    let e := FE.ofBits w
    if !h.xvar then .badVar
    else e.ok (!inFile 16 e.d || !inFile 16 e.s1 || e.vsrcFile h)
      (e.vsrcValue h || (h.var == 4 && e.imm.toNat ≥ 65536) || e.s3 != 0 || e.mod != 0)
      (.vsettag g (reg 15 e.d) (reg 15 e.s1) (e.xsrc h))) := by
  unfold parse parseVec
  rw [e]
  rfl

theorem parse_9A {w : BitVec 96} {gd gn var} (e : Hdr.ofBits w = ⟨0x9A#8, gd, gn, var⟩) : parse w =
    (
    let h : Hdr := ⟨0x9A#8, gd, gn, var⟩
    let g := h.guard
    let e := FE.ofBits w
    if h.var != 0 then .badVar
    else e.ok (!inFile 32 e.d || !inFile 16 e.s1) (e.s2 != 0 || e.s3 != 0 || e.mod != 0 || e.imm != 0)
      (.vgettag g (reg 31 e.d) (reg 15 e.s1))) := by
  unfold parse parseVec
  rw [e]
  rfl

theorem parse_9B {w : BitVec 96} {gd gn var} (e : Hdr.ofBits w = ⟨0x9B#8, gd, gn, var⟩) : parse w =
    (
    let h : Hdr := ⟨0x9B#8, gd, gn, var⟩
    let g := h.guard
    let e := FE.ofBits w
    if !h.xvar then .badVar
    else e.ok (!inFile 32 e.d || !inFile 16 e.s1 || e.vsrcFile h) (e.vsrcValue h || e.s3 != 0 || e.mod != 0)
      (.vmovx g (reg 31 e.d) (reg 15 e.s1) (e.xsrc h))) := by
  unfold parse parseVec
  rw [e]
  rfl

theorem parse_9C {w : BitVec 96} {gd gn var} (e : Hdr.ofBits w = ⟨0x9C#8, gd, gn, var⟩) : parse w =
    (
    let h : Hdr := ⟨0x9C#8, gd, gn, var⟩
    let g := h.guard
    let e := FE.ofBits w
    if !h.xvar then .badVar
    else e.ok (!inFile 16 e.d || !inFile 16 e.s1 || e.vsrcFile h || !inFile 32 e.s3) (e.vsrcValue h || e.mod != 0)
      (.vins g (reg 15 e.d) (reg 15 e.s1) (e.xsrc h) (reg 31 e.s3))) := by
  unfold parse parseVec
  rw [e]
  rfl

theorem parse_A0 {w : BitVec 96} {gd gn var} (e : Hdr.ofBits w = ⟨0xA0#8, gd, gn, var⟩) : parse w =
    (
    let h : Hdr := ⟨0xA0#8, gd, gn, var⟩
    let g := h.guard
    let e := FE.ofBits w
    if h.var != 0 then .badVar
    else e.ok (!inFile 16 e.d || !inFile 32 e.s1) (e.s2 != 0 || e.s3 != 0) (.vld g (reg 15 e.d) (reg 31 e.s1) e.imm e.mod)) := by
  unfold parse parseVec
  rw [e]
  rfl

theorem parse_A1 {w : BitVec 96} {gd gn var} (e : Hdr.ofBits w = ⟨0xA1#8, gd, gn, var⟩) : parse w =
    (
    let h : Hdr := ⟨0xA1#8, gd, gn, var⟩
    let g := h.guard
    let e := FE.ofBits w
    if h.var != 0 then .badVar
    else e.ok (!inFile 16 e.s3 || !inFile 32 e.s1) (e.s2 != 0 || e.d != 0 || e.mod != 0)
      (.vst g (reg 15 e.s3) (reg 31 e.s1) e.imm)) := by
  unfold parse parseVec
  rw [e]
  rfl

theorem parse_A2 {w : BitVec 96} {gd gn var} (e : Hdr.ofBits w = ⟨0xA2#8, gd, gn, var⟩) : parse w =
    (
    let h : Hdr := ⟨0xA2#8, gd, gn, var⟩
    let g := h.guard
    let e := FE.ofBits w
    if h.var != 0 then .badVar
    else e.ok (!inFile 16 e.d || !inFile 32 e.s1 || !inFile 32 e.s2) (e.s3 != 0 || e.imm != 0)
      (.vlds g (reg 15 e.d) (reg 31 e.s1) (reg 31 e.s2) e.mod)) := by
  unfold parse parseVec
  rw [e]
  rfl

theorem parse_A3 {w : BitVec 96} {gd gn var} (e : Hdr.ofBits w = ⟨0xA3#8, gd, gn, var⟩) : parse w =
    (
    let h : Hdr := ⟨0xA3#8, gd, gn, var⟩
    let g := h.guard
    let e := FE.ofBits w
    if h.var != 0 then .badVar
    else e.ok (!inFile 16 e.s3 || !inFile 32 e.s1 || !inFile 32 e.s2) (e.d != 0 || e.imm != 0 || e.mod != 0)
      (.vsts g (reg 15 e.s3) (reg 31 e.s1) (reg 31 e.s2))) := by
  unfold parse parseVec
  rw [e]
  rfl

theorem parse_A4 {w : BitVec 96} {gd gn var} (e : Hdr.ofBits w = ⟨0xA4#8, gd, gn, var⟩) : parse w =
    (
    let h : Hdr := ⟨0xA4#8, gd, gn, var⟩
    let g := h.guard
    let e := FE.ofBits w
    if h.var != 0 then .badVar
    else e.ok (!inFile 16 e.d || !inFile 32 e.s1 || !inFile 16 e.s2) (e.s3 != 0 || e.imm != 0)
      (.vldx g (reg 15 e.d) (reg 31 e.s1) (reg 15 e.s2) e.mod)) := by
  unfold parse parseVec
  rw [e]
  rfl

theorem parse_A5 {w : BitVec 96} {gd gn var} (e : Hdr.ofBits w = ⟨0xA5#8, gd, gn, var⟩) : parse w =
    (
    let h : Hdr := ⟨0xA5#8, gd, gn, var⟩
    let g := h.guard
    let e := FE.ofBits w
    if h.var != 0 then .badVar
    else e.ok (!inFile 16 e.s3 || !inFile 32 e.s1 || !inFile 16 e.s2) (e.d != 0 || e.imm != 0 || e.mod != 0)
      (.vstx g (reg 15 e.s3) (reg 31 e.s1) (reg 15 e.s2))) := by
  unfold parse parseVec
  rw [e]
  rfl

theorem parse_B0 {w : BitVec 96} {gd gn var} (e : Hdr.ofBits w = ⟨0xB0#8, gd, gn, var⟩) : parse w =
    (
    let h : Hdr := ⟨0xB0#8, gd, gn, var⟩
    let g := h.guard
    let a := FA.ofBits w
    parseX true true true h a (.qbind g (reg 31 a.d) (reg 31 a.s1) (reg 31 a.s2))) := by
  unfold parse parseVec
  rw [e]
  rfl

theorem parse_B1 {w : BitVec 96} {gd gn var} (e : Hdr.ofBits w = ⟨0xB1#8, gd, gn, var⟩) : parse w =
    (
    let h : Hdr := ⟨0xB1#8, gd, gn, var⟩
    let g := h.guard
    let a := FA.ofBits w
    parseX true false false h a (.qfree g (reg 31 a.d))) := by
  unfold parse parseVec
  rw [e]
  rfl

theorem parse_B2 {w : BitVec 96} {gd gn var} (e : Hdr.ofBits w = ⟨0xB2#8, gd, gn, var⟩) : parse w =
    (
    let h : Hdr := ⟨0xB2#8, gd, gn, var⟩
    let g := h.guard
    let a := FA.ofBits w
    parseX true true false h a (.qstat g (reg 31 a.d) (reg 31 a.s1))) := by
  unfold parse parseVec
  rw [e]
  rfl

theorem parse_B3 {w : BitVec 96} {gd gn var} (e : Hdr.ofBits w = ⟨0xB3#8, gd, gn, var⟩) : parse w =
    (
    let h : Hdr := ⟨0xB3#8, gd, gn, var⟩
    let g := h.guard
    let e := FE.ofBits w
    if h.var != 0 then .badVar
    else e.ok (!inFile 16 e.s3 || !inFile 32 e.s1) (e.d != 0 || e.s2 != 0 || e.imm.toNat ≥ 65536)
      (.vsend g (reg 15 e.s3) (reg 31 e.s1) e.mod e.imm)) := by
  unfold parse parseVec
  rw [e]
  rfl

theorem parse_B4 {w : BitVec 96} {gd gn var} (e : Hdr.ofBits w = ⟨0xB4#8, gd, gn, var⟩) : parse w =
    (
    let h : Hdr := ⟨0xB4#8, gd, gn, var⟩
    let g := h.guard
    let e := FE.ofBits w
    if h.var != 0 then .badVar
    else e.ok (!inFile 16 e.d || !inFile 32 e.s1) (e.s2 != 0 || e.s3 != 0 || e.mod != 0 || e.imm != 0)
      (.vqpop g (reg 15 e.d) (reg 31 e.s1))) := by
  unfold parse parseVec
  rw [e]
  rfl

theorem parse_B5 {w : BitVec 96} {gd gn var} (e : Hdr.ofBits w = ⟨0xB5#8, gd, gn, var⟩) : parse w =
    (
    let h : Hdr := ⟨0xB5#8, gd, gn, var⟩
    let g := h.guard
    let e := FE.ofBits w
    if h.var != 0 then .badVar
    else e.ok (!inFile 16 e.s3 || !inFile 32 e.s1) (e.d != 0 || e.s2 != 0 || e.mod != 0 || e.imm != 0)
      (.vqpush g (reg 15 e.s3) (reg 31 e.s1))) := by
  unfold parse parseVec
  rw [e]
  rfl

theorem parse_B6 {w : BitVec 96} {gd gn var} (e : Hdr.ofBits w = ⟨0xB6#8, gd, gn, var⟩) : parse w =
    (
    let h : Hdr := ⟨0xB6#8, gd, gn, var⟩
    let g := h.guard
    let a := FA.ofBits w
    let kind := a.imm.extractLsb' 0 8
    let len := a.imm.extractLsb' 8 9
    if h.var != 0 then .badVar
    else a.ok (!inFile 32 a.s1 || !inFile 32 a.s2)
      (a.d != 0 || a.s3 != 0 || a.m8 != 0 || a.imm.extractLsb' 17 15 != 0 || kind.toNat < 64 || len.toNat > 256 ||
        (a.s2 == 0 && len.toNat > 32))
      (.amcall g (reg 31 a.s1) (reg 31 a.s2) kind len)) := by
  unfold parse parseVec
  rw [e]
  rfl

theorem parse_B8 {w : BitVec 96} {gd gn var} (e : Hdr.ofBits w = ⟨0xB8#8, gd, gn, var⟩) : parse w =
    (
    let h : Hdr := ⟨0xB8#8, gd, gn, var⟩
    let g := h.guard
    let e := FE.ofBits w
    if h.var != 0 then .badVar
    else e.ok (!inFile 16 e.d || !inFile 16 e.s1 || !inFile 16 e.s2 || !inFile 16 e.s3 ||
        !inFile 32 (e.imm.extractLsb' 8 6))
      (e.modeOnly || e.imm.extractLsb' 14 18 != 0)
      (.cxop g e.mode (reg 15 e.d) (reg 15 e.s1) (reg 15 e.s2) (reg 15 e.s3) (e.imm.extractLsb' 0 8)
        (reg 31 (e.imm.extractLsb' 8 6)))) := by
  unfold parse parseVec
  rw [e]
  rfl

theorem parse_B9 {w : BitVec 96} {gd gn var} (e : Hdr.ofBits w = ⟨0xB9#8, gd, gn, var⟩) : parse w =
    (
    let h : Hdr := ⟨0xB9#8, gd, gn, var⟩
    let g := h.guard
    let a := FA.ofBits w
    parseX false true false h a (.cxload g (reg 31 a.s1))) := by
  unfold parse parseVec
  rw [e]
  rfl

theorem parse_BA {w : BitVec 96} {gd gn var} (e : Hdr.ofBits w = ⟨0xBA#8, gd, gn, var⟩) : parse w =
    (
    let h : Hdr := ⟨0xBA#8, gd, gn, var⟩
    let g := h.guard
    let a := FA.ofBits w
    parseX false true false h a (.cxdrop g (reg 31 a.s1))) := by
  unfold parse parseVec
  rw [e]
  rfl

theorem parse_BB {w : BitVec 96} {gd gn var} (e : Hdr.ofBits w = ⟨0xBB#8, gd, gn, var⟩) : parse w =
    (
    let h : Hdr := ⟨0xBB#8, gd, gn, var⟩
    let g := h.guard
    let a := FA.ofBits w
    parseX true true false h a (.cxqry g (reg 31 a.d) (reg 31 a.s1))) := by
  unfold parse parseVec
  rw [e]
  rfl

theorem parse_BC {w : BitVec 96} {gd gn var} (e : Hdr.ofBits w = ⟨0xBC#8, gd, gn, var⟩) : parse w =
    (
    let h : Hdr := ⟨0xBC#8, gd, gn, var⟩
    let g := h.guard
    let a := FA.ofBits w
    parseX false true true h a (.cxtbl g (reg 31 a.s1) (reg 31 a.s2))) := by
  unfold parse parseVec
  rw [e]
  rfl

theorem parse_BD {w : BitVec 96} {gd gn var} (e : Hdr.ofBits w = ⟨0xBD#8, gd, gn, var⟩) : parse w =
    (
    let h : Hdr := ⟨0xBD#8, gd, gn, var⟩
    let g := h.guard
    let a := FA.ofBits w
    let clr := a.m8.getLsbD 7
    if h.var != 0 then .badVar
    else a.ok (!clr && !inFile 32 a.s1)
      (a.d != 0 || (clr && a.s1 != 0) || a.s2 != 0 || a.s3 != 0 || a.imm.toNat ≥ 16 || a.imm == 0 ||
        a.m8.extractLsb' 2 5 != 0)
      (.bndset g (Fin.ofNat 16 a.imm.toNat) clr (a.m8.extractLsb' 0 2) (if clr then 0 else reg 31 a.s1))) := by
  unfold parse parseVec
  rw [e]
  rfl

theorem parse_BE {w : BitVec 96} {gd gn var} (e : Hdr.ofBits w = ⟨0xBE#8, gd, gn, var⟩) : parse w =
    (
    let h : Hdr := ⟨0xBE#8, gd, gn, var⟩
    let g := h.guard
    let a := FA.ofBits w
    if h.var != 0 then .badVar
    else a.ok (!inFile 32 a.d)
      (a.s1 != 0 || a.s2 != 0 || a.s3 != 0 || a.imm.toNat ≥ 16 || a.imm == 0 || a.m8.toNat ≥ 2)
      (.bndget g (reg 31 a.d) (Fin.ofNat 16 a.imm.toNat) (a.m8 == 1))) := by
  unfold parse parseVec
  rw [e]
  rfl

theorem parse_BF {w : BitVec 96} {gd gn var} (e : Hdr.ofBits w = ⟨0xBF#8, gd, gn, var⟩) : parse w =
    (
    let h : Hdr := ⟨0xBF#8, gd, gn, var⟩
    let g := h.guard
    let a := FA.ofBits w
    let k := Fin.ofNat 4 (a.m8.toNat % 4)
    let hd := Fin.ofNat 4 (a.m8.toNat / 4)
    let bad := a.s1 != 0 || a.s2 != 0 || a.s3 != 0 || a.m8.toNat ≥ 16 || a.imm.toNat ≥ 8 || (hd != 2 && a.imm != 0)
    if h.var == 0 then a.ok (!inFile 32 a.d) bad (.cntrd g (reg 31 a.d) k hd (Fin.ofNat 8 a.imm.toNat))
    else if h.var == 1 then a.ok false (bad || a.d != 0) (.cntclr g k hd (Fin.ofNat 8 a.imm.toNat)) else .badVar) := by
  unfold parse parseVec
  rw [e]
  rfl

theorem parse_C0 {w : BitVec 96} {gd gn var} (e : Hdr.ofBits w = ⟨0xC0#8, gd, gn, var⟩) : parse w =
    (
    let h : Hdr := ⟨0xC0#8, gd, gn, var⟩
    let g := h.guard
    let e := FE.ofBits w
    if h.var != 0 then .badVar
    else e.ok (!inFile 8 e.d || !inFile 32 e.s1) (e.s2 != 0 || e.s3 != 0 || e.mod != 0) (.mshld g (reg 7 e.d) (reg 31 e.s1) e.imm)) := by
  unfold parse parseHigh
  rw [e]
  rfl

theorem parse_C1 {w : BitVec 96} {gd gn var} (e : Hdr.ofBits w = ⟨0xC1#8, gd, gn, var⟩) : parse w =
    (
    let h : Hdr := ⟨0xC1#8, gd, gn, var⟩
    let g := h.guard
    let e := FE.ofBits w
    let sp := h.var == 1 || h.var == 3
    let ga := h.var == 2 || h.var == 3
    let file := !inFile 8 e.d || (sp && !inFile 32 e.s1) || (ga && !inFile 16 e.s2) || badSh e.sa || badSh e.sb
    let value := (!sp && e.s1 != 0) || (!ga && e.s2 != 0) || e.s3 != 0 || e.imm != 0 || e.mod.extractLsb' 0 3 != 0 ||
      e.mod.extractLsb' 10 6 != 0 || (if sp then e.mod.extractLsb' 6 2 == 3 else e.mod.extractLsb' 6 2 != 0) ||
      (!ga && e.mod.extractLsb' 8 2 != 0)
    let o := mmaOpts e.mod
    let spn := Fin.ofNat 3 (e.mod.extractLsb' 6 2).toNat
    let mg := Fin.ofNat 4 (e.mod.extractLsb' 8 2).toNat
    let i : Option Instr :=
      if h.var == 0 then some (.mma g (reg 7 e.d) (shr e.sa) (shr e.sb) o)
      else if h.var == 1 then some (.mmaSp g (reg 7 e.d) (shr e.sa) (shr e.sb) o (reg 31 e.s1) spn)
      else if h.var == 2 then some (.mmaGa g (reg 7 e.d) (shr e.sa) (shr e.sb) o (reg 15 e.s2) mg)
      else if h.var == 3 then
        some (.mmaSpga g (reg 7 e.d) (shr e.sa) (shr e.sb) o (reg 31 e.s1) spn (reg 15 e.s2) mg)
      else none
    match i with
    | none => .badVar
    | some i => .ok file value false false i) := by
  unfold parse parseHigh
  rw [e]
  rfl

theorem parse_C2 {w : BitVec 96} {gd gn var} (e : Hdr.ofBits w = ⟨0xC2#8, gd, gn, var⟩) : parse w =
    (
    let h : Hdr := ⟨0xC2#8, gd, gn, var⟩
    let g := h.guard
    let e := FE.ofBits w
    if h.var != 0 then .badVar
    else e.ok (!inFile 8 e.d) (e.s1 != 0 || e.s2 != 0 || e.s3 != 0 || e.mod != 0 || e.imm.toNat ≥ 65536)
      (.mzero g (reg 7 e.d) (e.imm.extractLsb' 0 16))) := by
  unfold parse parseHigh
  rw [e]
  rfl

theorem parse_C3 {w : BitVec 96} {gd gn var} (e : Hdr.ofBits w = ⟨0xC3#8, gd, gn, var⟩) : parse w =
    (
    let h : Hdr := ⟨0xC3#8, gd, gn, var⟩
    let g := h.guard
    let e := FE.ofBits w
    if h.var != 0 then .badVar
    else .ok (!inFile 8 e.d || badSh e.sa || badSh e.sb) (e.s1 != 0 || e.s2 != 0 || e.s3 != 0 || e.sb != 0 || e.mod != 0 || e.imm.toNat ≥ 65536) false false
      (.mld g (reg 7 e.d) (shr e.sa) (e.imm.extractLsb' 0 16))) := by
  unfold parse parseHigh
  rw [e]
  rfl

theorem parse_C4 {w : BitVec 96} {gd gn var} (e : Hdr.ofBits w = ⟨0xC4#8, gd, gn, var⟩) : parse w =
    (
    let h : Hdr := ⟨0xC4#8, gd, gn, var⟩
    let g := h.guard
    let e := FE.ofBits w
    if h.var != 0 then .badVar
    else .ok (!inFile 8 e.s3 || badSh e.sa || badSh e.sb)
      (e.d != 0 || e.s1 != 0 || e.s2 != 0 || e.sb != 0 || e.modeOnly || e.imm != 0) false false
      (.mst g e.mode (reg 7 e.s3) (shr e.sa))) := by
  unfold parse parseHigh
  rw [e]
  rfl

theorem parse_C5 {w : BitVec 96} {gd gn var} (e : Hdr.ofBits w = ⟨0xC5#8, gd, gn, var⟩) : parse w =
    (
    let h : Hdr := ⟨0xC5#8, gd, gn, var⟩
    let g := h.guard
    let e := FE.ofBits w
    let op := (e.mod.extractLsb' 4 2).toNat
    if h.var != 0 then .badVar
    else e.ok (!inFile 16 e.d || !inFile 8 e.s1)
      (e.s2 != 0 || e.s3 != 0 || e.imm != 0 || e.badMode || e.mod.getLsbD 3 || op == 3 ||
        e.mod.extractLsb' 12 4 != 0)
      (.mrowred g (Red3.ofCode op) e.mode (e.mod.getLsbD 6) (e.mod.extractLsb' 7 5) (reg 15 e.d) (reg 7 e.s1))) := by
  unfold parse parseHigh
  rw [e]
  rfl

theorem parse_C6 {w : BitVec 96} {gd gn var} (e : Hdr.ofBits w = ⟨0xC6#8, gd, gn, var⟩) : parse w =
    (
    let h : Hdr := ⟨0xC6#8, gd, gn, var⟩
    let g := h.guard
    let e := FE.ofBits w
    if h.var != 0 then .badVar
    else e.ok (!inFile 32 e.d || !inFile 8 e.s1) (e.s2 != 0 || e.s3 != 0 || e.imm != 0 || e.mod.toNat ≥ 2)
      (.mcnt g (e.mod == 1) (reg 31 e.d) (reg 7 e.s1))) := by
  unfold parse parseHigh
  rw [e]
  rfl

theorem parse_D0 {w : BitVec 96} {gd gn var} (e : Hdr.ofBits w = ⟨0xD0#8, gd, gn, var⟩) : parse w =
    (
    let h : Hdr := ⟨0xD0#8, gd, gn, var⟩
    let g := h.guard
    let e := FE.ofBits w
    if h.var != 0 then .badVar
    else e.ok (!inFile 32 e.d || !inFile 32 e.s1) (e.s2 != 0 || e.s3 != 0 || e.mod != 0 || e.imm != 0)
      (.copy g (reg 31 e.d) (reg 31 e.s1))) := by
  unfold parse parseHigh
  rw [e]
  rfl

theorem parse_D1 {w : BitVec 96} {gd gn var} (e : Hdr.ofBits w = ⟨0xD1#8, gd, gn, var⟩) : parse w =
    (
    let h : Hdr := ⟨0xD1#8, gd, gn, var⟩
    let g := h.guard
    let e := FE.ofBits w
    if h.var != 0 then .badVar
    else e.ok (!inFile 32 e.d || !inFile 32 e.s1) (e.s2 != 0 || e.s3 != 0 || e.mod != 0 || e.imm != 0)
      (.copym g (reg 31 e.d) (reg 31 e.s1))) := by
  unfold parse parseHigh
  rw [e]
  rfl

theorem parse_D2 {w : BitVec 96} {gd gn var} (e : Hdr.ofBits w = ⟨0xD2#8, gd, gn, var⟩) : parse w =
    (
    let h : Hdr := ⟨0xD2#8, gd, gn, var⟩
    let g := h.guard
    let a := FA.ofBits w
    parseX true true false h a (.cprom g (reg 31 a.d) (reg 31 a.s1))) := by
  unfold parse parseHigh
  rw [e]
  rfl

theorem parse_D8 {w : BitVec 96} {gd gn var} (e : Hdr.ofBits w = ⟨0xD8#8, gd, gn, var⟩) : parse w =
    (
    let h : Hdr := ⟨0xD8#8, gd, gn, var⟩
    let g := h.guard
    let a := FA.ofBits w
    parseX false true true h a (.hcfg g (reg 31 a.s1) (reg 31 a.s2))) := by
  unfold parse parseHigh
  rw [e]
  rfl

theorem parse_D9 {w : BitVec 96} {gd gn var} (e : Hdr.ofBits w = ⟨0xD9#8, gd, gn, var⟩) : parse w =
    (
    let h : Hdr := ⟨0xD9#8, gd, gn, var⟩
    let g := h.guard
    let a := FA.ofBits w
    if h.var == 0 then parseXv false true false a (.publish g (reg 31 a.s1))
    else if h.var == 1 then parseXv false true false a (.publishF g (reg 31 a.s1)) else .badVar) := by
  unfold parse parseHigh
  rw [e]
  rfl

theorem parse_DA {w : BitVec 96} {gd gn var} (e : Hdr.ofBits w = ⟨0xDA#8, gd, gn, var⟩) : parse w =
    (
    let h : Hdr := ⟨0xDA#8, gd, gn, var⟩
    let g := h.guard
    let a := FA.ofBits w
    parseX false true true h a (.hsub g (reg 31 a.s1) (reg 31 a.s2))) := by
  unfold parse parseHigh
  rw [e]
  rfl

theorem parse_DB {w : BitVec 96} {gd gn var} (e : Hdr.ofBits w = ⟨0xDB#8, gd, gn, var⟩) : parse w =
    (
    let h : Hdr := ⟨0xDB#8, gd, gn, var⟩
    let g := h.guard
    let a := FA.ofBits w
    parseX false true true h a (.hunsub g (reg 31 a.s1) (reg 31 a.s2))) := by
  unfold parse parseHigh
  rw [e]
  rfl

theorem parse_DC {w : BitVec 96} {gd gn var} (e : Hdr.ofBits w = ⟨0xDC#8, gd, gn, var⟩) : parse w =
    (
    let h : Hdr := ⟨0xDC#8, gd, gn, var⟩
    let g := h.guard
    let a := FA.ofBits w
    parseX true true false h a (.hver g (reg 31 a.d) (reg 31 a.s1))) := by
  unfold parse parseHigh
  rw [e]
  rfl

theorem parse_DD {w : BitVec 96} {gd gn var} (e : Hdr.ofBits w = ⟨0xDD#8, gd, gn, var⟩) : parse w =
    (
    let h : Hdr := ⟨0xDD#8, gd, gn, var⟩
    let g := h.guard
    let a := FA.ofBits w
    if h.var == 0 then parseXv false true false a (.stopref g (reg 31 a.s1))
    else if h.var == 1 then parseXv false true true a (.stoprefAt g (reg 31 a.s1) (reg 31 a.s2)) else .badVar) := by
  unfold parse parseHigh
  rw [e]
  rfl

theorem parse_DE {w : BitVec 96} {gd gn var} (e : Hdr.ofBits w = ⟨0xDE#8, gd, gn, var⟩) : parse w =
    (
    let h : Hdr := ⟨0xDE#8, gd, gn, var⟩
    let g := h.guard
    let a := FA.ofBits w
    if h.var != 0 then .badVar
    else a.ok (!inFile 16 a.d || !inFile 32 a.s1) (a.s2 != 0 || a.s3 != 0 || a.m8 != 0 || a.imm != 0)
      (.refchk g (reg 15 a.d) (reg 31 a.s1))) := by
  unfold parse parseHigh
  rw [e]
  rfl

theorem parse_DF {w : BitVec 96} {gd gn var} (e : Hdr.ofBits w = ⟨0xDF#8, gd, gn, var⟩) : parse w =
    (
    let h : Hdr := ⟨0xDF#8, gd, gn, var⟩
    let g := h.guard
    let a := FA.ofBits w
    let bad := a.s2 != 0 || a.s3 != 0 || a.m8 != 0 || a.imm.toNat ≥ 65536
    let set := a.imm.extractLsb' 0 8
    let nh := a.imm.extractLsb' 8 8
    if h.var == 0 then a.ok (!inFile 32 a.s1) (bad || a.d != 0) (.settle g (reg 31 a.s1) set nh)
    else if h.var == 1 then a.ok (!inFile 32 a.d || !inFile 32 a.s1) bad (.settlew g (reg 31 a.d) (reg 31 a.s1) set nh)
    else .badVar) := by
  unfold parse parseHigh
  rw [e]
  rfl

theorem parse_E0 {w : BitVec 96} {gd gn var} (e : Hdr.ofBits w = ⟨0xE0#8, gd, gn, var⟩) : parse w =
    (
    let h : Hdr := ⟨0xE0#8, gd, gn, var⟩
    let g := h.guard
    let a := FA.ofBits w
    parseX true true false h a (.launch g (reg 31 a.d) (reg 31 a.s1))) := by
  unfold parse parseHigh
  rw [e]
  rfl

theorem parse_E1 {w : BitVec 96} {gd gn var} (e : Hdr.ofBits w = ⟨0xE1#8, gd, gn, var⟩) : parse w =
    (
    let h : Hdr := ⟨0xE1#8, gd, gn, var⟩
    let g := h.guard
    let a := FA.ofBits w
    parseX true true false h a (.deal g (reg 31 a.d) (reg 31 a.s1))) := by
  unfold parse parseHigh
  rw [e]
  rfl

theorem parse_E2 {w : BitVec 96} {gd gn var} (e : Hdr.ofBits w = ⟨0xE2#8, gd, gn, var⟩) : parse w =
    (
    let h : Hdr := ⟨0xE2#8, gd, gn, var⟩
    let g := h.guard
    let a := FA.ofBits w
    if h.var == 0 then
      a.ok (!inFile 32 a.d || !inFile 32 a.s1) (a.s2 != 0 || a.s3 != 0 || a.m8.toNat ≥ 16 || a.imm != 0)
        (.ringget g (reg 31 a.d) (Fin.ofNat 16 a.m8.toNat) (reg 31 a.s1))
    else if h.var == 1 then
      a.ok (!inFile 32 a.s3 || !inFile 32 a.s1) (a.d != 0 || a.s2 != 0 || a.m8 != 0 || a.imm != 0)
        (.ringput g (reg 31 a.s3) (reg 31 a.s1))
    else .badVar) := by
  unfold parse parseHigh
  rw [e]
  rfl

theorem parse_E3 {w : BitVec 96} {gd gn var} (e : Hdr.ofBits w = ⟨0xE3#8, gd, gn, var⟩) : parse w =
    (
    let h : Hdr := ⟨0xE3#8, gd, gn, var⟩
    let g := h.guard
    let a := FA.ofBits w
    parseX true true true h a (.govset g (reg 31 a.d) (reg 31 a.s1) (reg 31 a.s2))) := by
  unfold parse parseHigh
  rw [e]
  rfl

theorem parse_E4 {w : BitVec 96} {gd gn var} (e : Hdr.ofBits w = ⟨0xE4#8, gd, gn, var⟩) : parse w =
    (
    let h : Hdr := ⟨0xE4#8, gd, gn, var⟩
    let g := h.guard
    let a := FA.ofBits w
    if h.var == 0 then parseXv true true false a (.preempt g (reg 31 a.d) (reg 31 a.s1))
    else if h.var == 1 then parseXv true true false a (.resume g (reg 31 a.d) (reg 31 a.s1)) else .badVar) := by
  unfold parse parseHigh
  rw [e]
  rfl

theorem parse_E5 {w : BitVec 96} {gd gn var} (e : Hdr.ofBits w = ⟨0xE5#8, gd, gn, var⟩) : parse w =
    (
    let h : Hdr := ⟨0xE5#8, gd, gn, var⟩
    let g := h.guard
    let a := FA.ofBits w
    if h.var == 0 then parseXv true true false a (.rdhmap g (reg 31 a.d) (reg 31 a.s1))
    else if h.var == 1 then
      a.ok (!inFile 32 a.d || !inFile 32 a.s1) (a.s2 != 0 || a.s3 != 0 || a.m8 != 0 || a.imm.toNat ≥ 2)
        (.rdlpt g (reg 31 a.d) (reg 31 a.s1) (a.imm == 1))
    else .badVar) := by
  unfold parse parseHigh
  rw [e]
  rfl

theorem parse_E6 {w : BitVec 96} {gd gn var} (e : Hdr.ofBits w = ⟨0xE6#8, gd, gn, var⟩) : parse w =
    (
    let h : Hdr := ⟨0xE6#8, gd, gn, var⟩
    let g := h.guard
    let a := FA.ofBits w
    parseX true false false h a (.quiesce g (reg 31 a.d))) := by
  unfold parse parseHigh
  rw [e]
  rfl

theorem parse_E8 {w : BitVec 96} {gd gn var} (e : Hdr.ofBits w = ⟨0xE8#8, gd, gn, var⟩) : parse w =
    (
    let h : Hdr := ⟨0xE8#8, gd, gn, var⟩
    let g := h.guard
    let a := FA.ofBits w
    if h.var != 0 then .badVar
    else a.ok (!inFile 4 a.d || !inFile 32 a.s1) (a.s2 != 0 || a.s3 != 0 || a.m8 != 0 || a.imm != 0)
      (.barset g (reg 3 a.d) (reg 31 a.s1))) := by
  unfold parse parseHigh
  rw [e]
  rfl

theorem parse_E9 {w : BitVec 96} {gd gn var} (e : Hdr.ofBits w = ⟨0xE9#8, gd, gn, var⟩) : parse w =
    (
    let h : Hdr := ⟨0xE9#8, gd, gn, var⟩
    let g := h.guard
    let a := FA.ofBits w
    if h.var != 0 then .badVar
    else a.ok (!inFile 4 a.s1) (a.d != 0 || a.s2 != 0 || a.s3 != 0 || a.m8 != 0 || a.imm != 0) (.bararr g (reg 3 a.s1))) := by
  unfold parse parseHigh
  rw [e]
  rfl

theorem parse_EA {w : BitVec 96} {gd gn var} (e : Hdr.ofBits w = ⟨0xEA#8, gd, gn, var⟩) : parse w =
    (
    let h : Hdr := ⟨0xEA#8, gd, gn, var⟩
    let g := h.guard
    let a := FA.ofBits w
    let bad := a.s2 != 0 || a.s3 != 0 || a.m8 != 0
    if h.var == 0 then a.ok (!inFile 16 a.d || !inFile 4 a.s1) bad (.barwait g (reg 15 a.d) (reg 3 a.s1) a.imm)
    else if h.var == 1 then a.ok (!inFile 4 a.s1) (bad || a.d != 0) (.barwaitF g (reg 3 a.s1) a.imm) else .badVar) := by
  unfold parse parseHigh
  rw [e]
  rfl

theorem parse_EB {w : BitVec 96} {gd gn var} (e : Hdr.ofBits w = ⟨0xEB#8, gd, gn, var⟩) : parse w =
    (
    let h : Hdr := ⟨0xEB#8, gd, gn, var⟩
    let g := h.guard
    let a := FA.ofBits w
    if h.var != 0 then .badVar
    else a.ok (!inFile 4 a.s1) (a.d != 0 || a.s2 != 0 || a.s3 != 0 || a.m8 != 0 || a.imm != 0) (.barwd g (reg 3 a.s1))) := by
  unfold parse parseHigh
  rw [e]
  rfl

theorem parse_EC {w : BitVec 96} {gd gn var} (e : Hdr.ofBits w = ⟨0xEC#8, gd, gn, var⟩) : parse w =
    (
    let h : Hdr := ⟨0xEC#8, gd, gn, var⟩
    let g := h.guard
    let a := FA.ofBits w
    parseX true true false h a (.chkpt g (reg 31 a.d) (reg 31 a.s1))) := by
  unfold parse parseHigh
  rw [e]
  rfl

theorem parse_ED {w : BitVec 96} {gd gn var} (e : Hdr.ofBits w = ⟨0xED#8, gd, gn, var⟩) : parse w =
    (
    let h : Hdr := ⟨0xED#8, gd, gn, var⟩
    let g := h.guard
    let a := FA.ofBits w
    if h.var != 0 then .badVar
    else a.ok (!inFile 32 a.s1 || !inFile 32 a.s2) (a.d != 0 || a.s3 != 0 || a.m8.toNat ≥ 4 || a.imm != 0)
      (.tlbinv g (reg 31 a.s1) (reg 31 a.s2) (Fin.ofNat 4 a.m8.toNat))) := by
  unfold parse parseHigh
  rw [e]
  rfl

theorem parse_EE {w : BitVec 96} {gd gn var} (e : Hdr.ofBits w = ⟨0xEE#8, gd, gn, var⟩) : parse w =
    (
    let h : Hdr := ⟨0xEE#8, gd, gn, var⟩
    let g := h.guard
    let a := FA.ofBits w
    let op := a.m8.toNat
    if h.var != 0 then .badVar
    else a.ok (!inFile 32 a.d || !inFile 32 a.s1 || !inFile 32 a.s2) (a.s3 != 0 || op ≥ 3 || a.imm != 0)
      (if op == 0 then .rmapsetRemap g (reg 31 a.d) (reg 31 a.s1) (reg 31 a.s2)
       else if op == 1 then .rmapsetMarkDead g (reg 31 a.d) (reg 31 a.s1) (reg 31 a.s2)
       else .rmapsetClearDead g (reg 31 a.d) (reg 31 a.s1) (reg 31 a.s2))) := by
  unfold parse parseHigh
  rw [e]
  rfl

theorem parse_F0 {w : BitVec 96} {gd gn var} (e : Hdr.ofBits w = ⟨0xF0#8, gd, gn, var⟩) : parse w =
    (
    let h : Hdr := ⟨0xF0#8, gd, gn, var⟩
    let g := h.guard
    let a := FA.ofBits w
    parseX true true true h a (.grpjoin g (reg 31 a.d) (reg 31 a.s1) (reg 31 a.s2))) := by
  unfold parse parseHigh
  rw [e]
  rfl

theorem parse_F1 {w : BitVec 96} {gd gn var} (e : Hdr.ofBits w = ⟨0xF1#8, gd, gn, var⟩) : parse w =
    (
    let h : Hdr := ⟨0xF1#8, gd, gn, var⟩
    let g := h.guard
    let a := FA.ofBits w
    parseX false true false h a (.grpleave g (reg 31 a.s1))) := by
  unfold parse parseHigh
  rw [e]
  rfl

theorem parse_F2 {w : BitVec 96} {gd gn var} (e : Hdr.ofBits w = ⟨0xF2#8, gd, gn, var⟩) : parse w =
    (
    let h : Hdr := ⟨0xF2#8, gd, gn, var⟩
    let g := h.guard
    let a := FA.ofBits w
    if h.var != 0 then .badVar
    else a.ok (!inFile 16 a.d || !inFile 32 a.s1 || !inFile 16 a.s2) (a.s3 != 0 || a.m8.toNat ≥ 3 || a.imm != 0)
      (.grpred g (Red3.ofCode a.m8.toNat) (reg 15 a.d) (reg 31 a.s1) (reg 15 a.s2))) := by
  unfold parse parseHigh
  rw [e]
  rfl

theorem parse_F3 {w : BitVec 96} {gd gn var} (e : Hdr.ofBits w = ⟨0xF3#8, gd, gn, var⟩) : parse w =
    (
    let h : Hdr := ⟨0xF3#8, gd, gn, var⟩
    let g := h.guard
    let a := FA.ofBits w
    if h.var != 0 then .badVar
    else a.ok (!inFile 16 a.d || !inFile 32 a.s1 || !inFile 16 a.s2) (a.s3 != 0 || a.m8 != 0 || a.imm.toNat ≥ 256)
      (.grpbc g (reg 15 a.d) (reg 31 a.s1) (reg 15 a.s2) (a.imm.extractLsb' 0 8))) := by
  unfold parse parseHigh
  rw [e]
  rfl

theorem parse_F4 {w : BitVec 96} {gd gn var} (e : Hdr.ofBits w = ⟨0xF4#8, gd, gn, var⟩) : parse w =
    (
    let h : Hdr := ⟨0xF4#8, gd, gn, var⟩
    let g := h.guard
    let a := FA.ofBits w
    parseX false true false h a (.grpbar g (reg 31 a.s1))) := by
  unfold parse parseHigh
  rw [e]
  rfl

theorem parse_F5 {w : BitVec 96} {gd gn var} (e : Hdr.ofBits w = ⟨0xF5#8, gd, gn, var⟩) : parse w =
    (
    let h : Hdr := ⟨0xF5#8, gd, gn, var⟩
    let g := h.guard
    let a := FA.ofBits w
    parseX true true true h a (.fremap g (reg 31 a.d) (reg 31 a.s1) (reg 31 a.s2))) := by
  unfold parse parseHigh
  rw [e]
  rfl

theorem decode_encode_nop (gd : Guard) (h : (Instr.nop gd).wf = true) : decode (encode (.nop gd)) = .ok (.nop gd) := by
  replace h : (gd.wf) = true := h
  have en : encode (.nop gd) =
    (encX 0x01 0 gd 0 0 0) := rfl
  simp only [encA, encX, hdr] at en
  rw [en]
  refine decode_of ((parse_01 (Hdr.ofBits_append _ _)).trans ?_) ?_
  · simp only [FA.ofBits_append, Hdr.guard_mk, ofNat4]
    clear en
    ((try simp [FA.ok, parseX] at h ⊢) <;> (try simp_all))
  · rw [Hdr.ofBits_append]; simp_all

theorem decode_encode_j (gd : Guard) (off : BitVec 40) (h : (Instr.j gd off).wf = true) : decode (encode (.j gd off)) = .ok (.j gd off) := by
  replace h : (gd.wf) = true := h
  have en : encode (.j gd off) =
    (encC 0x02 0 gd 0 0 0 0 off) := rfl
  simp only [encC, hdr] at en
  rw [en]
  refine decode_of ((parse_02 (Hdr.ofBits_append _ _)).trans ?_) ?_
  · simp only [FC.ofBits_append, Hdr.guard_mk, ofNat4]
    clear en
    ((try simp [FC.ok] at h ⊢) <;> (try simp_all))
  · rw [Hdr.ofBits_append]; simp_all

theorem decode_encode_jal (gd : Guard) (d : Fin 32) (off : BitVec 40) (h : (Instr.jal gd d off).wf = true) : decode (encode (.jal gd d off)) = .ok (.jal gd d off) := by
  replace h : (gd.wf) = true := h
  have en : encode (.jal gd d off) =
    (encC 0x03 0 gd (fld d) 0 0 0 off) := rfl
  simp only [encC, hdr] at en
  rw [en]
  refine decode_of ((parse_03 (Hdr.ofBits_append _ _)).trans ?_) ?_
  · simp only [FC.ofBits_append, Hdr.guard_mk, ofNat4]
    clear en
    ((try simp [FC.ok] at h ⊢) <;> (try simp_all))
  · rw [Hdr.ofBits_append]; simp_all

theorem decode_encode_jr (gd : Guard) (s1 : Fin 32) (h : (Instr.jr gd s1).wf = true) : decode (encode (.jr gd s1)) = .ok (.jr gd s1) := by
  replace h : (gd.wf) = true := h
  have en : encode (.jr gd s1) =
    (encC 0x04 0 gd 0 (fld s1) 0 0 0) := rfl
  simp only [encC, hdr] at en
  rw [en]
  refine decode_of ((parse_04 (Hdr.ofBits_append _ _)).trans ?_) ?_
  · simp only [FC.ofBits_append, Hdr.guard_mk, ofNat4]
    clear en
    ((try simp [FC.ok] at h ⊢) <;> (try simp_all))
  · rw [Hdr.ofBits_append]; simp_all

theorem decode_encode_jalr (gd : Guard) (d : Fin 32) (s1 : Fin 32) (h : (Instr.jalr gd d s1).wf = true) : decode (encode (.jalr gd d s1)) = .ok (.jalr gd d s1) := by
  replace h : (gd.wf) = true := h
  have en : encode (.jalr gd d s1) =
    (encC 0x05 0 gd (fld d) (fld s1) 0 0 0) := rfl
  simp only [encC, hdr] at en
  rw [en]
  refine decode_of ((parse_05 (Hdr.ofBits_append _ _)).trans ?_) ?_
  · simp only [FC.ofBits_append, Hdr.guard_mk, ofNat4]
    clear en
    ((try simp [FC.ok] at h ⊢) <;> (try simp_all))
  · rw [Hdr.ofBits_append]; simp_all

theorem decode_encode_br (gd : Guard) (g2 : Fin 16) (off : BitVec 40) (h : (Instr.br gd g2 off).wf = true) : decode (encode (.br gd g2 off)) = .ok (.br gd g2 off) := by
  replace h : (gd.wf) = true := h
  have en : encode (.br gd g2 off) =
    (encC 0x06 0 gd 0 0 g2.val 0 off) := rfl
  simp only [encC, hdr] at en
  rw [en]
  refine decode_of ((parse_06 (Hdr.ofBits_append _ _)).trans ?_) ?_
  · simp only [FC.ofBits_append, Hdr.guard_mk, ofNat4]
    clear en
    ((try simp [FC.ok] at h ⊢) <;> (try simp_all))
  · rw [Hdr.ofBits_append]; simp_all

theorem decode_encode_brF (gd : Guard) (g2 : Fin 16) (off : BitVec 40) (h : (Instr.brF gd g2 off).wf = true) : decode (encode (.brF gd g2 off)) = .ok (.brF gd g2 off) := by
  replace h : (gd.wf) = true := h
  have en : encode (.brF gd g2 off) =
    (encC 0x06 1 gd 0 0 g2.val 0 off) := rfl
  simp only [encC, hdr] at en
  rw [en]
  refine decode_of ((parse_06 (Hdr.ofBits_append _ _)).trans ?_) ?_
  · simp only [FC.ofBits_append, Hdr.guard_mk, ofNat4]
    clear en
    ((try simp [FC.ok] at h ⊢) <;> (try simp_all))
  · rw [Hdr.ofBits_append]; simp_all

theorem decode_encode_loop (gd : Guard) (lv : Fin 2) (s1 : Fin 32) (off : BitVec 40) (h : (Instr.loop gd lv s1 off).wf = true) : decode (encode (.loop gd lv s1 off)) = .ok (.loop gd lv s1 off) := by
  replace h : (gd.wf) = true := h
  have en : encode (.loop gd lv s1 off) =
    (encC 0x07 lv.val gd 0 (fld s1) 0 0 off) := rfl
  simp only [encC, hdr] at en
  rw [en]
  refine decode_of ((parse_07 (Hdr.ofBits_append _ _)).trans ?_) ?_
  · simp only [FC.ofBits_append, Hdr.guard_mk, ofNat4]
    clear en
    (rcases lv with ⟨_ | _ | _, hlv⟩ <;> try omega) <;> ((try simp [FC.ok] at h ⊢) <;> (try simp_all))
  · rw [Hdr.ofBits_append]; simp_all

theorem decode_encode_loopi (gd : Guard) (lv : Fin 2) (cnt : BitVec 24) (off : BitVec 40) (h : (Instr.loopi gd lv cnt off).wf = true) : decode (encode (.loopi gd lv cnt off)) = .ok (.loopi gd lv cnt off) := by
  replace h : (gd.wf) = true := h
  have en : encode (.loopi gd lv cnt off) =
    (encC 0x08 lv.val gd 0 0 0 cnt off) := rfl
  simp only [encC, hdr] at en
  rw [en]
  refine decode_of ((parse_08 (Hdr.ofBits_append _ _)).trans ?_) ?_
  · simp only [FC.ofBits_append, Hdr.guard_mk, ofNat4]
    clear en
    (rcases lv with ⟨_ | _ | _, hlv⟩ <;> try omega) <;> ((try simp [FC.ok] at h ⊢) <;> (try simp_all))
  · rw [Hdr.ofBits_append]; simp_all

theorem decode_encode_loopx (gd : Guard) (lv : Fin 2) (d : Fin 32) (s1 : Fin 32) (st : Fin 32) (off : BitVec 40) (h : (Instr.loopx gd lv d s1 st off).wf = true) : decode (encode (.loopx gd lv d s1 st off)) = .ok (.loopx gd lv d s1 st off) := by
  replace h : (gd.wf) = true := h
  have en : encode (.loopx gd lv d s1 st off) =
    (encC 0x09 lv.val gd (fld d) (fld s1) 0 ((0 : BitVec 18) ++ fld st) off) := rfl
  simp only [encC, hdr] at en
  rw [en]
  refine decode_of ((parse_09 (Hdr.ofBits_append _ _)).trans ?_) ?_
  · simp only [FC.ofBits_append, Hdr.guard_mk, ofNat4]
    clear en
    (rcases lv with ⟨_ | _ | _, hlv⟩ <;> try omega) <;> ((try simp [FC.ok] at h ⊢) <;> (try simp_all))
  · rw [Hdr.ofBits_append]; simp_all

theorem decode_encode_trap (gd : Guard) (code : BitVec 16) (h : (Instr.trap gd code).wf = true) : decode (encode (.trap gd code)) = .ok (.trap gd code) := by
  replace h : (gd.wf) = true := h
  have en : encode (.trap gd code) =
    (encA 0x0A 0 gd 0 0 0 0 0 (imm16 code)) := rfl
  simp only [encA, hdr] at en
  rw [en]
  refine decode_of ((parse_0A (Hdr.ofBits_append _ _)).trans ?_) ?_
  · simp only [FA.ofBits_append, Hdr.guard_mk, ofNat4]
    clear en
    ((try simp [FA.ok] at h ⊢) <;> (try simp_all))
  · rw [Hdr.ofBits_append]; simp_all

theorem decode_encode_brk (gd : Guard) (code : BitVec 16) (h : (Instr.brk gd code).wf = true) : decode (encode (.brk gd code)) = .ok (.brk gd code) := by
  replace h : (gd.wf) = true := h
  have en : encode (.brk gd code) =
    (encA 0x0B 0 gd 0 0 0 0 0 (imm16 code)) := rfl
  simp only [encA, hdr] at en
  rw [en]
  refine decode_of ((parse_0B (Hdr.ofBits_append _ _)).trans ?_) ?_
  · simp only [FA.ofBits_append, Hdr.guard_mk, ofNat4]
    clear en
    ((try simp [FA.ok] at h ⊢) <;> (try simp_all))
  · rw [Hdr.ofBits_append]; simp_all

theorem decode_encode_supcall (gd : Guard) (code : BitVec 16) (h : (Instr.supcall gd code).wf = true) : decode (encode (.supcall gd code)) = .ok (.supcall gd code) := by
  replace h : (gd.wf) = true := h
  have en : encode (.supcall gd code) =
    (encA 0x0C 0 gd 0 0 0 0 0 (imm16 code)) := rfl
  simp only [encA, hdr] at en
  rw [en]
  refine decode_of ((parse_0C (Hdr.ofBits_append _ _)).trans ?_) ?_
  · simp only [FA.ofBits_append, Hdr.guard_mk, ofNat4]
    clear en
    ((try simp [FA.ok] at h ⊢) <;> (try simp_all))
  · rw [Hdr.ofBits_append]; simp_all

theorem decode_encode_rdsys (gd : Guard) (d : Fin 32) (n : BitVec 12) (h : (Instr.rdsys gd d n).wf = true) : decode (encode (.rdsys gd d n)) = .ok (.rdsys gd d n) := by
  replace h : (gd.wf) = true := h
  have en : encode (.rdsys gd d n) =
    (encA 0x0D 0 gd (fld d) 0 0 0 0 (n.zeroExtend 32)) := rfl
  simp only [encA, hdr] at en
  rw [en]
  refine decode_of ((parse_0D (Hdr.ofBits_append _ _)).trans ?_) ?_
  · simp only [FA.ofBits_append, Hdr.guard_mk, ofNat4]
    clear en
    ((try simp [FA.ok] at h ⊢) <;> (try simp_all))
  · rw [Hdr.ofBits_append]; simp_all

theorem decode_encode_wrsys (gd : Guard) (n : BitVec 12) (s1 : Fin 32) (h : (Instr.wrsys gd n s1).wf = true) : decode (encode (.wrsys gd n s1)) = .ok (.wrsys gd n s1) := by
  replace h : (gd.wf) = true := h
  have en : encode (.wrsys gd n s1) =
    (encA 0x0D 1 gd 0 (fld s1) 0 0 0 (n.zeroExtend 32)) := rfl
  simp only [encA, hdr] at en
  rw [en]
  refine decode_of ((parse_0D (Hdr.ofBits_append _ _)).trans ?_) ?_
  · simp only [FA.ofBits_append, Hdr.guard_mk, ofNat4]
    clear en
    ((try simp [FA.ok] at h ⊢) <;> (try simp_all))
  · rw [Hdr.ofBits_append]; simp_all

theorem decode_encode_rdtime (gd : Guard) (d : Fin 32) (h : (Instr.rdtime gd d).wf = true) : decode (encode (.rdtime gd d)) = .ok (.rdtime gd d) := by
  replace h : (gd.wf) = true := h
  have en : encode (.rdtime gd d) =
    (encX 0x0E 0 gd (fld d) 0 0) := rfl
  simp only [encA, encX, hdr] at en
  rw [en]
  refine decode_of ((parse_0E (Hdr.ofBits_append _ _)).trans ?_) ?_
  · simp only [FA.ofBits_append, Hdr.guard_mk, ofNat4]
    clear en
    ((try simp [FA.ok, parseX] at h ⊢) <;> (try simp_all))
  · rw [Hdr.ofBits_append]; simp_all

theorem decode_encode_sleepuntil (gd : Guard) (s1 : Fin 32) (s2 : Fin 32) (h : (Instr.sleepuntil gd s1 s2).wf = true) : decode (encode (.sleepuntil gd s1 s2)) = .ok (.sleepuntil gd s1 s2) := by
  replace h : (gd.wf) = true := h
  have en : encode (.sleepuntil gd s1 s2) =
    (encX 0x0F 0 gd 0 (fld s1) (fld s2)) := rfl
  simp only [encA, encX, hdr] at en
  rw [en]
  refine decode_of ((parse_0F (Hdr.ofBits_append _ _)).trans ?_) ?_
  · simp only [FA.ofBits_append, Hdr.guard_mk, ofNat4]
    clear en
    ((try simp [FA.ok, parseX] at h ⊢) <;> (try simp_all))
  · rw [Hdr.ofBits_append]; simp_all

theorem decode_encode_add (a : Alu) (h : (Instr.add a).wf = true) : decode (encode (.add a)) = .ok (.add a) := by
  replace h : (a.wfW) = true := h
  have en : encode (.add a) =
    (encAlu 0x10 a) := rfl
  simp only [encA, encAlu, hdr] at en
  simp only [Alu.wfW] at h
  rw [en]
  refine decode_of ((parse_10 (Hdr.ofBits_append _ _)).trans ?_) ?_
  · simp only [FA.ofBits_append, ofNat4]
    clear en
    (rcases a with ⟨gd, w, d, s1, src⟩) <;> (cases w <;> cases src) <;> ((try simp [FA.ok, FA.src, FA.srcFile, FA.srcValue, Hdr.size, Hdr.i, Src.i, Src.s2, Src.imm32, parseAlu] at h ⊢) <;> (try simp_all))
  · rw [Hdr.ofBits_append]; simp_all

theorem decode_encode_sub (a : Alu) (h : (Instr.sub a).wf = true) : decode (encode (.sub a)) = .ok (.sub a) := by
  replace h : (a.wfW) = true := h
  have en : encode (.sub a) =
    (encAlu 0x11 a) := rfl
  simp only [encA, encAlu, hdr] at en
  simp only [Alu.wfW] at h
  rw [en]
  refine decode_of ((parse_11 (Hdr.ofBits_append _ _)).trans ?_) ?_
  · simp only [FA.ofBits_append, ofNat4]
    clear en
    (rcases a with ⟨gd, w, d, s1, src⟩) <;> (cases w <;> cases src) <;> ((try simp [FA.ok, FA.src, FA.srcFile, FA.srcValue, Hdr.size, Hdr.i, Src.i, Src.s2, Src.imm32, parseAlu] at h ⊢) <;> (try simp_all))
  · rw [Hdr.ofBits_append]; simp_all

theorem decode_encode_and (a : Alu) (h : (Instr.and a).wf = true) : decode (encode (.and a)) = .ok (.and a) := by
  replace h : (a.wfD) = true := h
  have en : encode (.and a) =
    (encAlu 0x12 a) := rfl
  simp only [encA, encAlu, hdr] at en
  simp only [Alu.wfD] at h
  rw [en]
  refine decode_of ((parse_12 (Hdr.ofBits_append _ _)).trans ?_) ?_
  · simp only [FA.ofBits_append, ofNat4]
    clear en
    (rcases a with ⟨gd, w, d, s1, src⟩) <;> (cases w <;> cases src) <;> ((try simp [FA.ok, FA.src, FA.srcFile, FA.srcValue, Hdr.size, Hdr.i, Src.i, Src.s2, Src.imm32, parseAlu] at h ⊢) <;> (try simp_all))
  · rw [Hdr.ofBits_append]; simp_all

theorem decode_encode_or (a : Alu) (h : (Instr.or a).wf = true) : decode (encode (.or a)) = .ok (.or a) := by
  replace h : (a.wfD) = true := h
  have en : encode (.or a) =
    (encAlu 0x13 a) := rfl
  simp only [encA, encAlu, hdr] at en
  simp only [Alu.wfD] at h
  rw [en]
  refine decode_of ((parse_13 (Hdr.ofBits_append _ _)).trans ?_) ?_
  · simp only [FA.ofBits_append, ofNat4]
    clear en
    (rcases a with ⟨gd, w, d, s1, src⟩) <;> (cases w <;> cases src) <;> ((try simp [FA.ok, FA.src, FA.srcFile, FA.srcValue, Hdr.size, Hdr.i, Src.i, Src.s2, Src.imm32, parseAlu] at h ⊢) <;> (try simp_all))
  · rw [Hdr.ofBits_append]; simp_all

theorem decode_encode_xor (a : Alu) (h : (Instr.xor a).wf = true) : decode (encode (.xor a)) = .ok (.xor a) := by
  replace h : (a.wfD) = true := h
  have en : encode (.xor a) =
    (encAlu 0x14 a) := rfl
  simp only [encA, encAlu, hdr] at en
  simp only [Alu.wfD] at h
  rw [en]
  refine decode_of ((parse_14 (Hdr.ofBits_append _ _)).trans ?_) ?_
  · simp only [FA.ofBits_append, ofNat4]
    clear en
    (rcases a with ⟨gd, w, d, s1, src⟩) <;> (cases w <;> cases src) <;> ((try simp [FA.ok, FA.src, FA.srcFile, FA.srcValue, Hdr.size, Hdr.i, Src.i, Src.s2, Src.imm32, parseAlu] at h ⊢) <;> (try simp_all))
  · rw [Hdr.ofBits_append]; simp_all

theorem decode_encode_sll (a : Alu) (h : (Instr.sll a).wf = true) : decode (encode (.sll a)) = .ok (.sll a) := by
  replace h : (a.wfShift) = true := h
  have en : encode (.sll a) =
    (encAlu 0x15 a) := rfl
  simp only [encA, encAlu, hdr] at en
  simp only [Alu.wfShift] at h
  rw [en]
  refine decode_of ((parse_15 (Hdr.ofBits_append _ _)).trans ?_) ?_
  · simp only [FA.ofBits_append, ofNat4]
    clear en
    (rcases a with ⟨gd, w, d, s1, src⟩) <;> (cases w <;> cases src) <;> ((try simp [FA.ok, FA.src, FA.srcFile, FA.srcValue, Hdr.size, Hdr.i, Src.i, Src.s2, Src.imm32, parseAlu] at h ⊢) <;> (try simp_all))
  · rw [Hdr.ofBits_append]; simp_all

theorem decode_encode_srl (a : Alu) (h : (Instr.srl a).wf = true) : decode (encode (.srl a)) = .ok (.srl a) := by
  replace h : (a.wfShift) = true := h
  have en : encode (.srl a) =
    (encAlu 0x16 a) := rfl
  simp only [encA, encAlu, hdr] at en
  simp only [Alu.wfShift] at h
  rw [en]
  refine decode_of ((parse_16 (Hdr.ofBits_append _ _)).trans ?_) ?_
  · simp only [FA.ofBits_append, ofNat4]
    clear en
    (rcases a with ⟨gd, w, d, s1, src⟩) <;> (cases w <;> cases src) <;> ((try simp [FA.ok, FA.src, FA.srcFile, FA.srcValue, Hdr.size, Hdr.i, Src.i, Src.s2, Src.imm32, parseAlu] at h ⊢) <;> (try simp_all))
  · rw [Hdr.ofBits_append]; simp_all

theorem decode_encode_sra (a : Alu) (h : (Instr.sra a).wf = true) : decode (encode (.sra a)) = .ok (.sra a) := by
  replace h : (a.wfShift) = true := h
  have en : encode (.sra a) =
    (encAlu 0x17 a) := rfl
  simp only [encA, encAlu, hdr] at en
  simp only [Alu.wfShift] at h
  rw [en]
  refine decode_of ((parse_17 (Hdr.ofBits_append _ _)).trans ?_) ?_
  · simp only [FA.ofBits_append, ofNat4]
    clear en
    (rcases a with ⟨gd, w, d, s1, src⟩) <;> (cases w <;> cases src) <;> ((try simp [FA.ok, FA.src, FA.srcFile, FA.srcValue, Hdr.size, Hdr.i, Src.i, Src.s2, Src.imm32, parseAlu] at h ⊢) <;> (try simp_all))
  · rw [Hdr.ofBits_append]; simp_all

theorem decode_encode_slt (a : Alu) (h : (Instr.slt a).wf = true) : decode (encode (.slt a)) = .ok (.slt a) := by
  replace h : (a.wfD) = true := h
  have en : encode (.slt a) =
    (encAlu 0x18 a) := rfl
  simp only [encA, encAlu, hdr] at en
  simp only [Alu.wfD] at h
  rw [en]
  refine decode_of ((parse_18 (Hdr.ofBits_append _ _)).trans ?_) ?_
  · simp only [FA.ofBits_append, ofNat4]
    clear en
    (rcases a with ⟨gd, w, d, s1, src⟩) <;> (cases w <;> cases src) <;> ((try simp [FA.ok, FA.src, FA.srcFile, FA.srcValue, Hdr.size, Hdr.i, Src.i, Src.s2, Src.imm32, parseAlu] at h ⊢) <;> (try simp_all))
  · rw [Hdr.ofBits_append]; simp_all

theorem decode_encode_sltu (a : Alu) (h : (Instr.sltu a).wf = true) : decode (encode (.sltu a)) = .ok (.sltu a) := by
  replace h : (a.wfD) = true := h
  have en : encode (.sltu a) =
    (encAlu 0x19 a) := rfl
  simp only [encA, encAlu, hdr] at en
  simp only [Alu.wfD] at h
  rw [en]
  refine decode_of ((parse_19 (Hdr.ofBits_append _ _)).trans ?_) ?_
  · simp only [FA.ofBits_append, ofNat4]
    clear en
    (rcases a with ⟨gd, w, d, s1, src⟩) <;> (cases w <;> cases src) <;> ((try simp [FA.ok, FA.src, FA.srcFile, FA.srcValue, Hdr.size, Hdr.i, Src.i, Src.s2, Src.imm32, parseAlu] at h ⊢) <;> (try simp_all))
  · rw [Hdr.ofBits_append]; simp_all

theorem decode_encode_mul (a : Alu) (h : (Instr.mul a).wf = true) : decode (encode (.mul a)) = .ok (.mul a) := by
  replace h : (a.wfW) = true := h
  have en : encode (.mul a) =
    (encAlu 0x1A a) := rfl
  simp only [encA, encAlu, hdr] at en
  simp only [Alu.wfW] at h
  rw [en]
  refine decode_of ((parse_1A (Hdr.ofBits_append _ _)).trans ?_) ?_
  · simp only [FA.ofBits_append, ofNat4]
    clear en
    (rcases a with ⟨gd, w, d, s1, src⟩) <;> (cases w <;> cases src) <;> ((try simp [FA.ok, FA.src, FA.srcFile, FA.srcValue, Hdr.size, Hdr.i, Src.i, Src.s2, Src.imm32, parseAlu] at h ⊢) <;> (try simp_all))
  · rw [Hdr.ofBits_append]; simp_all

theorem decode_encode_mulh (a : Alu) (h : (Instr.mulh a).wf = true) : decode (encode (.mulh a)) = .ok (.mulh a) := by
  replace h : (a.wfD) = true := h
  have en : encode (.mulh a) =
    (encAlu 0x1B a) := rfl
  simp only [encA, encAlu, hdr] at en
  simp only [Alu.wfD] at h
  rw [en]
  refine decode_of ((parse_1B (Hdr.ofBits_append _ _)).trans ?_) ?_
  · simp only [FA.ofBits_append, ofNat4]
    clear en
    (rcases a with ⟨gd, w, d, s1, src⟩) <;> (cases w <;> cases src) <;> ((try simp [FA.ok, FA.src, FA.srcFile, FA.srcValue, Hdr.size, Hdr.i, Src.i, Src.s2, Src.imm32, parseAlu] at h ⊢) <;> (try simp_all))
  · rw [Hdr.ofBits_append]; simp_all

theorem decode_encode_mulhm (a : Alu) (h : (Instr.mulhm a).wf = true) : decode (encode (.mulhm a)) = .ok (.mulhm a) := by
  replace h : (a.wfD) = true := h
  have en : encode (.mulhm a) =
    (encAlu 0x1C a) := rfl
  simp only [encA, encAlu, hdr] at en
  simp only [Alu.wfD] at h
  rw [en]
  refine decode_of ((parse_1C (Hdr.ofBits_append _ _)).trans ?_) ?_
  · simp only [FA.ofBits_append, ofNat4]
    clear en
    (rcases a with ⟨gd, w, d, s1, src⟩) <;> (cases w <;> cases src) <;> ((try simp [FA.ok, FA.src, FA.srcFile, FA.srcValue, Hdr.size, Hdr.i, Src.i, Src.s2, Src.imm32, parseAlu] at h ⊢) <;> (try simp_all))
  · rw [Hdr.ofBits_append]; simp_all

theorem decode_encode_mulhu (a : Alu) (h : (Instr.mulhu a).wf = true) : decode (encode (.mulhu a)) = .ok (.mulhu a) := by
  replace h : (a.wfD) = true := h
  have en : encode (.mulhu a) =
    (encAlu 0x1D a) := rfl
  simp only [encA, encAlu, hdr] at en
  simp only [Alu.wfD] at h
  rw [en]
  refine decode_of ((parse_1D (Hdr.ofBits_append _ _)).trans ?_) ?_
  · simp only [FA.ofBits_append, ofNat4]
    clear en
    (rcases a with ⟨gd, w, d, s1, src⟩) <;> (cases w <;> cases src) <;> ((try simp [FA.ok, FA.src, FA.srcFile, FA.srcValue, Hdr.size, Hdr.i, Src.i, Src.s2, Src.imm32, parseAlu] at h ⊢) <;> (try simp_all))
  · rw [Hdr.ofBits_append]; simp_all

theorem decode_encode_div (a : Alu) (h : (Instr.div a).wf = true) : decode (encode (.div a)) = .ok (.div a) := by
  replace h : (a.wfW) = true := h
  have en : encode (.div a) =
    (encAlu 0x1E a) := rfl
  simp only [encA, encAlu, hdr] at en
  simp only [Alu.wfW] at h
  rw [en]
  refine decode_of ((parse_1E (Hdr.ofBits_append _ _)).trans ?_) ?_
  · simp only [FA.ofBits_append, ofNat4]
    clear en
    (rcases a with ⟨gd, w, d, s1, src⟩) <;> (cases w <;> cases src) <;> ((try simp [FA.ok, FA.src, FA.srcFile, FA.srcValue, Hdr.size, Hdr.i, Src.i, Src.s2, Src.imm32, parseAlu] at h ⊢) <;> (try simp_all))
  · rw [Hdr.ofBits_append]; simp_all

theorem decode_encode_divu (a : Alu) (h : (Instr.divu a).wf = true) : decode (encode (.divu a)) = .ok (.divu a) := by
  replace h : (a.wfW) = true := h
  have en : encode (.divu a) =
    (encAlu 0x1F a) := rfl
  simp only [encA, encAlu, hdr] at en
  simp only [Alu.wfW] at h
  rw [en]
  refine decode_of ((parse_1F (Hdr.ofBits_append _ _)).trans ?_) ?_
  · simp only [FA.ofBits_append, ofNat4]
    clear en
    (rcases a with ⟨gd, w, d, s1, src⟩) <;> (cases w <;> cases src) <;> ((try simp [FA.ok, FA.src, FA.srcFile, FA.srcValue, Hdr.size, Hdr.i, Src.i, Src.s2, Src.imm32, parseAlu] at h ⊢) <;> (try simp_all))
  · rw [Hdr.ofBits_append]; simp_all

theorem decode_encode_rem (a : Alu) (h : (Instr.rem a).wf = true) : decode (encode (.rem a)) = .ok (.rem a) := by
  replace h : (a.wfW) = true := h
  have en : encode (.rem a) =
    (encAlu 0x20 a) := rfl
  simp only [encA, encAlu, hdr] at en
  simp only [Alu.wfW] at h
  rw [en]
  refine decode_of ((parse_20 (Hdr.ofBits_append _ _)).trans ?_) ?_
  · simp only [FA.ofBits_append, ofNat4]
    clear en
    (rcases a with ⟨gd, w, d, s1, src⟩) <;> (cases w <;> cases src) <;> ((try simp [FA.ok, FA.src, FA.srcFile, FA.srcValue, Hdr.size, Hdr.i, Src.i, Src.s2, Src.imm32, parseAlu] at h ⊢) <;> (try simp_all))
  · rw [Hdr.ofBits_append]; simp_all

theorem decode_encode_remu (a : Alu) (h : (Instr.remu a).wf = true) : decode (encode (.remu a)) = .ok (.remu a) := by
  replace h : (a.wfW) = true := h
  have en : encode (.remu a) =
    (encAlu 0x21 a) := rfl
  simp only [encA, encAlu, hdr] at en
  simp only [Alu.wfW] at h
  rw [en]
  refine decode_of ((parse_21 (Hdr.ofBits_append _ _)).trans ?_) ?_
  · simp only [FA.ofBits_append, ofNat4]
    clear en
    (rcases a with ⟨gd, w, d, s1, src⟩) <;> (cases w <;> cases src) <;> ((try simp [FA.ok, FA.src, FA.srcFile, FA.srcValue, Hdr.size, Hdr.i, Src.i, Src.s2, Src.imm32, parseAlu] at h ⊢) <;> (try simp_all))
  · rw [Hdr.ofBits_append]; simp_all

theorem decode_encode_min (a : Alu) (h : (Instr.min a).wf = true) : decode (encode (.min a)) = .ok (.min a) := by
  replace h : (a.wfD) = true := h
  have en : encode (.min a) =
    (encAlu 0x24 a) := rfl
  simp only [encA, encAlu, hdr] at en
  simp only [Alu.wfD] at h
  rw [en]
  refine decode_of ((parse_24 (Hdr.ofBits_append _ _)).trans ?_) ?_
  · simp only [FA.ofBits_append, ofNat4]
    clear en
    (rcases a with ⟨gd, w, d, s1, src⟩) <;> (cases w <;> cases src) <;> ((try simp [FA.ok, FA.src, FA.srcFile, FA.srcValue, Hdr.size, Hdr.i, Src.i, Src.s2, Src.imm32, parseAlu] at h ⊢) <;> (try simp_all))
  · rw [Hdr.ofBits_append]; simp_all

theorem decode_encode_max (a : Alu) (h : (Instr.max a).wf = true) : decode (encode (.max a)) = .ok (.max a) := by
  replace h : (a.wfD) = true := h
  have en : encode (.max a) =
    (encAlu 0x25 a) := rfl
  simp only [encA, encAlu, hdr] at en
  simp only [Alu.wfD] at h
  rw [en]
  refine decode_of ((parse_25 (Hdr.ofBits_append _ _)).trans ?_) ?_
  · simp only [FA.ofBits_append, ofNat4]
    clear en
    (rcases a with ⟨gd, w, d, s1, src⟩) <;> (cases w <;> cases src) <;> ((try simp [FA.ok, FA.src, FA.srcFile, FA.srcValue, Hdr.size, Hdr.i, Src.i, Src.s2, Src.imm32, parseAlu] at h ⊢) <;> (try simp_all))
  · rw [Hdr.ofBits_append]; simp_all

theorem decode_encode_minu (a : Alu) (h : (Instr.minu a).wf = true) : decode (encode (.minu a)) = .ok (.minu a) := by
  replace h : (a.wfD) = true := h
  have en : encode (.minu a) =
    (encAlu 0x26 a) := rfl
  simp only [encA, encAlu, hdr] at en
  simp only [Alu.wfD] at h
  rw [en]
  refine decode_of ((parse_26 (Hdr.ofBits_append _ _)).trans ?_) ?_
  · simp only [FA.ofBits_append, ofNat4]
    clear en
    (rcases a with ⟨gd, w, d, s1, src⟩) <;> (cases w <;> cases src) <;> ((try simp [FA.ok, FA.src, FA.srcFile, FA.srcValue, Hdr.size, Hdr.i, Src.i, Src.s2, Src.imm32, parseAlu] at h ⊢) <;> (try simp_all))
  · rw [Hdr.ofBits_append]; simp_all

theorem decode_encode_maxu (a : Alu) (h : (Instr.maxu a).wf = true) : decode (encode (.maxu a)) = .ok (.maxu a) := by
  replace h : (a.wfD) = true := h
  have en : encode (.maxu a) =
    (encAlu 0x27 a) := rfl
  simp only [encA, encAlu, hdr] at en
  simp only [Alu.wfD] at h
  rw [en]
  refine decode_of ((parse_27 (Hdr.ofBits_append _ _)).trans ?_) ?_
  · simp only [FA.ofBits_append, ofNat4]
    clear en
    (rcases a with ⟨gd, w, d, s1, src⟩) <;> (cases w <;> cases src) <;> ((try simp [FA.ok, FA.src, FA.srcFile, FA.srcValue, Hdr.size, Hdr.i, Src.i, Src.s2, Src.imm32, parseAlu] at h ⊢) <;> (try simp_all))
  · rw [Hdr.ofBits_append]; simp_all

theorem decode_encode_clz (a : Un) (h : (Instr.clz a).wf = true) : decode (encode (.clz a)) = .ok (.clz a) := by
  replace h : (a.gd.wf) = true := h
  have en : encode (.clz a) =
    (encUn 0x28 a) := rfl
  simp only [encA, encUn, hdr] at en
  rw [en]
  refine decode_of ((parse_28 (Hdr.ofBits_append _ _)).trans ?_) ?_
  · simp only [FA.ofBits_append, ofNat4]
    clear en
    (rcases a with ⟨gd, w, d, s1⟩) <;> (cases w) <;> ((try simp [FA.ok, parseUn] at h ⊢) <;> (try simp_all))
  · rw [Hdr.ofBits_append]; simp_all

theorem decode_encode_ctz (a : Un) (h : (Instr.ctz a).wf = true) : decode (encode (.ctz a)) = .ok (.ctz a) := by
  replace h : (a.gd.wf) = true := h
  have en : encode (.ctz a) =
    (encUn 0x29 a) := rfl
  simp only [encA, encUn, hdr] at en
  rw [en]
  refine decode_of ((parse_29 (Hdr.ofBits_append _ _)).trans ?_) ?_
  · simp only [FA.ofBits_append, ofNat4]
    clear en
    (rcases a with ⟨gd, w, d, s1⟩) <;> (cases w) <;> ((try simp [FA.ok, parseUn] at h ⊢) <;> (try simp_all))
  · rw [Hdr.ofBits_append]; simp_all

theorem decode_encode_cpop (a : Un) (h : (Instr.cpop a).wf = true) : decode (encode (.cpop a)) = .ok (.cpop a) := by
  replace h : (a.gd.wf) = true := h
  have en : encode (.cpop a) =
    (encUn 0x2A a) := rfl
  simp only [encA, encUn, hdr] at en
  rw [en]
  refine decode_of ((parse_2A (Hdr.ofBits_append _ _)).trans ?_) ?_
  · simp only [FA.ofBits_append, ofNat4]
    clear en
    (rcases a with ⟨gd, w, d, s1⟩) <;> (cases w) <;> ((try simp [FA.ok, parseUn] at h ⊢) <;> (try simp_all))
  · rw [Hdr.ofBits_append]; simp_all

theorem decode_encode_li (gd : Guard) (d : Fin 32) (imm : Word) (h : (Instr.li gd d imm).wf = true) : decode (encode (.li gd d imm)) = .ok (.li gd d imm) := by
  replace h : (gd.wf) = true := h
  have en : encode (.li gd d imm) =
    (hdr 0x22 0 gd ++ FI.bits ⟨fld d, 0, imm⟩) := rfl
  simp only [hdr] at en
  rw [en]
  refine decode_of ((parse_22 (Hdr.ofBits_append _ _)).trans ?_) ?_
  · simp only [FI.ofBits_append, Hdr.guard_mk, ofNat4]
    clear en
    ((try simp [Hdr.i] at h ⊢) <;> (try simp_all))
  · rw [Hdr.ofBits_append]; simp_all

theorem decode_encode_addpc (gd : Guard) (d : Fin 32) (off : BitVec 32) (h : (Instr.addpc gd d off).wf = true) : decode (encode (.addpc gd d off)) = .ok (.addpc gd d off) := by
  replace h : (gd.wf) = true := h
  have en : encode (.addpc gd d off) =
    (encA 0x23 7 gd (fld d) 0 0 0 0 off) := rfl
  simp only [encA, hdr] at en
  rw [en]
  refine decode_of ((parse_23 (Hdr.ofBits_append _ _)).trans ?_) ?_
  · simp only [FA.ofBits_append, Hdr.guard_mk, ofNat4]
    clear en
    ((try simp [FA.ok] at h ⊢) <;> (try simp_all))
  · rw [Hdr.ofBits_append]; simp_all

theorem decode_encode_cmp (gd : Guard) (w : Bool) (c : Cond) (d : Fin 16) (s1 : Fin 32) (src : Src) (h : (Instr.cmp gd w c d s1 src).wf = true) : decode (encode (.cmp gd w c d s1 src)) = .ok (.cmp gd w c d s1 src) := by
  replace h : (gd.wf) = true := h
  have en : encode (.cmp gd w c d s1 src) =
    (encA 0x40 (src.i + if w then 2 else 3) gd (fld d) (fld s1) src.s2 0 c.code src.imm32) := rfl
  simp only [encA, hdr] at en
  rw [en]
  refine decode_of ((parse_40 (Hdr.ofBits_append _ _)).trans ?_) ?_
  · simp only [FA.ofBits_append, Hdr.guard_mk, ofNat4]
    clear en
    (cases w <;> cases c <;> cases src) <;> ((try simp [FA.ok, FA.src, FA.srcFile, FA.srcValue, Hdr.size, Hdr.i, Src.i, Src.s2, Src.imm32, Cond.code, Cond.ofCode] at h ⊢) <;> (try simp_all))
  · rw [Hdr.ofBits_append]; simp_all

theorem decode_encode_tst (gd : Guard) (z : Bool) (d : Fin 16) (s1 : Fin 32) (src : Src) (h : (Instr.tst gd z d s1 src).wf = true) : decode (encode (.tst gd z d s1 src)) = .ok (.tst gd z d s1 src) := by
  replace h : (gd.wf) = true := h
  have en : encode (.tst gd z d s1 src) =
    (encA 0x41 (src.i + 3) gd (fld d) (fld s1) src.s2 0 (if z then 1 else 0) src.imm32) := rfl
  simp only [encA, hdr] at en
  rw [en]
  refine decode_of ((parse_41 (Hdr.ofBits_append _ _)).trans ?_) ?_
  · simp only [FA.ofBits_append, Hdr.guard_mk, ofNat4]
    clear en
    (cases z <;> cases src) <;> ((try simp [FA.ok, FA.src, FA.srcFile, FA.srcValue, Hdr.size, Hdr.i, Src.i, Src.s2, Src.imm32] at h ⊢) <;> (try simp_all))
  · rw [Hdr.ofBits_append]; simp_all

theorem decode_encode_glog (gd : Guard) (d : Fin 16) (a : Fin 16) (b : Fin 16) (tbl : BitVec 4) (h : (Instr.glog gd d a b tbl).wf = true) : decode (encode (.glog gd d a b tbl)) = .ok (.glog gd d a b tbl) := by
  replace h : (gd.wf) = true := h
  have en : encode (.glog gd d a b tbl) =
    (encA 0x42 0 gd (fld d) (fld a) (fld b) 0 tbl.toNat 0) := rfl
  simp only [encA, hdr] at en
  rw [en]
  refine decode_of ((parse_42 (Hdr.ofBits_append _ _)).trans ?_) ?_
  · simp only [FA.ofBits_append, Hdr.guard_mk, ofNat4]
    clear en
    ((try simp [FA.ok] at h ⊢) <;> (try simp_all))
  · rw [Hdr.ofBits_append]; simp_all

theorem decode_encode_grd (gd : Guard) (d : Fin 32) (h : (Instr.grd gd d).wf = true) : decode (encode (.grd gd d)) = .ok (.grd gd d) := by
  replace h : (gd.wf) = true := h
  have en : encode (.grd gd d) =
    (encX 0x43 0 gd (fld d) 0 0) := rfl
  simp only [encA, encX, hdr] at en
  rw [en]
  refine decode_of ((parse_43 (Hdr.ofBits_append _ _)).trans ?_) ?_
  · simp only [FA.ofBits_append, Hdr.guard_mk, ofNat4]
    clear en
    ((try simp [FA.ok, parseX] at h ⊢) <;> (try simp_all))
  · rw [Hdr.ofBits_append]; simp_all

theorem decode_encode_gwr (gd : Guard) (s1 : Fin 32) (mask : BitVec 16) (h : (Instr.gwr gd s1 mask).wf = true) : decode (encode (.gwr gd s1 mask)) = .ok (.gwr gd s1 mask) := by
  replace h : (gd.wf && mask.toNat % 2 == 0) = true := h
  have en : encode (.gwr gd s1 mask) =
    (encA 0x44 0 gd 0 (fld s1) 0 0 0 (imm16 mask)) := rfl
  simp only [encA, hdr] at en
  rw [en]
  refine decode_of ((parse_44 (Hdr.ofBits_append _ _)).trans ?_) ?_
  · simp only [FA.ofBits_append, Hdr.guard_mk, ofNat4]
    clear en
    ((try simp [FA.ok] at h ⊢) <;> (try simp_all))
  · rw [Hdr.ofBits_append]; simp_all

theorem decode_encode_fork (gd : Guard) (s1 : Fin 32) (jr : Fin 32) (dom : Fin 8) (pri : Fin 4) (off : BitVec 40) (h : (Instr.fork gd s1 jr dom pri off).wf = true) : decode (encode (.fork gd s1 jr dom pri off)) = .ok (.fork gd s1 jr dom pri off) := by
  replace h : (gd.wf) = true := h
  have en : encode (.fork gd s1 jr dom pri off) =
    (encC 0x50 0 gd 0 (fld s1) 0 (forkFn 0 (fld jr) dom pri) off) := rfl
  simp only [encC, hdr] at en
  rw [en]
  refine decode_of ((parse_50 (Hdr.ofBits_append _ _)).trans ?_) ?_
  · simp only [FC.ofBits_append, Hdr.guard_mk, ofNat4]
    clear en
    (obtain ⟨a1, a2, a3, a4, a5, a6⟩ := fork_fields 0 (fld jr) dom pri; simp only [forkZero, a1, a2, a3, a4, a5, a6]; simp [FC.ok])
  · rw [Hdr.ofBits_append]; simp_all

theorem decode_encode_spawn (gd : Guard) (s1 : Fin 32) (t : Fin 32) (jr : Fin 32) (dom : Fin 8) (pri : Fin 4) (off : BitVec 40) (h : (Instr.spawn gd s1 t jr dom pri off).wf = true) : decode (encode (.spawn gd s1 t jr dom pri off)) = .ok (.spawn gd s1 t jr dom pri off) := by
  replace h : (gd.wf) = true := h
  have en : encode (.spawn gd s1 t jr dom pri off) =
    (encC 0x51 0 gd 0 (fld s1) 0 (forkFn (fld t) (fld jr) dom pri) off) := rfl
  simp only [encC, hdr] at en
  rw [en]
  refine decode_of ((parse_51 (Hdr.ofBits_append _ _)).trans ?_) ?_
  · simp only [FC.ofBits_append, Hdr.guard_mk, ofNat4]
    clear en
    (obtain ⟨a1, a2, a3, a4, a5, a6⟩ := fork_fields (fld t) (fld jr) dom pri; simp only [forkZero, a1, a2, a3, a4, a5, a6]; simp [FC.ok])
  · rw [Hdr.ofBits_append]; simp_all

theorem decode_encode_joindec (gd : Guard) (s1 : Fin 32) (h : (Instr.joindec gd s1).wf = true) : decode (encode (.joindec gd s1)) = .ok (.joindec gd s1) := by
  replace h : (gd.wf) = true := h
  have en : encode (.joindec gd s1) =
    (encX 0x52 0 gd 0 (fld s1) 0) := rfl
  simp only [encA, encX, hdr] at en
  rw [en]
  refine decode_of ((parse_52 (Hdr.ofBits_append _ _)).trans ?_) ?_
  · simp only [FA.ofBits_append, Hdr.guard_mk, ofNat4]
    clear en
    ((try simp [FA.ok, parseX] at h ⊢) <;> (try simp_all))
  · rw [Hdr.ofBits_append]; simp_all

theorem decode_encode_suspend (gd : Guard) (h : (Instr.suspend gd).wf = true) : decode (encode (.suspend gd)) = .ok (.suspend gd) := by
  replace h : (gd.wf) = true := h
  have en : encode (.suspend gd) =
    (encX 0x53 0 gd 0 0 0) := rfl
  simp only [encA, encX, hdr] at en
  rw [en]
  refine decode_of ((parse_53 (Hdr.ofBits_append _ _)).trans ?_) ?_
  · simp only [FA.ofBits_append, Hdr.guard_mk, ofNat4]
    clear en
    ((try simp [FA.ok, parseXv] at h ⊢) <;> (try simp_all))
  · rw [Hdr.ofBits_append]; simp_all

theorem decode_encode_suspendJ (gd : Guard) (s1 : Fin 32) (h : (Instr.suspendJ gd s1).wf = true) : decode (encode (.suspendJ gd s1)) = .ok (.suspendJ gd s1) := by
  replace h : (gd.wf) = true := h
  have en : encode (.suspendJ gd s1) =
    (encX 0x53 1 gd 0 (fld s1) 0) := rfl
  simp only [encA, encX, hdr] at en
  rw [en]
  refine decode_of ((parse_53 (Hdr.ofBits_append _ _)).trans ?_) ?_
  · simp only [FA.ofBits_append, Hdr.guard_mk, ofNat4]
    clear en
    ((try simp [FA.ok, parseXv] at h ⊢) <;> (try simp_all))
  · rw [Hdr.ofBits_append]; simp_all

theorem decode_encode_await (gd : Guard) (s1 : Fin 32) (h : (Instr.await gd s1).wf = true) : decode (encode (.await gd s1)) = .ok (.await gd s1) := by
  replace h : (gd.wf) = true := h
  have en : encode (.await gd s1) =
    (encX 0x54 0 gd 0 (fld s1) 0) := rfl
  simp only [encA, encX, hdr] at en
  rw [en]
  refine decode_of ((parse_54 (Hdr.ofBits_append _ _)).trans ?_) ?_
  · simp only [FA.ofBits_append, Hdr.guard_mk, ofNat4]
    clear en
    ((try simp [FA.ok, parseX] at h ⊢) <;> (try simp_all))
  · rw [Hdr.ofBits_append]; simp_all

theorem decode_encode_yield (gd : Guard) (h : (Instr.yield gd).wf = true) : decode (encode (.yield gd)) = .ok (.yield gd) := by
  replace h : (gd.wf) = true := h
  have en : encode (.yield gd) =
    (encX 0x55 0 gd 0 0 0) := rfl
  simp only [encA, encX, hdr] at en
  rw [en]
  refine decode_of ((parse_55 (Hdr.ofBits_append _ _)).trans ?_) ?_
  · simp only [FA.ofBits_append, Hdr.guard_mk, ofNat4]
    clear en
    ((try simp [FA.ok, parseX] at h ⊢) <;> (try simp_all))
  · rw [Hdr.ofBits_append]; simp_all

theorem decode_encode_exit (gd : Guard) (h : (Instr.exit gd).wf = true) : decode (encode (.exit gd)) = .ok (.exit gd) := by
  replace h : (gd.wf) = true := h
  have en : encode (.exit gd) =
    (encX 0x56 0 gd 0 0 0) := rfl
  simp only [encA, encX, hdr] at en
  rw [en]
  refine decode_of ((parse_56 (Hdr.ofBits_append _ _)).trans ?_) ?_
  · simp only [FA.ofBits_append, Hdr.guard_mk, ofNat4]
    clear en
    ((try simp [FA.ok, parseX] at h ⊢) <;> (try simp_all))
  · rw [Hdr.ofBits_append]; simp_all

theorem decode_encode_stealdom (gd : Guard) (src : Src) (h : (Instr.stealdom gd src).wf = true) : decode (encode (.stealdom gd src)) = .ok (.stealdom gd src) := by
  replace h : (gd.wf) = true := h
  have en : encode (.stealdom gd src) =
    (encA 0x57 src.i gd 0 0 src.s2 0 0 src.imm32) := rfl
  simp only [encA, hdr] at en
  rw [en]
  refine decode_of ((parse_57 (Hdr.ofBits_append _ _)).trans ?_) ?_
  · simp only [FA.ofBits_append, Hdr.guard_mk, ofNat4]
    clear en
    (cases src) <;> ((try simp [FA.ok, FA.src, FA.srcFile, FA.srcValue, Hdr.i, Src.i, Src.s2, Src.imm32] at h ⊢) <;> (try simp_all))
  · rw [Hdr.ofBits_append]; simp_all

theorem decode_encode_getid (gd : Guard) (d : Fin 32) (sel : Fin 9) (h : (Instr.getid gd d sel).wf = true) : decode (encode (.getid gd d sel)) = .ok (.getid gd d sel) := by
  replace h : (gd.wf) = true := h
  have en : encode (.getid gd d sel) =
    (encA 0x58 0 gd (fld d) 0 0 0 sel.val 0) := rfl
  simp only [encA, hdr] at en
  rw [en]
  refine decode_of ((parse_58 (Hdr.ofBits_append _ _)).trans ?_) ?_
  · simp only [FA.ofBits_append, Hdr.guard_mk, ofNat4]
    clear en
    ((try simp [FA.ok] at h ⊢) <;> (try simp_all))
  · rw [Hdr.ofBits_append]; simp_all

theorem decode_encode_waitevN (gd : Guard) (d : Fin 32) (src : Src) (h : (Instr.waitev gd d src (none : Option (Fin 32))).wf = true) : decode (encode (.waitev gd d src (none : Option (Fin 32)))) = .ok (.waitev gd d src (none : Option (Fin 32))) := by
  replace h : (gd.wf && src.wf16) = true := h
  have en : encode (.waitev gd d src (none : Option (Fin 32))) =
    (match (none : Option (Fin 32)) with
    | some r => encA 0x59 src.i gd (fld d) 0 src.s2 (fld r) 1 src.imm32
    | none => encA 0x59 src.i gd (fld d) 0 src.s2 0 0 src.imm32) := rfl
  simp only [encA, hdr] at en
  rw [en]
  refine decode_of ((parse_59 (Hdr.ofBits_append _ _)).trans ?_) ?_
  · simp only [FA.ofBits_append, Hdr.guard_mk, ofNat4]
    clear en
    (cases src) <;> ((try simp [FA.ok, FA.src, FA.srcFile, FA.srcValue, Hdr.i, Src.i, Src.s2, Src.imm32, Src.wf16] at h ⊢) <;> (try simp_all))
  · rw [Hdr.ofBits_append]; simp_all

theorem decode_encode_waitevS (gd : Guard) (d : Fin 32) (src : Src) (watch : Fin 32) (h : (Instr.waitev gd d src (some watch : Option (Fin 32))).wf = true) : decode (encode (.waitev gd d src (some watch : Option (Fin 32)))) = .ok (.waitev gd d src (some watch : Option (Fin 32))) := by
  replace h : (gd.wf && src.wf16) = true := h
  have en : encode (.waitev gd d src (some watch : Option (Fin 32))) =
    (match (some watch : Option (Fin 32)) with
    | some r => encA 0x59 src.i gd (fld d) 0 src.s2 (fld r) 1 src.imm32
    | none => encA 0x59 src.i gd (fld d) 0 src.s2 0 0 src.imm32) := rfl
  simp only [encA, hdr] at en
  rw [en]
  refine decode_of ((parse_59 (Hdr.ofBits_append _ _)).trans ?_) ?_
  · simp only [FA.ofBits_append, Hdr.guard_mk, ofNat4]
    clear en
    (cases src) <;> ((try simp [FA.ok, FA.src, FA.srcFile, FA.srcValue, Hdr.i, Src.i, Src.s2, Src.imm32, Src.wf16] at h ⊢) <;> (try simp_all))
  · rw [Hdr.ofBits_append]; simp_all

theorem decode_encode_waitev (gd : Guard) (d : Fin 32) (src : Src) (watch : Option (Fin 32)) (h : (Instr.waitev gd d src watch).wf = true) : decode (encode (.waitev gd d src watch)) = .ok (.waitev gd d src watch) := by
  rcases watch with _ | watch
  · exact decode_encode_waitevN _ _ _ h
  · exact decode_encode_waitevS _ _ _ _ h

theorem decode_encode_sigev (gd : Guard) (s1 : Fin 32) (s2 : Fin 32) (h : (Instr.sigev gd s1 s2).wf = true) : decode (encode (.sigev gd s1 s2)) = .ok (.sigev gd s1 s2) := by
  replace h : (gd.wf) = true := h
  have en : encode (.sigev gd s1 s2) =
    (encX 0x5A 0 gd 0 (fld s1) (fld s2)) := rfl
  simp only [encA, encX, hdr] at en
  rw [en]
  refine decode_of ((parse_5A (Hdr.ofBits_append _ _)).trans ?_) ?_
  · simp only [FA.ofBits_append, Hdr.guard_mk, ofNat4]
    clear en
    ((try simp [FA.ok, parseX] at h ⊢) <;> (try simp_all))
  · rw [Hdr.ofBits_append]; simp_all

theorem decode_encode_ld (a : MemForm) (h : (Instr.ld a).wf = true) : decode (encode (.ld a)) = .ok (.ld a) := by
  replace h : (a.wfAny) = true := h
  have en : encode (.ld a) =
    (encLoad 0x60 a) := rfl
  simp only [encA, encLoad, hdr] at en
  simp only [MemForm.wfAny] at h
  rw [en]
  refine decode_of ((parse_60 (Hdr.ofBits_append _ _)).trans ?_) ?_
  · simp only [FA.ofBits_append, ofNat4]
    clear en
    (rcases a with ⟨gd, size, r, base, off⟩) <;> (rcases size with ⟨_ | _ | _ | _ | _, hsize⟩ <;> try omega) <;> (cases off) <;> ((try simp [FA.ok, FA.src, FA.srcFile, FA.srcValue, Hdr.size, Hdr.i, Src.i, Src.s2, Src.imm32, parseLoad] at h ⊢) <;> (try simp_all) <;> (try rfl))
  · rw [Hdr.ofBits_append]; simp_all

theorem decode_encode_ldu (a : MemForm) (h : (Instr.ldu a).wf = true) : decode (encode (.ldu a)) = .ok (.ldu a) := by
  replace h : (a.wfU) = true := h
  have en : encode (.ldu a) =
    (encLoad 0x61 a) := rfl
  simp only [encA, encLoad, hdr] at en
  simp only [MemForm.wfU] at h
  rw [en]
  refine decode_of ((parse_61 (Hdr.ofBits_append _ _)).trans ?_) ?_
  · simp only [FA.ofBits_append, ofNat4]
    clear en
    (rcases a with ⟨gd, size, r, base, off⟩) <;> (rcases size with ⟨_ | _ | _ | _ | _, hsize⟩ <;> try omega) <;> (cases off) <;> ((try simp [FA.ok, FA.src, FA.srcFile, FA.srcValue, Hdr.size, Hdr.i, Src.i, Src.s2, Src.imm32, parseLoad] at h ⊢) <;> (try simp_all) <;> (try rfl))
  · rw [Hdr.ofBits_append]; simp_all

theorem decode_encode_st (a : MemForm) (h : (Instr.st a).wf = true) : decode (encode (.st a)) = .ok (.st a) := by
  replace h : (a.wfAny) = true := h
  have en : encode (.st a) =
    (encStore 0x62 a) := rfl
  simp only [encA, encStore, hdr] at en
  simp only [MemForm.wfAny] at h
  rw [en]
  refine decode_of ((parse_62 (Hdr.ofBits_append _ _)).trans ?_) ?_
  · simp only [FA.ofBits_append, ofNat4]
    clear en
    (rcases a with ⟨gd, size, r, base, off⟩) <;> (rcases size with ⟨_ | _ | _ | _ | _, hsize⟩ <;> try omega) <;> (cases off) <;> ((try simp [FA.ok, FA.src, FA.srcFile, FA.srcValue, Hdr.size, Hdr.i, Src.i, Src.s2, Src.imm32, parseStore] at h ⊢) <;> (try simp_all) <;> (try rfl))
  · rw [Hdr.ofBits_append]; simp_all

theorem decode_encode_ldAcq (a : MemForm) (h : (Instr.ldAcq a).wf = true) : decode (encode (.ldAcq a)) = .ok (.ldAcq a) := by
  replace h : (a.wfAny) = true := h
  have en : encode (.ldAcq a) =
    (encLoad 0x63 a) := rfl
  simp only [encA, encLoad, hdr] at en
  simp only [MemForm.wfAny] at h
  rw [en]
  refine decode_of ((parse_63 (Hdr.ofBits_append _ _)).trans ?_) ?_
  · simp only [FA.ofBits_append, ofNat4]
    clear en
    (rcases a with ⟨gd, size, r, base, off⟩) <;> (rcases size with ⟨_ | _ | _ | _ | _, hsize⟩ <;> try omega) <;> (cases off) <;> ((try simp [FA.ok, FA.src, FA.srcFile, FA.srcValue, Hdr.size, Hdr.i, Src.i, Src.s2, Src.imm32, parseLoad] at h ⊢) <;> (try simp_all) <;> (try rfl))
  · rw [Hdr.ofBits_append]; simp_all

theorem decode_encode_stRel (a : MemForm) (h : (Instr.stRel a).wf = true) : decode (encode (.stRel a)) = .ok (.stRel a) := by
  replace h : (a.wfAny) = true := h
  have en : encode (.stRel a) =
    (encStore 0x64 a) := rfl
  simp only [encA, encStore, hdr] at en
  simp only [MemForm.wfAny] at h
  rw [en]
  refine decode_of ((parse_64 (Hdr.ofBits_append _ _)).trans ?_) ?_
  · simp only [FA.ofBits_append, ofNat4]
    clear en
    (rcases a with ⟨gd, size, r, base, off⟩) <;> (rcases size with ⟨_ | _ | _ | _ | _, hsize⟩ <;> try omega) <;> (cases off) <;> ((try simp [FA.ok, FA.src, FA.srcFile, FA.srcValue, Hdr.size, Hdr.i, Src.i, Src.s2, Src.imm32, parseStore] at h ⊢) <;> (try simp_all) <;> (try rfl))
  · rw [Hdr.ofBits_append]; simp_all

theorem decode_encode_ldw (a : MemForm) (h : (Instr.ldw a).wf = true) : decode (encode (.ldw a)) = .ok (.ldw a) := by
  replace h : (a.wfSync) = true := h
  have en : encode (.ldw a) =
    (encLoad 0x65 a) := rfl
  simp only [encA, encLoad, hdr] at en
  simp only [MemForm.wfSync] at h
  rw [en]
  refine decode_of ((parse_65 (Hdr.ofBits_append _ _)).trans ?_) ?_
  · simp only [FA.ofBits_append, ofNat4]
    clear en
    (rcases a with ⟨gd, size, r, base, off⟩) <;> (rcases size with ⟨_ | _ | _ | _ | _, hsize⟩ <;> try omega) <;> (cases off) <;> ((try simp [FA.ok, FA.src, FA.srcFile, FA.srcValue, Hdr.size, Hdr.i, Src.i, Src.s2, Src.imm32, parseLoad] at h ⊢) <;> (try simp_all))
  · rw [Hdr.ofBits_append]; simp_all

theorem decode_encode_ldt (a : MemForm) (h : (Instr.ldt a).wf = true) : decode (encode (.ldt a)) = .ok (.ldt a) := by
  replace h : (a.wfSync) = true := h
  have en : encode (.ldt a) =
    (encLoad 0x66 a) := rfl
  simp only [encA, encLoad, hdr] at en
  simp only [MemForm.wfSync] at h
  rw [en]
  refine decode_of ((parse_66 (Hdr.ofBits_append _ _)).trans ?_) ?_
  · simp only [FA.ofBits_append, ofNat4]
    clear en
    (rcases a with ⟨gd, size, r, base, off⟩) <;> (rcases size with ⟨_ | _ | _ | _ | _, hsize⟩ <;> try omega) <;> (cases off) <;> ((try simp [FA.ok, FA.src, FA.srcFile, FA.srcValue, Hdr.size, Hdr.i, Src.i, Src.s2, Src.imm32, parseLoad] at h ⊢) <;> (try simp_all))
  · rw [Hdr.ofBits_append]; simp_all

theorem decode_encode_stf (a : MemForm) (h : (Instr.stf a).wf = true) : decode (encode (.stf a)) = .ok (.stf a) := by
  replace h : (a.wfSync) = true := h
  have en : encode (.stf a) =
    (encStore 0x67 a) := rfl
  simp only [encA, encStore, hdr] at en
  simp only [MemForm.wfSync] at h
  rw [en]
  refine decode_of ((parse_67 (Hdr.ofBits_append _ _)).trans ?_) ?_
  · simp only [FA.ofBits_append, ofNat4]
    clear en
    (rcases a with ⟨gd, size, r, base, off⟩) <;> (rcases size with ⟨_ | _ | _ | _ | _, hsize⟩ <;> try omega) <;> (cases off) <;> ((try simp [FA.ok, FA.src, FA.srcFile, FA.srcValue, Hdr.size, Hdr.i, Src.i, Src.s2, Src.imm32, parseStore] at h ⊢) <;> (try simp_all))
  · rw [Hdr.ofBits_append]; simp_all

theorem decode_encode_stw (a : MemForm) (h : (Instr.stw a).wf = true) : decode (encode (.stw a)) = .ok (.stw a) := by
  replace h : (a.wfSync) = true := h
  have en : encode (.stw a) =
    (encStore 0x68 a) := rfl
  simp only [encA, encStore, hdr] at en
  simp only [MemForm.wfSync] at h
  rw [en]
  refine decode_of ((parse_68 (Hdr.ofBits_append _ _)).trans ?_) ?_
  · simp only [FA.ofBits_append, ofNat4]
    clear en
    (rcases a with ⟨gd, size, r, base, off⟩) <;> (rcases size with ⟨_ | _ | _ | _ | _, hsize⟩ <;> try omega) <;> (cases off) <;> ((try simp [FA.ok, FA.src, FA.srcFile, FA.srcValue, Hdr.size, Hdr.i, Src.i, Src.s2, Src.imm32, parseStore] at h ⊢) <;> (try simp_all))
  · rw [Hdr.ofBits_append]; simp_all

theorem decode_encode_lrq (a : MemForm) (h : (Instr.lrq a).wf = true) : decode (encode (.lrq a)) = .ok (.lrq a) := by
  replace h : (a.wfSync) = true := h
  have en : encode (.lrq a) =
    (encLoad 0x69 a) := rfl
  simp only [encA, encLoad, hdr] at en
  simp only [MemForm.wfSync] at h
  rw [en]
  refine decode_of ((parse_69 (Hdr.ofBits_append _ _)).trans ?_) ?_
  · simp only [FA.ofBits_append, ofNat4]
    clear en
    (rcases a with ⟨gd, size, r, base, off⟩) <;> (rcases size with ⟨_ | _ | _ | _ | _, hsize⟩ <;> try omega) <;> (cases off) <;> ((try simp [FA.ok, FA.src, FA.srcFile, FA.srcValue, Hdr.size, Hdr.i, Src.i, Src.s2, Src.imm32, parseLoad] at h ⊢) <;> (try simp_all))
  · rw [Hdr.ofBits_append]; simp_all

theorem decode_encode_scq (a : MemForm) (h : (Instr.scq a).wf = true) : decode (encode (.scq a)) = .ok (.scq a) := by
  replace h : (a.wfSync) = true := h
  have en : encode (.scq a) =
    (encStore 0x6A a) := rfl
  simp only [encA, encStore, hdr] at en
  simp only [MemForm.wfSync] at h
  rw [en]
  refine decode_of ((parse_6A (Hdr.ofBits_append _ _)).trans ?_) ?_
  · simp only [FA.ofBits_append, ofNat4]
    clear en
    (rcases a with ⟨gd, size, r, base, off⟩) <;> (rcases size with ⟨_ | _ | _ | _ | _, hsize⟩ <;> try omega) <;> (cases off) <;> ((try simp [FA.ok, FA.src, FA.srcFile, FA.srcValue, Hdr.size, Hdr.i, Src.i, Src.s2, Src.imm32, parseStore] at h ⊢) <;> (try simp_all))
  · rw [Hdr.ofBits_append]; simp_all

theorem decode_encode_relq (a : MemForm) (h : (Instr.relq a).wf = true) : decode (encode (.relq a)) = .ok (.relq a) := by
  replace h : (a.wfRelq) = true := h
  have en : encode (.relq a) =
    (encStore 0x6B a) := rfl
  simp only [encA, encStore, hdr] at en
  simp only [MemForm.wfSync, MemForm.wfRelq] at h
  rw [en]
  refine decode_of ((parse_6B (Hdr.ofBits_append _ _)).trans ?_) ?_
  · simp only [FA.ofBits_append, Hdr.guard_mk, ofNat4]
    clear en
    (rcases a with ⟨gd, size, r, base, off⟩) <;> (rcases size with ⟨_ | _ | _ | _ | _, hsize⟩ <;> try omega) <;> (cases off) <;> ((try simp [FA.ok, FA.src, FA.srcFile, FA.srcValue, Hdr.size, Hdr.i, Src.i, Src.s2, Src.imm32] at h ⊢) <;> (try simp_all))
  · rw [Hdr.ofBits_append]; simp_all

theorem decode_encode_amo (gd : Guard) (w : Bool) (op : AmoOp) (aq : Bool) (rl : Bool) (d : Fin 32) (s1 : Fin 32) (src : Src) (s3 : Fin 32) (h : (Instr.amo gd w op aq rl d s1 src s3).wf = true) : decode (encode (.amo gd w op aq rl d s1 src s3)) = .ok (.amo gd w op aq rl d s1 src s3) := by
  replace h : (gd.wf && (!op.isFloat || w) && (op == .cas || s3 == 0)) = true := h
  have en : encode (.amo gd w op aq rl d s1 src s3) =
    (encA 0x6C (src.i + if w then 2 else 3) gd (fld d) (fld s1) src.s2 (fld s3)
      ((if aq then 128 else 0) + (if rl then 64 else 0) + op.code) src.imm32) := rfl
  simp only [encA, hdr] at en
  rw [en]
  refine decode_of ((parse_6C (Hdr.ofBits_append _ _)).trans ?_) ?_
  · simp only [FA.ofBits_append, Hdr.guard_mk, ofNat4]
    clear en
    (cases w <;> cases op <;> cases aq <;> cases rl <;> cases src) <;> ((try simp [FA.ok, FA.src, FA.srcFile, FA.srcValue, Hdr.size, Hdr.i, Src.i, Src.s2, Src.imm32, AmoOp.code, AmoOp.ofCode, AmoOp.isFloat] at h ⊢) <;> (try simp_all))
  · rw [Hdr.ofBits_append]; simp_all

theorem decode_encode_fence (gd : Guard) (h : (Instr.fence gd).wf = true) : decode (encode (.fence gd)) = .ok (.fence gd) := by
  replace h : (gd.wf) = true := h
  have en : encode (.fence gd) =
    (encX 0x6D 0 gd 0 0 0) := rfl
  simp only [encA, encX, hdr] at en
  rw [en]
  refine decode_of ((parse_6D (Hdr.ofBits_append _ _)).trans ?_) ?_
  · simp only [FA.ofBits_append, Hdr.guard_mk, ofNat4]
    clear en
    ((try simp [FA.ok, parseXv] at h ⊢) <;> (try simp_all))
  · rw [Hdr.ofBits_append]; simp_all

theorem decode_encode_fenceEng (gd : Guard) (h : (Instr.fenceEng gd).wf = true) : decode (encode (.fenceEng gd)) = .ok (.fenceEng gd) := by
  replace h : (gd.wf) = true := h
  have en : encode (.fenceEng gd) =
    (encX 0x6D 1 gd 0 0 0) := rfl
  simp only [encA, encX, hdr] at en
  rw [en]
  refine decode_of ((parse_6D (Hdr.ofBits_append _ _)).trans ?_) ?_
  · simp only [FA.ofBits_append, Hdr.guard_mk, ofNat4]
    clear en
    ((try simp [FA.ok, parseXv] at h ⊢) <;> (try simp_all))
  · rw [Hdr.ofBits_append]; simp_all

theorem decode_encode_fenceI (gd : Guard) (h : (Instr.fenceI gd).wf = true) : decode (encode (.fenceI gd)) = .ok (.fenceI gd) := by
  replace h : (gd.wf) = true := h
  have en : encode (.fenceI gd) =
    (encX 0x6D 2 gd 0 0 0) := rfl
  simp only [encA, encX, hdr] at en
  rw [en]
  refine decode_of ((parse_6D (Hdr.ofBits_append _ _)).trans ?_) ?_
  · simp only [FA.ofBits_append, Hdr.guard_mk, ofNat4]
    clear en
    ((try simp [FA.ok, parseXv] at h ⊢) <;> (try simp_all))
  · rw [Hdr.ofBits_append]; simp_all

theorem decode_encode_vadd (a : VBin) (h : (Instr.vadd a).wf = true) : decode (encode (.vadd a)) = .ok (.vadd a) := by
  replace h : (a.gd.wf) = true := h
  have en : encode (.vadd a) =
    (encVBin 0x80 a 0) := rfl
  simp only [encE, encVBin, hdr] at en
  rw [en]
  refine decode_of ((parse_80 (Hdr.ofBits_append _ _)).trans ?_) ?_
  · simp only [FE.ofBits_append, ofNat4]
    clear en
    (rcases a with ⟨gd, d, s1, src, mode⟩) <;> (cases src <;> cases mode) <;> ((try simp [FE.ok, FE.modeOnly, FE.mode, FE.vsrc, FE.vsrcFile, FE.vsrcValue, Hdr.vvar, VSrc.s2, VSrc.imm32, VSrc.var, parseVBin, RMode.code, RMode.ofCode] at h ⊢) <;> (try simp_all))
  · rw [Hdr.ofBits_append]; simp_all

theorem decode_encode_vsub (a : VBin) (h : (Instr.vsub a).wf = true) : decode (encode (.vsub a)) = .ok (.vsub a) := by
  replace h : (a.gd.wf) = true := h
  have en : encode (.vsub a) =
    (encVBin 0x81 a 0) := rfl
  simp only [encE, encVBin, hdr] at en
  rw [en]
  refine decode_of ((parse_81 (Hdr.ofBits_append _ _)).trans ?_) ?_
  · simp only [FE.ofBits_append, ofNat4]
    clear en
    (rcases a with ⟨gd, d, s1, src, mode⟩) <;> (cases src <;> cases mode) <;> ((try simp [FE.ok, FE.modeOnly, FE.mode, FE.vsrc, FE.vsrcFile, FE.vsrcValue, Hdr.vvar, VSrc.s2, VSrc.imm32, VSrc.var, parseVBin, RMode.code, RMode.ofCode] at h ⊢) <;> (try simp_all))
  · rw [Hdr.ofBits_append]; simp_all

theorem decode_encode_vmul (a : VBin) (h : (Instr.vmul a).wf = true) : decode (encode (.vmul a)) = .ok (.vmul a) := by
  replace h : (a.gd.wf) = true := h
  have en : encode (.vmul a) =
    (encVBin 0x82 a 0) := rfl
  simp only [encE, encVBin, hdr] at en
  rw [en]
  refine decode_of ((parse_82 (Hdr.ofBits_append _ _)).trans ?_) ?_
  · simp only [FE.ofBits_append, ofNat4]
    clear en
    (rcases a with ⟨gd, d, s1, src, mode⟩) <;> (cases src <;> cases mode) <;> ((try simp [FE.ok, FE.modeOnly, FE.mode, FE.vsrc, FE.vsrcFile, FE.vsrcValue, Hdr.vvar, VSrc.s2, VSrc.imm32, VSrc.var, parseVBin, RMode.code, RMode.ofCode] at h ⊢) <;> (try simp_all))
  · rw [Hdr.ofBits_append]; simp_all

theorem decode_encode_vfma (a : VBin) (s3 : Fin 16) (h : (Instr.vfma a s3).wf = true) : decode (encode (.vfma a s3)) = .ok (.vfma a s3) := by
  replace h : (a.gd.wf && a.src.noImm) = true := h
  have en : encode (.vfma a s3) =
    (encVBin 0x83 a (fld s3)) := rfl
  simp only [encE, encVBin, hdr] at en
  rw [en]
  refine decode_of ((parse_83 (Hdr.ofBits_append _ _)).trans ?_) ?_
  · simp only [FE.ofBits_append, Hdr.guard_mk, ofNat4]
    clear en
    (rcases a with ⟨gd, d, s1, src, mode⟩) <;> (cases src <;> cases mode) <;> ((try simp [FE.ok, FE.modeOnly, FE.mode, FE.vsrc, FE.vsrcFile, VSrc.s2, VSrc.imm32, VSrc.var, RMode.code, RMode.ofCode, VSrc.noImm] at h ⊢) <;> (try simp_all))
  · rw [Hdr.ofBits_append]; simp_all

theorem decode_encode_vmin (a : VBin) (h : (Instr.vmin a).wf = true) : decode (encode (.vmin a)) = .ok (.vmin a) := by
  replace h : (a.gd.wf) = true := h
  have en : encode (.vmin a) =
    (encVBin 0x84 a 0) := rfl
  simp only [encE, encVBin, hdr] at en
  rw [en]
  refine decode_of ((parse_84 (Hdr.ofBits_append _ _)).trans ?_) ?_
  · simp only [FE.ofBits_append, ofNat4]
    clear en
    (rcases a with ⟨gd, d, s1, src, mode⟩) <;> (cases src <;> cases mode) <;> ((try simp [FE.ok, FE.modeOnly, FE.mode, FE.vsrc, FE.vsrcFile, FE.vsrcValue, Hdr.vvar, VSrc.s2, VSrc.imm32, VSrc.var, parseVBin, RMode.code, RMode.ofCode] at h ⊢) <;> (try simp_all))
  · rw [Hdr.ofBits_append]; simp_all

theorem decode_encode_vmax (a : VBin) (h : (Instr.vmax a).wf = true) : decode (encode (.vmax a)) = .ok (.vmax a) := by
  replace h : (a.gd.wf) = true := h
  have en : encode (.vmax a) =
    (encVBin 0x85 a 0) := rfl
  simp only [encE, encVBin, hdr] at en
  rw [en]
  refine decode_of ((parse_85 (Hdr.ofBits_append _ _)).trans ?_) ?_
  · simp only [FE.ofBits_append, ofNat4]
    clear en
    (rcases a with ⟨gd, d, s1, src, mode⟩) <;> (cases src <;> cases mode) <;> ((try simp [FE.ok, FE.modeOnly, FE.mode, FE.vsrc, FE.vsrcFile, FE.vsrcValue, Hdr.vvar, VSrc.s2, VSrc.imm32, VSrc.var, parseVBin, RMode.code, RMode.ofCode] at h ⊢) <;> (try simp_all))
  · rw [Hdr.ofBits_append]; simp_all

theorem decode_encode_vabs (a : VUn) (h : (Instr.vabs a).wf = true) : decode (encode (.vabs a)) = .ok (.vabs a) := by
  replace h : (a.gd.wf) = true := h
  have en : encode (.vabs a) =
    (encVUn 0x86 a) := rfl
  simp only [encE, encVUn, hdr] at en
  rw [en]
  refine decode_of ((parse_86 (Hdr.ofBits_append _ _)).trans ?_) ?_
  · simp only [FE.ofBits_append, ofNat4]
    clear en
    (rcases a with ⟨gd, d, s1, mode⟩) <;> (cases mode) <;> ((try simp [FE.ok, FE.modeOnly, FE.mode, parseVUn, RMode.code, RMode.ofCode] at h ⊢) <;> (try simp_all))
  · rw [Hdr.ofBits_append]; simp_all

theorem decode_encode_vneg (a : VUn) (h : (Instr.vneg a).wf = true) : decode (encode (.vneg a)) = .ok (.vneg a) := by
  replace h : (a.gd.wf) = true := h
  have en : encode (.vneg a) =
    (encVUn 0x87 a) := rfl
  simp only [encE, encVUn, hdr] at en
  rw [en]
  refine decode_of ((parse_87 (Hdr.ofBits_append _ _)).trans ?_) ?_
  · simp only [FE.ofBits_append, ofNat4]
    clear en
    (rcases a with ⟨gd, d, s1, mode⟩) <;> (cases mode) <;> ((try simp [FE.ok, FE.modeOnly, FE.mode, parseVUn, RMode.code, RMode.ofCode] at h ⊢) <;> (try simp_all))
  · rw [Hdr.ofBits_append]; simp_all

theorem decode_encode_vand (gd : Guard) (d : Fin 16) (s1 : Fin 16) (src : VSrc) (h : (Instr.vand gd d s1 src).wf = true) : decode (encode (.vand gd d s1 src)) = .ok (.vand gd d s1 src) := by
  replace h : (gd.wf) = true := h
  have en : encode (.vand gd d s1 src) =
    (encVLogic 0x88 0 gd d s1 src) := rfl
  simp only [encE, encVLogic, hdr] at en
  rw [en]
  refine decode_of ((parse_88 (Hdr.ofBits_append _ _)).trans ?_) ?_
  · simp only [FE.ofBits_append, ofNat4]
    clear en
    (cases src) <;> ((try simp [FE.ok, FE.vsrc, FE.vsrcFile, FE.vsrcValue, Hdr.vvar, VSrc.s2, VSrc.imm32, VSrc.var, parseVLogic] at h ⊢) <;> (try simp_all))
  · rw [Hdr.ofBits_append]; simp_all

theorem decode_encode_vor (gd : Guard) (d : Fin 16) (s1 : Fin 16) (src : VSrc) (h : (Instr.vor gd d s1 src).wf = true) : decode (encode (.vor gd d s1 src)) = .ok (.vor gd d s1 src) := by
  replace h : (gd.wf) = true := h
  have en : encode (.vor gd d s1 src) =
    (encVLogic 0x89 0 gd d s1 src) := rfl
  simp only [encE, encVLogic, hdr] at en
  rw [en]
  refine decode_of ((parse_89 (Hdr.ofBits_append _ _)).trans ?_) ?_
  · simp only [FE.ofBits_append, ofNat4]
    clear en
    (cases src) <;> ((try simp [FE.ok, FE.vsrc, FE.vsrcFile, FE.vsrcValue, Hdr.vvar, VSrc.s2, VSrc.imm32, VSrc.var, parseVLogic] at h ⊢) <;> (try simp_all))
  · rw [Hdr.ofBits_append]; simp_all

theorem decode_encode_vxor (gd : Guard) (d : Fin 16) (s1 : Fin 16) (src : VSrc) (h : (Instr.vxor gd d s1 src).wf = true) : decode (encode (.vxor gd d s1 src)) = .ok (.vxor gd d s1 src) := by
  replace h : (gd.wf) = true := h
  have en : encode (.vxor gd d s1 src) =
    (encVLogic 0x8A 0 gd d s1 src) := rfl
  simp only [encE, encVLogic, hdr] at en
  rw [en]
  refine decode_of ((parse_8A (Hdr.ofBits_append _ _)).trans ?_) ?_
  · simp only [FE.ofBits_append, ofNat4]
    clear en
    (cases src) <;> ((try simp [FE.ok, FE.vsrc, FE.vsrcFile, FE.vsrcValue, Hdr.vvar, VSrc.s2, VSrc.imm32, VSrc.var, parseVLogic] at h ⊢) <;> (try simp_all))
  · rw [Hdr.ofBits_append]; simp_all

theorem decode_encode_vshl (gd : Guard) (d : Fin 16) (s1 : Fin 16) (src : VSrc) (h : (Instr.vshl gd d s1 src).wf = true) : decode (encode (.vshl gd d s1 src)) = .ok (.vshl gd d s1 src) := by
  replace h : (gd.wf) = true := h
  have en : encode (.vshl gd d s1 src) =
    (encVLogic 0x8B 0 gd d s1 src) := rfl
  simp only [encE, encVLogic, hdr] at en
  rw [en]
  refine decode_of ((parse_8B (Hdr.ofBits_append _ _)).trans ?_) ?_
  · simp only [FE.ofBits_append, ofNat4]
    clear en
    (cases src) <;> ((try simp [FE.ok, FE.vsrc, FE.vsrcFile, FE.vsrcValue, Hdr.vvar, VSrc.s2, VSrc.imm32, VSrc.var, parseVLogic] at h ⊢) <;> (try simp_all))
  · rw [Hdr.ofBits_append]; simp_all

theorem decode_encode_vshr (gd : Guard) (lgc : Bool) (d : Fin 16) (s1 : Fin 16) (src : VSrc) (h : (Instr.vshr gd lgc d s1 src).wf = true) : decode (encode (.vshr gd lgc d s1 src)) = .ok (.vshr gd lgc d s1 src) := by
  replace h : (gd.wf) = true := h
  have en : encode (.vshr gd lgc d s1 src) =
    (encVLogic 0x8C (if lgc then 256 else 0) gd d s1 src) := rfl
  simp only [encE, encVLogic, hdr] at en
  rw [en]
  refine decode_of ((parse_8C (Hdr.ofBits_append _ _)).trans ?_) ?_
  · simp only [FE.ofBits_append, Hdr.guard_mk, ofNat4]
    clear en
    (cases lgc <;> cases src) <;> ((try simp [FE.ok, FE.vsrc, FE.vsrcFile, FE.vsrcValue, Hdr.vvar, VSrc.s2, VSrc.imm32, VSrc.var] at h ⊢) <;> (try simp_all))
  · rw [Hdr.ofBits_append]; simp_all

theorem decode_encode_vcmp (gd : Guard) (c : VCond) (d : VCmpDst) (s1 : Fin 16) (src : VSrc) (h : (Instr.vcmp gd c d s1 src).wf = true) : decode (encode (.vcmp gd c d s1 src)) = .ok (.vcmp gd c d s1 src) := by
  replace h : (gd.wf) = true := h
  have en : encode (.vcmp gd c d s1 src) =
    (encE 0x90 src.var gd d.reg (fld s1) src.s2 0 0 0 (16 * c.code + 256 * d.kind) src.imm32) := rfl
  simp only [encE, hdr] at en
  rw [en]
  refine decode_of ((parse_90 (Hdr.ofBits_append _ _)).trans ?_) ?_
  · simp only [FE.ofBits_append, Hdr.guard_mk, ofNat4]
    clear en
    (cases c <;> cases d <;> cases src) <;> ((try simp [FE.ok, FE.vsrc, FE.vsrcFile, FE.vsrcValue, Hdr.vvar, VSrc.s2, VSrc.imm32, VSrc.var, VCond.code, VCond.ofCode, VCmpDst.kind, VCmpDst.reg] at h ⊢) <;> (try simp_all))
  · rw [Hdr.ofBits_append]; simp_all

theorem decode_encode_vsel (gd : Guard) (d : Fin 16) (s1 : Fin 16) (s2 : Fin 16) (s3 : Fin 16) (h : (Instr.vsel gd d s1 s2 s3).wf = true) : decode (encode (.vsel gd d s1 s2 s3)) = .ok (.vsel gd d s1 s2 s3) := by
  replace h : (gd.wf) = true := h
  have en : encode (.vsel gd d s1 s2 s3) =
    (encE 0x91 0 gd (fld d) (fld s1) (fld s2) (fld s3) 0 0 0 0) := rfl
  simp only [encE, hdr] at en
  rw [en]
  refine decode_of ((parse_91 (Hdr.ofBits_append _ _)).trans ?_) ?_
  · simp only [FE.ofBits_append, Hdr.guard_mk, ofNat4]
    clear en
    ((try simp [FE.ok] at h ⊢) <;> (try simp_all))
  · rw [Hdr.ofBits_append]; simp_all

theorem decode_encode_vperm (gd : Guard) (d : Fin 16) (s1 : Fin 16) (s2 : Fin 16) (h : (Instr.vperm gd d s1 s2).wf = true) : decode (encode (.vperm gd d s1 s2)) = .ok (.vperm gd d s1 s2) := by
  replace h : (gd.wf) = true := h
  have en : encode (.vperm gd d s1 s2) =
    (encE 0x92 0 gd (fld d) (fld s1) (fld s2) 0 0 0 0 0) := rfl
  simp only [encE, hdr] at en
  rw [en]
  refine decode_of ((parse_92 (Hdr.ofBits_append _ _)).trans ?_) ?_
  · simp only [FE.ofBits_append, Hdr.guard_mk, ofNat4]
    clear en
    ((try simp [FE.ok] at h ⊢) <;> (try simp_all))
  · rw [Hdr.ofBits_append]; simp_all

theorem decode_encode_vslide (gd : Guard) (d : Fin 16) (s1 : Fin 16) (src : Src) (h : (Instr.vslide gd d s1 src).wf = true) : decode (encode (.vslide gd d s1 src)) = .ok (.vslide gd d s1 src) := by
  replace h : (gd.wf) = true := h
  have en : encode (.vslide gd d s1 src) =
    (encE 0x94 src.xvar gd (fld d) (fld s1) src.s2 0 0 0 0 src.imm32) := rfl
  simp only [encE, hdr] at en
  rw [en]
  refine decode_of ((parse_94 (Hdr.ofBits_append _ _)).trans ?_) ?_
  · simp only [FE.ofBits_append, Hdr.guard_mk, ofNat4]
    clear en
    (cases src) <;> ((try simp [FE.ok, FE.vsrcFile, FE.vsrcValue, FE.xsrc, Hdr.xvar, Src.s2, Src.imm32, Src.xvar] at h ⊢) <;> (try simp_all))
  · rw [Hdr.ofBits_append]; simp_all

theorem decode_encode_vbcast (gd : Guard) (d : Fin 16) (src : Src) (mode : RMode) (h : (Instr.vbcast gd d src mode).wf = true) : decode (encode (.vbcast gd d src mode)) = .ok (.vbcast gd d src mode) := by
  replace h : (gd.wf) = true := h
  have en : encode (.vbcast gd d src mode) =
    (encE 0x93 src.xvar gd (fld d) 0 src.s2 0 0 0 mode.code src.imm32) := rfl
  simp only [encE, hdr] at en
  rw [en]
  refine decode_of ((parse_93 (Hdr.ofBits_append _ _)).trans ?_) ?_
  · simp only [FE.ofBits_append, Hdr.guard_mk, ofNat4]
    clear en
    (cases src <;> cases mode) <;> ((try simp [FE.ok, FE.modeOnly, FE.mode, FE.vsrcFile, FE.vsrcValue, FE.xsrc, Hdr.xvar, Src.s2, Src.imm32, Src.xvar, RMode.code, RMode.ofCode] at h ⊢) <;> (try simp_all))
  · rw [Hdr.ofBits_append]; simp_all

theorem decode_encode_vmovx (gd : Guard) (d : Fin 32) (s1 : Fin 16) (src : Src) (h : (Instr.vmovx gd d s1 src).wf = true) : decode (encode (.vmovx gd d s1 src)) = .ok (.vmovx gd d s1 src) := by
  replace h : (gd.wf) = true := h
  have en : encode (.vmovx gd d s1 src) =
    (encE 0x9B src.xvar gd (fld d) (fld s1) src.s2 0 0 0 0 src.imm32) := rfl
  simp only [encE, hdr] at en
  rw [en]
  refine decode_of ((parse_9B (Hdr.ofBits_append _ _)).trans ?_) ?_
  · simp only [FE.ofBits_append, Hdr.guard_mk, ofNat4]
    clear en
    (cases src) <;> ((try simp [FE.ok, FE.vsrcFile, FE.vsrcValue, FE.xsrc, Hdr.xvar, Src.s2, Src.imm32, Src.xvar] at h ⊢) <;> (try simp_all))
  · rw [Hdr.ofBits_append]; simp_all

theorem decode_encode_vins (gd : Guard) (d : Fin 16) (s1 : Fin 16) (src : Src) (s3 : Fin 32) (h : (Instr.vins gd d s1 src s3).wf = true) : decode (encode (.vins gd d s1 src s3)) = .ok (.vins gd d s1 src s3) := by
  replace h : (gd.wf) = true := h
  have en : encode (.vins gd d s1 src s3) =
    (encE 0x9C src.xvar gd (fld d) (fld s1) src.s2 (fld s3) 0 0 0 src.imm32) := rfl
  simp only [encE, hdr] at en
  rw [en]
  refine decode_of ((parse_9C (Hdr.ofBits_append _ _)).trans ?_) ?_
  · simp only [FE.ofBits_append, Hdr.guard_mk, ofNat4]
    clear en
    (cases src) <;> ((try simp [FE.ok, FE.vsrcFile, FE.vsrcValue, FE.xsrc, Hdr.xvar, Src.s2, Src.imm32, Src.xvar] at h ⊢) <;> (try simp_all))
  · rw [Hdr.ofBits_append]; simp_all

theorem decode_encode_vredVN (gd : Guard) (op : RedOp) (mode : RMode) (d : Fin 16) (s1 : Fin 16) (h : (Instr.vred gd op mode (RedDst.v d) s1 (none : Option (Fin 16))).wf = true) : decode (encode (.vred gd op mode (RedDst.v d) s1 (none : Option (Fin 16)))) = .ok (.vred gd op mode (RedDst.v d) s1 (none : Option (Fin 16))) := by
  replace h : (gd.wf && op.wf (RedDst.v d)) = true := h
  have en : encode (.vred gd op mode (RedDst.v d) s1 (none : Option (Fin 16))) =
    (encE 0x95 0 gd (match (RedDst.v d) with | .v r => fld r | .x r => fld r) (fld s1)
      (match (none : Option (Fin 16)) with | some r => fld r | none => 0) 0 0 0
      (mode.code + 16 * op.code + (match (RedDst.v d) with | .v _ => 0 | .x _ => 256) +
        (match (none : Option (Fin 16)) with | some _ => 512 | none => 0)) 0) := rfl
  simp only [encE, hdr] at en
  rw [en]
  refine decode_of ((parse_95 (Hdr.ofBits_append _ _)).trans ?_) ?_
  · simp only [FE.ofBits_append, Hdr.guard_mk, ofNat4]
    clear en
    (cases op <;> cases mode) <;> ((try simp [FE.ok, FE.mode, FE.badMode, RMode.code, RMode.ofCode, RedOp.code, RedOp.ofCode, RedOp.wf] at h ⊢) <;> (try simp_all))
  · rw [Hdr.ofBits_append]; simp_all

theorem decode_encode_vredVS (gd : Guard) (op : RedOp) (mode : RMode) (d : Fin 16) (s1 : Fin 16) (m : Fin 16) (h : (Instr.vred gd op mode (RedDst.v d) s1 (some m : Option (Fin 16))).wf = true) : decode (encode (.vred gd op mode (RedDst.v d) s1 (some m : Option (Fin 16)))) = .ok (.vred gd op mode (RedDst.v d) s1 (some m : Option (Fin 16))) := by
  replace h : (gd.wf && op.wf (RedDst.v d)) = true := h
  have en : encode (.vred gd op mode (RedDst.v d) s1 (some m : Option (Fin 16))) =
    (encE 0x95 0 gd (match (RedDst.v d) with | .v r => fld r | .x r => fld r) (fld s1)
      (match (some m : Option (Fin 16)) with | some r => fld r | none => 0) 0 0 0
      (mode.code + 16 * op.code + (match (RedDst.v d) with | .v _ => 0 | .x _ => 256) +
        (match (some m : Option (Fin 16)) with | some _ => 512 | none => 0)) 0) := rfl
  simp only [encE, hdr] at en
  rw [en]
  refine decode_of ((parse_95 (Hdr.ofBits_append _ _)).trans ?_) ?_
  · simp only [FE.ofBits_append, Hdr.guard_mk, ofNat4]
    clear en
    (cases op <;> cases mode) <;> ((try simp [FE.ok, FE.mode, FE.badMode, RMode.code, RMode.ofCode, RedOp.code, RedOp.ofCode, RedOp.wf] at h ⊢) <;> (try simp_all))
  · rw [Hdr.ofBits_append]; simp_all

theorem decode_encode_vredXN (gd : Guard) (op : RedOp) (mode : RMode) (d : Fin 32) (s1 : Fin 16) (h : (Instr.vred gd op mode (RedDst.x d) s1 (none : Option (Fin 16))).wf = true) : decode (encode (.vred gd op mode (RedDst.x d) s1 (none : Option (Fin 16)))) = .ok (.vred gd op mode (RedDst.x d) s1 (none : Option (Fin 16))) := by
  replace h : (gd.wf && op.wf (RedDst.x d)) = true := h
  have en : encode (.vred gd op mode (RedDst.x d) s1 (none : Option (Fin 16))) =
    (encE 0x95 0 gd (match (RedDst.x d) with | .v r => fld r | .x r => fld r) (fld s1)
      (match (none : Option (Fin 16)) with | some r => fld r | none => 0) 0 0 0
      (mode.code + 16 * op.code + (match (RedDst.x d) with | .v _ => 0 | .x _ => 256) +
        (match (none : Option (Fin 16)) with | some _ => 512 | none => 0)) 0) := rfl
  simp only [encE, hdr] at en
  rw [en]
  refine decode_of ((parse_95 (Hdr.ofBits_append _ _)).trans ?_) ?_
  · simp only [FE.ofBits_append, Hdr.guard_mk, ofNat4]
    clear en
    (cases op <;> cases mode) <;> ((try simp [FE.ok, FE.mode, FE.badMode, RMode.code, RMode.ofCode, RedOp.code, RedOp.ofCode, RedOp.wf] at h ⊢) <;> (try simp_all))
  · rw [Hdr.ofBits_append]; simp_all

theorem decode_encode_vredXS (gd : Guard) (op : RedOp) (mode : RMode) (d : Fin 32) (s1 : Fin 16) (m : Fin 16) (h : (Instr.vred gd op mode (RedDst.x d) s1 (some m : Option (Fin 16))).wf = true) : decode (encode (.vred gd op mode (RedDst.x d) s1 (some m : Option (Fin 16)))) = .ok (.vred gd op mode (RedDst.x d) s1 (some m : Option (Fin 16))) := by
  replace h : (gd.wf && op.wf (RedDst.x d)) = true := h
  have en : encode (.vred gd op mode (RedDst.x d) s1 (some m : Option (Fin 16))) =
    (encE 0x95 0 gd (match (RedDst.x d) with | .v r => fld r | .x r => fld r) (fld s1)
      (match (some m : Option (Fin 16)) with | some r => fld r | none => 0) 0 0 0
      (mode.code + 16 * op.code + (match (RedDst.x d) with | .v _ => 0 | .x _ => 256) +
        (match (some m : Option (Fin 16)) with | some _ => 512 | none => 0)) 0) := rfl
  simp only [encE, hdr] at en
  rw [en]
  refine decode_of ((parse_95 (Hdr.ofBits_append _ _)).trans ?_) ?_
  · simp only [FE.ofBits_append, Hdr.guard_mk, ofNat4]
    clear en
    (cases op <;> cases mode) <;> ((try simp [FE.ok, FE.mode, FE.badMode, RMode.code, RMode.ofCode, RedOp.code, RedOp.ofCode, RedOp.wf] at h ⊢) <;> (try simp_all))
  · rw [Hdr.ofBits_append]; simp_all

theorem decode_encode_vred (gd : Guard) (op : RedOp) (mode : RMode) (d : RedDst) (s1 : Fin 16) (m : Option (Fin 16)) (h : (Instr.vred gd op mode d s1 m).wf = true) : decode (encode (.vred gd op mode d s1 m)) = .ok (.vred gd op mode d s1 m) := by
  rcases d with d | d <;> rcases m with _ | m
  · exact decode_encode_vredVN _ _ _ _ _ h
  · exact decode_encode_vredVS _ _ _ _ _ _ h
  · exact decode_encode_vredXN _ _ _ _ _ h
  · exact decode_encode_vredXS _ _ _ _ _ _ h

theorem decode_encode_vsettag (gd : Guard) (d : Fin 16) (s1 : Fin 16) (src : Src) (h : (Instr.vsettag gd d s1 src).wf = true) : decode (encode (.vsettag gd d s1 src)) = .ok (.vsettag gd d s1 src) := by
  replace h : (gd.wf && src.wf16) = true := h
  have en : encode (.vsettag gd d s1 src) =
    (encE 0x99 src.xvar gd (fld d) (fld s1) src.s2 0 0 0 0 src.imm32) := rfl
  simp only [encE, hdr] at en
  rw [en]
  refine decode_of ((parse_99 (Hdr.ofBits_append _ _)).trans ?_) ?_
  · simp only [FE.ofBits_append, Hdr.guard_mk, ofNat4]
    clear en
    (cases src) <;> ((try simp [FE.ok, FE.vsrcFile, FE.vsrcValue, FE.xsrc, Hdr.xvar, Src.s2, Src.imm32, Src.xvar, Src.wf16] at h ⊢) <;> (try simp_all))
  · rw [Hdr.ofBits_append]; simp_all

theorem decode_encode_vgettag (gd : Guard) (d : Fin 32) (s1 : Fin 16) (h : (Instr.vgettag gd d s1).wf = true) : decode (encode (.vgettag gd d s1)) = .ok (.vgettag gd d s1) := by
  replace h : (gd.wf) = true := h
  have en : encode (.vgettag gd d s1) =
    (encE 0x9A 0 gd (fld d) (fld s1) 0 0 0 0 0 0) := rfl
  simp only [encE, hdr] at en
  rw [en]
  refine decode_of ((parse_9A (Hdr.ofBits_append _ _)).trans ?_) ?_
  · simp only [FE.ofBits_append, Hdr.guard_mk, ofNat4]
    clear en
    ((try simp [FE.ok] at h ⊢) <;> (try simp_all))
  · rw [Hdr.ofBits_append]; simp_all

theorem decode_encode_vcvt (gd : Guard) (mode : RMode) (part : Fin 4) (d : Fin 16) (s1 : Fin 16) (tag : Tag) (h : (Instr.vcvt gd mode part d s1 tag).wf = true) : decode (encode (.vcvt gd mode part d s1 tag)) = .ok (.vcvt gd mode part d s1 tag) := by
  replace h : (gd.wf) = true := h
  have en : encode (.vcvt gd mode part d s1 tag) =
    (encE 0x96 0 gd (fld d) (fld s1) 0 0 0 0 (mode.code + 256 * part.val) (imm16 tag)) := rfl
  simp only [encE, hdr] at en
  rw [en]
  refine decode_of ((parse_96 (Hdr.ofBits_append _ _)).trans ?_) ?_
  · simp only [FE.ofBits_append, Hdr.guard_mk, ofNat4]
    clear en
    (rcases part with ⟨_ | _ | _ | _ | _, hpart⟩ <;> try omega) <;> (cases mode) <;> ((try simp [FE.ok, FE.mode, FE.badMode, RMode.code, RMode.ofCode] at h ⊢) <;> (try simp_all) <;> (try rfl))
  · rw [Hdr.ofBits_append]; simp_all

theorem decode_encode_vqnt (gd : Guard) (mode : RMode) (d : Fin 16) (s1 : Fin 16) (s3 : Fin 32) (tag : Tag) (h : (Instr.vqnt gd mode d s1 s3 tag).wf = true) : decode (encode (.vqnt gd mode d s1 s3 tag)) = .ok (.vqnt gd mode d s1 s3 tag) := by
  replace h : (gd.wf) = true := h
  have en : encode (.vqnt gd mode d s1 s3 tag) =
    (encE 0x97 0 gd (fld d) (fld s1) 0 (fld s3) 0 0 mode.code (imm16 tag)) := rfl
  simp only [encE, hdr] at en
  rw [en]
  refine decode_of ((parse_97 (Hdr.ofBits_append _ _)).trans ?_) ?_
  · simp only [FE.ofBits_append, Hdr.guard_mk, ofNat4]
    clear en
    (cases mode) <;> ((try simp [FE.ok, FE.modeOnly, FE.mode, RMode.code, RMode.ofCode] at h ⊢) <;> (try simp_all))
  · rw [Hdr.ofBits_append]; simp_all

theorem decode_encode_vdqnt (gd : Guard) (mode : RMode) (d : Fin 16) (s1 : Fin 16) (s2 : Fin 32) (tag : Tag) (h : (Instr.vdqnt gd mode d s1 s2 tag).wf = true) : decode (encode (.vdqnt gd mode d s1 s2 tag)) = .ok (.vdqnt gd mode d s1 s2 tag) := by
  replace h : (gd.wf) = true := h
  have en : encode (.vdqnt gd mode d s1 s2 tag) =
    (encE 0x98 0 gd (fld d) (fld s1) (fld s2) 0 0 0 mode.code (imm16 tag)) := rfl
  simp only [encE, hdr] at en
  rw [en]
  refine decode_of ((parse_98 (Hdr.ofBits_append _ _)).trans ?_) ?_
  · simp only [FE.ofBits_append, Hdr.guard_mk, ofNat4]
    clear en
    (cases mode) <;> ((try simp [FE.ok, FE.modeOnly, FE.mode, RMode.code, RMode.ofCode] at h ⊢) <;> (try simp_all))
  · rw [Hdr.ofBits_append]; simp_all

theorem decode_encode_vld (gd : Guard) (d : Fin 16) (s1 : Fin 32) (off : BitVec 32) (tag : Tag) (h : (Instr.vld gd d s1 off tag).wf = true) : decode (encode (.vld gd d s1 off tag)) = .ok (.vld gd d s1 off tag) := by
  replace h : (gd.wf) = true := h
  have en : encode (.vld gd d s1 off tag) =
    (encE 0xA0 0 gd (fld d) (fld s1) 0 0 0 0 tag.toNat off) := rfl
  simp only [encE, hdr] at en
  rw [en]
  refine decode_of ((parse_A0 (Hdr.ofBits_append _ _)).trans ?_) ?_
  · simp only [FE.ofBits_append, Hdr.guard_mk, ofNat4]
    clear en
    ((try simp [FE.ok] at h ⊢) <;> (try simp_all))
  · rw [Hdr.ofBits_append]; simp_all

theorem decode_encode_vst (gd : Guard) (s3 : Fin 16) (s1 : Fin 32) (off : BitVec 32) (h : (Instr.vst gd s3 s1 off).wf = true) : decode (encode (.vst gd s3 s1 off)) = .ok (.vst gd s3 s1 off) := by
  replace h : (gd.wf) = true := h
  have en : encode (.vst gd s3 s1 off) =
    (encE 0xA1 0 gd 0 (fld s1) 0 (fld s3) 0 0 0 off) := rfl
  simp only [encE, hdr] at en
  rw [en]
  refine decode_of ((parse_A1 (Hdr.ofBits_append _ _)).trans ?_) ?_
  · simp only [FE.ofBits_append, Hdr.guard_mk, ofNat4]
    clear en
    ((try simp [FE.ok] at h ⊢) <;> (try simp_all))
  · rw [Hdr.ofBits_append]; simp_all

theorem decode_encode_vlds (gd : Guard) (d : Fin 16) (s1 : Fin 32) (s2 : Fin 32) (tag : Tag) (h : (Instr.vlds gd d s1 s2 tag).wf = true) : decode (encode (.vlds gd d s1 s2 tag)) = .ok (.vlds gd d s1 s2 tag) := by
  replace h : (gd.wf) = true := h
  have en : encode (.vlds gd d s1 s2 tag) =
    (encE 0xA2 0 gd (fld d) (fld s1) (fld s2) 0 0 0 tag.toNat 0) := rfl
  simp only [encE, hdr] at en
  rw [en]
  refine decode_of ((parse_A2 (Hdr.ofBits_append _ _)).trans ?_) ?_
  · simp only [FE.ofBits_append, Hdr.guard_mk, ofNat4]
    clear en
    ((try simp [FE.ok] at h ⊢) <;> (try simp_all))
  · rw [Hdr.ofBits_append]; simp_all

theorem decode_encode_vsts (gd : Guard) (s3 : Fin 16) (s1 : Fin 32) (s2 : Fin 32) (h : (Instr.vsts gd s3 s1 s2).wf = true) : decode (encode (.vsts gd s3 s1 s2)) = .ok (.vsts gd s3 s1 s2) := by
  replace h : (gd.wf) = true := h
  have en : encode (.vsts gd s3 s1 s2) =
    (encE 0xA3 0 gd 0 (fld s1) (fld s2) (fld s3) 0 0 0 0) := rfl
  simp only [encE, hdr] at en
  rw [en]
  refine decode_of ((parse_A3 (Hdr.ofBits_append _ _)).trans ?_) ?_
  · simp only [FE.ofBits_append, Hdr.guard_mk, ofNat4]
    clear en
    ((try simp [FE.ok] at h ⊢) <;> (try simp_all))
  · rw [Hdr.ofBits_append]; simp_all

theorem decode_encode_vldx (gd : Guard) (d : Fin 16) (s1 : Fin 32) (s2 : Fin 16) (tag : Tag) (h : (Instr.vldx gd d s1 s2 tag).wf = true) : decode (encode (.vldx gd d s1 s2 tag)) = .ok (.vldx gd d s1 s2 tag) := by
  replace h : (gd.wf) = true := h
  have en : encode (.vldx gd d s1 s2 tag) =
    (encE 0xA4 0 gd (fld d) (fld s1) (fld s2) 0 0 0 tag.toNat 0) := rfl
  simp only [encE, hdr] at en
  rw [en]
  refine decode_of ((parse_A4 (Hdr.ofBits_append _ _)).trans ?_) ?_
  · simp only [FE.ofBits_append, Hdr.guard_mk, ofNat4]
    clear en
    ((try simp [FE.ok] at h ⊢) <;> (try simp_all))
  · rw [Hdr.ofBits_append]; simp_all

theorem decode_encode_vstx (gd : Guard) (s3 : Fin 16) (s1 : Fin 32) (s2 : Fin 16) (h : (Instr.vstx gd s3 s1 s2).wf = true) : decode (encode (.vstx gd s3 s1 s2)) = .ok (.vstx gd s3 s1 s2) := by
  replace h : (gd.wf) = true := h
  have en : encode (.vstx gd s3 s1 s2) =
    (encE 0xA5 0 gd 0 (fld s1) (fld s2) (fld s3) 0 0 0 0) := rfl
  simp only [encE, hdr] at en
  rw [en]
  refine decode_of ((parse_A5 (Hdr.ofBits_append _ _)).trans ?_) ?_
  · simp only [FE.ofBits_append, Hdr.guard_mk, ofNat4]
    clear en
    ((try simp [FE.ok] at h ⊢) <;> (try simp_all))
  · rw [Hdr.ofBits_append]; simp_all

theorem decode_encode_qbind (gd : Guard) (d : Fin 32) (s1 : Fin 32) (s2 : Fin 32) (h : (Instr.qbind gd d s1 s2).wf = true) : decode (encode (.qbind gd d s1 s2)) = .ok (.qbind gd d s1 s2) := by
  replace h : (gd.wf) = true := h
  have en : encode (.qbind gd d s1 s2) =
    (encX 0xB0 0 gd (fld d) (fld s1) (fld s2)) := rfl
  simp only [encA, encX, hdr] at en
  rw [en]
  refine decode_of ((parse_B0 (Hdr.ofBits_append _ _)).trans ?_) ?_
  · simp only [FA.ofBits_append, Hdr.guard_mk, ofNat4]
    clear en
    ((try simp [FA.ok, parseX] at h ⊢) <;> (try simp_all))
  · rw [Hdr.ofBits_append]; simp_all

theorem decode_encode_qfree (gd : Guard) (d : Fin 32) (h : (Instr.qfree gd d).wf = true) : decode (encode (.qfree gd d)) = .ok (.qfree gd d) := by
  replace h : (gd.wf) = true := h
  have en : encode (.qfree gd d) =
    (encX 0xB1 0 gd (fld d) 0 0) := rfl
  simp only [encA, encX, hdr] at en
  rw [en]
  refine decode_of ((parse_B1 (Hdr.ofBits_append _ _)).trans ?_) ?_
  · simp only [FA.ofBits_append, Hdr.guard_mk, ofNat4]
    clear en
    ((try simp [FA.ok, parseX] at h ⊢) <;> (try simp_all))
  · rw [Hdr.ofBits_append]; simp_all

theorem decode_encode_qstat (gd : Guard) (d : Fin 32) (s1 : Fin 32) (h : (Instr.qstat gd d s1).wf = true) : decode (encode (.qstat gd d s1)) = .ok (.qstat gd d s1) := by
  replace h : (gd.wf) = true := h
  have en : encode (.qstat gd d s1) =
    (encX 0xB2 0 gd (fld d) (fld s1) 0) := rfl
  simp only [encA, encX, hdr] at en
  rw [en]
  refine decode_of ((parse_B2 (Hdr.ofBits_append _ _)).trans ?_) ?_
  · simp only [FA.ofBits_append, Hdr.guard_mk, ofNat4]
    clear en
    ((try simp [FA.ok, parseX] at h ⊢) <;> (try simp_all))
  · rw [Hdr.ofBits_append]; simp_all

theorem decode_encode_vqpop (gd : Guard) (d : Fin 16) (s1 : Fin 32) (h : (Instr.vqpop gd d s1).wf = true) : decode (encode (.vqpop gd d s1)) = .ok (.vqpop gd d s1) := by
  replace h : (gd.wf) = true := h
  have en : encode (.vqpop gd d s1) =
    (encE 0xB4 0 gd (fld d) (fld s1) 0 0 0 0 0 0) := rfl
  simp only [encE, hdr] at en
  rw [en]
  refine decode_of ((parse_B4 (Hdr.ofBits_append _ _)).trans ?_) ?_
  · simp only [FE.ofBits_append, Hdr.guard_mk, ofNat4]
    clear en
    ((try simp [FE.ok] at h ⊢) <;> (try simp_all))
  · rw [Hdr.ofBits_append]; simp_all

theorem decode_encode_vqpush (gd : Guard) (s3 : Fin 16) (s1 : Fin 32) (h : (Instr.vqpush gd s3 s1).wf = true) : decode (encode (.vqpush gd s3 s1)) = .ok (.vqpush gd s3 s1) := by
  replace h : (gd.wf) = true := h
  have en : encode (.vqpush gd s3 s1) =
    (encE 0xB5 0 gd 0 (fld s1) 0 (fld s3) 0 0 0 0) := rfl
  simp only [encE, hdr] at en
  rw [en]
  refine decode_of ((parse_B5 (Hdr.ofBits_append _ _)).trans ?_) ?_
  · simp only [FE.ofBits_append, Hdr.guard_mk, ofNat4]
    clear en
    ((try simp [FE.ok] at h ⊢) <;> (try simp_all))
  · rw [Hdr.ofBits_append]; simp_all

theorem decode_encode_vsend (gd : Guard) (s3 : Fin 16) (s1 : Fin 32) (wtag : Tag) (imm : BitVec 32) (h : (Instr.vsend gd s3 s1 wtag imm).wf = true) : decode (encode (.vsend gd s3 s1 wtag imm)) = .ok (.vsend gd s3 s1 wtag imm) := by
  replace h : (gd.wf && imm.toNat < 65536) = true := h
  have en : encode (.vsend gd s3 s1 wtag imm) =
    (encE 0xB3 0 gd 0 (fld s1) 0 (fld s3) 0 0 wtag.toNat imm) := rfl
  simp only [encE, hdr] at en
  rw [en]
  refine decode_of ((parse_B3 (Hdr.ofBits_append _ _)).trans ?_) ?_
  · simp only [FE.ofBits_append, Hdr.guard_mk, ofNat4]
    clear en
    ((try simp [FE.ok] at h ⊢) <;> (try simp_all))
  · rw [Hdr.ofBits_append]; simp_all

theorem decode_encode_amcall (gd : Guard) (s1 : Fin 32) (s2 : Fin 32) (kind : BitVec 8) (len : BitVec 9) (h : (Instr.amcall gd s1 s2 kind len).wf = true) : decode (encode (.amcall gd s1 s2 kind len)) = .ok (.amcall gd s1 s2 kind len) := by
  replace h : (gd.wf && kind.toNat ≥ 64 && len.toNat ≤ 256 && (s2 != 0 || len.toNat ≤ 32)) = true := h
  have en : encode (.amcall gd s1 s2 kind len) =
    (encA 0xB6 0 gd 0 (fld s1) (fld s2) 0 0 ((0 : BitVec 15) ++ len ++ kind)) := rfl
  simp only [encA, hdr] at en
  rw [en]
  refine decode_of ((parse_B6 (Hdr.ofBits_append _ _)).trans ?_) ?_
  · simp only [FA.ofBits_append, Hdr.guard_mk, ofNat4]
    clear en
    (obtain ⟨m1, m2, m3⟩ := amcall_fields len kind; generalize (0 : BitVec 15) ++ len ++ kind = v at *; simp only [m1, m2, m3, FA.ok]; simp only [Bool.and_eq_true, decide_eq_true_eq] at h; obtain ⟨⟨⟨hg, hk⟩, hl⟩, hs⟩ := h; have hz : (fld s2 == 0 && decide (len.toNat > 32)) = false := (by exact amcall_s2 s2 len hs); simp only [hz, gt_iff_lt, decide_eq_false (Nat.not_lt.mpr hk), decide_eq_false (Nat.not_lt.mpr hl)]; simp)
  · rw [Hdr.ofBits_append]; simp_all

theorem decode_encode_cxop (gd : Guard) (mode : RMode) (d : Fin 16) (s1 : Fin 16) (s2 : Fin 16) (s3 : Fin 16) (n : BitVec 8) (sc : Fin 32) (h : (Instr.cxop gd mode d s1 s2 s3 n sc).wf = true) : decode (encode (.cxop gd mode d s1 s2 s3 n sc)) = .ok (.cxop gd mode d s1 s2 s3 n sc) := by
  replace h : (gd.wf) = true := h
  have en : encode (.cxop gd mode d s1 s2 s3 n sc) =
    (encE 0xB8 0 gd (fld d) (fld s1) (fld s2) (fld s3) 0 0 mode.code
      ((0 : BitVec 18) ++ fld sc ++ n)) := rfl
  simp only [encE, hdr] at en
  rw [en]
  refine decode_of ((parse_B8 (Hdr.ofBits_append _ _)).trans ?_) ?_
  · simp only [FE.ofBits_append, Hdr.guard_mk, ofNat4]
    clear en
    (cases mode) <;> ((try simp [FE.ok, FE.modeOnly, FE.mode, RMode.code, RMode.ofCode] at h ⊢) <;> (try simp_all))
  · rw [Hdr.ofBits_append]; simp_all

theorem decode_encode_cxload (gd : Guard) (s1 : Fin 32) (h : (Instr.cxload gd s1).wf = true) : decode (encode (.cxload gd s1)) = .ok (.cxload gd s1) := by
  replace h : (gd.wf) = true := h
  have en : encode (.cxload gd s1) =
    (encX 0xB9 0 gd 0 (fld s1) 0) := rfl
  simp only [encA, encX, hdr] at en
  rw [en]
  refine decode_of ((parse_B9 (Hdr.ofBits_append _ _)).trans ?_) ?_
  · simp only [FA.ofBits_append, Hdr.guard_mk, ofNat4]
    clear en
    ((try simp [FA.ok, parseX] at h ⊢) <;> (try simp_all))
  · rw [Hdr.ofBits_append]; simp_all

theorem decode_encode_cxdrop (gd : Guard) (s1 : Fin 32) (h : (Instr.cxdrop gd s1).wf = true) : decode (encode (.cxdrop gd s1)) = .ok (.cxdrop gd s1) := by
  replace h : (gd.wf) = true := h
  have en : encode (.cxdrop gd s1) =
    (encX 0xBA 0 gd 0 (fld s1) 0) := rfl
  simp only [encA, encX, hdr] at en
  rw [en]
  refine decode_of ((parse_BA (Hdr.ofBits_append _ _)).trans ?_) ?_
  · simp only [FA.ofBits_append, Hdr.guard_mk, ofNat4]
    clear en
    ((try simp [FA.ok, parseX] at h ⊢) <;> (try simp_all))
  · rw [Hdr.ofBits_append]; simp_all

theorem decode_encode_cxqry (gd : Guard) (d : Fin 32) (s1 : Fin 32) (h : (Instr.cxqry gd d s1).wf = true) : decode (encode (.cxqry gd d s1)) = .ok (.cxqry gd d s1) := by
  replace h : (gd.wf) = true := h
  have en : encode (.cxqry gd d s1) =
    (encX 0xBB 0 gd (fld d) (fld s1) 0) := rfl
  simp only [encA, encX, hdr] at en
  rw [en]
  refine decode_of ((parse_BB (Hdr.ofBits_append _ _)).trans ?_) ?_
  · simp only [FA.ofBits_append, Hdr.guard_mk, ofNat4]
    clear en
    ((try simp [FA.ok, parseX] at h ⊢) <;> (try simp_all))
  · rw [Hdr.ofBits_append]; simp_all

theorem decode_encode_cxtbl (gd : Guard) (s1 : Fin 32) (s2 : Fin 32) (h : (Instr.cxtbl gd s1 s2).wf = true) : decode (encode (.cxtbl gd s1 s2)) = .ok (.cxtbl gd s1 s2) := by
  replace h : (gd.wf) = true := h
  have en : encode (.cxtbl gd s1 s2) =
    (encX 0xBC 0 gd 0 (fld s1) (fld s2)) := rfl
  simp only [encA, encX, hdr] at en
  rw [en]
  refine decode_of ((parse_BC (Hdr.ofBits_append _ _)).trans ?_) ?_
  · simp only [FA.ofBits_append, Hdr.guard_mk, ofNat4]
    clear en
    ((try simp [FA.ok, parseX] at h ⊢) <;> (try simp_all))
  · rw [Hdr.ofBits_append]; simp_all

theorem decode_encode_bndset (gd : Guard) (k : Fin 16) (clr : Bool) (mode : BitVec 2) (s1 : Fin 32) (h : (Instr.bndset gd k clr mode s1).wf = true) : decode (encode (.bndset gd k clr mode s1)) = .ok (.bndset gd k clr mode s1) := by
  replace h : (gd.wf && k != 0 && (!clr || s1 == 0)) = true := h
  have en : encode (.bndset gd k clr mode s1) =
    (encA 0xBD 0 gd 0 (fld s1) 0 0 ((if clr then 128 else 0) + mode.toNat) (BitVec.ofNat 32 k.val)) := rfl
  simp only [encA, hdr] at en
  rw [en]
  refine decode_of ((parse_BD (Hdr.ofBits_append _ _)).trans ?_) ?_
  · simp only [FA.ofBits_append, Hdr.guard_mk, ofNat4]
    clear en
    (obtain ⟨⟨hg, hk⟩, hs⟩ := (by simpa [-Fin.isValue] using h : (gd.wf = true ∧ ¬ k = 0) ∧ (clr = false ∨ s1 = 0)); obtain ⟨m1, m2, m3⟩ := bnd_mode clr mode; obtain ⟨k1, k2, k3⟩ := bnd_k k hk; simp only [m1, m2, m3, k1, k2]; cases clr <;> simp_all [FA.ok])
  · rw [Hdr.ofBits_append]; simp_all

theorem decode_encode_bndget (gd : Guard) (d : Fin 32) (k : Fin 16) (sel : Bool) (h : (Instr.bndget gd d k sel).wf = true) : decode (encode (.bndget gd d k sel)) = .ok (.bndget gd d k sel) := by
  replace h : (gd.wf && k != 0) = true := h
  have en : encode (.bndget gd d k sel) =
    (encA 0xBE 0 gd (fld d) 0 0 0 (if sel then 1 else 0) (BitVec.ofNat 32 k.val)) := rfl
  simp only [encA, hdr] at en
  rw [en]
  refine decode_of ((parse_BE (Hdr.ofBits_append _ _)).trans ?_) ?_
  · simp only [FA.ofBits_append, Hdr.guard_mk, ofNat4]
    clear en
    (cases sel) <;> (obtain ⟨hg, hk⟩ := (by simpa [-Fin.isValue] using h : gd.wf = true ∧ ¬ k = 0); obtain ⟨k1, k2, k3⟩ := bnd_k k hk; simp only [k1, k2]; simp only [ge_iff_le, decide_eq_false (Nat.not_le.mpr k3)]; simp [FA.ok])
  · rw [Hdr.ofBits_append]; simp_all

theorem decode_encode_cntrd (gd : Guard) (d : Fin 32) (k : Fin 4) (hd : Fin 4) (t : Fin 8) (h : (Instr.cntrd gd d k hd t).wf = true) : decode (encode (.cntrd gd d k hd t)) = .ok (.cntrd gd d k hd t) := by
  replace h : (gd.wf && (hd == 2 || t == 0)) = true := h
  have en : encode (.cntrd gd d k hd t) =
    (encA 0xBF 0 gd (fld d) 0 0 0 (k.val + 4 * hd.val) (BitVec.ofNat 32 t.val)) := rfl
  simp only [encA, hdr] at en
  rw [en]
  refine decode_of ((parse_BF (Hdr.ofBits_append _ _)).trans ?_) ?_
  · simp only [FA.ofBits_append, Hdr.guard_mk, ofNat4]
    clear en
    (obtain ⟨m1, m2, m3⟩ := cnt_m k hd; obtain ⟨t1, t2⟩ := cnt_t t; have hz : (hd != 2 && BitVec.ofNat 32 t.val != 0) = false := (by simp only [Bool.and_eq_true] at h; have h2 := h.2; exact cnt_z hd t h2); simp only [m2, m3, t2, hz]; simp only [ge_iff_le, decide_eq_false (Nat.not_le.mpr m1), decide_eq_false (Nat.not_le.mpr t1)]; simp [FA.ok])
  · rw [Hdr.ofBits_append]; simp_all

theorem decode_encode_cntclr (gd : Guard) (k : Fin 4) (hd : Fin 4) (t : Fin 8) (h : (Instr.cntclr gd k hd t).wf = true) : decode (encode (.cntclr gd k hd t)) = .ok (.cntclr gd k hd t) := by
  replace h : (gd.wf && (hd == 2 || t == 0)) = true := h
  have en : encode (.cntclr gd k hd t) =
    (encA 0xBF 1 gd 0 0 0 0 (k.val + 4 * hd.val) (BitVec.ofNat 32 t.val)) := rfl
  simp only [encA, hdr] at en
  rw [en]
  refine decode_of ((parse_BF (Hdr.ofBits_append _ _)).trans ?_) ?_
  · simp only [FA.ofBits_append, Hdr.guard_mk, ofNat4]
    clear en
    (obtain ⟨m1, m2, m3⟩ := cnt_m k hd; obtain ⟨t1, t2⟩ := cnt_t t; have hz : (hd != 2 && BitVec.ofNat 32 t.val != 0) = false := (by simp only [Bool.and_eq_true] at h; have h2 := h.2; exact cnt_z hd t h2); simp only [m2, m3, t2, hz]; simp only [ge_iff_le, decide_eq_false (Nat.not_le.mpr m1), decide_eq_false (Nat.not_le.mpr t1)]; simp [FA.ok])
  · rw [Hdr.ofBits_append]; simp_all

theorem decode_encode_mshld (gd : Guard) (d : Fin 8) (s1 : Fin 32) (off : BitVec 32) (h : (Instr.mshld gd d s1 off).wf = true) : decode (encode (.mshld gd d s1 off)) = .ok (.mshld gd d s1 off) := by
  replace h : (gd.wf) = true := h
  have en : encode (.mshld gd d s1 off) =
    (encE 0xC0 0 gd (fld d) (fld s1) 0 0 0 0 0 off) := rfl
  simp only [encE, hdr] at en
  rw [en]
  refine decode_of ((parse_C0 (Hdr.ofBits_append _ _)).trans ?_) ?_
  · simp only [FE.ofBits_append, Hdr.guard_mk, ofNat4]
    clear en
    ((try simp [FE.ok] at h ⊢) <;> (try simp_all))
  · rw [Hdr.ofBits_append]; simp_all

theorem decode_encode_mma (gd : Guard) (d : Fin 8) (sa : Fin 8) (sb : Fin 8) (o : MmaOpts) (h : (Instr.mma gd d sa sb o).wf = true) : decode (encode (.mma gd d sa sb o)) = .ok (.mma gd d sa sb o) := by
  replace h : (gd.wf) = true := h
  have en : encode (.mma gd d sa sb o) =
    (encE 0xC1 0 gd (fld d) 0 0 0 sa.val sb.val (o.mod 0 0) 0) := rfl
  simp only [encE, hdr] at en
  rw [en]
  refine decode_of ((parse_C1 (Hdr.ofBits_append _ _)).trans ?_) ?_
  · simp only [FE.ofBits_append, Hdr.guard_mk, ofNat4]
    clear en
    (have hm := mma_mod o 0 0; have hf := mma_fin 0 0; dsimp only at hm; (try simp only [Fin.val_zero, Fin.isValue] at hm hf); obtain ⟨m1, m2, m3, m4, m5⟩ := hm; obtain ⟨f1, f2, f3⟩ := hf; simp [m1, m2, m3, m4, m5, f2]; try exact f1; try exact ⟨f1, f2⟩)
  · rw [Hdr.ofBits_append]; simp_all

theorem decode_encode_mmaSp (gd : Guard) (d : Fin 8) (sa : Fin 8) (sb : Fin 8) (o : MmaOpts) (s1 : Fin 32) (spn : Fin 3) (h : (Instr.mmaSp gd d sa sb o s1 spn).wf = true) : decode (encode (.mmaSp gd d sa sb o s1 spn)) = .ok (.mmaSp gd d sa sb o s1 spn) := by
  replace h : (gd.wf) = true := h
  have en : encode (.mmaSp gd d sa sb o s1 spn) =
    (encE 0xC1 1 gd (fld d) (fld s1) 0 0 sa.val sb.val (o.mod spn.val 0) 0) := rfl
  simp only [encE, hdr] at en
  rw [en]
  refine decode_of ((parse_C1 (Hdr.ofBits_append _ _)).trans ?_) ?_
  · simp only [FE.ofBits_append, Hdr.guard_mk, ofNat4]
    clear en
    (have hm := mma_mod o spn 0; have hf := mma_fin spn 0; dsimp only at hm; (try simp only [Fin.val_zero, Fin.isValue] at hm hf); obtain ⟨m1, m2, m3, m4, m5⟩ := hm; obtain ⟨f1, f2, f3⟩ := hf; simp [m1, m2, m3, m4, m5, f2, f3]; try exact f1; try exact ⟨f1, f2⟩)
  · rw [Hdr.ofBits_append]; simp_all

theorem decode_encode_mmaGa (gd : Guard) (d : Fin 8) (sa : Fin 8) (sb : Fin 8) (o : MmaOpts) (s2 : Fin 16) (mg : Fin 4) (h : (Instr.mmaGa gd d sa sb o s2 mg).wf = true) : decode (encode (.mmaGa gd d sa sb o s2 mg)) = .ok (.mmaGa gd d sa sb o s2 mg) := by
  replace h : (gd.wf) = true := h
  have en : encode (.mmaGa gd d sa sb o s2 mg) =
    (encE 0xC1 2 gd (fld d) 0 (fld s2) 0 sa.val sb.val (o.mod 0 mg.val) 0) := rfl
  simp only [encE, hdr] at en
  rw [en]
  refine decode_of ((parse_C1 (Hdr.ofBits_append _ _)).trans ?_) ?_
  · simp only [FE.ofBits_append, Hdr.guard_mk, ofNat4]
    clear en
    (have hm := mma_mod o 0 mg; have hf := mma_fin 0 mg; dsimp only at hm; (try simp only [Fin.val_zero, Fin.isValue] at hm hf); obtain ⟨m1, m2, m3, m4, m5⟩ := hm; obtain ⟨f1, f2, f3⟩ := hf; simp [m1, m2, m3, m4, m5, f2]; try exact f1; try exact ⟨f1, f2⟩)
  · rw [Hdr.ofBits_append]; simp_all

theorem decode_encode_mmaSpga (gd : Guard) (d : Fin 8) (sa : Fin 8) (sb : Fin 8) (o : MmaOpts) (s1 : Fin 32) (spn : Fin 3) (s2 : Fin 16) (mg : Fin 4) (h : (Instr.mmaSpga gd d sa sb o s1 spn s2 mg).wf = true) : decode (encode (.mmaSpga gd d sa sb o s1 spn s2 mg)) = .ok (.mmaSpga gd d sa sb o s1 spn s2 mg) := by
  replace h : (gd.wf) = true := h
  have en : encode (.mmaSpga gd d sa sb o s1 spn s2 mg) =
    (encE 0xC1 3 gd (fld d) (fld s1) (fld s2) 0 sa.val sb.val (o.mod spn.val mg.val) 0) := rfl
  simp only [encE, hdr] at en
  rw [en]
  refine decode_of ((parse_C1 (Hdr.ofBits_append _ _)).trans ?_) ?_
  · simp only [FE.ofBits_append, Hdr.guard_mk, ofNat4]
    clear en
    (have hm := mma_mod o spn mg; have hf := mma_fin spn mg; dsimp only at hm; (try simp only [Fin.val_zero, Fin.isValue] at hm hf); obtain ⟨m1, m2, m3, m4, m5⟩ := hm; obtain ⟨f1, f2, f3⟩ := hf; simp [m1, m2, m3, m4, m5, f2, f3]; try exact f1; try exact ⟨f1, f2⟩)
  · rw [Hdr.ofBits_append]; simp_all

theorem decode_encode_mzero (gd : Guard) (d : Fin 8) (tag : Tag) (h : (Instr.mzero gd d tag).wf = true) : decode (encode (.mzero gd d tag)) = .ok (.mzero gd d tag) := by
  replace h : (gd.wf) = true := h
  have en : encode (.mzero gd d tag) =
    (encE 0xC2 0 gd (fld d) 0 0 0 0 0 0 (imm16 tag)) := rfl
  simp only [encE, hdr] at en
  rw [en]
  refine decode_of ((parse_C2 (Hdr.ofBits_append _ _)).trans ?_) ?_
  · simp only [FE.ofBits_append, Hdr.guard_mk, ofNat4]
    clear en
    ((try simp [FE.ok] at h ⊢) <;> (try simp_all))
  · rw [Hdr.ofBits_append]; simp_all

theorem decode_encode_mld (gd : Guard) (d : Fin 8) (sa : Fin 8) (tag : Tag) (h : (Instr.mld gd d sa tag).wf = true) : decode (encode (.mld gd d sa tag)) = .ok (.mld gd d sa tag) := by
  replace h : (gd.wf) = true := h
  have en : encode (.mld gd d sa tag) =
    (encE 0xC3 0 gd (fld d) 0 0 0 sa.val 0 0 (imm16 tag)) := rfl
  simp only [encE, hdr] at en
  rw [en]
  refine decode_of ((parse_C3 (Hdr.ofBits_append _ _)).trans ?_) ?_
  · simp only [FE.ofBits_append, Hdr.guard_mk, ofNat4]
    clear en
    ((try simp [Hdr.i] at h ⊢) <;> (try simp_all))
  · rw [Hdr.ofBits_append]; simp_all

theorem decode_encode_mst (gd : Guard) (mode : RMode) (s3 : Fin 8) (sa : Fin 8) (h : (Instr.mst gd mode s3 sa).wf = true) : decode (encode (.mst gd mode s3 sa)) = .ok (.mst gd mode s3 sa) := by
  replace h : (gd.wf) = true := h
  have en : encode (.mst gd mode s3 sa) =
    (encE 0xC4 0 gd 0 0 0 (fld s3) sa.val 0 mode.code 0) := rfl
  simp only [encE, hdr] at en
  rw [en]
  refine decode_of ((parse_C4 (Hdr.ofBits_append _ _)).trans ?_) ?_
  · simp only [FE.ofBits_append, Hdr.guard_mk, ofNat4]
    clear en
    (cases mode) <;> ((try simp [FE.modeOnly, FE.mode, RMode.code, RMode.ofCode] at h ⊢) <;> (try simp_all))
  · rw [Hdr.ofBits_append]; simp_all

theorem decode_encode_mrowred (gd : Guard) (op : Red3) (mode : RMode) (part : Bool) (nc : BitVec 5) (d : Fin 16) (s1 : Fin 8) (h : (Instr.mrowred gd op mode part nc d s1).wf = true) : decode (encode (.mrowred gd op mode part nc d s1)) = .ok (.mrowred gd op mode part nc d s1) := by
  replace h : (gd.wf) = true := h
  have en : encode (.mrowred gd op mode part nc d s1) =
    (encE 0xC5 0 gd (fld d) (fld s1) 0 0 0 0
      (mode.code + 16 * op.code + (if part then 64 else 0) + 128 * nc.toNat) 0) := rfl
  simp only [encE, hdr] at en
  rw [en]
  refine decode_of ((parse_C5 (Hdr.ofBits_append _ _)).trans ?_) ?_
  · simp only [FE.ofBits_append, Hdr.guard_mk, ofNat4]
    clear en
    (obtain ⟨m1, m2, m3, m4, m5, m6, m7, m8⟩ := mrow_mod mode op part nc; generalize BitVec.ofNat 16 _ = v at *; simp only [m3, m4, m5, m6, m7, m8, FE.mode, FE.badMode, ge_iff_le]; simp [FE.ok]; exact ⟨by simpa using m2, by simpa using m1⟩)
  · rw [Hdr.ofBits_append]; simp_all

theorem decode_encode_mcnt (gd : Guard) (clr : Bool) (d : Fin 32) (s1 : Fin 8) (h : (Instr.mcnt gd clr d s1).wf = true) : decode (encode (.mcnt gd clr d s1)) = .ok (.mcnt gd clr d s1) := by
  replace h : (gd.wf) = true := h
  have en : encode (.mcnt gd clr d s1) =
    (encE 0xC6 0 gd (fld d) (fld s1) 0 0 0 0 (if clr then 1 else 0) 0) := rfl
  simp only [encE, hdr] at en
  rw [en]
  refine decode_of ((parse_C6 (Hdr.ofBits_append _ _)).trans ?_) ?_
  · simp only [FE.ofBits_append, Hdr.guard_mk, ofNat4]
    clear en
    (cases clr) <;> ((try simp [FE.ok] at h ⊢) <;> (try simp_all))
  · rw [Hdr.ofBits_append]; simp_all

theorem decode_encode_copy (gd : Guard) (d : Fin 32) (s1 : Fin 32) (h : (Instr.copy gd d s1).wf = true) : decode (encode (.copy gd d s1)) = .ok (.copy gd d s1) := by
  replace h : (gd.wf) = true := h
  have en : encode (.copy gd d s1) =
    (encE 0xD0 0 gd (fld d) (fld s1) 0 0 0 0 0 0) := rfl
  simp only [encE, hdr] at en
  rw [en]
  refine decode_of ((parse_D0 (Hdr.ofBits_append _ _)).trans ?_) ?_
  · simp only [FE.ofBits_append, Hdr.guard_mk, ofNat4]
    clear en
    ((try simp [FE.ok] at h ⊢) <;> (try simp_all))
  · rw [Hdr.ofBits_append]; simp_all

theorem decode_encode_copym (gd : Guard) (d : Fin 32) (s1 : Fin 32) (h : (Instr.copym gd d s1).wf = true) : decode (encode (.copym gd d s1)) = .ok (.copym gd d s1) := by
  replace h : (gd.wf) = true := h
  have en : encode (.copym gd d s1) =
    (encE 0xD1 0 gd (fld d) (fld s1) 0 0 0 0 0 0) := rfl
  simp only [encE, hdr] at en
  rw [en]
  refine decode_of ((parse_D1 (Hdr.ofBits_append _ _)).trans ?_) ?_
  · simp only [FE.ofBits_append, Hdr.guard_mk, ofNat4]
    clear en
    ((try simp [FE.ok] at h ⊢) <;> (try simp_all))
  · rw [Hdr.ofBits_append]; simp_all

theorem decode_encode_cprom (gd : Guard) (d : Fin 32) (s1 : Fin 32) (h : (Instr.cprom gd d s1).wf = true) : decode (encode (.cprom gd d s1)) = .ok (.cprom gd d s1) := by
  replace h : (gd.wf) = true := h
  have en : encode (.cprom gd d s1) =
    (encX 0xD2 0 gd (fld d) (fld s1) 0) := rfl
  simp only [encA, encX, hdr] at en
  rw [en]
  refine decode_of ((parse_D2 (Hdr.ofBits_append _ _)).trans ?_) ?_
  · simp only [FA.ofBits_append, Hdr.guard_mk, ofNat4]
    clear en
    ((try simp [FA.ok, parseX] at h ⊢) <;> (try simp_all))
  · rw [Hdr.ofBits_append]; simp_all

theorem decode_encode_hcfg (gd : Guard) (s1 : Fin 32) (s2 : Fin 32) (h : (Instr.hcfg gd s1 s2).wf = true) : decode (encode (.hcfg gd s1 s2)) = .ok (.hcfg gd s1 s2) := by
  replace h : (gd.wf) = true := h
  have en : encode (.hcfg gd s1 s2) =
    (encX 0xD8 0 gd 0 (fld s1) (fld s2)) := rfl
  simp only [encA, encX, hdr] at en
  rw [en]
  refine decode_of ((parse_D8 (Hdr.ofBits_append _ _)).trans ?_) ?_
  · simp only [FA.ofBits_append, Hdr.guard_mk, ofNat4]
    clear en
    ((try simp [FA.ok, parseX] at h ⊢) <;> (try simp_all))
  · rw [Hdr.ofBits_append]; simp_all

theorem decode_encode_publish (gd : Guard) (s1 : Fin 32) (h : (Instr.publish gd s1).wf = true) : decode (encode (.publish gd s1)) = .ok (.publish gd s1) := by
  replace h : (gd.wf) = true := h
  have en : encode (.publish gd s1) =
    (encX 0xD9 0 gd 0 (fld s1) 0) := rfl
  simp only [encA, encX, hdr] at en
  rw [en]
  refine decode_of ((parse_D9 (Hdr.ofBits_append _ _)).trans ?_) ?_
  · simp only [FA.ofBits_append, Hdr.guard_mk, ofNat4]
    clear en
    ((try simp [FA.ok, parseXv] at h ⊢) <;> (try simp_all))
  · rw [Hdr.ofBits_append]; simp_all

theorem decode_encode_publishF (gd : Guard) (s1 : Fin 32) (h : (Instr.publishF gd s1).wf = true) : decode (encode (.publishF gd s1)) = .ok (.publishF gd s1) := by
  replace h : (gd.wf) = true := h
  have en : encode (.publishF gd s1) =
    (encX 0xD9 1 gd 0 (fld s1) 0) := rfl
  simp only [encA, encX, hdr] at en
  rw [en]
  refine decode_of ((parse_D9 (Hdr.ofBits_append _ _)).trans ?_) ?_
  · simp only [FA.ofBits_append, Hdr.guard_mk, ofNat4]
    clear en
    ((try simp [FA.ok, parseXv] at h ⊢) <;> (try simp_all))
  · rw [Hdr.ofBits_append]; simp_all

theorem decode_encode_hsub (gd : Guard) (s1 : Fin 32) (s2 : Fin 32) (h : (Instr.hsub gd s1 s2).wf = true) : decode (encode (.hsub gd s1 s2)) = .ok (.hsub gd s1 s2) := by
  replace h : (gd.wf) = true := h
  have en : encode (.hsub gd s1 s2) =
    (encX 0xDA 0 gd 0 (fld s1) (fld s2)) := rfl
  simp only [encA, encX, hdr] at en
  rw [en]
  refine decode_of ((parse_DA (Hdr.ofBits_append _ _)).trans ?_) ?_
  · simp only [FA.ofBits_append, Hdr.guard_mk, ofNat4]
    clear en
    ((try simp [FA.ok, parseX] at h ⊢) <;> (try simp_all))
  · rw [Hdr.ofBits_append]; simp_all

theorem decode_encode_hunsub (gd : Guard) (s1 : Fin 32) (s2 : Fin 32) (h : (Instr.hunsub gd s1 s2).wf = true) : decode (encode (.hunsub gd s1 s2)) = .ok (.hunsub gd s1 s2) := by
  replace h : (gd.wf) = true := h
  have en : encode (.hunsub gd s1 s2) =
    (encX 0xDB 0 gd 0 (fld s1) (fld s2)) := rfl
  simp only [encA, encX, hdr] at en
  rw [en]
  refine decode_of ((parse_DB (Hdr.ofBits_append _ _)).trans ?_) ?_
  · simp only [FA.ofBits_append, Hdr.guard_mk, ofNat4]
    clear en
    ((try simp [FA.ok, parseX] at h ⊢) <;> (try simp_all))
  · rw [Hdr.ofBits_append]; simp_all

theorem decode_encode_hver (gd : Guard) (d : Fin 32) (s1 : Fin 32) (h : (Instr.hver gd d s1).wf = true) : decode (encode (.hver gd d s1)) = .ok (.hver gd d s1) := by
  replace h : (gd.wf) = true := h
  have en : encode (.hver gd d s1) =
    (encX 0xDC 0 gd (fld d) (fld s1) 0) := rfl
  simp only [encA, encX, hdr] at en
  rw [en]
  refine decode_of ((parse_DC (Hdr.ofBits_append _ _)).trans ?_) ?_
  · simp only [FA.ofBits_append, Hdr.guard_mk, ofNat4]
    clear en
    ((try simp [FA.ok, parseX] at h ⊢) <;> (try simp_all))
  · rw [Hdr.ofBits_append]; simp_all

theorem decode_encode_stopref (gd : Guard) (s1 : Fin 32) (h : (Instr.stopref gd s1).wf = true) : decode (encode (.stopref gd s1)) = .ok (.stopref gd s1) := by
  replace h : (gd.wf) = true := h
  have en : encode (.stopref gd s1) =
    (encX 0xDD 0 gd 0 (fld s1) 0) := rfl
  simp only [encA, encX, hdr] at en
  rw [en]
  refine decode_of ((parse_DD (Hdr.ofBits_append _ _)).trans ?_) ?_
  · simp only [FA.ofBits_append, Hdr.guard_mk, ofNat4]
    clear en
    ((try simp [FA.ok, parseXv] at h ⊢) <;> (try simp_all))
  · rw [Hdr.ofBits_append]; simp_all

theorem decode_encode_stoprefAt (gd : Guard) (s1 : Fin 32) (s2 : Fin 32) (h : (Instr.stoprefAt gd s1 s2).wf = true) : decode (encode (.stoprefAt gd s1 s2)) = .ok (.stoprefAt gd s1 s2) := by
  replace h : (gd.wf) = true := h
  have en : encode (.stoprefAt gd s1 s2) =
    (encX 0xDD 1 gd 0 (fld s1) (fld s2)) := rfl
  simp only [encA, encX, hdr] at en
  rw [en]
  refine decode_of ((parse_DD (Hdr.ofBits_append _ _)).trans ?_) ?_
  · simp only [FA.ofBits_append, Hdr.guard_mk, ofNat4]
    clear en
    ((try simp [FA.ok, parseXv] at h ⊢) <;> (try simp_all))
  · rw [Hdr.ofBits_append]; simp_all

theorem decode_encode_refchk (gd : Guard) (d : Fin 16) (s1 : Fin 32) (h : (Instr.refchk gd d s1).wf = true) : decode (encode (.refchk gd d s1)) = .ok (.refchk gd d s1) := by
  replace h : (gd.wf) = true := h
  have en : encode (.refchk gd d s1) =
    (encX 0xDE 0 gd (fld d) (fld s1) 0) := rfl
  simp only [encA, encX, hdr] at en
  rw [en]
  refine decode_of ((parse_DE (Hdr.ofBits_append _ _)).trans ?_) ?_
  · simp only [FA.ofBits_append, Hdr.guard_mk, ofNat4]
    clear en
    ((try simp [FA.ok] at h ⊢) <;> (try simp_all))
  · rw [Hdr.ofBits_append]; simp_all

theorem decode_encode_settle (gd : Guard) (s1 : Fin 32) (set : BitVec 8) (nh : BitVec 8) (h : (Instr.settle gd s1 set nh).wf = true) : decode (encode (.settle gd s1 set nh)) = .ok (.settle gd s1 set nh) := by
  replace h : (gd.wf) = true := h
  have en : encode (.settle gd s1 set nh) =
    (encA 0xDF 0 gd 0 (fld s1) 0 0 0 ((0 : BitVec 16) ++ nh ++ set)) := rfl
  simp only [encA, hdr] at en
  rw [en]
  refine decode_of ((parse_DF (Hdr.ofBits_append _ _)).trans ?_) ?_
  · simp only [FA.ofBits_append, Hdr.guard_mk, ofNat4]
    clear en
    (obtain ⟨m1, m2, m3⟩ := settle_fields nh set; generalize (0 : BitVec 16) ++ nh ++ set = v at *; simp only [m2, m3, ge_iff_le, decide_eq_false (Nat.not_le.mpr m1), FA.ok]; simp)
  · rw [Hdr.ofBits_append]; simp_all

theorem decode_encode_settlew (gd : Guard) (d : Fin 32) (s1 : Fin 32) (set : BitVec 8) (nh : BitVec 8) (h : (Instr.settlew gd d s1 set nh).wf = true) : decode (encode (.settlew gd d s1 set nh)) = .ok (.settlew gd d s1 set nh) := by
  replace h : (gd.wf) = true := h
  have en : encode (.settlew gd d s1 set nh) =
    (encA 0xDF 1 gd (fld d) (fld s1) 0 0 0 ((0 : BitVec 16) ++ nh ++ set)) := rfl
  simp only [encA, hdr] at en
  rw [en]
  refine decode_of ((parse_DF (Hdr.ofBits_append _ _)).trans ?_) ?_
  · simp only [FA.ofBits_append, Hdr.guard_mk, ofNat4]
    clear en
    (obtain ⟨m1, m2, m3⟩ := settle_fields nh set; generalize (0 : BitVec 16) ++ nh ++ set = v at *; simp only [m2, m3, ge_iff_le, decide_eq_false (Nat.not_le.mpr m1), FA.ok]; simp)
  · rw [Hdr.ofBits_append]; simp_all

theorem decode_encode_launch (gd : Guard) (d : Fin 32) (s1 : Fin 32) (h : (Instr.launch gd d s1).wf = true) : decode (encode (.launch gd d s1)) = .ok (.launch gd d s1) := by
  replace h : (gd.wf) = true := h
  have en : encode (.launch gd d s1) =
    (encX 0xE0 0 gd (fld d) (fld s1) 0) := rfl
  simp only [encA, encX, hdr] at en
  rw [en]
  refine decode_of ((parse_E0 (Hdr.ofBits_append _ _)).trans ?_) ?_
  · simp only [FA.ofBits_append, Hdr.guard_mk, ofNat4]
    clear en
    ((try simp [FA.ok, parseX] at h ⊢) <;> (try simp_all))
  · rw [Hdr.ofBits_append]; simp_all

theorem decode_encode_deal (gd : Guard) (d : Fin 32) (s1 : Fin 32) (h : (Instr.deal gd d s1).wf = true) : decode (encode (.deal gd d s1)) = .ok (.deal gd d s1) := by
  replace h : (gd.wf) = true := h
  have en : encode (.deal gd d s1) =
    (encX 0xE1 0 gd (fld d) (fld s1) 0) := rfl
  simp only [encA, encX, hdr] at en
  rw [en]
  refine decode_of ((parse_E1 (Hdr.ofBits_append _ _)).trans ?_) ?_
  · simp only [FA.ofBits_append, Hdr.guard_mk, ofNat4]
    clear en
    ((try simp [FA.ok, parseX] at h ⊢) <;> (try simp_all))
  · rw [Hdr.ofBits_append]; simp_all

theorem decode_encode_ringget (gd : Guard) (d : Fin 32) (gm : Fin 16) (s1 : Fin 32) (h : (Instr.ringget gd d gm s1).wf = true) : decode (encode (.ringget gd d gm s1)) = .ok (.ringget gd d gm s1) := by
  replace h : (gd.wf) = true := h
  have en : encode (.ringget gd d gm s1) =
    (encA 0xE2 0 gd (fld d) (fld s1) 0 0 gm.val 0) := rfl
  simp only [encA, hdr] at en
  rw [en]
  refine decode_of ((parse_E2 (Hdr.ofBits_append _ _)).trans ?_) ?_
  · simp only [FA.ofBits_append, Hdr.guard_mk, ofNat4]
    clear en
    ((try simp [FA.ok] at h ⊢) <;> (try simp_all))
  · rw [Hdr.ofBits_append]; simp_all

theorem decode_encode_ringput (gd : Guard) (s3 : Fin 32) (s1 : Fin 32) (h : (Instr.ringput gd s3 s1).wf = true) : decode (encode (.ringput gd s3 s1)) = .ok (.ringput gd s3 s1) := by
  replace h : (gd.wf) = true := h
  have en : encode (.ringput gd s3 s1) =
    (encA 0xE2 1 gd 0 (fld s1) 0 (fld s3) 0 0) := rfl
  simp only [encA, hdr] at en
  rw [en]
  refine decode_of ((parse_E2 (Hdr.ofBits_append _ _)).trans ?_) ?_
  · simp only [FA.ofBits_append, Hdr.guard_mk, ofNat4]
    clear en
    ((try simp [FA.ok] at h ⊢) <;> (try simp_all))
  · rw [Hdr.ofBits_append]; simp_all

theorem decode_encode_govset (gd : Guard) (d : Fin 32) (s1 : Fin 32) (s2 : Fin 32) (h : (Instr.govset gd d s1 s2).wf = true) : decode (encode (.govset gd d s1 s2)) = .ok (.govset gd d s1 s2) := by
  replace h : (gd.wf) = true := h
  have en : encode (.govset gd d s1 s2) =
    (encX 0xE3 0 gd (fld d) (fld s1) (fld s2)) := rfl
  simp only [encA, encX, hdr] at en
  rw [en]
  refine decode_of ((parse_E3 (Hdr.ofBits_append _ _)).trans ?_) ?_
  · simp only [FA.ofBits_append, Hdr.guard_mk, ofNat4]
    clear en
    ((try simp [FA.ok, parseX] at h ⊢) <;> (try simp_all))
  · rw [Hdr.ofBits_append]; simp_all

theorem decode_encode_preempt (gd : Guard) (d : Fin 32) (s1 : Fin 32) (h : (Instr.preempt gd d s1).wf = true) : decode (encode (.preempt gd d s1)) = .ok (.preempt gd d s1) := by
  replace h : (gd.wf) = true := h
  have en : encode (.preempt gd d s1) =
    (encX 0xE4 0 gd (fld d) (fld s1) 0) := rfl
  simp only [encA, encX, hdr] at en
  rw [en]
  refine decode_of ((parse_E4 (Hdr.ofBits_append _ _)).trans ?_) ?_
  · simp only [FA.ofBits_append, Hdr.guard_mk, ofNat4]
    clear en
    ((try simp [FA.ok, parseXv] at h ⊢) <;> (try simp_all))
  · rw [Hdr.ofBits_append]; simp_all

theorem decode_encode_resume (gd : Guard) (d : Fin 32) (s1 : Fin 32) (h : (Instr.resume gd d s1).wf = true) : decode (encode (.resume gd d s1)) = .ok (.resume gd d s1) := by
  replace h : (gd.wf) = true := h
  have en : encode (.resume gd d s1) =
    (encX 0xE4 1 gd (fld d) (fld s1) 0) := rfl
  simp only [encA, encX, hdr] at en
  rw [en]
  refine decode_of ((parse_E4 (Hdr.ofBits_append _ _)).trans ?_) ?_
  · simp only [FA.ofBits_append, Hdr.guard_mk, ofNat4]
    clear en
    ((try simp [FA.ok, parseXv] at h ⊢) <;> (try simp_all))
  · rw [Hdr.ofBits_append]; simp_all

theorem decode_encode_rdhmap (gd : Guard) (d : Fin 32) (s1 : Fin 32) (h : (Instr.rdhmap gd d s1).wf = true) : decode (encode (.rdhmap gd d s1)) = .ok (.rdhmap gd d s1) := by
  replace h : (gd.wf) = true := h
  have en : encode (.rdhmap gd d s1) =
    (encX 0xE5 0 gd (fld d) (fld s1) 0) := rfl
  simp only [encA, encX, hdr] at en
  rw [en]
  refine decode_of ((parse_E5 (Hdr.ofBits_append _ _)).trans ?_) ?_
  · simp only [FA.ofBits_append, Hdr.guard_mk, ofNat4]
    clear en
    ((try simp [FA.ok, parseXv] at h ⊢) <;> (try simp_all))
  · rw [Hdr.ofBits_append]; simp_all

theorem decode_encode_rdlpt (gd : Guard) (d : Fin 32) (s1 : Fin 32) (half : Bool) (h : (Instr.rdlpt gd d s1 half).wf = true) : decode (encode (.rdlpt gd d s1 half)) = .ok (.rdlpt gd d s1 half) := by
  replace h : (gd.wf) = true := h
  have en : encode (.rdlpt gd d s1 half) =
    (encA 0xE5 1 gd (fld d) (fld s1) 0 0 0 (if half then 1 else 0)) := rfl
  simp only [encA, hdr] at en
  rw [en]
  refine decode_of ((parse_E5 (Hdr.ofBits_append _ _)).trans ?_) ?_
  · simp only [FA.ofBits_append, Hdr.guard_mk, ofNat4]
    clear en
    (cases half) <;> ((try simp [FA.ok] at h ⊢) <;> (try simp_all))
  · rw [Hdr.ofBits_append]; simp_all

theorem decode_encode_quiesce (gd : Guard) (d : Fin 32) (h : (Instr.quiesce gd d).wf = true) : decode (encode (.quiesce gd d)) = .ok (.quiesce gd d) := by
  replace h : (gd.wf) = true := h
  have en : encode (.quiesce gd d) =
    (encX 0xE6 0 gd (fld d) 0 0) := rfl
  simp only [encA, encX, hdr] at en
  rw [en]
  refine decode_of ((parse_E6 (Hdr.ofBits_append _ _)).trans ?_) ?_
  · simp only [FA.ofBits_append, Hdr.guard_mk, ofNat4]
    clear en
    ((try simp [FA.ok, parseX] at h ⊢) <;> (try simp_all))
  · rw [Hdr.ofBits_append]; simp_all

theorem decode_encode_barset (gd : Guard) (d : Fin 4) (s1 : Fin 32) (h : (Instr.barset gd d s1).wf = true) : decode (encode (.barset gd d s1)) = .ok (.barset gd d s1) := by
  replace h : (gd.wf) = true := h
  have en : encode (.barset gd d s1) =
    (encX 0xE8 0 gd (fld d) (fld s1) 0) := rfl
  simp only [encA, encX, hdr] at en
  rw [en]
  refine decode_of ((parse_E8 (Hdr.ofBits_append _ _)).trans ?_) ?_
  · simp only [FA.ofBits_append, Hdr.guard_mk, ofNat4]
    clear en
    ((try simp [FA.ok] at h ⊢) <;> (try simp_all))
  · rw [Hdr.ofBits_append]; simp_all

theorem decode_encode_bararr (gd : Guard) (s1 : Fin 4) (h : (Instr.bararr gd s1).wf = true) : decode (encode (.bararr gd s1)) = .ok (.bararr gd s1) := by
  replace h : (gd.wf) = true := h
  have en : encode (.bararr gd s1) =
    (encX 0xE9 0 gd 0 (fld s1) 0) := rfl
  simp only [encA, encX, hdr] at en
  rw [en]
  refine decode_of ((parse_E9 (Hdr.ofBits_append _ _)).trans ?_) ?_
  · simp only [FA.ofBits_append, Hdr.guard_mk, ofNat4]
    clear en
    ((try simp [FA.ok] at h ⊢) <;> (try simp_all))
  · rw [Hdr.ofBits_append]; simp_all

theorem decode_encode_barwait (gd : Guard) (d : Fin 16) (s1 : Fin 4) (cycles : BitVec 32) (h : (Instr.barwait gd d s1 cycles).wf = true) : decode (encode (.barwait gd d s1 cycles)) = .ok (.barwait gd d s1 cycles) := by
  replace h : (gd.wf) = true := h
  have en : encode (.barwait gd d s1 cycles) =
    (encA 0xEA 0 gd (fld d) (fld s1) 0 0 0 cycles) := rfl
  simp only [encA, hdr] at en
  rw [en]
  refine decode_of ((parse_EA (Hdr.ofBits_append _ _)).trans ?_) ?_
  · simp only [FA.ofBits_append, Hdr.guard_mk, ofNat4]
    clear en
    ((try simp [FA.ok] at h ⊢) <;> (try simp_all))
  · rw [Hdr.ofBits_append]; simp_all

theorem decode_encode_barwaitF (gd : Guard) (s1 : Fin 4) (cycles : BitVec 32) (h : (Instr.barwaitF gd s1 cycles).wf = true) : decode (encode (.barwaitF gd s1 cycles)) = .ok (.barwaitF gd s1 cycles) := by
  replace h : (gd.wf) = true := h
  have en : encode (.barwaitF gd s1 cycles) =
    (encA 0xEA 1 gd 0 (fld s1) 0 0 0 cycles) := rfl
  simp only [encA, hdr] at en
  rw [en]
  refine decode_of ((parse_EA (Hdr.ofBits_append _ _)).trans ?_) ?_
  · simp only [FA.ofBits_append, Hdr.guard_mk, ofNat4]
    clear en
    ((try simp [FA.ok] at h ⊢) <;> (try simp_all))
  · rw [Hdr.ofBits_append]; simp_all

theorem decode_encode_barwd (gd : Guard) (s1 : Fin 4) (h : (Instr.barwd gd s1).wf = true) : decode (encode (.barwd gd s1)) = .ok (.barwd gd s1) := by
  replace h : (gd.wf) = true := h
  have en : encode (.barwd gd s1) =
    (encX 0xEB 0 gd 0 (fld s1) 0) := rfl
  simp only [encA, encX, hdr] at en
  rw [en]
  refine decode_of ((parse_EB (Hdr.ofBits_append _ _)).trans ?_) ?_
  · simp only [FA.ofBits_append, Hdr.guard_mk, ofNat4]
    clear en
    ((try simp [FA.ok] at h ⊢) <;> (try simp_all))
  · rw [Hdr.ofBits_append]; simp_all

theorem decode_encode_chkpt (gd : Guard) (d : Fin 32) (s1 : Fin 32) (h : (Instr.chkpt gd d s1).wf = true) : decode (encode (.chkpt gd d s1)) = .ok (.chkpt gd d s1) := by
  replace h : (gd.wf) = true := h
  have en : encode (.chkpt gd d s1) =
    (encX 0xEC 0 gd (fld d) (fld s1) 0) := rfl
  simp only [encA, encX, hdr] at en
  rw [en]
  refine decode_of ((parse_EC (Hdr.ofBits_append _ _)).trans ?_) ?_
  · simp only [FA.ofBits_append, Hdr.guard_mk, ofNat4]
    clear en
    ((try simp [FA.ok, parseX] at h ⊢) <;> (try simp_all))
  · rw [Hdr.ofBits_append]; simp_all

theorem decode_encode_tlbinv (gd : Guard) (s1 : Fin 32) (s2 : Fin 32) (scope : Fin 4) (h : (Instr.tlbinv gd s1 s2 scope).wf = true) : decode (encode (.tlbinv gd s1 s2 scope)) = .ok (.tlbinv gd s1 s2 scope) := by
  replace h : (gd.wf) = true := h
  have en : encode (.tlbinv gd s1 s2 scope) =
    (encA 0xED 0 gd 0 (fld s1) (fld s2) 0 scope.val 0) := rfl
  simp only [encA, hdr] at en
  rw [en]
  refine decode_of ((parse_ED (Hdr.ofBits_append _ _)).trans ?_) ?_
  · simp only [FA.ofBits_append, Hdr.guard_mk, ofNat4]
    clear en
    (rcases scope with ⟨_ | _ | _ | _ | _, hscope⟩ <;> try omega) <;> ((try simp [FA.ok] at h ⊢) <;> (try simp_all) <;> (try rfl))
  · rw [Hdr.ofBits_append]; simp_all

theorem decode_encode_rmapsetRemap (gd : Guard) (d : Fin 32) (s1 : Fin 32) (s2 : Fin 32) (h : (Instr.rmapsetRemap gd d s1 s2).wf = true) : decode (encode (.rmapsetRemap gd d s1 s2)) = .ok (.rmapsetRemap gd d s1 s2) := by
  replace h : (gd.wf) = true := h
  have en : encode (.rmapsetRemap gd d s1 s2) =
    (encA 0xEE 0 gd (fld d) (fld s1) (fld s2) 0 0 0) := rfl
  simp only [encA, hdr] at en
  rw [en]
  refine decode_of ((parse_EE (Hdr.ofBits_append _ _)).trans ?_) ?_
  · simp only [FA.ofBits_append, Hdr.guard_mk, ofNat4]
    clear en
    ((try simp [FA.ok] at h ⊢) <;> (try simp_all))
  · rw [Hdr.ofBits_append]; simp_all

theorem decode_encode_rmapsetMarkDead (gd : Guard) (d : Fin 32) (s1 : Fin 32) (s2 : Fin 32) (h : (Instr.rmapsetMarkDead gd d s1 s2).wf = true) : decode (encode (.rmapsetMarkDead gd d s1 s2)) = .ok (.rmapsetMarkDead gd d s1 s2) := by
  replace h : (gd.wf) = true := h
  have en : encode (.rmapsetMarkDead gd d s1 s2) =
    (encA 0xEE 0 gd (fld d) (fld s1) (fld s2) 0 1 0) := rfl
  simp only [encA, hdr] at en
  rw [en]
  refine decode_of ((parse_EE (Hdr.ofBits_append _ _)).trans ?_) ?_
  · simp only [FA.ofBits_append, Hdr.guard_mk, ofNat4]
    clear en
    ((try simp [FA.ok] at h ⊢) <;> (try simp_all))
  · rw [Hdr.ofBits_append]; simp_all

theorem decode_encode_rmapsetClearDead (gd : Guard) (d : Fin 32) (s1 : Fin 32) (s2 : Fin 32) (h : (Instr.rmapsetClearDead gd d s1 s2).wf = true) : decode (encode (.rmapsetClearDead gd d s1 s2)) = .ok (.rmapsetClearDead gd d s1 s2) := by
  replace h : (gd.wf) = true := h
  have en : encode (.rmapsetClearDead gd d s1 s2) =
    (encA 0xEE 0 gd (fld d) (fld s1) (fld s2) 0 2 0) := rfl
  simp only [encA, hdr] at en
  rw [en]
  refine decode_of ((parse_EE (Hdr.ofBits_append _ _)).trans ?_) ?_
  · simp only [FA.ofBits_append, Hdr.guard_mk, ofNat4]
    clear en
    ((try simp [FA.ok] at h ⊢) <;> (try simp_all))
  · rw [Hdr.ofBits_append]; simp_all

theorem decode_encode_grpjoin (gd : Guard) (d : Fin 32) (s1 : Fin 32) (s2 : Fin 32) (h : (Instr.grpjoin gd d s1 s2).wf = true) : decode (encode (.grpjoin gd d s1 s2)) = .ok (.grpjoin gd d s1 s2) := by
  replace h : (gd.wf) = true := h
  have en : encode (.grpjoin gd d s1 s2) =
    (encX 0xF0 0 gd (fld d) (fld s1) (fld s2)) := rfl
  simp only [encA, encX, hdr] at en
  rw [en]
  refine decode_of ((parse_F0 (Hdr.ofBits_append _ _)).trans ?_) ?_
  · simp only [FA.ofBits_append, Hdr.guard_mk, ofNat4]
    clear en
    ((try simp [FA.ok, parseX] at h ⊢) <;> (try simp_all))
  · rw [Hdr.ofBits_append]; simp_all

theorem decode_encode_grpleave (gd : Guard) (s1 : Fin 32) (h : (Instr.grpleave gd s1).wf = true) : decode (encode (.grpleave gd s1)) = .ok (.grpleave gd s1) := by
  replace h : (gd.wf) = true := h
  have en : encode (.grpleave gd s1) =
    (encX 0xF1 0 gd 0 (fld s1) 0) := rfl
  simp only [encA, encX, hdr] at en
  rw [en]
  refine decode_of ((parse_F1 (Hdr.ofBits_append _ _)).trans ?_) ?_
  · simp only [FA.ofBits_append, Hdr.guard_mk, ofNat4]
    clear en
    ((try simp [FA.ok, parseX] at h ⊢) <;> (try simp_all))
  · rw [Hdr.ofBits_append]; simp_all

theorem decode_encode_grpred (gd : Guard) (op : Red3) (d : Fin 16) (s1 : Fin 32) (s2 : Fin 16) (h : (Instr.grpred gd op d s1 s2).wf = true) : decode (encode (.grpred gd op d s1 s2)) = .ok (.grpred gd op d s1 s2) := by
  replace h : (gd.wf) = true := h
  have en : encode (.grpred gd op d s1 s2) =
    (encA 0xF2 0 gd (fld d) (fld s1) (fld s2) 0 op.code 0) := rfl
  simp only [encA, hdr] at en
  rw [en]
  refine decode_of ((parse_F2 (Hdr.ofBits_append _ _)).trans ?_) ?_
  · simp only [FA.ofBits_append, Hdr.guard_mk, ofNat4]
    clear en
    (cases op) <;> ((try simp [FA.ok, Red3.code, Red3.ofCode] at h ⊢) <;> (try simp_all))
  · rw [Hdr.ofBits_append]; simp_all

theorem decode_encode_grpbc (gd : Guard) (d : Fin 16) (s1 : Fin 32) (s2 : Fin 16) (root : BitVec 8) (h : (Instr.grpbc gd d s1 s2 root).wf = true) : decode (encode (.grpbc gd d s1 s2 root)) = .ok (.grpbc gd d s1 s2 root) := by
  replace h : (gd.wf) = true := h
  have en : encode (.grpbc gd d s1 s2 root) =
    (encA 0xF3 0 gd (fld d) (fld s1) (fld s2) 0 0 (root.zeroExtend 32)) := rfl
  simp only [encA, hdr] at en
  rw [en]
  refine decode_of ((parse_F3 (Hdr.ofBits_append _ _)).trans ?_) ?_
  · simp only [FA.ofBits_append, Hdr.guard_mk, ofNat4]
    clear en
    ((try simp [FA.ok] at h ⊢) <;> (try simp_all))
  · rw [Hdr.ofBits_append]; simp_all

theorem decode_encode_grpbar (gd : Guard) (s1 : Fin 32) (h : (Instr.grpbar gd s1).wf = true) : decode (encode (.grpbar gd s1)) = .ok (.grpbar gd s1) := by
  replace h : (gd.wf) = true := h
  have en : encode (.grpbar gd s1) =
    (encX 0xF4 0 gd 0 (fld s1) 0) := rfl
  simp only [encA, encX, hdr] at en
  rw [en]
  refine decode_of ((parse_F4 (Hdr.ofBits_append _ _)).trans ?_) ?_
  · simp only [FA.ofBits_append, Hdr.guard_mk, ofNat4]
    clear en
    ((try simp [FA.ok, parseX] at h ⊢) <;> (try simp_all))
  · rw [Hdr.ofBits_append]; simp_all

theorem decode_encode_fremap (gd : Guard) (d : Fin 32) (s1 : Fin 32) (s2 : Fin 32) (h : (Instr.fremap gd d s1 s2).wf = true) : decode (encode (.fremap gd d s1 s2)) = .ok (.fremap gd d s1 s2) := by
  replace h : (gd.wf) = true := h
  have en : encode (.fremap gd d s1 s2) =
    (encX 0xF5 0 gd (fld d) (fld s1) (fld s2)) := rfl
  simp only [encA, encX, hdr] at en
  rw [en]
  refine decode_of ((parse_F5 (Hdr.ofBits_append _ _)).trans ?_) ?_
  · simp only [FA.ofBits_append, Hdr.guard_mk, ofNat4]
    clear en
    ((try simp [FA.ok, parseX] at h ⊢) <;> (try simp_all))
  · rw [Hdr.ofBits_append]; simp_all

/-- Decoding the word of a well-formed instruction gives that instruction back. The steps of other agents have no
word and are not well formed. -/
def Laws.RoundTrip.Statement (i : Instr) : Prop := i.wf = true → decode (encode i) = .ok i

theorem Laws.RoundTrip.nop (gd : Guard) : Laws.RoundTrip.Statement (.nop gd) :=
  fun wf => decode_encode_nop gd wf
theorem Laws.RoundTrip.j (gd : Guard) (off : BitVec 40) : Laws.RoundTrip.Statement (.j gd off) :=
  fun wf => decode_encode_j gd off wf
theorem Laws.RoundTrip.jal (gd : Guard) (d : Fin 32) (off : BitVec 40) : Laws.RoundTrip.Statement (.jal gd d off) :=
  fun wf => decode_encode_jal gd d off wf
theorem Laws.RoundTrip.jr (gd : Guard) (s1 : Fin 32) : Laws.RoundTrip.Statement (.jr gd s1) :=
  fun wf => decode_encode_jr gd s1 wf
theorem Laws.RoundTrip.jalr (gd : Guard) (d : Fin 32) (s1 : Fin 32) : Laws.RoundTrip.Statement (.jalr gd d s1) :=
  fun wf => decode_encode_jalr gd d s1 wf
theorem Laws.RoundTrip.br (gd : Guard) (g2 : Fin 16) (off : BitVec 40) : Laws.RoundTrip.Statement (.br gd g2 off) :=
  fun wf => decode_encode_br gd g2 off wf
theorem Laws.RoundTrip.brF (gd : Guard) (g2 : Fin 16) (off : BitVec 40) : Laws.RoundTrip.Statement (.brF gd g2 off) :=
  fun wf => decode_encode_brF gd g2 off wf
theorem Laws.RoundTrip.loop (gd : Guard) (lv : Fin 2) (s1 : Fin 32) (off : BitVec 40) : Laws.RoundTrip.Statement (.loop gd lv s1 off) :=
  fun wf => decode_encode_loop gd lv s1 off wf
theorem Laws.RoundTrip.loopi (gd : Guard) (lv : Fin 2) (cnt : BitVec 24) (off : BitVec 40) : Laws.RoundTrip.Statement (.loopi gd lv cnt off) :=
  fun wf => decode_encode_loopi gd lv cnt off wf
theorem Laws.RoundTrip.loopx (gd : Guard) (lv : Fin 2) (d : Fin 32) (s1 : Fin 32) (st : Fin 32) (off : BitVec 40) : Laws.RoundTrip.Statement (.loopx gd lv d s1 st off) :=
  fun wf => decode_encode_loopx gd lv d s1 st off wf
theorem Laws.RoundTrip.trap (gd : Guard) (code : BitVec 16) : Laws.RoundTrip.Statement (.trap gd code) :=
  fun wf => decode_encode_trap gd code wf
theorem Laws.RoundTrip.brk (gd : Guard) (code : BitVec 16) : Laws.RoundTrip.Statement (.brk gd code) :=
  fun wf => decode_encode_brk gd code wf
theorem Laws.RoundTrip.supcall (gd : Guard) (code : BitVec 16) : Laws.RoundTrip.Statement (.supcall gd code) :=
  fun wf => decode_encode_supcall gd code wf
theorem Laws.RoundTrip.rdsys (gd : Guard) (d : Fin 32) (n : BitVec 12) : Laws.RoundTrip.Statement (.rdsys gd d n) :=
  fun wf => decode_encode_rdsys gd d n wf
theorem Laws.RoundTrip.wrsys (gd : Guard) (n : BitVec 12) (s1 : Fin 32) : Laws.RoundTrip.Statement (.wrsys gd n s1) :=
  fun wf => decode_encode_wrsys gd n s1 wf
theorem Laws.RoundTrip.rdtime (gd : Guard) (d : Fin 32) : Laws.RoundTrip.Statement (.rdtime gd d) :=
  fun wf => decode_encode_rdtime gd d wf
theorem Laws.RoundTrip.sleepuntil (gd : Guard) (s1 : Fin 32) (s2 : Fin 32) : Laws.RoundTrip.Statement (.sleepuntil gd s1 s2) :=
  fun wf => decode_encode_sleepuntil gd s1 s2 wf
theorem Laws.RoundTrip.add (a : Alu) : Laws.RoundTrip.Statement (.add a) :=
  fun wf => decode_encode_add a wf
theorem Laws.RoundTrip.sub (a : Alu) : Laws.RoundTrip.Statement (.sub a) :=
  fun wf => decode_encode_sub a wf
theorem Laws.RoundTrip.and (a : Alu) : Laws.RoundTrip.Statement (.and a) :=
  fun wf => decode_encode_and a wf
theorem Laws.RoundTrip.or (a : Alu) : Laws.RoundTrip.Statement (.or a) :=
  fun wf => decode_encode_or a wf
theorem Laws.RoundTrip.xor (a : Alu) : Laws.RoundTrip.Statement (.xor a) :=
  fun wf => decode_encode_xor a wf
theorem Laws.RoundTrip.sll (a : Alu) : Laws.RoundTrip.Statement (.sll a) :=
  fun wf => decode_encode_sll a wf
theorem Laws.RoundTrip.srl (a : Alu) : Laws.RoundTrip.Statement (.srl a) :=
  fun wf => decode_encode_srl a wf
theorem Laws.RoundTrip.sra (a : Alu) : Laws.RoundTrip.Statement (.sra a) :=
  fun wf => decode_encode_sra a wf
theorem Laws.RoundTrip.slt (a : Alu) : Laws.RoundTrip.Statement (.slt a) :=
  fun wf => decode_encode_slt a wf
theorem Laws.RoundTrip.sltu (a : Alu) : Laws.RoundTrip.Statement (.sltu a) :=
  fun wf => decode_encode_sltu a wf
theorem Laws.RoundTrip.mul (a : Alu) : Laws.RoundTrip.Statement (.mul a) :=
  fun wf => decode_encode_mul a wf
theorem Laws.RoundTrip.mulh (a : Alu) : Laws.RoundTrip.Statement (.mulh a) :=
  fun wf => decode_encode_mulh a wf
theorem Laws.RoundTrip.mulhm (a : Alu) : Laws.RoundTrip.Statement (.mulhm a) :=
  fun wf => decode_encode_mulhm a wf
theorem Laws.RoundTrip.mulhu (a : Alu) : Laws.RoundTrip.Statement (.mulhu a) :=
  fun wf => decode_encode_mulhu a wf
theorem Laws.RoundTrip.div (a : Alu) : Laws.RoundTrip.Statement (.div a) :=
  fun wf => decode_encode_div a wf
theorem Laws.RoundTrip.divu (a : Alu) : Laws.RoundTrip.Statement (.divu a) :=
  fun wf => decode_encode_divu a wf
theorem Laws.RoundTrip.rem (a : Alu) : Laws.RoundTrip.Statement (.rem a) :=
  fun wf => decode_encode_rem a wf
theorem Laws.RoundTrip.remu (a : Alu) : Laws.RoundTrip.Statement (.remu a) :=
  fun wf => decode_encode_remu a wf
theorem Laws.RoundTrip.min (a : Alu) : Laws.RoundTrip.Statement (.min a) :=
  fun wf => decode_encode_min a wf
theorem Laws.RoundTrip.max (a : Alu) : Laws.RoundTrip.Statement (.max a) :=
  fun wf => decode_encode_max a wf
theorem Laws.RoundTrip.minu (a : Alu) : Laws.RoundTrip.Statement (.minu a) :=
  fun wf => decode_encode_minu a wf
theorem Laws.RoundTrip.maxu (a : Alu) : Laws.RoundTrip.Statement (.maxu a) :=
  fun wf => decode_encode_maxu a wf
theorem Laws.RoundTrip.clz (a : Un) : Laws.RoundTrip.Statement (.clz a) :=
  fun wf => decode_encode_clz a wf
theorem Laws.RoundTrip.ctz (a : Un) : Laws.RoundTrip.Statement (.ctz a) :=
  fun wf => decode_encode_ctz a wf
theorem Laws.RoundTrip.cpop (a : Un) : Laws.RoundTrip.Statement (.cpop a) :=
  fun wf => decode_encode_cpop a wf
theorem Laws.RoundTrip.li (gd : Guard) (d : Fin 32) (imm : Word) : Laws.RoundTrip.Statement (.li gd d imm) :=
  fun wf => decode_encode_li gd d imm wf
theorem Laws.RoundTrip.addpc (gd : Guard) (d : Fin 32) (off : BitVec 32) : Laws.RoundTrip.Statement (.addpc gd d off) :=
  fun wf => decode_encode_addpc gd d off wf
theorem Laws.RoundTrip.cmp (gd : Guard) (w : Bool) (c : Cond) (d : Fin 16) (s1 : Fin 32) (src : Src) : Laws.RoundTrip.Statement (.cmp gd w c d s1 src) :=
  fun wf => decode_encode_cmp gd w c d s1 src wf
theorem Laws.RoundTrip.tst (gd : Guard) (z : Bool) (d : Fin 16) (s1 : Fin 32) (src : Src) : Laws.RoundTrip.Statement (.tst gd z d s1 src) :=
  fun wf => decode_encode_tst gd z d s1 src wf
theorem Laws.RoundTrip.glog (gd : Guard) (d : Fin 16) (a : Fin 16) (b : Fin 16) (tbl : BitVec 4) : Laws.RoundTrip.Statement (.glog gd d a b tbl) :=
  fun wf => decode_encode_glog gd d a b tbl wf
theorem Laws.RoundTrip.grd (gd : Guard) (d : Fin 32) : Laws.RoundTrip.Statement (.grd gd d) :=
  fun wf => decode_encode_grd gd d wf
theorem Laws.RoundTrip.gwr (gd : Guard) (s1 : Fin 32) (mask : BitVec 16) : Laws.RoundTrip.Statement (.gwr gd s1 mask) :=
  fun wf => decode_encode_gwr gd s1 mask wf
theorem Laws.RoundTrip.fork (gd : Guard) (s1 : Fin 32) (j : Fin 32) (dom : Fin 8) (pri : Fin 4) (off : BitVec 40) : Laws.RoundTrip.Statement (.fork gd s1 j dom pri off) :=
  fun wf => decode_encode_fork gd s1 j dom pri off wf
theorem Laws.RoundTrip.spawn (gd : Guard) (s1 : Fin 32) (t : Fin 32) (j : Fin 32) (dom : Fin 8) (pri : Fin 4) (off : BitVec 40) : Laws.RoundTrip.Statement (.spawn gd s1 t j dom pri off) :=
  fun wf => decode_encode_spawn gd s1 t j dom pri off wf
theorem Laws.RoundTrip.joindec (gd : Guard) (s1 : Fin 32) : Laws.RoundTrip.Statement (.joindec gd s1) :=
  fun wf => decode_encode_joindec gd s1 wf
theorem Laws.RoundTrip.suspend (gd : Guard) : Laws.RoundTrip.Statement (.suspend gd) :=
  fun wf => decode_encode_suspend gd wf
theorem Laws.RoundTrip.suspendJ (gd : Guard) (s1 : Fin 32) : Laws.RoundTrip.Statement (.suspendJ gd s1) :=
  fun wf => decode_encode_suspendJ gd s1 wf
theorem Laws.RoundTrip.await (gd : Guard) (s1 : Fin 32) : Laws.RoundTrip.Statement (.await gd s1) :=
  fun wf => decode_encode_await gd s1 wf
theorem Laws.RoundTrip.yield (gd : Guard) : Laws.RoundTrip.Statement (.yield gd) :=
  fun wf => decode_encode_yield gd wf
theorem Laws.RoundTrip.exit (gd : Guard) : Laws.RoundTrip.Statement (.exit gd) :=
  fun wf => decode_encode_exit gd wf
theorem Laws.RoundTrip.stealdom (gd : Guard) (src : Src) : Laws.RoundTrip.Statement (.stealdom gd src) :=
  fun wf => decode_encode_stealdom gd src wf
theorem Laws.RoundTrip.getid (gd : Guard) (d : Fin 32) (sel : Fin 9) : Laws.RoundTrip.Statement (.getid gd d sel) :=
  fun wf => decode_encode_getid gd d sel wf
theorem Laws.RoundTrip.waitev (gd : Guard) (d : Fin 32) (src : Src) (watch : Option (Fin 32)) : Laws.RoundTrip.Statement (.waitev gd d src watch) :=
  fun wf => decode_encode_waitev gd d src watch wf
theorem Laws.RoundTrip.sigev (gd : Guard) (s1 : Fin 32) (s2 : Fin 32) : Laws.RoundTrip.Statement (.sigev gd s1 s2) :=
  fun wf => decode_encode_sigev gd s1 s2 wf
theorem Laws.RoundTrip.ld (a : MemForm) : Laws.RoundTrip.Statement (.ld a) :=
  fun wf => decode_encode_ld a wf
theorem Laws.RoundTrip.ldu (a : MemForm) : Laws.RoundTrip.Statement (.ldu a) :=
  fun wf => decode_encode_ldu a wf
theorem Laws.RoundTrip.st (a : MemForm) : Laws.RoundTrip.Statement (.st a) :=
  fun wf => decode_encode_st a wf
theorem Laws.RoundTrip.ldAcq (a : MemForm) : Laws.RoundTrip.Statement (.ldAcq a) :=
  fun wf => decode_encode_ldAcq a wf
theorem Laws.RoundTrip.stRel (a : MemForm) : Laws.RoundTrip.Statement (.stRel a) :=
  fun wf => decode_encode_stRel a wf
theorem Laws.RoundTrip.ldw (a : MemForm) : Laws.RoundTrip.Statement (.ldw a) :=
  fun wf => decode_encode_ldw a wf
theorem Laws.RoundTrip.ldt (a : MemForm) : Laws.RoundTrip.Statement (.ldt a) :=
  fun wf => decode_encode_ldt a wf
theorem Laws.RoundTrip.stf (a : MemForm) : Laws.RoundTrip.Statement (.stf a) :=
  fun wf => decode_encode_stf a wf
theorem Laws.RoundTrip.stw (a : MemForm) : Laws.RoundTrip.Statement (.stw a) :=
  fun wf => decode_encode_stw a wf
theorem Laws.RoundTrip.lrq (a : MemForm) : Laws.RoundTrip.Statement (.lrq a) :=
  fun wf => decode_encode_lrq a wf
theorem Laws.RoundTrip.scq (a : MemForm) : Laws.RoundTrip.Statement (.scq a) :=
  fun wf => decode_encode_scq a wf
theorem Laws.RoundTrip.relq (a : MemForm) : Laws.RoundTrip.Statement (.relq a) :=
  fun wf => decode_encode_relq a wf
theorem Laws.RoundTrip.amo (gd : Guard) (w : Bool) (op : AmoOp) (aq : Bool) (rl : Bool) (d : Fin 32) (s1 : Fin 32) (src : Src) (s3 : Fin 32) : Laws.RoundTrip.Statement (.amo gd w op aq rl d s1 src s3) :=
  fun wf => decode_encode_amo gd w op aq rl d s1 src s3 wf
theorem Laws.RoundTrip.fence (gd : Guard) : Laws.RoundTrip.Statement (.fence gd) :=
  fun wf => decode_encode_fence gd wf
theorem Laws.RoundTrip.fenceEng (gd : Guard) : Laws.RoundTrip.Statement (.fenceEng gd) :=
  fun wf => decode_encode_fenceEng gd wf
theorem Laws.RoundTrip.fenceI (gd : Guard) : Laws.RoundTrip.Statement (.fenceI gd) :=
  fun wf => decode_encode_fenceI gd wf
theorem Laws.RoundTrip.vadd (a : VBin) : Laws.RoundTrip.Statement (.vadd a) :=
  fun wf => decode_encode_vadd a wf
theorem Laws.RoundTrip.vsub (a : VBin) : Laws.RoundTrip.Statement (.vsub a) :=
  fun wf => decode_encode_vsub a wf
theorem Laws.RoundTrip.vmul (a : VBin) : Laws.RoundTrip.Statement (.vmul a) :=
  fun wf => decode_encode_vmul a wf
theorem Laws.RoundTrip.vfma (a : VBin) (s3 : Fin 16) : Laws.RoundTrip.Statement (.vfma a s3) :=
  fun wf => decode_encode_vfma a s3 wf
theorem Laws.RoundTrip.vmin (a : VBin) : Laws.RoundTrip.Statement (.vmin a) :=
  fun wf => decode_encode_vmin a wf
theorem Laws.RoundTrip.vmax (a : VBin) : Laws.RoundTrip.Statement (.vmax a) :=
  fun wf => decode_encode_vmax a wf
theorem Laws.RoundTrip.vabs (a : VUn) : Laws.RoundTrip.Statement (.vabs a) :=
  fun wf => decode_encode_vabs a wf
theorem Laws.RoundTrip.vneg (a : VUn) : Laws.RoundTrip.Statement (.vneg a) :=
  fun wf => decode_encode_vneg a wf
theorem Laws.RoundTrip.vand (gd : Guard) (d : Fin 16) (s1 : Fin 16) (src : VSrc) : Laws.RoundTrip.Statement (.vand gd d s1 src) :=
  fun wf => decode_encode_vand gd d s1 src wf
theorem Laws.RoundTrip.vor (gd : Guard) (d : Fin 16) (s1 : Fin 16) (src : VSrc) : Laws.RoundTrip.Statement (.vor gd d s1 src) :=
  fun wf => decode_encode_vor gd d s1 src wf
theorem Laws.RoundTrip.vxor (gd : Guard) (d : Fin 16) (s1 : Fin 16) (src : VSrc) : Laws.RoundTrip.Statement (.vxor gd d s1 src) :=
  fun wf => decode_encode_vxor gd d s1 src wf
theorem Laws.RoundTrip.vshl (gd : Guard) (d : Fin 16) (s1 : Fin 16) (src : VSrc) : Laws.RoundTrip.Statement (.vshl gd d s1 src) :=
  fun wf => decode_encode_vshl gd d s1 src wf
theorem Laws.RoundTrip.vshr (gd : Guard) (lgc : Bool) (d : Fin 16) (s1 : Fin 16) (src : VSrc) : Laws.RoundTrip.Statement (.vshr gd lgc d s1 src) :=
  fun wf => decode_encode_vshr gd lgc d s1 src wf
theorem Laws.RoundTrip.vcmp (gd : Guard) (c : VCond) (d : VCmpDst) (s1 : Fin 16) (src : VSrc) : Laws.RoundTrip.Statement (.vcmp gd c d s1 src) :=
  fun wf => decode_encode_vcmp gd c d s1 src wf
theorem Laws.RoundTrip.vsel (gd : Guard) (d : Fin 16) (s1 : Fin 16) (s2 : Fin 16) (s3 : Fin 16) : Laws.RoundTrip.Statement (.vsel gd d s1 s2 s3) :=
  fun wf => decode_encode_vsel gd d s1 s2 s3 wf
theorem Laws.RoundTrip.vperm (gd : Guard) (d : Fin 16) (s1 : Fin 16) (s2 : Fin 16) : Laws.RoundTrip.Statement (.vperm gd d s1 s2) :=
  fun wf => decode_encode_vperm gd d s1 s2 wf
theorem Laws.RoundTrip.vslide (gd : Guard) (d : Fin 16) (s1 : Fin 16) (src : Src) : Laws.RoundTrip.Statement (.vslide gd d s1 src) :=
  fun wf => decode_encode_vslide gd d s1 src wf
theorem Laws.RoundTrip.vbcast (gd : Guard) (d : Fin 16) (src : Src) (mode : RMode) : Laws.RoundTrip.Statement (.vbcast gd d src mode) :=
  fun wf => decode_encode_vbcast gd d src mode wf
theorem Laws.RoundTrip.vmovx (gd : Guard) (d : Fin 32) (s1 : Fin 16) (src : Src) : Laws.RoundTrip.Statement (.vmovx gd d s1 src) :=
  fun wf => decode_encode_vmovx gd d s1 src wf
theorem Laws.RoundTrip.vins (gd : Guard) (d : Fin 16) (s1 : Fin 16) (src : Src) (s3 : Fin 32) : Laws.RoundTrip.Statement (.vins gd d s1 src s3) :=
  fun wf => decode_encode_vins gd d s1 src s3 wf
theorem Laws.RoundTrip.vred (gd : Guard) (op : RedOp) (mode : RMode) (d : RedDst) (s1 : Fin 16) (m : Option (Fin 16)) : Laws.RoundTrip.Statement (.vred gd op mode d s1 m) :=
  fun wf => decode_encode_vred gd op mode d s1 m wf
theorem Laws.RoundTrip.vsettag (gd : Guard) (d : Fin 16) (s1 : Fin 16) (src : Src) : Laws.RoundTrip.Statement (.vsettag gd d s1 src) :=
  fun wf => decode_encode_vsettag gd d s1 src wf
theorem Laws.RoundTrip.vgettag (gd : Guard) (d : Fin 32) (s1 : Fin 16) : Laws.RoundTrip.Statement (.vgettag gd d s1) :=
  fun wf => decode_encode_vgettag gd d s1 wf
theorem Laws.RoundTrip.vcvt (gd : Guard) (mode : RMode) (part : Fin 4) (d : Fin 16) (s1 : Fin 16) (tag : Tag) : Laws.RoundTrip.Statement (.vcvt gd mode part d s1 tag) :=
  fun wf => decode_encode_vcvt gd mode part d s1 tag wf
theorem Laws.RoundTrip.vqnt (gd : Guard) (mode : RMode) (d : Fin 16) (s1 : Fin 16) (s3 : Fin 32) (tag : Tag) : Laws.RoundTrip.Statement (.vqnt gd mode d s1 s3 tag) :=
  fun wf => decode_encode_vqnt gd mode d s1 s3 tag wf
theorem Laws.RoundTrip.vdqnt (gd : Guard) (mode : RMode) (d : Fin 16) (s1 : Fin 16) (s2 : Fin 32) (tag : Tag) : Laws.RoundTrip.Statement (.vdqnt gd mode d s1 s2 tag) :=
  fun wf => decode_encode_vdqnt gd mode d s1 s2 tag wf
theorem Laws.RoundTrip.vld (gd : Guard) (d : Fin 16) (s1 : Fin 32) (off : BitVec 32) (tag : Tag) : Laws.RoundTrip.Statement (.vld gd d s1 off tag) :=
  fun wf => decode_encode_vld gd d s1 off tag wf
theorem Laws.RoundTrip.vst (gd : Guard) (s3 : Fin 16) (s1 : Fin 32) (off : BitVec 32) : Laws.RoundTrip.Statement (.vst gd s3 s1 off) :=
  fun wf => decode_encode_vst gd s3 s1 off wf
theorem Laws.RoundTrip.vlds (gd : Guard) (d : Fin 16) (s1 : Fin 32) (s2 : Fin 32) (tag : Tag) : Laws.RoundTrip.Statement (.vlds gd d s1 s2 tag) :=
  fun wf => decode_encode_vlds gd d s1 s2 tag wf
theorem Laws.RoundTrip.vsts (gd : Guard) (s3 : Fin 16) (s1 : Fin 32) (s2 : Fin 32) : Laws.RoundTrip.Statement (.vsts gd s3 s1 s2) :=
  fun wf => decode_encode_vsts gd s3 s1 s2 wf
theorem Laws.RoundTrip.vldx (gd : Guard) (d : Fin 16) (s1 : Fin 32) (s2 : Fin 16) (tag : Tag) : Laws.RoundTrip.Statement (.vldx gd d s1 s2 tag) :=
  fun wf => decode_encode_vldx gd d s1 s2 tag wf
theorem Laws.RoundTrip.vstx (gd : Guard) (s3 : Fin 16) (s1 : Fin 32) (s2 : Fin 16) : Laws.RoundTrip.Statement (.vstx gd s3 s1 s2) :=
  fun wf => decode_encode_vstx gd s3 s1 s2 wf
theorem Laws.RoundTrip.qbind (gd : Guard) (d : Fin 32) (s1 : Fin 32) (s2 : Fin 32) : Laws.RoundTrip.Statement (.qbind gd d s1 s2) :=
  fun wf => decode_encode_qbind gd d s1 s2 wf
theorem Laws.RoundTrip.qfree (gd : Guard) (d : Fin 32) : Laws.RoundTrip.Statement (.qfree gd d) :=
  fun wf => decode_encode_qfree gd d wf
theorem Laws.RoundTrip.qstat (gd : Guard) (d : Fin 32) (s1 : Fin 32) : Laws.RoundTrip.Statement (.qstat gd d s1) :=
  fun wf => decode_encode_qstat gd d s1 wf
theorem Laws.RoundTrip.vqpop (gd : Guard) (d : Fin 16) (s1 : Fin 32) : Laws.RoundTrip.Statement (.vqpop gd d s1) :=
  fun wf => decode_encode_vqpop gd d s1 wf
theorem Laws.RoundTrip.vqpush (gd : Guard) (s3 : Fin 16) (s1 : Fin 32) : Laws.RoundTrip.Statement (.vqpush gd s3 s1) :=
  fun wf => decode_encode_vqpush gd s3 s1 wf
theorem Laws.RoundTrip.vsend (gd : Guard) (s3 : Fin 16) (s1 : Fin 32) (wtag : Tag) (imm : BitVec 32) : Laws.RoundTrip.Statement (.vsend gd s3 s1 wtag imm) :=
  fun wf => decode_encode_vsend gd s3 s1 wtag imm wf
theorem Laws.RoundTrip.amcall (gd : Guard) (s1 : Fin 32) (s2 : Fin 32) (kind : BitVec 8) (len : BitVec 9) : Laws.RoundTrip.Statement (.amcall gd s1 s2 kind len) :=
  fun wf => decode_encode_amcall gd s1 s2 kind len wf
theorem Laws.RoundTrip.cxop (gd : Guard) (mode : RMode) (d : Fin 16) (s1 : Fin 16) (s2 : Fin 16) (s3 : Fin 16) (n : BitVec 8) (sc : Fin 32) : Laws.RoundTrip.Statement (.cxop gd mode d s1 s2 s3 n sc) :=
  fun wf => decode_encode_cxop gd mode d s1 s2 s3 n sc wf
theorem Laws.RoundTrip.cxload (gd : Guard) (s1 : Fin 32) : Laws.RoundTrip.Statement (.cxload gd s1) :=
  fun wf => decode_encode_cxload gd s1 wf
theorem Laws.RoundTrip.cxdrop (gd : Guard) (s1 : Fin 32) : Laws.RoundTrip.Statement (.cxdrop gd s1) :=
  fun wf => decode_encode_cxdrop gd s1 wf
theorem Laws.RoundTrip.cxqry (gd : Guard) (d : Fin 32) (s1 : Fin 32) : Laws.RoundTrip.Statement (.cxqry gd d s1) :=
  fun wf => decode_encode_cxqry gd d s1 wf
theorem Laws.RoundTrip.cxtbl (gd : Guard) (s1 : Fin 32) (s2 : Fin 32) : Laws.RoundTrip.Statement (.cxtbl gd s1 s2) :=
  fun wf => decode_encode_cxtbl gd s1 s2 wf
theorem Laws.RoundTrip.bndset (gd : Guard) (k : Fin 16) (clr : Bool) (mode : BitVec 2) (s1 : Fin 32) : Laws.RoundTrip.Statement (.bndset gd k clr mode s1) :=
  fun wf => decode_encode_bndset gd k clr mode s1 wf
theorem Laws.RoundTrip.bndget (gd : Guard) (d : Fin 32) (k : Fin 16) (sel : Bool) : Laws.RoundTrip.Statement (.bndget gd d k sel) :=
  fun wf => decode_encode_bndget gd d k sel wf
theorem Laws.RoundTrip.cntrd (gd : Guard) (d : Fin 32) (k : Fin 4) (h : Fin 4) (j : Fin 8) : Laws.RoundTrip.Statement (.cntrd gd d k h j) :=
  fun wf => decode_encode_cntrd gd d k h j wf
theorem Laws.RoundTrip.cntclr (gd : Guard) (k : Fin 4) (h : Fin 4) (j : Fin 8) : Laws.RoundTrip.Statement (.cntclr gd k h j) :=
  fun wf => decode_encode_cntclr gd k h j wf
theorem Laws.RoundTrip.mshld (gd : Guard) (d : Fin 8) (s1 : Fin 32) (off : BitVec 32) : Laws.RoundTrip.Statement (.mshld gd d s1 off) :=
  fun wf => decode_encode_mshld gd d s1 off wf
theorem Laws.RoundTrip.mma (gd : Guard) (d : Fin 8) (sa : Fin 8) (sb : Fin 8) (o : MmaOpts) : Laws.RoundTrip.Statement (.mma gd d sa sb o) :=
  fun wf => decode_encode_mma gd d sa sb o wf
theorem Laws.RoundTrip.mmaSp (gd : Guard) (d : Fin 8) (sa : Fin 8) (sb : Fin 8) (o : MmaOpts) (s1 : Fin 32) (spn : Fin 3) : Laws.RoundTrip.Statement (.mmaSp gd d sa sb o s1 spn) :=
  fun wf => decode_encode_mmaSp gd d sa sb o s1 spn wf
theorem Laws.RoundTrip.mmaGa (gd : Guard) (d : Fin 8) (sa : Fin 8) (sb : Fin 8) (o : MmaOpts) (s2 : Fin 16) (mg : Fin 4) : Laws.RoundTrip.Statement (.mmaGa gd d sa sb o s2 mg) :=
  fun wf => decode_encode_mmaGa gd d sa sb o s2 mg wf
theorem Laws.RoundTrip.mmaSpga (gd : Guard) (d : Fin 8) (sa : Fin 8) (sb : Fin 8) (o : MmaOpts) (s1 : Fin 32) (spn : Fin 3) (s2 : Fin 16) (mg : Fin 4) : Laws.RoundTrip.Statement (.mmaSpga gd d sa sb o s1 spn s2 mg) :=
  fun wf => decode_encode_mmaSpga gd d sa sb o s1 spn s2 mg wf
theorem Laws.RoundTrip.mzero (gd : Guard) (d : Fin 8) (tag : Tag) : Laws.RoundTrip.Statement (.mzero gd d tag) :=
  fun wf => decode_encode_mzero gd d tag wf
theorem Laws.RoundTrip.mld (gd : Guard) (d : Fin 8) (sa : Fin 8) (tag : Tag) : Laws.RoundTrip.Statement (.mld gd d sa tag) :=
  fun wf => decode_encode_mld gd d sa tag wf
theorem Laws.RoundTrip.mst (gd : Guard) (mode : RMode) (s3 : Fin 8) (sa : Fin 8) : Laws.RoundTrip.Statement (.mst gd mode s3 sa) :=
  fun wf => decode_encode_mst gd mode s3 sa wf
theorem Laws.RoundTrip.mrowred (gd : Guard) (op : Red3) (mode : RMode) (part : Bool) (nc : BitVec 5) (d : Fin 16) (s1 : Fin 8) : Laws.RoundTrip.Statement (.mrowred gd op mode part nc d s1) :=
  fun wf => decode_encode_mrowred gd op mode part nc d s1 wf
theorem Laws.RoundTrip.mcnt (gd : Guard) (clr : Bool) (d : Fin 32) (s1 : Fin 8) : Laws.RoundTrip.Statement (.mcnt gd clr d s1) :=
  fun wf => decode_encode_mcnt gd clr d s1 wf
theorem Laws.RoundTrip.copy (gd : Guard) (d : Fin 32) (s1 : Fin 32) : Laws.RoundTrip.Statement (.copy gd d s1) :=
  fun wf => decode_encode_copy gd d s1 wf
theorem Laws.RoundTrip.copym (gd : Guard) (d : Fin 32) (s1 : Fin 32) : Laws.RoundTrip.Statement (.copym gd d s1) :=
  fun wf => decode_encode_copym gd d s1 wf
theorem Laws.RoundTrip.cprom (gd : Guard) (d : Fin 32) (s1 : Fin 32) : Laws.RoundTrip.Statement (.cprom gd d s1) :=
  fun wf => decode_encode_cprom gd d s1 wf
theorem Laws.RoundTrip.hcfg (gd : Guard) (s1 : Fin 32) (s2 : Fin 32) : Laws.RoundTrip.Statement (.hcfg gd s1 s2) :=
  fun wf => decode_encode_hcfg gd s1 s2 wf
theorem Laws.RoundTrip.publish (gd : Guard) (s1 : Fin 32) : Laws.RoundTrip.Statement (.publish gd s1) :=
  fun wf => decode_encode_publish gd s1 wf
theorem Laws.RoundTrip.publishF (gd : Guard) (s1 : Fin 32) : Laws.RoundTrip.Statement (.publishF gd s1) :=
  fun wf => decode_encode_publishF gd s1 wf
theorem Laws.RoundTrip.hsub (gd : Guard) (s1 : Fin 32) (s2 : Fin 32) : Laws.RoundTrip.Statement (.hsub gd s1 s2) :=
  fun wf => decode_encode_hsub gd s1 s2 wf
theorem Laws.RoundTrip.hunsub (gd : Guard) (s1 : Fin 32) (s2 : Fin 32) : Laws.RoundTrip.Statement (.hunsub gd s1 s2) :=
  fun wf => decode_encode_hunsub gd s1 s2 wf
theorem Laws.RoundTrip.hver (gd : Guard) (d : Fin 32) (s1 : Fin 32) : Laws.RoundTrip.Statement (.hver gd d s1) :=
  fun wf => decode_encode_hver gd d s1 wf
theorem Laws.RoundTrip.stopref (gd : Guard) (s1 : Fin 32) : Laws.RoundTrip.Statement (.stopref gd s1) :=
  fun wf => decode_encode_stopref gd s1 wf
theorem Laws.RoundTrip.stoprefAt (gd : Guard) (s1 : Fin 32) (s2 : Fin 32) : Laws.RoundTrip.Statement (.stoprefAt gd s1 s2) :=
  fun wf => decode_encode_stoprefAt gd s1 s2 wf
theorem Laws.RoundTrip.refchk (gd : Guard) (d : Fin 16) (s1 : Fin 32) : Laws.RoundTrip.Statement (.refchk gd d s1) :=
  fun wf => decode_encode_refchk gd d s1 wf
theorem Laws.RoundTrip.settle (gd : Guard) (s1 : Fin 32) (set : BitVec 8) (nh : BitVec 8) : Laws.RoundTrip.Statement (.settle gd s1 set nh) :=
  fun wf => decode_encode_settle gd s1 set nh wf
theorem Laws.RoundTrip.settlew (gd : Guard) (d : Fin 32) (s1 : Fin 32) (set : BitVec 8) (nh : BitVec 8) : Laws.RoundTrip.Statement (.settlew gd d s1 set nh) :=
  fun wf => decode_encode_settlew gd d s1 set nh wf
theorem Laws.RoundTrip.launch (gd : Guard) (d : Fin 32) (s1 : Fin 32) : Laws.RoundTrip.Statement (.launch gd d s1) :=
  fun wf => decode_encode_launch gd d s1 wf
theorem Laws.RoundTrip.deal (gd : Guard) (d : Fin 32) (s1 : Fin 32) : Laws.RoundTrip.Statement (.deal gd d s1) :=
  fun wf => decode_encode_deal gd d s1 wf
theorem Laws.RoundTrip.ringget (gd : Guard) (d : Fin 32) (gm : Fin 16) (s1 : Fin 32) : Laws.RoundTrip.Statement (.ringget gd d gm s1) :=
  fun wf => decode_encode_ringget gd d gm s1 wf
theorem Laws.RoundTrip.ringput (gd : Guard) (s3 : Fin 32) (s1 : Fin 32) : Laws.RoundTrip.Statement (.ringput gd s3 s1) :=
  fun wf => decode_encode_ringput gd s3 s1 wf
theorem Laws.RoundTrip.govset (gd : Guard) (d : Fin 32) (s1 : Fin 32) (s2 : Fin 32) : Laws.RoundTrip.Statement (.govset gd d s1 s2) :=
  fun wf => decode_encode_govset gd d s1 s2 wf
theorem Laws.RoundTrip.preempt (gd : Guard) (d : Fin 32) (s1 : Fin 32) : Laws.RoundTrip.Statement (.preempt gd d s1) :=
  fun wf => decode_encode_preempt gd d s1 wf
theorem Laws.RoundTrip.resume (gd : Guard) (d : Fin 32) (s1 : Fin 32) : Laws.RoundTrip.Statement (.resume gd d s1) :=
  fun wf => decode_encode_resume gd d s1 wf
theorem Laws.RoundTrip.rdhmap (gd : Guard) (d : Fin 32) (s1 : Fin 32) : Laws.RoundTrip.Statement (.rdhmap gd d s1) :=
  fun wf => decode_encode_rdhmap gd d s1 wf
theorem Laws.RoundTrip.rdlpt (gd : Guard) (d : Fin 32) (s1 : Fin 32) (half : Bool) : Laws.RoundTrip.Statement (.rdlpt gd d s1 half) :=
  fun wf => decode_encode_rdlpt gd d s1 half wf
theorem Laws.RoundTrip.quiesce (gd : Guard) (d : Fin 32) : Laws.RoundTrip.Statement (.quiesce gd d) :=
  fun wf => decode_encode_quiesce gd d wf
theorem Laws.RoundTrip.barset (gd : Guard) (d : Fin 4) (s1 : Fin 32) : Laws.RoundTrip.Statement (.barset gd d s1) :=
  fun wf => decode_encode_barset gd d s1 wf
theorem Laws.RoundTrip.bararr (gd : Guard) (s1 : Fin 4) : Laws.RoundTrip.Statement (.bararr gd s1) :=
  fun wf => decode_encode_bararr gd s1 wf
theorem Laws.RoundTrip.barwait (gd : Guard) (d : Fin 16) (s1 : Fin 4) (cycles : BitVec 32) : Laws.RoundTrip.Statement (.barwait gd d s1 cycles) :=
  fun wf => decode_encode_barwait gd d s1 cycles wf
theorem Laws.RoundTrip.barwaitF (gd : Guard) (s1 : Fin 4) (cycles : BitVec 32) : Laws.RoundTrip.Statement (.barwaitF gd s1 cycles) :=
  fun wf => decode_encode_barwaitF gd s1 cycles wf
theorem Laws.RoundTrip.barwd (gd : Guard) (s1 : Fin 4) : Laws.RoundTrip.Statement (.barwd gd s1) :=
  fun wf => decode_encode_barwd gd s1 wf
theorem Laws.RoundTrip.chkpt (gd : Guard) (d : Fin 32) (s1 : Fin 32) : Laws.RoundTrip.Statement (.chkpt gd d s1) :=
  fun wf => decode_encode_chkpt gd d s1 wf
theorem Laws.RoundTrip.tlbinv (gd : Guard) (s1 : Fin 32) (s2 : Fin 32) (scope : Fin 4) : Laws.RoundTrip.Statement (.tlbinv gd s1 s2 scope) :=
  fun wf => decode_encode_tlbinv gd s1 s2 scope wf
theorem Laws.RoundTrip.rmapsetRemap (gd : Guard) (d : Fin 32) (s1 : Fin 32) (s2 : Fin 32) : Laws.RoundTrip.Statement (.rmapsetRemap gd d s1 s2) :=
  fun wf => decode_encode_rmapsetRemap gd d s1 s2 wf
theorem Laws.RoundTrip.rmapsetMarkDead (gd : Guard) (d : Fin 32) (s1 : Fin 32) (s2 : Fin 32) : Laws.RoundTrip.Statement (.rmapsetMarkDead gd d s1 s2) :=
  fun wf => decode_encode_rmapsetMarkDead gd d s1 s2 wf
theorem Laws.RoundTrip.rmapsetClearDead (gd : Guard) (d : Fin 32) (s1 : Fin 32) (s2 : Fin 32) : Laws.RoundTrip.Statement (.rmapsetClearDead gd d s1 s2) :=
  fun wf => decode_encode_rmapsetClearDead gd d s1 s2 wf
theorem Laws.RoundTrip.grpjoin (gd : Guard) (d : Fin 32) (s1 : Fin 32) (s2 : Fin 32) : Laws.RoundTrip.Statement (.grpjoin gd d s1 s2) :=
  fun wf => decode_encode_grpjoin gd d s1 s2 wf
theorem Laws.RoundTrip.grpleave (gd : Guard) (s1 : Fin 32) : Laws.RoundTrip.Statement (.grpleave gd s1) :=
  fun wf => decode_encode_grpleave gd s1 wf
theorem Laws.RoundTrip.grpred (gd : Guard) (op : Red3) (d : Fin 16) (s1 : Fin 32) (s2 : Fin 16) : Laws.RoundTrip.Statement (.grpred gd op d s1 s2) :=
  fun wf => decode_encode_grpred gd op d s1 s2 wf
theorem Laws.RoundTrip.grpbc (gd : Guard) (d : Fin 16) (s1 : Fin 32) (s2 : Fin 16) (root : BitVec 8) : Laws.RoundTrip.Statement (.grpbc gd d s1 s2 root) :=
  fun wf => decode_encode_grpbc gd d s1 s2 root wf
theorem Laws.RoundTrip.grpbar (gd : Guard) (s1 : Fin 32) : Laws.RoundTrip.Statement (.grpbar gd s1) :=
  fun wf => decode_encode_grpbar gd s1 wf
theorem Laws.RoundTrip.fremap (gd : Guard) (d : Fin 32) (s1 : Fin 32) (s2 : Fin 32) : Laws.RoundTrip.Statement (.fremap gd d s1 s2) :=
  fun wf => decode_encode_fremap gd d s1 s2 wf
theorem Laws.RoundTrip.sleepTimeReached (core : Nat) (slot : Nat) : Laws.RoundTrip.Statement (.sleepTimeReached core slot) :=
  fun wf => nomatch (show false = true from wf)
theorem Laws.RoundTrip.lineFetch (core : Nat) (slot : Nat) : Laws.RoundTrip.Statement (.lineFetch core slot) :=
  fun wf => nomatch (show false = true from wf)
theorem Laws.RoundTrip.localPop (core : Nat) (slot : Nat) : Laws.RoundTrip.Statement (.localPop core slot) :=
  fun wf => nomatch (show false = true from wf)
theorem Laws.RoundTrip.recordLoad (core : Nat) (slot : Nat) : Laws.RoundTrip.Statement (.recordLoad core slot) :=
  fun wf => nomatch (show false = true from wf)
theorem Laws.RoundTrip.stealSearch (core : Nat) : Laws.RoundTrip.Statement (.stealSearch core) :=
  fun wf => nomatch (show false = true from wf)
theorem Laws.RoundTrip.stealRequest (core : Nat) : Laws.RoundTrip.Statement (.stealRequest core) :=
  fun wf => nomatch (show false = true from wf)
theorem Laws.RoundTrip.stealResponse (core : Nat) : Laws.RoundTrip.Statement (.stealResponse core) :=
  fun wf => nomatch (show false = true from wf)
theorem Laws.RoundTrip.stealRetryWait (core : Nat) : Laws.RoundTrip.Statement (.stealRetryWait core) :=
  fun wf => nomatch (show false = true from wf)
theorem Laws.RoundTrip.dequePush (core : Nat) : Laws.RoundTrip.Statement (.dequePush core) :=
  fun wf => nomatch (show false = true from wf)
theorem Laws.RoundTrip.dequePushRetry (agent : Nat) (k : Nat) : Laws.RoundTrip.Statement (.dequePushRetry agent k) :=
  fun wf => nomatch (show false = true from wf)
theorem Laws.RoundTrip.responseReturn (core : Nat) (k : Nat) : Laws.RoundTrip.Statement (.responseReturn core k) :=
  fun wf => nomatch (show false = true from wf)
theorem Laws.RoundTrip.postedCreditReturn (core : Nat) : Laws.RoundTrip.Statement (.postedCreditReturn core) :=
  fun wf => nomatch (show false = true from wf)
theorem Laws.RoundTrip.postedRetryResend (core : Nat) (k : Nat) : Laws.RoundTrip.Statement (.postedRetryResend core k) :=
  fun wf => nomatch (show false = true from wf)
theorem Laws.RoundTrip.parkedRingRetryResend (core : Nat) (k : Nat) : Laws.RoundTrip.Statement (.parkedRingRetryResend core k) :=
  fun wf => nomatch (show false = true from wf)
theorem Laws.RoundTrip.loadHandler (core : Nat) : Laws.RoundTrip.Statement (.loadHandler core) :=
  fun wf => nomatch (show false = true from wf)
theorem Laws.RoundTrip.storeHandler (core : Nat) : Laws.RoundTrip.Statement (.storeHandler core) :=
  fun wf => nomatch (show false = true from wf)
theorem Laws.RoundTrip.atomicHandler (core : Nat) : Laws.RoundTrip.Statement (.atomicHandler core) :=
  fun wf => nomatch (show false = true from wf)
theorem Laws.RoundTrip.ldwHandler (core : Nat) : Laws.RoundTrip.Statement (.ldwHandler core) :=
  fun wf => nomatch (show false = true from wf)
theorem Laws.RoundTrip.ldtHandler (core : Nat) : Laws.RoundTrip.Statement (.ldtHandler core) :=
  fun wf => nomatch (show false = true from wf)
theorem Laws.RoundTrip.stfHandler (core : Nat) : Laws.RoundTrip.Statement (.stfHandler core) :=
  fun wf => nomatch (show false = true from wf)
theorem Laws.RoundTrip.stwHandler (core : Nat) : Laws.RoundTrip.Statement (.stwHandler core) :=
  fun wf => nomatch (show false = true from wf)
theorem Laws.RoundTrip.lrqHandler (core : Nat) : Laws.RoundTrip.Statement (.lrqHandler core) :=
  fun wf => nomatch (show false = true from wf)
theorem Laws.RoundTrip.scqHandler (core : Nat) : Laws.RoundTrip.Statement (.scqHandler core) :=
  fun wf => nomatch (show false = true from wf)
theorem Laws.RoundTrip.relqHandler (core : Nat) : Laws.RoundTrip.Statement (.relqHandler core) :=
  fun wf => nomatch (show false = true from wf)
theorem Laws.RoundTrip.awaitRegistration (core : Nat) : Laws.RoundTrip.Statement (.awaitRegistration core) :=
  fun wf => nomatch (show false = true from wf)
theorem Laws.RoundTrip.joinArming (core : Nat) : Laws.RoundTrip.Statement (.joinArming core) :=
  fun wf => nomatch (show false = true from wf)
theorem Laws.RoundTrip.joinDecrement (core : Nat) : Laws.RoundTrip.Statement (.joinDecrement core) :=
  fun wf => nomatch (show false = true from wf)
theorem Laws.RoundTrip.armingEnd (core : Nat) : Laws.RoundTrip.Statement (.armingEnd core) :=
  fun wf => nomatch (show false = true from wf)
theorem Laws.RoundTrip.controlWordTransition (agent : Nat) : Laws.RoundTrip.Statement (.controlWordTransition agent) :=
  fun wf => nomatch (show false = true from wf)
theorem Laws.RoundTrip.refire (agent : Nat) : Laws.RoundTrip.Statement (.refire agent) :=
  fun wf => nomatch (show false = true from wf)
theorem Laws.RoundTrip.eventSignal (core : Nat) : Laws.RoundTrip.Statement (.eventSignal core) :=
  fun wf => nomatch (show false = true from wf)
theorem Laws.RoundTrip.publishHome (core : Nat) : Laws.RoundTrip.Statement (.publishHome core) :=
  fun wf => nomatch (show false = true from wf)
theorem Laws.RoundTrip.hsubHome (core : Nat) : Laws.RoundTrip.Statement (.hsubHome core) :=
  fun wf => nomatch (show false = true from wf)
theorem Laws.RoundTrip.hunsubHome (core : Nat) : Laws.RoundTrip.Statement (.hunsubHome core) :=
  fun wf => nomatch (show false = true from wf)
theorem Laws.RoundTrip.hverHome (core : Nat) : Laws.RoundTrip.Statement (.hverHome core) :=
  fun wf => nomatch (show false = true from wf)
theorem Laws.RoundTrip.stoprefHome (core : Nat) : Laws.RoundTrip.Statement (.stoprefHome core) :=
  fun wf => nomatch (show false = true from wf)
theorem Laws.RoundTrip.refchkHome (core : Nat) : Laws.RoundTrip.Statement (.refchkHome core) :=
  fun wf => nomatch (show false = true from wf)
theorem Laws.RoundTrip.hcfgHome (core : Nat) : Laws.RoundTrip.Statement (.hcfgHome core) :=
  fun wf => nomatch (show false = true from wf)
theorem Laws.RoundTrip.ringReservation (core : Nat) : Laws.RoundTrip.Statement (.ringReservation core) :=
  fun wf => nomatch (show false = true from wf)
theorem Laws.RoundTrip.ringPush (core : Nat) : Laws.RoundTrip.Statement (.ringPush core) :=
  fun wf => nomatch (show false = true from wf)
theorem Laws.RoundTrip.ringCredit (core : Nat) : Laws.RoundTrip.Statement (.ringCredit core) :=
  fun wf => nomatch (show false = true from wf)
theorem Laws.RoundTrip.pageOwnerWrite (core : Nat) : Laws.RoundTrip.Statement (.pageOwnerWrite core) :=
  fun wf => nomatch (show false = true from wf)
theorem Laws.RoundTrip.debugWindowAccess (core : Nat) : Laws.RoundTrip.Statement (.debugWindowAccess core) :=
  fun wf => nomatch (show false = true from wf)
theorem Laws.RoundTrip.dbgctlResume (core : Nat) : Laws.RoundTrip.Statement (.dbgctlResume core) :=
  fun wf => nomatch (show false = true from wf)
theorem Laws.RoundTrip.dbgctlSingleStep (core : Nat) : Laws.RoundTrip.Statement (.dbgctlSingleStep core) :=
  fun wf => nomatch (show false = true from wf)
theorem Laws.RoundTrip.dbgctlRetire (core : Nat) : Laws.RoundTrip.Statement (.dbgctlRetire core) :=
  fun wf => nomatch (show false = true from wf)
theorem Laws.RoundTrip.dbgctlReleaseSupcall (core : Nat) : Laws.RoundTrip.Statement (.dbgctlReleaseSupcall core) :=
  fun wf => nomatch (show false = true from wf)
theorem Laws.RoundTrip.dbgctlInvalidCommand (core : Nat) : Laws.RoundTrip.Statement (.dbgctlInvalidCommand core) :=
  fun wf => nomatch (show false = true from wf)
theorem Laws.RoundTrip.rlcmdLoad (core : Nat) : Laws.RoundTrip.Statement (.rlcmdLoad core) :=
  fun wf => nomatch (show false = true from wf)
theorem Laws.RoundTrip.rlcmdDrop (core : Nat) : Laws.RoundTrip.Statement (.rlcmdDrop core) :=
  fun wf => nomatch (show false = true from wf)
theorem Laws.RoundTrip.registerWrite (agent : Nat) : Laws.RoundTrip.Statement (.registerWrite agent) :=
  fun wf => nomatch (show false = true from wf)
theorem Laws.RoundTrip.controlSpaceAccess (agent : Nat) : Laws.RoundTrip.Statement (.controlSpaceAccess agent) :=
  fun wf => nomatch (show false = true from wf)
theorem Laws.RoundTrip.programHandler (core : Nat) : Laws.RoundTrip.Statement (.programHandler core) :=
  fun wf => nomatch (show false = true from wf)
theorem Laws.RoundTrip.faultPacketReceive (agent : Nat) : Laws.RoundTrip.Statement (.faultPacketReceive agent) :=
  fun wf => nomatch (show false = true from wf)
theorem Laws.RoundTrip.vectorCommandStart (core : Nat) : Laws.RoundTrip.Statement (.vectorCommandStart core) :=
  fun wf => nomatch (show false = true from wf)
theorem Laws.RoundTrip.vectorResultWrite (core : Nat) : Laws.RoundTrip.Statement (.vectorResultWrite core) :=
  fun wf => nomatch (show false = true from wf)
theorem Laws.RoundTrip.reedResult (core : Nat) : Laws.RoundTrip.Statement (.reedResult core) :=
  fun wf => nomatch (show false = true from wf)
theorem Laws.RoundTrip.cxloadInstall (core : Nat) : Laws.RoundTrip.Statement (.cxloadInstall core) :=
  fun wf => nomatch (show false = true from wf)
theorem Laws.RoundTrip.matrixGrant (cluster : Nat) : Laws.RoundTrip.Statement (.matrixGrant cluster) :=
  fun wf => nomatch (show false = true from wf)
theorem Laws.RoundTrip.matrixGrantEnd (cluster : Nat) : Laws.RoundTrip.Statement (.matrixGrantEnd cluster) :=
  fun wf => nomatch (show false = true from wf)
theorem Laws.RoundTrip.matrixCommandComplete (core : Nat) : Laws.RoundTrip.Statement (.matrixCommandComplete core) :=
  fun wf => nomatch (show false = true from wf)
theorem Laws.RoundTrip.matrixQueueHeadExecute (core : Nat) : Laws.RoundTrip.Statement (.matrixQueueHeadExecute core) :=
  fun wf => nomatch (show false = true from wf)
theorem Laws.RoundTrip.cmuFailure (cluster : Nat) : Laws.RoundTrip.Statement (.cmuFailure cluster) :=
  fun wf => nomatch (show false = true from wf)
theorem Laws.RoundTrip.copyCommandStart (core : Nat) : Laws.RoundTrip.Statement (.copyCommandStart core) :=
  fun wf => nomatch (show false = true from wf)
theorem Laws.RoundTrip.copySegmentEnd (core : Nat) : Laws.RoundTrip.Statement (.copySegmentEnd core) :=
  fun wf => nomatch (show false = true from wf)
theorem Laws.RoundTrip.copyComplete (core : Nat) : Laws.RoundTrip.Statement (.copyComplete core) :=
  fun wf => nomatch (show false = true from wf)
theorem Laws.RoundTrip.combineRequest (core : Nat) : Laws.RoundTrip.Statement (.combineRequest core) :=
  fun wf => nomatch (show false = true from wf)
theorem Laws.RoundTrip.combineWindowClose (cluster : Nat) (k : Nat) : Laws.RoundTrip.Statement (.combineWindowClose cluster k) :=
  fun wf => nomatch (show false = true from wf)
theorem Laws.RoundTrip.bankFailed (core : Nat) (bank : Nat) : Laws.RoundTrip.Statement (.bankFailed core bank) :=
  fun wf => nomatch (show false = true from wf)
theorem Laws.RoundTrip.hbmAccess (bridge : Nat) : Laws.RoundTrip.Statement (.hbmAccess bridge) :=
  fun wf => nomatch (show false = true from wf)
theorem Laws.RoundTrip.hbmStackFailure (bridge : Nat) (channels : BitVec 32) : Laws.RoundTrip.Statement (.hbmStackFailure bridge channels) :=
  fun wf => nomatch (show false = true from wf)
theorem Laws.RoundTrip.l2TlbLookup (core : Nat) (slot : Nat) : Laws.RoundTrip.Statement (.l2TlbLookup core slot) :=
  fun wf => nomatch (show false = true from wf)
theorem Laws.RoundTrip.pageWalk (core : Nat) (slot : Nat) : Laws.RoundTrip.Statement (.pageWalk core slot) :=
  fun wf => nomatch (show false = true from wf)
theorem Laws.RoundTrip.tlbinvRequest (agent : Nat) : Laws.RoundTrip.Statement (.tlbinvRequest agent) :=
  fun wf => nomatch (show false = true from wf)
theorem Laws.RoundTrip.sweep  : Laws.RoundTrip.Statement (.sweep) :=
  fun wf => nomatch (show false = true from wf)
theorem Laws.RoundTrip.sweepResult  : Laws.RoundTrip.Statement (.sweepResult) :=
  fun wf => nomatch (show false = true from wf)
theorem Laws.RoundTrip.settleArm  : Laws.RoundTrip.Statement (.settleArm) :=
  fun wf => nomatch (show false = true from wf)
theorem Laws.RoundTrip.cardAcceptance (die : Nat) : Laws.RoundTrip.Statement (.cardAcceptance die) :=
  fun wf => nomatch (show false = true from wf)
theorem Laws.RoundTrip.dealChunk (die : Nat) : Laws.RoundTrip.Statement (.dealChunk die) :=
  fun wf => nomatch (show false = true from wf)
theorem Laws.RoundTrip.dealRequest (die : Nat) : Laws.RoundTrip.Statement (.dealRequest die) :=
  fun wf => nomatch (show false = true from wf)
theorem Laws.RoundTrip.dealHome (die : Nat) : Laws.RoundTrip.Statement (.dealHome die) :=
  fun wf => nomatch (show false = true from wf)
theorem Laws.RoundTrip.dealerSlotReread (die : Nat) : Laws.RoundTrip.Statement (.dealerSlotReread die) :=
  fun wf => nomatch (show false = true from wf)
theorem Laws.RoundTrip.dealerSlotRotation (die : Nat) (k : Nat) : Laws.RoundTrip.Statement (.dealerSlotRotation die k) :=
  fun wf => nomatch (show false = true from wf)
theorem Laws.RoundTrip.govsetApply (die : Nat) : Laws.RoundTrip.Statement (.govsetApply die) :=
  fun wf => nomatch (show false = true from wf)
theorem Laws.RoundTrip.governorTick (die : Nat) : Laws.RoundTrip.Statement (.governorTick die) :=
  fun wf => nomatch (show false = true from wf)
theorem Laws.RoundTrip.ringputHome (core : Nat) : Laws.RoundTrip.Statement (.ringputHome core) :=
  fun wf => nomatch (show false = true from wf)
theorem Laws.RoundTrip.preemptStop (die : Nat) : Laws.RoundTrip.Statement (.preemptStop die) :=
  fun wf => nomatch (show false = true from wf)
theorem Laws.RoundTrip.preemptComplete  : Laws.RoundTrip.Statement (.preemptComplete) :=
  fun wf => nomatch (show false = true from wf)
theorem Laws.RoundTrip.messageDivert (core : Nat) : Laws.RoundTrip.Statement (.messageDivert core) :=
  fun wf => nomatch (show false = true from wf)
theorem Laws.RoundTrip.contextRestore  : Laws.RoundTrip.Statement (.contextRestore) :=
  fun wf => nomatch (show false = true from wf)
theorem Laws.RoundTrip.flitReplay (die : Nat) (link : Nat) : Laws.RoundTrip.Statement (.flitReplay die link) :=
  fun wf => nomatch (show false = true from wf)
theorem Laws.RoundTrip.linkRetrain (die : Nat) (link : Nat) : Laws.RoundTrip.Statement (.linkRetrain die link) :=
  fun wf => nomatch (show false = true from wf)
theorem Laws.RoundTrip.linkRetrainEnd (die : Nat) (link : Nat) : Laws.RoundTrip.Statement (.linkRetrainEnd die link) :=
  fun wf => nomatch (show false = true from wf)
theorem Laws.RoundTrip.linkDown (die : Nat) (link : Nat) : Laws.RoundTrip.Statement (.linkDown die link) :=
  fun wf => nomatch (show false = true from wf)
theorem Laws.RoundTrip.remapFenceStart (agent : Nat) : Laws.RoundTrip.Statement (.remapFenceStart agent) :=
  fun wf => nomatch (show false = true from wf)
theorem Laws.RoundTrip.remapFenceEnd  : Laws.RoundTrip.Statement (.remapFenceEnd) :=
  fun wf => nomatch (show false = true from wf)
theorem Laws.RoundTrip.messageAccept (agent : Nat) (k : Nat) : Laws.RoundTrip.Statement (.messageAccept agent k) :=
  fun wf => nomatch (show false = true from wf)
theorem Laws.RoundTrip.causewaySignal (core : Nat) (ch : Nat) : Laws.RoundTrip.Statement (.causewaySignal core ch) :=
  fun wf => nomatch (show false = true from wf)
theorem Laws.RoundTrip.causewayRelease (core : Nat) (ch : Nat) : Laws.RoundTrip.Statement (.causewayRelease core ch) :=
  fun wf => nomatch (show false = true from wf)
theorem Laws.RoundTrip.causewayReleasePass (core : Nat) (ch : Nat) : Laws.RoundTrip.Statement (.causewayReleasePass core ch) :=
  fun wf => nomatch (show false = true from wf)
theorem Laws.RoundTrip.barwaitTimeout (core : Nat) (slot : Nat) : Laws.RoundTrip.Statement (.barwaitTimeout core slot) :=
  fun wf => nomatch (show false = true from wf)
theorem Laws.RoundTrip.commitNotice (core : Nat) : Laws.RoundTrip.Statement (.commitNotice core) :=
  fun wf => nomatch (show false = true from wf)
theorem Laws.RoundTrip.checkpointRequest (core : Nat) : Laws.RoundTrip.Statement (.checkpointRequest core) :=
  fun wf => nomatch (show false = true from wf)
theorem Laws.RoundTrip.checkpointRequestRepeat (core : Nat) : Laws.RoundTrip.Statement (.checkpointRequestRepeat core) :=
  fun wf => nomatch (show false = true from wf)
theorem Laws.RoundTrip.containmentTrigger (core : Nat) : Laws.RoundTrip.Statement (.containmentTrigger core) :=
  fun wf => nomatch (show false = true from wf)
theorem Laws.RoundTrip.containmentHold (core : Nat) : Laws.RoundTrip.Statement (.containmentHold core) :=
  fun wf => nomatch (show false = true from wf)
theorem Laws.RoundTrip.spareSubstitution (core : Nat) : Laws.RoundTrip.Statement (.spareSubstitution core) :=
  fun wf => nomatch (show false = true from wf)
theorem Laws.RoundTrip.containmentRestore (core : Nat) : Laws.RoundTrip.Statement (.containmentRestore core) :=
  fun wf => nomatch (show false = true from wf)
theorem Laws.RoundTrip.containmentReplay (core : Nat) : Laws.RoundTrip.Statement (.containmentReplay core) :=
  fun wf => nomatch (show false = true from wf)
theorem Laws.RoundTrip.containmentLive (core : Nat) : Laws.RoundTrip.Statement (.containmentLive core) :=
  fun wf => nomatch (show false = true from wf)
theorem Laws.RoundTrip.dieAgentFailure (die : Nat) : Laws.RoundTrip.Statement (.dieAgentFailure die) :=
  fun wf => nomatch (show false = true from wf)
theorem Laws.RoundTrip.powerOnReset (bad : List Nat) : Laws.RoundTrip.Statement (.powerOnReset bad) :=
  fun wf => nomatch (show false = true from wf)
theorem Laws.RoundTrip.warmReset (bad : List Nat) : Laws.RoundTrip.Statement (.warmReset bad) :=
  fun wf => nomatch (show false = true from wf)
theorem Laws.RoundTrip.environmentSample (inlet : Nat) (flow : Nat) (volt : Nat) (die : Nat) : Laws.RoundTrip.Statement (.environmentSample inlet flow volt die) :=
  fun wf => nomatch (show false = true from wf)
theorem Laws.RoundTrip.thermalHold  : Laws.RoundTrip.Statement (.thermalHold) :=
  fun wf => nomatch (show false = true from wf)
theorem Laws.RoundTrip.thermalResume  : Laws.RoundTrip.Statement (.thermalResume) :=
  fun wf => nomatch (show false = true from wf)
theorem Laws.RoundTrip.welkinFlitReplay (port : Nat) : Laws.RoundTrip.Statement (.welkinFlitReplay port) :=
  fun wf => nomatch (show false = true from wf)
theorem Laws.RoundTrip.welkinPortDown (port : Nat) : Laws.RoundTrip.Statement (.welkinPortDown port) :=
  fun wf => nomatch (show false = true from wf)
theorem Laws.RoundTrip.fabricHoldTimeout (agent : Nat) (k : Nat) : Laws.RoundTrip.Statement (.fabricHoldTimeout agent k) :=
  fun wf => nomatch (show false = true from wf)
theorem Laws.RoundTrip.timeExchange (port : Nat) (panel : Nat) (hops : Nat) (their : Word) (delay : Word) : Laws.RoundTrip.Statement (.timeExchange port panel hops their delay) :=
  fun wf => nomatch (show false = true from wf)
theorem Laws.RoundTrip.ingressLookup (bridge : Nat) (k : Nat) : Laws.RoundTrip.Statement (.ingressLookup bridge k) :=
  fun wf => nomatch (show false = true from wf)
theorem Laws.RoundTrip.fabricFenceStart (agent : Nat) : Laws.RoundTrip.Statement (.fabricFenceStart agent) :=
  fun wf => nomatch (show false = true from wf)
theorem Laws.RoundTrip.fabricFenceEnd  : Laws.RoundTrip.Statement (.fabricFenceEnd) :=
  fun wf => nomatch (show false = true from wf)
theorem Laws.RoundTrip.groupMembershipRequest (core : Nat) : Laws.RoundTrip.Statement (.groupMembershipRequest core) :=
  fun wf => nomatch (show false = true from wf)
theorem Laws.RoundTrip.groupPartialArrival (core : Nat) : Laws.RoundTrip.Statement (.groupPartialArrival core) :=
  fun wf => nomatch (show false = true from wf)
theorem Laws.RoundTrip.collectiveBoundary (core : Nat) : Laws.RoundTrip.Statement (.collectiveBoundary core) :=
  fun wf => nomatch (show false = true from wf)
theorem Laws.RoundTrip.collectiveRelease (core : Nat) : Laws.RoundTrip.Statement (.collectiveRelease core) :=
  fun wf => nomatch (show false = true from wf)
theorem Laws.RoundTrip.rdmaWrite (qpn : Nat) (rkey : BitVec 32) (va : Word) (data : List Byte) : Laws.RoundTrip.Statement (.rdmaWrite qpn rkey va data) :=
  fun wf => nomatch (show false = true from wf)
theorem Laws.RoundTrip.rdmaRead (qpn : Nat) (rkey : BitVec 32) (va : Word) (len : Nat) : Laws.RoundTrip.Statement (.rdmaRead qpn rkey va len) :=
  fun wf => nomatch (show false = true from wf)
theorem Laws.RoundTrip.rdmaSend (qpn : Nat) (data : List Byte) : Laws.RoundTrip.Statement (.rdmaSend qpn data) :=
  fun wf => nomatch (show false = true from wf)
theorem Laws.RoundTrip.rdmaUnsupported (qpn : Nat) : Laws.RoundTrip.Statement (.rdmaUnsupported qpn) :=
  fun wf => nomatch (show false = true from wf)
theorem Laws.RoundTrip.frameDrop (port : Nat) : Laws.RoundTrip.Statement (.frameDrop port) :=
  fun wf => nomatch (show false = true from wf)
theorem Laws.RoundTrip.managementFrame (data : List Byte) : Laws.RoundTrip.Statement (.managementFrame data) :=
  fun wf => nomatch (show false = true from wf)
theorem Laws.RoundTrip.ethernetLinkLoss (port : Nat) : Laws.RoundTrip.Statement (.ethernetLinkLoss port) :=
  fun wf => nomatch (show false = true from wf)
theorem Laws.RoundTrip.hostBridgeFailure (bridge : Nat) : Laws.RoundTrip.Statement (.hostBridgeFailure bridge) :=
  fun wf => nomatch (show false = true from wf)
theorem Laws.RoundTrip.coreLogicCheck (core : Nat) (slot : Nat) : Laws.RoundTrip.Statement (.coreLogicCheck core slot) :=
  fun wf => nomatch (show false = true from wf)
theorem Laws.RoundTrip.neighbourLinkWord (core : Nat) : Laws.RoundTrip.Statement (.neighbourLinkWord core) :=
  fun wf => nomatch (show false = true from wf)
theorem Laws.RoundTrip.neighbourLinkCredit (core : Nat) : Laws.RoundTrip.Statement (.neighbourLinkCredit core) :=
  fun wf => nomatch (show false = true from wf)
theorem Laws.RoundTrip.checkpointTransfer (core : Nat) : Laws.RoundTrip.Statement (.checkpointTransfer core) :=
  fun wf => nomatch (show false = true from wf)
theorem Laws.RoundTrip.welkinPortRetrain (port : Nat) : Laws.RoundTrip.Statement (.welkinPortRetrain port) :=
  fun wf => nomatch (show false = true from wf)
theorem Laws.RoundTrip.welkinRetrainEnd (port : Nat) : Laws.RoundTrip.Statement (.welkinRetrainEnd port) :=
  fun wf => nomatch (show false = true from wf)
theorem Laws.RoundTrip.gtbSlew  : Laws.RoundTrip.Statement (.gtbSlew) :=
  fun wf => nomatch (show false = true from wf)

end Sys2Proof
end

