-- ==== Sys2Proof/Laws/Translate.lean ====
section
/-! SUPPORT. What a translation does to the machine (R133, R381-R385): it scrubs words that a walk reads, records sectors and pages that
cannot be read, and fills the TLBs; nothing else changes. -/

namespace Sys2Proof.Machine

/-- Nothing but memory's check bits, the bridges, the dies and the L1 TLBs differs between two states. -/
structure State.TlbOnly (s u : State) : Prop where
  rest : u = { s with mem := u.mem, bridges := u.bridges, dies := u.dies, cores := u.cores }
  core : ∀ l, u.core l = { s.core l with tlb := (u.core l).tlb }

theorem State.TlbOnly.refl (s : State) : s.TlbOnly s := ⟨rfl, fun _ => rfl⟩

theorem State.TlbOnly.trans {s t u : State} (h : s.TlbOnly t) (k : t.TlbOnly u) : s.TlbOnly u :=
  ⟨by rw [k.rest, h.rest], fun l => by rw [k.core l, h.core l]⟩

theorem State.tlbOnly_modMem (s : State) (f : Mem → Mem) : s.TlbOnly (s.modMem f) := ⟨rfl, fun _ => rfl⟩
theorem State.tlbOnly_modBridge (s : State) (b : Nat) (f : MemBridge → MemBridge) : s.TlbOnly (s.modBridge b f) := ⟨rfl, fun _ => rfl⟩
theorem State.tlbOnly_modDie (s : State) (d : Nat) (f : Die → Die) : s.TlbOnly (s.modDie d f) := ⟨rfl, fun _ => rfl⟩

theorem State.tlbOnly_tlb (s : State) (l : Nat) (e : TlbEnt) : s.TlbOnly (s.modCore l fun c => { c with tlb := tlbPut 96 c.tlb e }) :=
  ⟨rfl, fun j => by
    by_cases h : j = l
    · subst h; simp
    · simp [State.core_modCore_of_ne s _ h]⟩

theorem State.tlbOnly_chkHbm (s : State) (a : Nat) : s.TlbOnly (s.chkHbm a).1 := by
  unfold State.chkHbm
  dsimp only
  split
  · exact s.tlbOnly_modBridge _ _
  · split
    · exact s.tlbOnly_modMem fun m => m.scrub a
    · exact .refl s

theorem State.tlbOnly_chkAll (ws : List Nat) : ∀ s : State, s.TlbOnly (s.chkAll (fun s w => s.chkHbm w) ws).1 := by
  induction ws with
  | nil => exact .refl
  | cons w ws ih =>
    intro s
    unfold State.chkAll
    dsimp only
    split
    · exact (s.tlbOnly_chkHbm w).trans (ih _)
    · exact s.tlbOnly_chkHbm w

theorem State.tlbOnly_readHbm (s : State) (a n : Nat) : s.TlbOnly (s.readHbm a n).1 := by
  unfold State.readHbm
  dsimp only
  split
  · exact .refl s
  · exact State.tlbOnly_chkAll _ s

theorem State.tlbOnly_readTable (s : State) (d page i : Nat) : s.TlbOnly (s.readTable d page i).1 := by
  have h := s.tlbOnly_readHbm (page + 8 * i) 8
  unfold State.readTable
  dsimp only
  split
  · exact .refl s
  · split
    · exact h
    · split
      · exact h.trans (State.tlbOnly_modDie _ _ _)
      · exact h

/-- A walk changes nothing but what it reads, its bridges' and its die's records. -/
theorem State.tlbOnly_walk (s : State) (d ctx va : Nat) : s.TlbOnly (s.walk d ctx va).1 := by
  unfold State.walk
  dsimp only
  have h1 := s.tlbOnly_readTable d (s.ctx ctx).root (va / 2 ^ 38 % 1024)
  generalize s.readTable d (s.ctx ctx).root (va / 2 ^ 38 % 1024) = r1 at *
  have h2 := h1.trans (State.tlbOnly_readTable r1.1 d (Pte.addr r1.2.2) (va / 2 ^ 27 % 2048))
  generalize r1.1.readTable d (Pte.addr r1.2.2) (va / 2 ^ 27 % 2048) = r2 at *
  have h3 := h2.trans (State.tlbOnly_readTable r2.1 d (Pte.addr r2.2.2) (va / 65536 % 2048))
  generalize r2.1.readTable d (Pte.addr r2.2.2) (va / 65536 % 2048) = r3 at *
  repeat' split
  all_goals first | exact h1 | exact h2 | exact h3

/-- A translation at a core changes nothing else but TLBs. -/
theorem State.tlbOnly_fill (s : State) (l ctx va : Nat) : s.TlbOnly (s.fill l ctx va).1 := by
  have h := s.tlbOnly_walk (dieOf l) ctx va
  unfold State.fill
  dsimp only
  split
  · exact s.tlbOnly_tlb l _
  · split
    · exact s.tlbOnly_tlb l _
    · split
      · exact (h.trans (State.tlbOnly_modDie _ (dieOf l) _)).trans (State.tlbOnly_tlb _ l _)
      · exact h

theorem State.tlbOnly_tr (s : State) (l ctx va : Nat) (perm : Perm) (sup : Sup) : s.TlbOnly (s.tr l ctx va perm sup).1 := by
  have h := s.tlbOnly_fill l ctx va
  unfold State.tr
  dsimp only
  split
  · exact .refl s
  · split <;> exact h

theorem State.tlbOnly_trNow (s : State) (va : Word) (perm : Perm) (sup : Sup) : s.TlbOnly (s.trNow va perm sup).1 := by
  have h := s.tlbOnly_tr s.cur.lcn s.me.ctxid va.toNat perm sup
  unfold State.trNow
  dsimp only
  split <;> exact h

namespace State.TlbOnly

variable {s u : State} (h : s.TlbOnly u)
include h

theorem cur : u.cur = s.cur := by rw [h.rest]
theorem panelId : u.panelId = s.panelId := by rw [h.rest]
theorem nis : u.nis = s.nis := by rw [h.rest]
theorem net : u.net = s.net := by rw [h.rest]
theorem pctl : u.pctl = s.pctl := by rw [h.rest]
theorem time : u.time = s.time := by rw [h.rest]
theorem slots (l : Nat) : (u.core l).slots = (s.core l).slots := by rw [h.core l]
theorem reqs (l : Nat) : (u.core l).reqs = (s.core l).reqs := by rw [h.core l]
theorem colls (l : Nat) : (u.core l).colls = (s.core l).colls := by rw [h.core l]
theorem veng (l : Nat) : (u.core l).veng = (s.core l).veng := by rw [h.core l]
theorem ctxid (l : Nat) : (u.core l).ctxid = (s.core l).ctxid := by rw [h.core l]; rfl
theorem sysr (l : Nat) : (u.core l).sysr = (s.core l).sysr := by rw [h.core l]
theorem bs (l : Nat) : (u.core l).bs = (s.core l).bs := by rw [h.core l]
theorem thr : u.thr = s.thr := by simp [State.thr, State.slot, Core.slot, h.cur, h.slots]

end State.TlbOnly

/-- A thread whose accesses have all been performed is kept back by no ordering class. -/
theorem State.orderStop_none (s : State) (release : Bool) (ha : s.thr.acq = 0) (hp : s.thr.path = []) (ho : s.thr.outst = [])
    (hv : s.me.vecMemQueued s.cur.slot.val = false) : s.orderStop release = none := by
  have hp' : (s.me.slot s.cur.slot).path = [] := hp
  have ho' : (s.me.slot s.cur.slot).outst = [] := ho
  simp [State.orderStop, State.stalled, Core.performed, ha, hp, hp', ho', hv]

end Sys2Proof.Machine
end

