-- ==== Sys2Proof/Tests/Slice0.lean ====
section
/-! SUPPORT. Tests: ill-formed terms that WellFormed refuses, words of the spec's encodings and what they decode to, single
steps of instructions with results from the spec, and for every obligation with hypotheses a state and operands that meet them. -/

set_option maxRecDepth 20000
set_option exponentiation.threshold 600
set_option Elab.async false

namespace Sys2Proof

open Machine

/-! ## Helpers -/

/-- No guard. -/
def Test.g : Guard := ⟨0, false⟩

/-- The hypotheses of `State.Ready`, computed. -/
def Test.ready (s : State) (u : Uses) : Bool :=
  decide (u.lvl ≤ s.me.level) && s.thr.gate u.gd == some true && (u.rx ++ u.wx).all (fun r => r == 0 || s.thr.regs.xp[r].n == 0) &&
  (u.rv ++ u.wv).all (fun r => s.thr.regs.vp[r].n == 0) && (u.rg ++ u.wg).all (fun r => r == 0 || s.thr.regs.gp[r].n == 0) &&
  (u.rx ++ u.wx).all fun r => s.thr.bind r == none

theorem Test.ready_of {s : State} {u : Uses} (h : Test.ready s u = true) : s.Ready u := by
  simp only [Test.ready, Bool.and_eq_true, List.all_eq_true, Bool.or_eq_true, beq_iff_eq, decide_eq_true_eq] at h
  obtain ⟨⟨⟨⟨⟨a, b⟩, c⟩, d⟩, e⟩, f⟩ := h
  exact ⟨a, b, fun r h n => (c r h).resolve_left n, d, fun r h n => (e r h).resolve_left n, f⟩

theorem Test.all_ready {s : State} {l : List Instr} (h : (l.all fun i => i.wf && Test.ready s i.uses) = true) :
    ∀ i ∈ l, i.wf = true ∧ s.Ready i.uses := fun i hi => by
  have := List.all_eq_true.1 h i hi
  simp only [Bool.and_eq_true] at this
  exact ⟨this.1, Test.ready_of this.2⟩

/-- The panel after reset with slot 0 of core 0 running a record at 0x1000, and these x registers. -/
def Test.st (xs : List (Fin 32 × Word)) : State :=
  State.reset.modThr fun t =>
    { t with state := .running, record := some 0x1000, regs := { t.regs with x := xs.foldl (fun v p => v.set p.1 p.2) t.regs.x } }

/-- The same at level 2. -/
def Test.sys (xs : List (Fin 32 × Word)) : State := (Test.st xs).modMe fun c => c.setSys 0x12 2

/-- The same with the line of slot 5 resident and slot 5 a branch target. -/
def Test.line (xs : List (Fin 32 × Word)) : State := (Test.st xs).modMe fun c => { c with lines := [{ va := 64, data := oneLine 0x010000000000000000000000 }] }

/-- One step of an instruction. -/
def Test.after (i : Instr) (s : State) (p : State → Bool) : Bool :=
  match exec i s with
  | .next t => p t
  | _ => false

def Test.a3 : Alu := ⟨Test.g, false, 1, 2, .reg 3⟩
def Test.m3 (size : Fin 4) : MemForm := ⟨Test.g, size, 1, 2, .imm 8⟩

/-! ## Ill-formed terms -/

theorem test_wf_guard : (Instr.nop ⟨0, true⟩).wf = false := by decide
theorem test_wf_no32 : (Instr.and ⟨Test.g, true, 1, 2, .reg 3⟩).wf = false := by decide
theorem test_wf_shift32 : (Instr.sll ⟨Test.g, true, 1, 2, .imm 32⟩).wf = false := by decide
theorem test_wf_shift64 : (Instr.sra ⟨Test.g, false, 1, 2, .imm 64⟩).wf = false := by decide
theorem test_wf_gwr : (Instr.gwr Test.g 1 3).wf = false := by decide
theorem test_wf_waitev : (Instr.waitev Test.g 1 (.imm 65536) none).wf = false := by decide
theorem test_wf_ldu : (Instr.ldu ⟨Test.g, 3, 1, 2, .imm 0⟩).wf = false := by decide
theorem test_wf_sync : (Instr.ldw ⟨Test.g, 2, 1, 2, .imm 0⟩).wf = false := by decide
theorem test_wf_relq : (Instr.relq ⟨Test.g, 3, 1, 2, .imm 0⟩).wf = false := by decide
theorem test_wf_amo_float : (Instr.amo Test.g false .fadd false false 1 2 (.reg 3) 0).wf = false := by decide
theorem test_wf_amo_s3 : (Instr.amo Test.g false .add false false 1 2 (.reg 3) 4).wf = false := by decide
theorem test_wf_vfma : (Instr.vfma ⟨Test.g, 1, 2, .imm 0, .rne⟩ 3).wf = false := by decide
theorem test_wf_vred : (Instr.vred Test.g .amax .rne (.v 1) 2 none).wf = false := by decide
theorem test_wf_vsettag : (Instr.vsettag Test.g 1 2 (.imm 65536)).wf = false := by decide
theorem test_wf_vsend : (Instr.vsend Test.g 1 2 0 65536).wf = false := by decide
theorem test_wf_amcall_kind : (Instr.amcall Test.g 1 2 63 8).wf = false := by decide
theorem test_wf_amcall_len : (Instr.amcall Test.g 1 2 64 257).wf = false := by decide
theorem test_wf_amcall_regs : (Instr.amcall Test.g 1 0 64 33).wf = false := by decide
theorem test_wf_bndset_k : (Instr.bndset Test.g 0 false 0 1).wf = false := by decide
theorem test_wf_bndset_clear : (Instr.bndset Test.g 1 true 0 1).wf = false := by decide
theorem test_wf_bndget : (Instr.bndget Test.g 1 0 false).wf = false := by decide
theorem test_wf_cntrd : (Instr.cntrd Test.g 1 0 0 1).wf = false := by decide
theorem test_wf_cntclr : (Instr.cntclr Test.g 0 1 1).wf = false := by decide
theorem test_wf_agent : (Instr.sweep).wf = false := by decide

/-! ## Words of the encoding (each from an example of the spec, or written out from its tables) -/

theorem test_decode_add : decode 0x102B14A2C000000000000000 = .ok (.add ⟨⟨2, true⟩, false, 5, 10, .reg 11⟩) := rfl
theorem test_decode_j : decode 0x02000000000000FFFFFFFFF8 = .ok (.j Test.g 0xFFFFFFFFF8) := rfl
theorem test_decode_li : decode 0x22001C00123456789ABCDEF0 = .ok (.li Test.g 7 0x123456789ABCDEF0) := rfl
theorem test_decode_cmp : decode 0x400610500004000000000064 = .ok (.cmp Test.g true .ltu 4 5 (.imm 100)) := rfl
theorem test_decode_loopi : decode 0x080100000000180000000003 = .ok (.loopi Test.g 1 24 3) := rfl
theorem test_decode_ld : decode 0x600718200000000000000010 = .ok (.ld ⟨Test.g, 3, 6, 2, .imm 16⟩) := rfl
theorem test_decode_amo : decode 0x6C0215418789000000000000 = .ok (.amo Test.g true .cas true false 5 20 (.reg 6) 7) := rfl
theorem test_decode_stf : decode 0x670701400500000000000000 = .ok (.stf ⟨Test.g, 3, 5, 20, .imm 0⟩) := rfl
theorem test_decode_wrsys : decode 0x0D0100800000000000000003 = .ok (.wrsys Test.g 3 8) := rfl
theorem test_decode_vadd : decode 0x80000420C000000100000000 = .ok (.vadd ⟨Test.g, 1, 2, .v 3, .rtz⟩) := rfl
theorem test_decode_amcall : decode 0xB60000C00000000000001040 = .ok (.amcall Test.g 12 0 0x40 16) := rfl
theorem test_decode_mma : decode 0xC10004000001002000000000 = .ok (.mma Test.g 1 0 1 ⟨false, false, true⟩) := rfl
theorem test_decode_refchk : decode 0xDE0008A00000000000000000 = .ok (.refchk Test.g 2 10) := rfl
theorem test_decode_launch : decode 0xE00058A00000000000000000 = .ok (.launch Test.g 22 10) := rfl
theorem test_decode_rdlpt : decode 0xE50114600000000000000001 = .ok (.rdlpt Test.g 5 6 true) := rfl
theorem test_decode_barwait : decode 0xEA000C100000000000000BB8 = .ok (.barwait Test.g 3 1 3000) := rfl
theorem test_decode_grpred : decode 0xF2000D410000000000000000 = .ok (.grpred Test.g .sum 3 20 4) := rfl
theorem test_decode_fremap : decode 0xF5000420C000000000000000 = .ok (.fremap Test.g 1 2 3) := rfl

/-- An all-zero slot is the reserved opcode 0x00 (Table 3.17). -/
theorem test_decode_zero : decode 0 = .error .reservedOp := rfl

/-- SLL x5, x7, 64 is rejected with reason 4 (Example 4.1). -/
theorem test_decode_shift_64 : decode 0x150714700000000000000040 = .error .unusedField := rfl

/-! ## Single steps (Example 4.1, and values worked by hand from the rules) -/

/-- A step of a scalar instruction with x6 = 2^63 and x7 = -1 leaves a value in x5. -/
def Test.gives (i : Instr) (v : Word) : Bool :=
  Test.after i (Test.st [(6, 0x8000000000000000), (7, 0xFFFFFFFFFFFFFFFF)]) fun t => t.thr.regs.x[5] == v

theorem test_div_overflow : Test.gives (.div ⟨Test.g, false, 5, 6, .reg 7⟩) 0x8000000000000000 = true := by decide
theorem test_rem_overflow : Test.gives (.rem ⟨Test.g, false, 5, 6, .reg 7⟩) 0 = true := by decide
theorem test_divu_zero : Test.gives (.divu ⟨Test.g, false, 5, 6, .reg 0⟩) 0 = true := by decide
theorem test_rem32_zero : Test.gives (.rem ⟨Test.g, true, 5, 7, .reg 0⟩) 0xFFFFFFFFFFFFFFFF = true := by decide
theorem test_sra32 : Test.gives (.sra ⟨Test.g, true, 5, 6, .imm 4⟩) 0 = true := by decide
theorem test_clz32 : Test.gives (.clz ⟨Test.g, true, 5, 0⟩) 32 = true := by decide
theorem test_add_wraps : Test.gives (.add ⟨Test.g, false, 5, 6, .reg 6⟩) 0 = true := by decide
theorem test_sub_imm : Test.gives (.sub ⟨Test.g, false, 5, 7, .imm 0xFFFFFFFF⟩) 0 = true := by decide
theorem test_mulhu : Test.gives (.mulhu ⟨Test.g, false, 5, 7, .reg 7⟩) 0xFFFFFFFFFFFFFFFE = true := by decide
theorem test_mulh : Test.gives (.mulh ⟨Test.g, false, 5, 6, .reg 6⟩) 0x4000000000000000 = true := by decide
theorem test_srl_imm : Test.gives (.srl ⟨Test.g, false, 5, 6, .imm 63⟩) 1 = true := by decide
theorem test_slt : Test.gives (.slt ⟨Test.g, false, 5, 6, .reg 7⟩) 1 = true := by decide
theorem test_sltu : Test.gives (.sltu ⟨Test.g, false, 5, 7, .reg 6⟩) 0 = true := by decide
theorem test_min : Test.gives (.min ⟨Test.g, false, 5, 6, .reg 7⟩) 0x8000000000000000 = true := by decide
theorem test_cpop : Test.gives (.cpop ⟨Test.g, false, 5, 7⟩) 64 = true := by decide
theorem test_ctz : Test.gives (.ctz ⟨Test.g, false, 5, 6⟩) 63 = true := by decide
theorem test_x0_discards : Test.after (.li Test.g 0 5) (Test.st []) (fun t => t.thr.regs.x[0] == 0) = true := by decide
theorem test_addpc : Test.after (.addpc Test.g 5 5) (Test.st []) (fun t => t.thr.regs.x[5] == 64) = true := by decide
theorem test_cmp_ltu : Test.after (.cmp Test.g false .ltu 4 6 (.imm 0xFFFFFFFF)) (Test.st [(6, 5)]) (fun t => t.thr.regs.g[4]) = true := by decide
theorem test_grd : Test.after (.grd Test.g 5) (Test.st []) (fun t => t.thr.regs.x[5] == 1) = true := by decide
theorem test_trap_freezes : Test.after (.trap Test.g 9) (Test.st []) (fun t => t.me.flt.frozen && t.thr.state == .frozen) = true := by decide
theorem test_wrsys_user_faults : Test.after (.wrsys Test.g 0x10 1) (Test.st []) (fun t => t.me.flt.last.any fun p => p.cause == 4) = true := by decide
theorem test_ld_pending : Test.after (.ld (Test.m3 3)) (Test.st []) (fun t => t.thr.regs.xp[1].n == 1 && t.thr.path.length == 1) = true := by decide
theorem test_ld_misaligned : Test.after (.ld (Test.m3 3)) (Test.st [(2, 1)]) (fun t => t.me.flt.last.any fun p => p.cause == 8 && p.faddr == 9) = true := by decide
theorem test_vadd_queues : Test.after (.vadd ⟨Test.g, 1, 2, .v 3, .rne⟩) (Test.st []) (fun t => t.me.veng.q.length == 1) = true := by decide
theorem test_fence_goes_on : Test.after (.fence Test.g) (Test.st []) (fun t => t.thr.state == .running && t.thr.ctl == .seq) = true := by decide
theorem test_barwait_invalid : Test.after (.barwait Test.g 1 0 0) (Test.st []) (fun t => t.me.flt.last.any fun p => p.cause == 0x2F) = true := by decide

/-! ## States and operands that meet the hypotheses of each obligation -/

theorem witness_IntegerArithmetic : ∀ i ∈ ([.add Test.a3, .sub Test.a3, .and Test.a3, .or Test.a3, .xor Test.a3, .sll Test.a3, .srl Test.a3,
    .sra Test.a3, .mul Test.a3, .mulh Test.a3, .mulhm Test.a3, .mulhu Test.a3, .div Test.a3, .divu Test.a3, .rem Test.a3, .remu Test.a3,
    .li Test.g 1 5, .addpc Test.g 1 5] : List Instr), i.wf = true ∧ (Test.st []).Ready i.uses := Test.all_ready (by decide)

/-- ADDPC: an offset inside the address space, one below it, and the first one above it. -/
theorem witness_addpc : (lin (Test.st []).thr.iss.b.toNat : Int) + (5 : BitVec 32).toInt = (5 : Nat) ∧ slotpc 5 < 2 ^ 48 ∧
    (lin (Test.st []).thr.iss.b.toNat : Int) + (-1 : BitVec 32).toInt = -1 ∧
    (lin ((Test.st []).modThr fun t => { t with iss := { t.iss with b := 0xFFFFFFFFFFF0 } }).thr.iss.b.toNat : Int) + (1 : BitVec 32).toInt = 21990232555520 ∧
    2 ^ 48 ≤ slotpc 21990232555520 := by decide

theorem witness_ComparesGuards : ∀ i ∈ ([.slt Test.a3, .sltu Test.a3, .min Test.a3, .max Test.a3, .minu Test.a3, .maxu Test.a3,
    .clz ⟨Test.g, false, 1, 2⟩, .ctz ⟨Test.g, true, 1, 2⟩, .cpop ⟨Test.g, false, 1, 2⟩, .cmp Test.g true .ltu 1 2 (.reg 3), .tst Test.g true 1 2 (.imm 8),
    .glog Test.g 1 2 3 6, .grd Test.g 1, .gwr Test.g 1 0xFFFE] : List Instr), i.wf = true ∧ (Test.st []).Ready i.uses := Test.all_ready (by decide)

/-- Slot 5 stands at PC 64, in a resident line, as a branch target. -/
theorem witness_lands : Claim.At (Test.line []) 5 5 ∧ Claim.Lands (Test.line []) (BitVec.ofNat 48 (slotpc 5)) :=
  ⟨by unfold Claim.At; decide, _, rfl, by decide⟩

theorem witness_Transfers : (∀ i ∈ ([.br Test.g 0 5, .brF Test.g 0 5, .j Test.g 5, .jal Test.g 1 5, .jr Test.g 2, .jalr Test.g 1 2] : List Instr),
    i.wf = true ∧ (Test.line [(2, 64)]).Ready i.uses) ∧ isSlot (Claim.x (Test.line [(2, 64)]) 2) = true ∧
    Claim.Lands (Test.line [(2, 64)]) ((Claim.x (Test.line [(2, 64)]) 2).setWidth 48) :=
  ⟨Test.all_ready (by decide), by decide, _, rfl, by decide⟩

/-- A register that names no slot, and one that names a slot that is no branch target. -/
theorem witness_no_target : isSlot (Claim.x (Test.line [(2, 65)]) 2) = false ∧ (Test.line [(2, 65)]).cur.slot ≠ 15 ∧
    ∃ x, (Test.line [(2, 76)]).me.line? ((Claim.x (Test.line [(2, 76)]) 2).setWidth 48) = some x ∧ lparOk x.data = true ∧
      lineIllegal x.data = none ∧ lineBtm x.data (slotIdx ((Claim.x (Test.line [(2, 76)]) 2).setWidth 48)) = false :=
  ⟨by decide, by decide, _, rfl, by decide, by decide, by decide⟩

theorem witness_HardwareLoops : (∀ i ∈ ([.loop Test.g 0 2 5, .loopi Test.g 1 3 5, .loopx Test.g 1 4 2 3 5, .loop Test.g 0 2 0] : List Instr),
    i.wf = true ∧ (Test.st [(2, 3)]).Ready i.uses) ∧ Claim.At (Test.st [(2, 3)]) 5 5 ∧ (Claim.x (Test.st [(2, 3)]) 2).setWidth 32 ≠ 0#32 ∧
    (Claim.x (Test.st [(3, 3)]) 2).setWidth 32 = 0#32 ∧ slotpc (5 + 1) < 2 ^ 48 ∧ (5 : BitVec 40).msb = false ∧ (-1 : BitVec 40).msb = true :=
  ⟨Test.all_ready (by decide), by unfold Claim.At; decide, by decide, by decide, by decide, by decide, by decide⟩

/-- A slot whose level 1 is active and ends at PC 24; its count is 1, or more. -/
def Test.looping (n : BitVec 32) : State :=
  (Test.st []).modThr fun t => t.setLoop 1 { active := true, count := n, init := 4, start := 12, endpc := 24 }

theorem witness_loop_ends : ((Test.looping 1).slot 0 0).loops[1].active = true ∧ ((Test.looping 1).slot 0 0).loops[1].endpc = 24 ∧
    ((Test.looping 1).slot 0 0).loops[0].endpc ≠ 24 ∧ ((Test.looping 1).slot 0 0).loops[1].idx = none ∧
    ((Test.looping 2).slot 0 0).loops[1].count ≠ 1 := by decide

/-- The thread with guard 3 false, or pending. -/
def Test.pending : State := (Test.st []).modThr fun t => { t with regs := { t.regs with gp := t.regs.gp.set 3 ⟨.path, 1⟩ } }

theorem witness_GuardDecides : Claim.scalar (.add ⟨⟨3, false⟩, false, 1, 2, .reg 3⟩) = true ∧ (Test.st []).thr.gate ⟨3, false⟩ = some false ∧
    Claim.pathOrControl (.st ⟨⟨3, false⟩, 3, 1, 2, .imm 8⟩) = true ∧ Test.pending.thr.gate ⟨3, false⟩ = none ∧
    (Instr.st ⟨⟨3, false⟩, 3, 1, 2, .imm 8⟩).uses.lvl ≤ (Test.st []).me.level := by decide

/-- The thread with a result on its way to x2. -/
def Test.busy : State := (Test.st []).modThr fun t => { t with regs := { t.regs with xp := t.regs.xp.set 2 ⟨.path, 1⟩ } }

theorem witness_IssueFaults : (Test.st []).me.level < (Instr.preempt Test.g 1 2).uses.lvl ∧ Claim.privileged (.preempt Test.g 1 2) = true ∧
    Claim.scalar (.add Test.a3) = true ∧ (Instr.add Test.a3).uses.lvl ≤ Test.busy.me.level ∧ Test.busy.thr.gate (Instr.add Test.a3).uses.gd = some true ∧
    (2 : Fin 32) ∈ (Instr.add Test.a3).uses.rx ++ (Instr.add Test.a3).uses.wx ∧ Test.busy.thr.regs.xp[(2 : Fin 32)].n ≠ 0 := by decide

theorem witness_TakingAFault : ¬ ((15 : Fin 16) = 15 ∧ ((mkCause 0x08 0 0).cause = 0x1A ∨ (mkCause 0x08 0 0).cause = 0x1F)) := by decide

theorem witness_ExceptionInstructions : (∀ i ∈ ([.trap Test.g 5, .brk Test.g 5, .supcall Test.g 5] : List Instr), i.wf = true ∧ (Test.st []).Ready i.uses) ∧
    (Test.st []).Worker ∧ (Test.st []).begin.orderStop true = none :=
  ⟨Test.all_ready (by decide), by unfold State.Worker; decide, by decide⟩

theorem witness_ReturnFromFault : ({ state := .frozen } : Slot).state = .frozen ∧ ({ state := .frozen } : Slot).load = none := by decide

theorem witness_SystemRegistersIdentities : (∀ i ∈ ([.nop Test.g, .rdtime Test.g 1, .stealdom Test.g (.reg 1), .rdsys Test.g 1 3, .rdsys Test.g 1 1,
      .rdsys Test.g 1 0xB, .rdsys Test.g 1 0xFFF, .wrsys Test.g 0xFFF 1, .wrsys Test.g 3 1, .wrsys Test.g 0xC 1, .getid Test.g 1 0, .getid Test.g 1 8] : List Instr),
      i.wf = true ∧ (Test.sys []).Ready i.uses) ∧
    (sysReadLevel 3).isSome = true ∧ sysReadLevel 0xFFF = none ∧ sysWriteLevel 0xFFF = none ∧ (sysWriteLevel 3).isSome = true ∧
    (Test.sys []).me.sysOk 0 3 (Claim.x (Test.sys []) 1) = true ∧ (Test.sys []).me.sysOk 0 0xC (Claim.x (Test.sys []) 1) = true :=
  ⟨Test.all_ready (by decide), by decide⟩

theorem witness_SleepUntil : (Test.st [(2, 9), (3, 8)]).Ready (Instr.sleepuntil Test.g 2 3).uses ∧ (Test.st [(2, 9), (3, 8)]).Worker ∧
    addrStop (Claim.x (Test.st [(2, 9), (3, 8)]) 3) 8 = none ∧ (Test.st [(2, 9), (3, 8)]).begin.orderStop false = none :=
  ⟨Test.ready_of (by decide), by unfold State.Worker; decide, by decide, by decide⟩

theorem witness_LoadsStoresIssue : (∀ i ∈ ([.ld (Test.m3 3), .ldu (Test.m3 2), .ldAcq (Test.m3 0), .amo Test.g false .cas true false 1 2 (.reg 3) 4,
      .st (Test.m3 3), .stRel (Test.m3 1), .stf (Test.m3 3)] : List Instr), i.wf = true ∧ (Test.st [(2, 0xFFFFFFFFFFF0)]).Ready i.uses) ∧
    (Test.st [(2, 0xFFFFFFFFFFF0)]).Worker ∧ Claim.Aligned (Claim.va (Test.st [(2, 0xFFFFFFFFFFF0)]) (Test.m3 3)) 8 ∧
    Claim.Aligned (Claim.x (Test.st [(2, 0xFFFFFFFFFFF0)]) 2) 8 ∧
    (Test.st [(2, 0xFFFFFFFFFFF0)]).begin.orderStop false = none ∧ (Test.st [(2, 0xFFFFFFFFFFF0)]).begin.orderStop true = none :=
  ⟨Test.all_ready (by decide), by unfold State.Worker; decide, by unfold Claim.Aligned; decide, by unfold Claim.Aligned; decide, by decide, by decide⟩

/-- The thread with x2 = 0x100 and a reservation held. -/
def Test.holding (a : Word) : State := (Test.st [(2, 0x100)]).modThr fun t => { t with held := some a }

theorem witness_SynchronisingIssue : (∀ i ∈ ([.ldw (Test.m3 3), .ldt (Test.m3 3), .stw (Test.m3 3), .lrq (Test.m3 3)] : List Instr),
      i.wf = true ∧ (Test.st [(2, 0x100)]).Ready i.uses) ∧
    (Test.st [(2, 0x100)]).Worker ∧ Claim.Aligned (Claim.va (Test.st [(2, 0x100)]) (Test.m3 3)) 8 ∧ (Test.st [(2, 0x100)]).thr.held = none ∧
    (Test.st [(2, 0x100)]).begin.orderStop false = none ∧ (Test.st [(2, 0x100)]).begin.orderStop true = none :=
  ⟨Test.all_ready (by decide), by unfold State.Worker; decide, by unfold Claim.Aligned; decide, by decide, by decide, by decide⟩

theorem witness_AddressFaults : (∀ i ∈ ([.ld (Test.m3 3), .ldu (Test.m3 2), .ldAcq (Test.m3 3), .st (Test.m3 3), .stRel (Test.m3 3), .ldw (Test.m3 3), .ldt (Test.m3 3),
      .stf (Test.m3 3), .stw (Test.m3 3), .lrq (Test.m3 3), .scq (Test.m3 3), .relq ⟨Test.g, 3, 0, 2, .imm 8⟩] : List Instr),
      i.wf = true ∧ (Test.st [(2, 0xFFFFFFFFFFF8)]).Ready i.uses) ∧
    2 ^ 48 ≤ (Claim.va (Test.st [(2, 0xFFFFFFFFFFF8)]) (Test.m3 3)).toNat ∧ (Claim.va (Test.st [(2, 1)]) (Test.m3 3)).toNat < 2 ^ 48 ∧
    (Claim.va (Test.st [(2, 1)]) (Test.m3 3)).toNat % 8 ≠ 0 ∧
    Claim.Aligned (Claim.va (Test.holding 0x110) (Test.m3 3)) 8 ∧ (Test.holding 0x110).thr.held ≠ none ∧
    Claim.Aligned (Claim.va (Test.st [(2, 0x100)]) (Test.m3 3)) 8 ∧ (Test.st [(2, 0x100)]).thr.held = none :=
  ⟨Test.all_ready (by decide), by decide, by decide, by decide, by unfold Claim.Aligned; decide, by decide, by unfold Claim.Aligned; decide, by decide⟩

/-- The thread with an access that was sent and is not performed. -/
def Test.unperformed : State := (Test.st []).modThr fun t => { t with outst := [{ home := 5, vc := 0, id := 1 }] }

theorem witness_Fences : (∀ i ∈ ([.fence Test.g, .fenceEng Test.g, .fenceI Test.g] : List Instr), i.wf = true ∧ (Test.st []).Ready i.uses) ∧
    (Test.st []).begin.orderStop true = none ∧ Test.unperformed.Ready (Instr.fence Test.g).uses ∧
    ∃ p, Test.unperformed.begin.orderStop true = some (.retry p) :=
  ⟨Test.all_ready (by decide), by decide, Test.ready_of (by decide), _, rfl⟩

/-- The thread of core 0 in a context that holds cores 0 and 1, with the line of slot 5 resident. -/
def Test.placed (xs : List (Fin 32 × Word)) : State :=
  { Test.line xs with pctl := { ctxs := [(0, { place := [⟨1, 2, 0, 0, 0, 0⟩], st := .running })] } }

theorem witness_ForkSpawnJoin : (∀ i ∈ ([.fork Test.g 2 3 4 3 5, .spawn Test.g 2 4 3 4 0 5, .joindec Test.g 3] : List Instr),
      i.wf = true ∧ (Test.placed [(2, 0x40), (3, 8), (4, 1)]).Ready i.uses) ∧
    (Test.placed [(2, 0x40), (3, 8), (4, 1)]).Worker ∧ Claim.Aligned (Claim.x (Test.placed [(2, 0x40), (3, 8), (4, 1)]) 2) 64 ∧
    (Claim.x (Test.placed [(2, 0x40), (3, 8), (4, 1)]) 3).toNat % 8 = 0 ∧ Claim.At (Test.placed [(2, 0x40), (3, 8), (4, 1)]) 5 5 ∧
    Claim.Lands (Test.placed [(2, 0x40), (3, 8), (4, 1)]) (BitVec.ofNat 48 (slotpc 5)) ∧
    (Test.placed [(2, 0x40), (3, 8), (4, 1)]).begin.target 0 1 = some 1 ∧ (Test.placed [(2, 0x40), (3, 8), (4, 1)]).begin.orderStop true = none ∧
    (Claim.x (Test.placed [(2, 0x41), (3, 9)]) 2).toNat % 64 ≠ 0 ∧ (Claim.x (Test.placed [(2, 0x41), (3, 9)]) 3).toNat % 8 ≠ 0 :=
  ⟨Test.all_ready (by decide), by unfold State.Worker; decide, by unfold Claim.Aligned; decide, by decide, by unfold Claim.At; decide, ⟨_, rfl, by decide⟩,
    by decide, by decide, by decide, by decide⟩

/-- The message thread of core 0, with these registers. -/
def Test.mt (xs : List (Fin 32 × Word)) : State :=
  ({ State.reset with cur := ⟨0, 15⟩ } : State).modThr fun t =>
    { t with state := .running, regs := { t.regs with x := xs.foldl (fun v p => v.set p.1 p.2) t.regs.x } }

theorem witness_Suspensions : (∀ i ∈ ([.suspend Test.g, .yield Test.g, .suspendJ Test.g 2, .await Test.g 2, .exit Test.g] : List Instr),
      i.wf = true ∧ (Test.st [(2, 0x100)]).Ready i.uses) ∧ Claim.CanSuspend (Test.st [(2, 0x100)]) 0x1000 ∧ Claim.Aligned (Claim.x (Test.st [(2, 0x100)]) 2) 8 ∧
    (Test.holding 8).Ready (Instr.suspend Test.g).uses ∧ (Test.holding 8).me.quiet (Test.holding 8).cur.slot = true ∧ (Test.holding 8).begin.orderStop true = none ∧
    (Test.holding 8).thr.live = true ∧ (Test.mt []).Ready (Instr.suspend Test.g).uses ∧ (Test.mt []).cur.slot = 15 :=
  ⟨Test.all_ready (by decide), ⟨by unfold State.Worker; decide, by decide +kernel, by decide, by decide, by decide⟩, by unfold Claim.Aligned; decide,
    Test.ready_of (by decide), by decide +kernel, by decide, by decide, Test.ready_of (by decide), by decide⟩

/-- The thread with the pages of 0x10000 (core 0's slice from offset 0), 0x20000 (handle 5 of core 0) and 0x30000 (core 1's slice) in the
L1 TLB, in a context that holds cores 0 and 1. -/
def Test.mapped (xs : List (Fin 32 × Word)) : State :=
  (Test.placed xs).modMe fun c => { c with tlb := [⟨0, 1, false, 0xF200100000000000, 0⟩, ⟨0, 2, false, 0xE602300000050000, 0⟩,
    ⟨0, 3, false, 0xF200100000100000, 0⟩] }

theorem witness_Events : (∀ i ∈ ([.waitev Test.g 1 (.imm 4) none, .waitev Test.g 1 (.imm 4) (some 2), .sigev Test.g 3 4] : List Instr),
      i.wf = true ∧ (Test.mapped [(2, 0x10008), (3, 0x20001)]).Ready i.uses) ∧
    (∃ u, (Test.mapped [(2, 0x10008)]).begin.trNow (Claim.x (Test.mapped [(2, 0x10008)]) 2) .r (.plain 8) = (u, .inl (0, 0x100000000008)) ∧
      u.panelId = 0 ∧ u.cur = ⟨0, 0⟩ ∧ u.thr = (Test.mapped [(2, 0x10008)]).begin.thr) ∧
    spaceOf 0x100000000008 = 1 ∧ homeOf 0x100000000008 = 0 ∧
    (Claim.x (Test.mapped [(3, 0x20001)]) 3).toNat < 2 ^ 20 ∧ bits (Claim.x (Test.mapped [(3, 0x20001)]) 3) 19 16 ≠ 15 ∧
    (Test.mapped [(3, 0x20001)]).begin.target 0 1 = some 1 ∧ (Test.mapped [(3, 0x20000)]).begin.target 0 0 = some 0 ∧
    (Test.mapped [(3, 0x20001)]).begin.orderStop true = none ∧ ((Test.mapped [(3, 0x20001)]).ni 0).posted.length < postedMax :=
  ⟨Test.all_ready (by decide), ⟨_, Prod.ext rfl (by decide +kernel), by decide +kernel, by decide +kernel, by decide +kernel⟩, by decide, by decide, by decide,
    by decide, by decide, by decide, by decide, by decide⟩

/-- The mapped thread that holds a reservation; x2 + 8 is the word at offset 0x108 of core 0's slice. -/
def Test.holds (a : Word) : State := (Test.mapped [(2, 0x10100)]).modThr fun t => { t with held := some a }

theorem Test.holds_tr : ∀ a ∈ [0x100000000108, 0x100000000110], ∃ u, Claim.Translated (Test.holds a) u (Claim.va (Test.holds a) (Test.m3 3)) 0 0x100000000108 ∧
    u.orderStop true = none := by
  intro a ha
  simp only [List.mem_cons, List.not_mem_nil, or_false] at ha
  rcases ha with rfl | rfl <;> exact
  ⟨_, ⟨Prod.ext rfl (by decide +kernel), by decide +kernel, by decide +kernel⟩, by decide +kernel⟩

theorem witness_SynchronisingIssue_ends :
    (∀ i ∈ ([.scq (Test.m3 3), .relq ⟨Test.g, 3, 0, 2, .imm 8⟩] : List Instr), i.wf = true ∧ (Test.holds 0x100000000108).Ready i.uses) ∧
    (Test.holds 0x100000000108).Worker ∧ Claim.Aligned (Claim.va (Test.holds 0x100000000108) (Test.m3 3)) 8 ∧
    (Test.holds 0x100000000108).thr.held = some (BitVec.ofNat 64 (0 * 2 ^ 48 + 0x100000000108)) :=
  ⟨Test.all_ready (by decide), by unfold State.Worker; decide, by unfold Claim.Aligned; decide, by decide⟩

theorem witness_AddressFaults_other : (Test.holds 0x100000000110).Ready (Instr.scq (Test.m3 3)).uses ∧
    (Test.holds 0x100000000110).thr.held = some 0x100000000110 ∧ 0x100000000110#64 ≠ BitVec.ofNat 64 (0 * 2 ^ 48 + 0x100000000108) :=
  ⟨Test.ready_of (by decide), by decide, by decide⟩

/-- Every vector command that the obligation speaks of, in one form or more. -/
def Test.vecs : List Instr :=
  let b : VBin := ⟨Test.g, 1, 2, .v 3, .rne⟩
  let u : VUn := ⟨Test.g, 1, 2, .rne⟩
  [.vadd b, .vsub b, .vmul { b with src := .x 3 }, .vfma b 4, .vmin b, .vmax { b with src := .imm 3 }, .vabs u, .vneg u, .vand Test.g 1 2 (.v 3),
    .vor Test.g 1 2 (.x 3), .vxor Test.g 1 2 (.imm 3), .vshl Test.g 1 2 (.x 3), .vshr Test.g true 1 2 (.imm 3), .vcmp Test.g .lt (.mask 1) 2 (.v 3),
    .vcmp Test.g .lt (.any 1) 2 (.v 3), .vsel Test.g 1 2 3 4, .vperm Test.g 1 2 3, .vslide Test.g 1 2 (.reg 3), .vbcast Test.g 1 (.reg 3) .rne,
    .vmovx Test.g 1 2 (.imm 3), .vins Test.g 1 2 (.imm 3) 4, .vred Test.g .sum .rne (.v 1) 2 none, .vsettag Test.g 1 2 (.imm 1), .vgettag Test.g 1 2,
    .vcvt Test.g .rne 0 1 2 2, .vqnt Test.g .rne 1 2 3 0x8, .vdqnt Test.g .rne 1 2 3 1, .vld Test.g 1 2 8 1, .vst Test.g 1 2 8, .vlds Test.g 1 2 3 1,
    .vsts Test.g 1 2 3, .vldx Test.g 1 2 3 1, .vstx Test.g 1 2 3, .bndset Test.g 1 false 0 2, .bndset Test.g 1 true 0 0]

/-- The core with two commands in its vector queue. -/
def Test.vfull : State := (Test.sys []).modMe fun c =>
  { c with veng := { c.veng with q := [⟨0, 0, 0, .known true, .nop Test.g, [], 0, 0, false, [], [], false, none, false, false, none⟩,
    ⟨0, 1, 0, .known true, .nop Test.g, [], 0, 0, false, [], [], false, none, false, false, none⟩] } }

theorem witness_VectorCommandsQueue : (Test.vecs.all Claim.vec) = true ∧ (∀ i ∈ Test.vecs, i.wf = true ∧ (Test.sys []).Ready i.uses) ∧
    (Test.sys []).me.veng.q.length < 2 ∧ (Test.sys []).thr.acq = 0 ∧ (∀ i ∈ Test.vecs, i.wf = true ∧ Test.vfull.Ready i.uses) ∧
    2 ≤ Test.vfull.me.veng.q.length :=
  ⟨by decide, Test.all_ready (by decide), by decide, by decide, Test.all_ready (by decide), by decide⟩

/-- The thread with x25 bound to a pair queue as a consumer, or as a producer. -/
def Test.bound (push : Bool) : State := (Test.st []).modThr fun t => t.setBind 25 (some ⟨.pqF 1, push, false, 0, 0⟩)

/-- A graph that holds operation 9 in slot 2. -/
def Test.graph : State := (Test.sys [(3, 9)]).modMe fun c => { c with veng := { c.veng with
  gs := c.veng.gs.set 2 { graph := some ⟨9, Vector.replicate 8 0, 1, Vector.replicate 3 2, 0, 2, 4, 16, Vector.replicate 32 0, Vector.replicate 32 0, Vector.replicate 16 0, []⟩, proj := some 9 } } }

theorem witness_QueuesCustomOpcodes :
    (Test.bound false).Ready (Instr.vqpop Test.g 1 25).uses ∧ (∃ b, (Test.bound false).thr.bind 25 = some b ∧ b.push = false) ∧
    (Test.bound true).Ready (Instr.vqpush Test.g 1 25).uses ∧ (∃ b, (Test.bound true).thr.bind 25 = some b ∧ b.push = true) ∧
    (Test.st []).thr.bind 25 = none ∧ (Test.st []).me.veng.q.length < 2 ∧ (Test.st []).thr.acq = 0 ∧
    (∀ i ∈ ([.vqpop Test.g 1 25, .vqpush Test.g 1 25, .vsend Test.g 1 2 0 8] : List Instr), i.wf = true ∧ (Test.st []).Ready i.uses) ∧
    Test.graph.me.cxAt 9 = some 2 ∧ Test.graph.me.veng.gs[(2 : Fin 4)].away = false ∧ Test.graph.me.cxAt 8 = none ∧ Test.graph.me.vecMemQueued 0 = false ∧
    Test.graph.Ready (Test.graph.usesOf (.cxop Test.g .rne 1 2 3 4 9 0)) ∧ Test.graph.Ready (Test.graph.usesOf (.cxop Test.g .rne 1 2 3 4 8 0)) ∧
    (∀ i ∈ ([.cxload Test.g 3, .cxdrop Test.g 2, .cxqry Test.g 1 2, .cxtbl Test.g 2 4, .bndget Test.g 1 2 true, .bndget Test.g 1 2 false, .cntrd Test.g 1 0 0 0,
      .cntclr Test.g 0 0 0, .qstat Test.g 1 25] : List Instr), i.wf = true ∧ Test.graph.Ready i.uses) ∧
    (Claim.x Test.graph 3).toNat < 256 ∧ Test.graph.me.cxAt (Claim.x Test.graph 3).toNat = some 2 ∧ Test.graph.me.cxAt (Claim.x Test.graph 2).toNat = none ∧
    Test.graph.Worker ∧ (Claim.x Test.graph 4).getLsbD 63 = false ∧ Claim.Aligned (Test.graph.me.cxEntry (Claim.x Test.graph 2).toNat) 8 ∧
    Test.graph.begin.orderStop true = none ∧ Test.graph.me.veng.q = [] ∧ Test.graph.me.meng.q = [] ∧
    256 ≤ (Claim.x (Test.sys [(3, 256)]) 3).toNat :=
  ⟨Test.ready_of (by decide), ⟨_, rfl, rfl⟩, Test.ready_of (by decide), ⟨_, rfl, rfl⟩, by decide, by decide, by decide, Test.all_ready (by decide),
    by decide +kernel, by decide +kernel, by decide +kernel, by decide +kernel, Test.ready_of (by decide +kernel), Test.ready_of (by decide +kernel), Test.all_ready (by decide), by decide, by decide +kernel, by decide +kernel,
    by unfold State.Worker; decide, by decide, by unfold Claim.Aligned; decide, by decide, by decide, by decide, by decide⟩

theorem witness_BindFreeCall :
    (∀ i ∈ ([.qbind Test.g 25 2 0, .qfree Test.g 25, .amcall Test.g 4 0 0x40 32] : List Instr), i.wf = true ∧
      (Test.placed [(2, 0x1040000000000), (4, 1)]).Ready i.uses) ∧
    (Test.placed [(2, 0x1040000000000)]).begin.bindReason 25 (Claim.x (Test.placed [(2, 0x1040000000000)]) 2) 0 0 = none ∧
    bits (Claim.x (Test.placed [(2, 0x1040000000000)]) 2) 43 40 < 6 ∧
    (∃ r, (Test.placed [(2, 0xF0000000000)]).begin.bindReason 25 (Claim.x (Test.placed [(2, 0xF0000000000)]) 2) 0 0 = some r) ∧
    ((Test.st []).modThr fun t => t.setBind 25 (some ⟨.link 1, false, false, 0, 0⟩)).thr.bind 25 = some ⟨.link 1, false, false, 0, 0⟩ ∧
    ((Test.st []).modThr fun t => t.setBind 25 (some ⟨.link 1, false, false, 0, 0⟩)).thr.regs.xp[25].n = 0 ∧
    (Test.placed []).thr.bind 25 = none ∧
    (Test.placed [(4, 1)]).begin.target 0 (Claim.x (Test.placed [(4, 1)]) 4) = some 1 ∧ (Test.placed [(4, 1)]).begin.orderStop false = none ∧
    (Test.placed [(4, 1)]).thr.path = [] ∧ (Test.placed [(4, 1)]).thr.outst = [] ∧ ((Test.placed [(4, 1)]).ni 0).posted.length < postedMax :=
  ⟨Test.all_ready (by decide), by decide +kernel, by decide, ⟨_, by rfl⟩, by decide, by decide, by decide, by decide, by decide, by decide, by decide, by decide⟩

/-- A shape record (Table 11.1). -/
def Test.shape (base tag estr rstr rows cols : Nat) : BitVec 256 :=
  BitVec.ofNat 256 (base + rstr * 2 ^ 64 + estr * 2 ^ 96 + tag * 2 ^ 112 + rows * 2 ^ 128 + cols * 2 ^ 144)

/-- The mapped thread at level 2 with FP32 tiles and FP16 operands: sh0 and sh1 of 8 × 8, sh2 of 8 × 16 and sh3 of 128 × 8 for the sparse
forms; the metadata stands at x2, v1 is an INT16 register of zeros. -/
def Test.mat : State :=
  ((Test.mapped [(2, 0x11000)]).modMe fun c => { c.setSys 0x12 2 with meng := { c.meng with
    sh := (((c.meng.sh.set 0 (Test.shape 0x10000 2 2 16 8 8)).set 1 (Test.shape 0x10100 2 2 16 8 8)).set 2 (Test.shape 0x10000 2 2 32 8 16)).set 3
      (Test.shape 0x10400 2 2 16 128 8)
    tiles := c.meng.tiles.set 0 { tag := 1 } } }).modThr fun t => { t with regs := { t.regs with vtag := t.regs.vtag.set 1 5 } }

/-- The hypotheses of `Claim.MatOpen`, computed. -/
def Test.matOpen (s : State) (i : Instr) : Bool :=
  Test.ready s i.uses && s.noMatrix == false && (mShapes i).all (fun h => s.me.meng.shp[h] == 0) && s.thr.acq == 0 &&
    decide (s.me.meng.q.length < 4)

theorem Test.matOpen_of {s : State} {i : Instr} (h : Test.matOpen s i = true) : Claim.MatOpen s i := by
  simp only [Test.matOpen, Bool.and_eq_true, List.all_eq_true, beq_iff_eq, decide_eq_true_eq] at h
  obtain ⟨⟨⟨⟨a, b⟩, c⟩, d⟩, e⟩ := h
  exact ⟨Test.ready_of a, b, c, d, e⟩

/-- Some needs that begin at 0x10000 and lie within its page. -/
def Test.near (r : Except Cause (List Need)) : Bool :=
  match r with
  | .ok (n :: t) => n.va == 0x10000 && n.pos == 1 && t.all fun m => m.va.toNat / 65536 == 1
  | _ => false

/-- The witness state after the translation of 0x10000. -/
def Test.matTr : State := Test.mat.begin.modCore 0 fun c => { c with tlb := tlbPut 96 c.tlb ⟨0, 1, false, 0xF200100000000000, 0⟩ }

theorem Test.tr_hit {s : State} {l ctx va : Nat} {e : TlbEnt} (p : Perm) (q : Sup) (h : (s.core l).l1 ctx va = some e) (hv : va < 2 ^ 48) :
    s.tr l ctx va p q = (s.modCore l fun c => { c with tlb := tlbPut 96 c.tlb e }, e.check p q va s.panelId) := by
  rw [State.tr, if_neg (Nat.not_le.2 hv)]
  simp [State.fill, h]

theorem Test.mat_tr (p : Perm) : Test.mat.begin.tr 0 0 0x10000 p (.plain 8) = (Test.matTr, .ok 0 0x100000000000) := by
  have h : (Test.mat.begin.core 0).l1 0 0x10000 = some ⟨0, 1, false, 0xF200100000000000, 0⟩ := by decide +kernel
  have e : Test.mat.begin.panelId = 0 := by decide +kernel
  rw [Test.tr_hit _ _ h (by decide), e]
  exact Prod.ext rfl (by cases p <;> decide +kernel)

theorem Test.trPages_cons {s u : State} {p : Perm} {n : Need} {t : List Need} {k pa : Nat}
    (h : s.tr s.cur.lcn s.me.ctxid n.va.toNat p (.plain 8) = (u, .ok k pa)) :
    s.trPages p (n :: t) [] = u.trPages p t [⟨n.va.toNat / 65536, k, pa / 65536 * 65536, n.pos, n.va⟩] := by
  simp [State.trPages, h]

theorem Test.trPages_skip {s : State} {p : Perm} {ps : List MPage} : ∀ {ns : List Need},
    (∀ n ∈ ns, (ps.any fun p => p.vpn == n.va.toNat / 65536) = true) → s.trPages p ns ps = (s, .ok ps)
  | [], _ => rfl
  | n :: t, h => by
    rw [State.trPages, if_pos (h n (List.mem_cons_self ..))]
    exact Test.trPages_skip fun m hm => h m (List.mem_cons_of_mem _ hm)

theorem Test.pageOk (w : Bool) : Test.matTr.pageOk w ⟨1, 0, 0x100000000000, 1, 0x10000⟩ = true := by cases w <;> decide +kernel

theorem Test.near_pages {r : Except Cause (List Need)} (w : Bool) (h : Test.near r = true) :
    ∃ ns u ps, r = .ok ns ∧ Test.mat.begin.mPages w ns = (u, .ok ps) ∧ u.cur = Test.mat.cur ∧ u.thr = Test.mat.begin.thr ∧
      u.me.meng = Test.mat.me.meng ∧ u.me.cmdNo = Test.mat.me.cmdNo := by
  unfold Test.near at h
  split at h
  · rename_i n t
    simp only [Bool.and_eq_true, beq_iff_eq, List.all_eq_true] at h
    have hp (p : Perm) : Test.mat.begin.trPages p (n :: t) [] = (Test.matTr, .ok [⟨1, 0, 0x100000000000, 1, 0x10000⟩]) := by
      have c : Test.mat.begin.me.ctxid = 0 := by decide +kernel
      rw [Test.trPages_cons (u := Test.matTr) (k := 0) (pa := 0x100000000000) (by rw [c, h.1.1]; exact Test.mat_tr p), h.1.1, h.1.2]
      exact Test.trPages_skip fun m hm => by simp [h.2 m hm]
    refine ⟨_, Test.matTr, [⟨1, 0, 0x100000000000, 1, 0x10000⟩], rfl, ?_, ?_⟩
    · have k := Test.pageOk w
      simp [State.mPages, hp, show spaceOf 0x100000000000 = 1 by decide] at k ⊢
      simp [k]
    · have e : Test.matTr.core 0 = { Test.mat.begin.core 0 with tlb := tlbPut 96 (Test.mat.begin.core 0).tlb ⟨0, 1, false, 0xF200100000000000, 0⟩ } :=
        State.core_modCore ..
      have b : Test.mat.begin.core 0 = (Test.mat.core 0).modSlot 0 fun t => { t with ctl := .seq } := State.core_modCore ..
      refine ⟨rfl, ?_, ?_, ?_⟩
      · show (Test.matTr.core 0).slots[0] = (Test.mat.begin.core 0).slots[0]
        rw [e]
      · show (Test.matTr.core 0).meng = (Test.mat.core 0).meng
        rw [e, b]
        rfl
      · show (Test.matTr.core 0).cmdNo = (Test.mat.core 0).cmdNo
        rw [e, b]
        rfl
  · cases h

def Test.o : MmaOpts := ⟨false, false, false⟩

theorem witness_MatrixCommands : Test.mat.me.meng.tagOpen 0 = false ∧ (∀ i ∈ ([.mma Test.g 0 0 1 Test.o, .mmaSp Test.g 0 2 3 Test.o 2 0,
      .mmaGa Test.g 0 0 1 Test.o 1 0, .mmaSpga Test.g 0 2 3 Test.o 2 0 1 0, .mld Test.g 0 0 1, .mst Test.g .rne 0 0, .mzero Test.g 0 1,
      .mrowred Test.g .sum .rne false 0 1 0, .mcnt Test.g true 1 0, .mshld Test.g 7 2 32] : List Instr), i.wf = true ∧ Claim.MatOpen Test.mat i) :=
  ⟨by decide, fun i hi => by
    have h := List.all_eq_true.1 (show (([.mma Test.g 0 0 1 Test.o, .mmaSp Test.g 0 2 3 Test.o 2 0,
      .mmaGa Test.g 0 0 1 Test.o 1 0, .mmaSpga Test.g 0 2 3 Test.o 2 0 1 0, .mld Test.g 0 0 1, .mst Test.g .rne 0 0, .mzero Test.g 0 1,
      .mrowred Test.g .sum .rne false 0 1 0, .mcnt Test.g true 1 0, .mshld Test.g 7 2 32] : List Instr).all fun i => i.wf && Test.matOpen Test.mat i) = true by
        decide +kernel) i hi
    simp only [Bool.and_eq_true] at h
    exact ⟨h.1, Test.matOpen_of h.2⟩⟩

/-- The A and B operands of the dense and of the sparse forms. -/
def Test.shA : Shape := ⟨0x10000, 2, 2, 16, 0, 8, 8, 0, true⟩
def Test.shB : Shape := ⟨0x10100, 2, 2, 16, 0, 8, 8, 0, true⟩
def Test.shC : Shape := ⟨0x10000, 2, 2, 32, 0, 16, 8, 0, true⟩
def Test.shD : Shape := ⟨0x10400, 2, 2, 16, 0, 8, 128, 0, true⟩

theorem Test.shapes : Shape.of Test.mat.me.meng.sh[0] = Test.shA ∧ Shape.of Test.mat.me.meng.sh[1] = Test.shB ∧
    Shape.of Test.mat.me.meng.sh[2] = Test.shC ∧ Shape.of Test.mat.me.meng.sh[3] = Test.shD ∧ Test.mat.me.bs = Vector.replicate 16 {} ∧
    Test.mat.me.meng.projTag 0 = 1 ∧ Claim.x Test.mat 2 = 0x11000 ∧ Test.mat.thr.regs.v[1] = 0 ∧ Test.mat.thr.regs.vtag[1] = 5 := by decide +kernel

theorem witness_mma : Test.near (mmaNeeds (Vector.replicate 16 {}) 1 ⟨0, 0, 1, Test.o, none, none⟩ Test.shA Test.shB 0 0 0) = true := by
  decide +kernel
theorem witness_mmaSp : Test.near (mmaNeeds (Vector.replicate 16 {}) 1 ⟨0, 2, 3, Test.o, some (2, 16), none⟩ Test.shC Test.shD 0x11000 0 0) = true := by
  decide +kernel
theorem witness_mmaGa : Test.near (mmaNeeds (Vector.replicate 16 {}) 1 ⟨0, 0, 1, Test.o, none, some (1, 8)⟩ Test.shA Test.shB 0 0 5) = true := by
  decide +kernel
theorem witness_mmaSpga : Test.near (mmaNeeds (Vector.replicate 16 {}) 1 ⟨0, 2, 3, Test.o, some (2, 16), some (1, 8)⟩ Test.shC Test.shD 0x11000 0 5) = true := by
  decide +kernel
theorem witness_mld_mst : Test.near (blockNeeds (Vector.replicate 16 {}) 1 Test.shA) = true := by decide +kernel

theorem witness_tile_commands : tileTag 1 = true ∧ Test.mat.me.bsAhead = some (Vector.replicate 16 {}) ∧ tagReason (Vector.replicate 16 {}) 1 false = none ∧ tileTag (Test.mat.me.meng.projTag 0) = true ∧ Test.mat.cur.slot ≠ 15 ∧
    (Claim.x Test.mat 2 + (32 : BitVec 32).signExtend 64).toNat < 2 ^ 48 ∧ (Claim.x Test.mat 2 + (32 : BitVec 32).signExtend 64).toNat % 32 = 0 ∧
    Test.mat.begin.orderStop false = none ∧
    ({ Test.mat with clusters := [(0, { mabs := true })] } : State).noMatrix = true ∧
    Test.ready { Test.mat with clusters := [(0, { mabs := true })] } (Instr.mzero Test.g 0 1).uses = true ∧
    ({ Test.mat with clusters := [(0, { mabs := true })] } : State).thr.acq = 0 := by decide +kernel

theorem witness_copies : (∀ i ∈ ([.copy Test.g 1 2, .copym Test.g 1 2, .cprom Test.g 1 2] : List Instr), i.wf = true ∧ (Test.st [(2, 0xFFFFFFFFFFC0)]).Ready i.uses) ∧
    (Test.st [(2, 0xFFFFFFFFFFC0)]).Worker ∧ Claim.Aligned (Claim.x (Test.st [(2, 0xFFFFFFFFFFC0)]) 2) 64 ∧
    (Test.st [(2, 0xFFFFFFFFFFC0)]).begin.me.copies < 2 ∧ (Test.st [(2, 0xFFFFFFFFFFC0)]).me.cq = [] ∧ (Test.st [(2, 0xFFFFFFFFFFC0)]).begin.orderStop false = none :=
  ⟨Test.all_ready (by decide), by unfold State.Worker; decide, by unfold Claim.Aligned; decide, by decide, by decide, by decide⟩

/-- The mapped thread with a handle's name in x2 and the address of a record in x3. -/
def Test.named : State := Test.mapped [(2, 0x20000), (3, 0x10040)]

theorem witness_publish : (∀ i ∈ ([.publish Test.g 2, .publishF Test.g 2, .hver Test.g 1 2, .stopref Test.g 2, .stoprefAt Test.g 2 3, .refchk Test.g 1 2,
      .hcfg Test.g 2 3, .hsub Test.g 2 3, .hunsub Test.g 2 3] : List Instr), i.wf = true ∧ Test.named.Ready i.uses ∧ (Test.mt []).Ready i.uses) ∧
    (∀ release : Bool, ∃ u, Claim.Named Test.named u 2 0 0x300000050000 release ∧
      ∃ u', u.recordAt (Claim.x Test.named 3) = (u', none) ∧ u'.cur = Test.named.cur ∧ u'.thr = Test.named.begin.thr ∧ u'.orderStop false = none) ∧
    (Claim.x Test.named 3).setWidth 32 ≠ 0#32 ∧ Claim.Aligned (Claim.x Test.named 3) 16 ∧
    (Claim.x Test.named 3).toNat < 2 ^ 48 ∧ (Claim.x Test.named 3).toNat % 65536 ≠ 0 ∧ (Test.mt []).cur.slot = 15 :=
  ⟨fun i hi => ⟨(Test.all_ready (s := Test.named) (by decide) i hi).1, (Test.all_ready (s := Test.named) (by decide) i hi).2, (Test.all_ready (s := Test.mt []) (by decide) i hi).2⟩,
    fun r => ⟨_, ⟨by unfold State.Worker; decide, Prod.ext rfl (by decide +kernel), by decide +kernel, by decide +kernel, by cases r <;> decide +kernel⟩,
      _, Prod.ext rfl (by decide +kernel), by decide +kernel, by decide +kernel, by decide +kernel⟩,
    by decide, by unfold Claim.Aligned; decide, by decide, by decide, by decide⟩

/-- The mapped thread at level 2. -/
def Test.high (xs : List (Fin 32 × Word)) : State := (Test.mapped xs).modMe fun c => c.setSys 0x12 2

theorem witness_SystemRequests : (Test.high [(2, 0x10008), (3, 5)]).Worker ∧ (Test.high [(2, 0x10008), (3, 5)]).freeSlots 0 ≠ 0 ∧
    (∀ i ∈ ([.settle Test.g 2 15 64, .settlew Test.g 1 2 15 64, .deal Test.g 1 3, .rdhmap Test.g 1 3, .rdlpt Test.g 1 3 true, .preempt Test.g 1 3,
      .resume Test.g 1 3, .quiesce Test.g 1, .rmapsetRemap Test.g 1 2 3, .rmapsetMarkDead Test.g 1 2 3, .rmapsetClearDead Test.g 1 2 3, .fremap Test.g 1 3 2,
      .govset Test.g 1 3 0, .tlbinv Test.g 2 3 2] : List Instr), i.wf = true ∧ (Test.high [(2, 0x10008), (3, 5)]).Ready i.uses) ∧
    (∃ u, (Test.high [(2, 0x10008), (3, 5)]).begin.trNow (Claim.x (Test.high [(2, 0x10008), (3, 5)]) 2) .rw (.plain 8) = (u, .inl (u.panelId, 0x100000000008)) ∧
      u.cur = ⟨0, 0⟩ ∧ u.thr = (Test.high [(2, 0x10008), (3, 5)]).begin.thr ∧ u.panelId = 0 ∧ u.me.ctxid = 0 ∧ u.freeSlots 0 ≠ 0 ∧ u.orderStop true = none) ∧
    (Claim.x (Test.high [(2, 0x10008), (3, 5)]) 2).toNat % 8 = 0 ∧ spaceOf 0x100000000008 = 1 ∧ (Claim.x (Test.high [(2, 0x10008), (3, 5)]) 3).toNat < 8 ∧
    (Claim.x (Test.high [(2, 0x10008), (3, 5)]) 3).toNat ≠ (Test.high [(2, 0x10008), (3, 5)]).panelId ∧ (Claim.x (Test.high [(2, 0x10008), (3, 5)]) 2).toNat < 2 ^ 48 ∧
    (Claim.x (Test.high [(2, 0x10008), (3, 5)]) 3).toNat ≠ (Test.high [(2, 0x10008), (3, 5)]).me.ctxid ∧ (Test.high [(2, 0x10008), (3, 5)]).begin.orderStop true = none :=
  ⟨by unfold State.Worker; decide, by decide, Test.all_ready (by decide),
    ⟨_, Prod.ext rfl (by decide +kernel), by decide +kernel, by decide +kernel, by decide +kernel, by decide +kernel, by decide +kernel, by decide +kernel⟩,
    by decide, by decide, by decide, by decide, by decide, by decide, by decide⟩

/-- Core 0 serves stage 3 of its die, whose ring at 0x10000 holds a word. -/
def Test.staged : State :=
  (Test.mapped [(2, 3)]).modDie 0 (fun d => { d with gctx := some 0, stages := d.stages.set 3 { en := true, ring := 0x10000, ringPa := 0x100000000000, cores := 1 } })
    |>.modMem fun m => (m.write64 0x100000000008 8).write64 0x100000000018 1

theorem witness_LaunchRingsCheckpoint : (∀ i ∈ ([.launch Test.g 1 2, .chkpt Test.g 1 2] : List Instr), i.wf = true ∧ (Test.high [(2, 0x10040)]).Ready i.uses) ∧
    Claim.Aligned (Claim.x (Test.high [(2, 0x10040)]) 2) 64 ∧ (Test.high [(2, 0x10040)]).begin.orderStop true = none ∧ (Test.high [(2, 0x10040)]).me.ckpt.chk = none ∧
    (Test.high [(2, 0x10040)]).begin.me.checkpoints = false ∧
    (∀ i ∈ ([.ringget Test.g 1 1 2, .ringput Test.g 3 2] : List Instr), i.wf = true ∧ Test.staged.Ready i.uses) ∧ (Claim.x Test.staged 2).toNat = (3 : Fin 8).val ∧
    (Test.staged.begin.stages 0)[3].en = true ∧ (Test.staged.begin.stages 0)[3].has 0 = true ∧ 
    Test.staged.begin.getsOut (Test.staged.begin.stages 0)[3].ringPa < Test.staged.begin.ringCount (Test.staged.begin.stages 0)[3].ringPa ∧
    Test.staged.begin.orderStop false = none ∧ (Claim.x (Test.high [(2, 0x10041)]) 2).toNat % 64 ≠ 0 ∧
    256 ≤ (Claim.x (Test.high [(2, 256)]) 2).toNat ∧ 4096 ≤ (Claim.x (Test.high [(2, 4096)]) 2).toNat ∧ 64 ≤ (Claim.x (Test.high [(2, 64)]) 2).toNat :=
  ⟨Test.all_ready (by decide), by unfold Claim.Aligned; decide, by decide, by decide, by decide +kernel, Test.all_ready (by decide), by decide, by decide +kernel, by decide +kernel, by decide +kernel,
    by decide +kernel, by decide, by decide, by decide, by decide⟩

/-- The thread with barrier register 1 armed over cores 0 and 1; `turned` says that its local signal is out. -/
def Test.armed (turned : Bool) : State := (Test.placed [(2, 0x1000000)]).modBar 0 1 fun b => { b with v := true, memb := true, brect := 0x1000000, ls := turned }

theorem witness_barriers : (∀ i ∈ ([.barset Test.g 1 0, .barset Test.g 1 2, .bararr Test.g 1, .barwait Test.g 3 1 0, .barwaitF Test.g 1 0, .barwd Test.g 1] : List Instr),
      i.wf = true ∧ (Test.armed false).Ready i.uses ∧ (Test.armed true).Ready i.uses ∧ (Test.placed []).Ready i.uses) ∧
    (Claim.x (Test.armed false) 2).toNat < 2 ^ 32 ∧ ((Test.armed false).ctx 0).holdsRect ((Claim.x (Test.armed false) 2).setWidth 32) = true ∧
    inRect ((Claim.x (Test.armed false) 2).setWidth 32) ((Test.armed false).begin.ccn 0) = true ∧
    (∀ p ∈ (Test.armed false).begin.barPaths 0 ((Claim.x (Test.armed false) 2).setWidth 32), p ∉ (Test.armed false).rlyf) ∧
    ((Test.armed false).bar 0 1).v = true ∧ ((Test.armed false).bar 0 1).wd = false ∧ ((Test.armed false).bar 0 1).cu = 0 ∧
    ((Test.armed false).bar 0 1).ls = ((Test.armed false).bar 0 1).g ∧ (Test.armed false).begin.orderStop true = none ∧
    ((Test.armed true).bar 0 1).ls ≠ ((Test.armed true).bar 0 1).g ∧ (Test.armed true).thr.barw = none ∧ ((Test.placed []).bar 0 1).v = false :=
  ⟨fun i hi => ⟨(Test.all_ready (s := Test.armed false) (by decide) i hi).1, (Test.all_ready (s := Test.armed false) (by decide) i hi).2,
      (Test.all_ready (s := Test.armed true) (by decide) i hi).2, (Test.all_ready (s := Test.placed []) (by decide) i hi).2⟩,
    by decide, by decide +kernel, by decide +kernel, by decide +kernel, by decide, by decide, by decide, by decide, by decide, by decide, by decide, by decide⟩

/-- The mapped thread with a group's name in x2; page 1 of core 0 belongs to its context; v4 is an FP32 register. -/
def Test.grouped : State :=
  ((Test.mapped [(2, 0x10040), (3, 0x10000)]).modMe fun c => c.setSys 0x21 0x1000).modThr fun t => { t with regs := { t.regs with vtag := t.regs.vtag.set 4 1 } }

theorem witness_groups : (∀ i ∈ ([.grpjoin Test.g 1 2 3, .grpleave Test.g 2, .grpred Test.g .sum 3 2 4, .grpbc Test.g 3 2 4 1, .grpbar Test.g 2] : List Instr),
      i.wf = true ∧ Test.grouped.Ready i.uses) ∧
    (∀ release : Bool, ∃ u, Claim.Group Test.grouped u 2 0 0x100000000040 release ∧ u.me.regionOk (Claim.x Test.grouped 3).toNat 4096 = true ∧ contribStop u 4 = none) ∧
    (Claim.x Test.grouped 3).toNat % 4096 = 0 ∧ (Claim.x Test.grouped 3).toNat < 2 ^ 20 :=
  ⟨Test.all_ready (by decide),
    fun r => ⟨_, ⟨by unfold State.Worker; decide, Prod.ext rfl (by decide +kernel), by decide +kernel, by decide +kernel, by decide +kernel, by cases r <;> decide +kernel⟩,
      by decide +kernel, by decide +kernel⟩, by decide, by decide⟩

theorem witness_NamedRequestsComplete_publish : Claim.Performed Test.named ∧
    (Test.named.begin.trName (Claim.x Test.named 2)).2 = .inl (0, 0x300000050000) ∧
    ((Test.named.begin.trName (Claim.x Test.named 2)).1.recordAt (Claim.x Test.named 3)).2 = none :=
  ⟨⟨by unfold State.Worker; decide, rfl, rfl, rfl, rfl⟩, by decide +kernel, by decide +kernel⟩

theorem witness_NamedRequestsComplete_settle : Claim.Performed (Test.high [(2, 0x10008), (3, 5)]) ∧
    ((Test.high [(2, 0x10008), (3, 5)]).begin.trNow (Claim.x (Test.high [(2, 0x10008), (3, 5)]) 2) .rw (.plain 8)).2 =
      .inl ((Test.high [(2, 0x10008), (3, 5)]).panelId, 0x100000000008) :=
  ⟨⟨by unfold State.Worker; decide, rfl, rfl, rfl, rfl⟩, by decide +kernel⟩

theorem witness_NamedRequestsComplete_reservations : Claim.Performed (Test.holds 0x100000000108) ∧
    (∀ i ∈ ([.scq (Test.m3 3), .relq ⟨Test.g, 3, 0, 2, .imm 8⟩] : List Instr), i.wf = true ∧ (Test.holds 0x100000000108).Ready i.uses) ∧
    Claim.Aligned (Claim.va (Test.holds 0x100000000108) (Test.m3 3)) 8 ∧
    ((Test.holds 0x100000000108).begin.trNow (Claim.va (Test.holds 0x100000000108) (Test.m3 3)) .rw .sync).2 = .inl (0, 0x100000000108) ∧
    (Test.holds 0x100000000108).thr.held = some (BitVec.ofNat 64 (0 * 2 ^ 48 + 0x100000000108)) :=
  ⟨⟨by unfold State.Worker; decide, rfl, rfl, rfl, rfl⟩, Test.all_ready (by decide), by unfold Claim.Aligned; decide, by decide +kernel, by decide⟩

theorem witness_NamedRequestsComplete_groups : Claim.Performed Test.grouped ∧
    (Test.grouped.begin.groupName (Claim.x Test.grouped 2)).2 = .inl (0, 0x100000000040) ∧
    Test.grouped.me.groupBusy (groupKey 0 0x100000000040) = false ∧ Test.grouped.me.regionOk (Claim.x Test.grouped 3).toNat 4096 = true ∧
    contribStop Test.grouped 4 = none :=
  ⟨⟨by unfold State.Worker; decide, rfl, rfl, rfl, rfl⟩, by decide +kernel, by decide +kernel, by decide +kernel, by decide +kernel⟩

theorem witness_NamedRequestsComplete_drop : (Instr.cxdrop Test.g 3).wf = true ∧ Test.graph.Ready (Instr.cxdrop Test.g 3).uses ∧
    (Claim.x Test.graph 3).toNat < 256 ∧ Test.graph.me.cxAt (Claim.x Test.graph 3).toNat = some 2 ∧ Test.graph.me.veng.q.length < 2 :=
  ⟨rfl, Test.ready_of (by decide), by decide, by decide, by decide⟩

/-! ## Witnesses for the steps of the hardware around a core -/

/-- A line whose only slot is a NOP. -/
def Test.nopLine : Vec := oneLine 0x010000000000000000000000

/-- Slot 0 of core 0 asleep until the present time. -/
def Test.asleep : State := (Test.st []).modThr fun t => { t with nap := some none, state := .parked }

/-- Core 0 running at PC 0x10000, its line in memory and mapped, not resident. -/
def Test.fetching : State :=
  ((Test.mapped []).modMe fun c => { c.setSys 0x20 0x1000 with lines := [] }).modThr (fun t => { t with pc := 0x10000 })
    |>.modMem fun m => m.write 0x100000000000 (toBytes 64 Test.nopLine.toNat)

/-- Core 0 with a deque and idle slots; slot 0 has a record of core 1 to load. -/
def Test.deque : State :=
  ((Test.mapped []).modThr fun t => { t with state := .idle, record := none }).modMe fun c =>
    { c with dq := { hw := [⟨0x30040, 1, 4⟩, ⟨0x30080, 2, 2⟩, ⟨0x300C0, 2, 4⟩] } }

theorem witness_SlotHardware_wakes : (Test.asleep.slot 0 0).nap = some none ∧ (Test.asleep.slot 0 0).state = .parked ∧
    (Test.asleep.slot 0 0).until_.toNat ≤ Test.asleep.gtb.toNat ∧ Claim.Plain (Test.asleep.slot 0 0) ∧ (Test.asleep.core 0).flt.frozen = false :=
  ⟨rfl, rfl, by decide +kernel, ⟨by decide +kernel, by decide +kernel, by decide +kernel, by decide +kernel, by decide +kernel, by decide +kernel⟩, rfl⟩

theorem witness_SlotHardware_fetch : (Test.fetching.slot 0 0).state = .running ∧ (Test.fetching.core 0).line? (Test.fetching.slot 0 0).pc = none ∧
    (Test.fetching.core 0).reqs = [] ∧
    (∃ u, Test.fetching.readLine 0 (Test.fetching.slot 0 0).pc = (u, .line Test.nopLine 0) ∧ (u.slot 0 0).pc = (Test.fetching.slot 0 0).pc) ∧
    ones 32 (Test.nopLine.toNat / 2 ^ 480) % 2 = 0 :=
  ⟨rfl, by decide +kernel, rfl, ⟨(Test.fetching.readLine 0 (Test.fetching.slot 0 0).pc).1, Prod.ext rfl (by decide +kernel), by decide +kernel⟩, by decide +kernel⟩

theorem witness_SlotHardware_loads : Test.deque.loads 0 = true ∧ (Test.deque.slot 0 0).state = .idle ∧ (Test.deque.slot 0 0).load = none ∧
    (Test.deque.core 0).steal.got = none ∧
    (Test.deque.core 0).dq.hw = [⟨0x30040, 1, 4⟩] ++ ⟨0x30080, 2, 2⟩ :: [⟨0x300C0, 2, 4⟩] ∧ (Test.deque.core 0).dq.spill = [] ∧
    ∃ u, Test.deque.tr 0 (Test.deque.core 0).ctxid 0x30040 .rw .record = (u, .ok 0 0x100000100040) ∧ u.panelId = Test.deque.panelId ∧
      (u.core 0).reqs = [] ∧ homeOf 0x100000100040 ≠ 0 ∧ spaceOf 0x100000100040 ≠ 15 ∧ (Test.deque.core 0).reqs = [] :=
  ⟨by decide +kernel, rfl, rfl, rfl, rfl, rfl, _, Prod.ext rfl (by decide +kernel), by decide +kernel, by decide +kernel, by decide, by decide, rfl⟩

/-- A message from core 1 to core 0, at the head of core 0's buffer. -/
def Test.msg (b : Body) : Msg := { dest := 0, src := 1, vc := 0, kind := 0, body := b }
def Test.home (b : Body) : State := ({ Test.mapped [] with nis := [(0, { inq := [Test.msg b] })] } : State).modMe fun c => c.setSys 0x20 0x1000

/-- A card of context 0 with undealt records on die 0. -/
def Test.hungry : State :=
  Test.deque.modMe (fun c => { c with dq := {} }) |>.modDie 0 fun d =>
    { d with cards := [{ va := 0x30000, words := [], ctx := 0, pos := 0, lo := 0, hi := 4, nd := 32, launch := 0 }] }

/-- A victim with Idle slots: a deque, and a search of a level at the head of its buffer. -/
def Test.popping (l : Nat) : State := (Test.home (.steal l)).modMe fun c => { c with dq := { hw := [⟨0x30040, 1, 4⟩, ⟨0x30080, 2, 2⟩, ⟨0x300C0, 1, 3⟩] } }
/-- A victim whose slots all run records. -/
def Test.victim (l : Nat) : State := (Test.popping l).modMe fun c => { c with slots := Vector.replicate 16 { state := .running, record := some 0x1000 } }

/-- A stolen record on its way to core 0. -/
def Test.stolen : State :=
  ({ Test.hungry with net := [{ dest := 0, src := 1, vc := 1, kind := 0, seq := 5, body := .resp 0 { w := 0x30040 } }] } : State).modMe fun c =>
    { c with reqs := [⟨5, 16, 0, 0, { dest := 1, src := 0, vc := 0, kind := 0x0A, seq := 5, body := .steal 1 }, .stolen, none⟩], steal := { c.steal with active := true, busy := true } }

def Test.waiting : State := Test.deque.modMe fun c => { c with steal := { c.steal with wait := some 0 } }
def Test.pushed : State := Test.home (.push 0x30040 1 4)
def Test.fullDeque : State := Test.pushed.modMe fun c => { c with dq := ⟨List.replicate 64 ⟨0, 0, 0⟩, List.replicate 512 ⟨0, 0⟩⟩ }
def Test.ownPush : State := Test.deque.modMe fun c => { c with pushes := [⟨0, ⟨0x30040, 1, 4⟩, 0⟩] }

theorem witness_StealingDeques_search : Test.hungry.hungry 0 = true ∧ (Test.hungry.core 0).steal.busy = false ∧ (Test.hungry.core 0).steal.wait = none ∧
    (Test.hungry.core 0).steal.active = false ∧ Test.hungry.dealable 0 = true ∧ Test.hungry.freeSlots 0 ≠ 0 ∧ Test.hungry.routed 0 8192 0 = true := by
  decide +kernel

theorem witness_StealingDeques_victim : ((Test.victim 2).headMsg 0 = some (Test.msg (.steal 2)) ∧
      ((Test.victim 2).core 0).dq.hw = [⟨0x30040, 1, 4⟩] ++ ⟨0x30080, 2, 2⟩ :: [⟨0x300C0, 1, 3⟩] ∧ ((Test.victim 2).core 0).dq.spill = []) ∧
    (Claim.popsFirst (Test.victim 2) 0 = false ∧ Claim.popsFirst (Test.victim 5) 0 = false ∧ Claim.popsFirst (Test.popping 2) 0 = true ∧
      (Test.popping 2).headMsg 0 = some (Test.msg (.steal 2))) ∧
    (Test.victim 5).headMsg 0 = some (Test.msg (.steal 5)) ∧ (∀ x ∈ ((Test.victim 5).core 0).dq.hw, x.dom < 5) ∧
    ∀ x ∈ ((Test.victim 5).core 0).dq.spill, x.dom < 5 :=
  ⟨⟨rfl, rfl, rfl⟩, ⟨by decide +kernel, by decide +kernel, by decide +kernel, rfl⟩, rfl, by decide +kernel, by decide +kernel⟩

theorem witness_StealingDeques_stolen : ∃ m q r, (Test.stolen.answers 0).find? (fun a => a.2.1.cont.search && !a.2.2.retry) = some (m, q, r) ∧
    q.cont = .stolen ∧ r.cause = 0 ∧ r.none_ = false ∧ q.slot = 16 ∧ (Test.stolen.core 0).seeker = some 0 ∧ (Test.stolen.ctx m.ctx).st ≠ .saved :=
  ⟨_, _, _, rfl, by decide, by decide, by decide, by decide, by decide +kernel, by decide +kernel⟩

theorem witness_StealingDeques_deque : ((Test.waiting.core 0).steal.wait = some 0 ∧ Test.waiting.hungry 0 = false) ∧
    (Test.pushed.headMsg 0 = some (Test.msg (.push 0x30040 1 4)) ∧ (Test.pushed.core 0).dq.hw.length < 64) ∧
    (64 ≤ (Test.fullDeque.core 0).dq.hw.length ∧ 512 ≤ (Test.fullDeque.core 0).dq.spill.length ∧
      Test.fullDeque.headMsg 0 = some (Test.msg (.push 0x30040 1 4))) ∧
    (Test.ownPush.core 0).pushes[0]? = some ⟨0, ⟨0x30040, 1, 4⟩, 0⟩ ∧ (Test.ownPush.core 0).dq.hw.length < 64 :=
  ⟨⟨rfl, by decide +kernel⟩, ⟨rfl, by decide +kernel⟩, ⟨by decide +kernel, by decide +kernel, rfl⟩, rfl, by decide +kernel⟩

/-- An answer on its way to core 0, and the request that it answers. -/
def Test.answered (r : Resp) (c : Cont) : State :=
  ({ Test.mapped [] with net := [{ dest := 0, src := 1, vc := 1, kind := 0, seq := 5, body := .resp 0 r }] } : State).modMe fun k =>
    { k with reqs := [⟨7, 0, 0, 0, { dest := 1, src := 0, vc := 0, kind := 0x10, seq := 5, body := .credit }, c, none⟩] }

def Test.answer (r : Resp) : Msg := { dest := 0, src := 1, vc := 1, kind := 0, seq := 5, body := .resp 0 r }

/-- The words of a ready record of context 0. -/
def Test.record : List Word := [0x10000, 0x40, 1, 2, 3, 4, 0, 0x81]

/-- Core 0 with a copy of a posted write. -/
def Test.posted (p : Posted) : State :=
  { Test.mapped [] with nis := [(0, { posted := [p] })], net := [{ dest := 0, src := 1, vc := 1, kind := 0, seq := 5, body := .credit }] }

def Test.copy (slot : Nat) (t : Option Nat) (ring : Bool) : Posted := ⟨3, slot, { dest := 1, src := 0, vc := 2, kind := 0x11, seq := 5, body := .sigev 0 1 }, t, ring, false, false⟩

theorem Test.first_of {s : State} {m : Msg} (h : s.net = [m]) (hd : m.dest = 0) (hp : m.dpanel = s.panelId) (hv : m.vc = 1) (hs : s.diverts 0 m = false) :
    Claim.First s 0 m := ⟨by simp [h], hd, hp, hv, hs, fun x hx n => absurd (by simpa [h] using hx) n⟩

theorem witness_AnswersReturn :
    (∀ r c, ((Test.answered r c).core 0).health.iso = false ∧ Claim.First (Test.answered r c) 0 (Test.answer r) ∧ ∃ q, (Test.answered r c).requestOf 0 (Test.answer r) = some (q, r) ∧
      q.cont = c ∧ q.slot = 0) ∧
    Test.record.length = 8 ∧ (∀ r c, ((Test.answered r c).core 0).flt.frozen = false ∧ ((Test.answered r c).slot 0 0).late = [] ∧ (∀ j : Fin 16, ((Test.answered r c).slot 0 j).path = []) ∧
      ((Test.answered r c).ctx 0).st ≠ .saved) ∧
    (∀ p, Claim.First (Test.posted p) 0 { dest := 0, src := 1, vc := 1, kind := 0, seq := 5, body := .credit }) ∧
    (Test.posted (Test.copy 16 none false)).copyOf 0 0 1 5 = some (Test.copy 16 none false) ∧ (∀ k : Fin 16, ((Test.posted (Test.copy 16 none false)).slot 0 k).path = []) ∧
    ((Test.posted (Test.copy 0 (some 0) false)).ni 0).posted = [Test.copy 0 (some 0) false] ∧ (Test.copy 0 (some 0) false).again = false ∧
    ((Test.posted (Test.copy 0 (some 0) true)).ni 0).posted = [Test.copy 0 (some 0) true] :=
  ⟨fun r c => ⟨rfl, Test.first_of rfl rfl rfl rfl (by rfl), _, rfl, rfl, rfl⟩, by decide, fun r c => ⟨rfl, rfl, fun j => by rw [show (Test.answered r c).slot 0 j = (Test.mapped []).slot 0 j from rfl]; revert j; decide +kernel, by intro h; cases h⟩,
    fun p => Test.first_of rfl rfl rfl rfl (by rfl), by decide, by decide, rfl, by decide, rfl⟩

/-- The access `op` at offset 0x100 of core 0's slice, asked for by core 1. -/
def Test.access (op : MemOp) : State := Test.home (.mem 0x100000000100 op 3 0)

/-- The hypotheses of `Claim.Access`, computed. -/
def Test.isAccess (s : State) (core : Nat) (m : Msg) (pa n : Nat) (op : MemOp) (slot : Nat) : Bool :=
  s.headMsg core == some m && decide (m.len ≤ 256 ∧ (s.core (sliceLcn pa)).health.badBanks = [] ∧ (s.core (sliceLcn pa)).inOverflow (sliceOff pa) n = false) && m.body == .mem pa op slot 0 && m.vc == 0 && m.spanel == s.panelId && m.src != core &&
  spaceOf pa == 1 && sliceLcn pa == core && (s.core core).owns (sliceOff pa) n m.ctx m.level &&
  ((wordsIn pa n).all fun w => !s.mem.poisoned w && !s.mem.single.contains w && !s.mem.double.contains w) && !s.gathered core pa n

theorem Test.access_of {s : State} {core : Nat} {m : Msg} {pa n : Nat} {op : MemOp} {slot : Nat} (h : Test.isAccess s core m pa n op slot = true) :
    Claim.Access s core m pa n op slot := by
  simp only [Test.isAccess, Bool.and_eq_true, List.all_eq_true, beq_iff_eq, decide_eq_true_eq, bne_iff_ne, Bool.not_eq_true'] at h
  obtain ⟨⟨⟨⟨⟨⟨⟨⟨⟨⟨a, b⟩, c⟩, d⟩, e⟩, f⟩, g⟩, i⟩, j⟩, k⟩, l⟩ := h
  exact ⟨a, b.1, ⟨0, c⟩, d, e, f, g, i, j, ⟨b.2.1, b.2.2, fun w hw => ⟨(k w hw).1.1, (k w hw).1.2, (k w hw).2⟩⟩, l⟩

/-- The access `op` to offset 0x100 of core 0's slice, computed. -/
def Test.accesses (s : State) (n : Nat) (op : MemOp) : Bool := Test.isAccess s 0 (Test.msg (.mem 0x100000000100 op 3 0)) 0x100000000100 n op 3

/-- The same with the word full, and with a reservation held. -/
def Test.fullWord (op : MemOp) : State := (Test.access op).modMem fun m => { m with fe := [0x100000000100] }
def Test.reserved (op : MemOp) (who k : Nat) : State := (Test.access op).modMe fun c => { c with waits := [⟨0x100000000100, .holder who k⟩] }

theorem witness_HomeAccesses_values : (∀ op, (Test.access op).Inv ∧ ((Test.access op).core 0).waits = [] ∧ ∀ k : Fin 16, ((Test.access op).slot 0 k).path = []) ∧
    Test.accesses (Test.access (.load 8)) 8 (.load 8) = true ∧
    Test.accesses (Test.access (.store [1, 2, 3, 4, 5, 6, 7, 8])) 8 (.store [1, 2, 3, 4, 5, 6, 7, 8]) = true ∧
    Test.accesses (Test.access (.amo false .add 1 0)) 8 (.amo false .add 1 0) = true ∧
    Test.accesses (Test.access (.amo true .cas 1 0)) 4 (.amo true .cas 1 0) = true ∧
    (∀ op ∈ [MemOp.readFe, .peekFe], Test.accesses (Test.access op) 8 op = true) ∧ Test.accesses (Test.access .fetch) 64 .fetch = true ∧
    (0x100000000100 % 64 = 0) :=
  ⟨fun op => ⟨rfl, rfl, fun k => by rw [show (Test.access op).slot 0 k = (Test.access .ldw).slot 0 k from rfl]; revert k; decide +kernel⟩,
    by decide +kernel, by decide +kernel, by decide +kernel, by decide +kernel, by decide +kernel, by decide +kernel, by decide⟩

theorem witness_HomeAccesses_synchronising :
    (∀ op ∈ [.ldw, .ldt, .stf 5, .stw 5], Test.accesses (Test.access op) 8 op = true ∧ Test.accesses (Test.fullWord op) 8 op = true ∧
      (Test.access op).mem.full 0x100000000100 = false ∧ (Test.fullWord op).mem.full 0x100000000100 = true ∧ ((Test.fullWord op).core 0).waits.length = 0) ∧
    (∀ op, (Test.fullWord op).Inv ∧ (Test.reserved op 1 3).Inv ∧ ((Test.reserved op 1 3).core 0).waits = [⟨0x100000000100, .holder 1 3⟩]) ∧
    (∀ op ∈ [.lrq, .scq 5, .relq], Test.accesses (Test.reserved op 1 3) 8 op = true) ∧ Test.accesses (Test.access .lrq) 8 .lrq = true ∧
    Test.accesses (Test.reserved .lrq 2 0) 8 .lrq = true ∧
    ((Test.msg (.mem 0x100000000100 .relq 3 0)).spanel * 65536 + (Test.msg (.mem 0x100000000100 .relq 3 0)).src) = 1 :=
  ⟨by decide +kernel, fun _ => ⟨rfl, rfl, rfl⟩, by decide +kernel, by decide +kernel, by decide +kernel, by decide⟩

theorem witness_HomeAccesses : Claim.Access (Test.access (.load 8)) 0 (Test.msg (.mem 0x100000000100 (.load 8) 3 0)) 0x100000000100 8 (.load 8) 3 :=
  Test.access_of (by decide +kernel)

/-- The words of offsets 0x100 to 0x13F of core 0's slice set, with a message of core 1 about them. -/
def Test.words (b : Body) (ws : List Word) : State := (Test.home b).modMem fun m => m.write 0x100000000100 (bytesOf ws)

/-- The hypotheses of `Claim.Served`, computed. -/
def Test.isServed (s : State) (core : Nat) (m : Msg) (b : Body) (vc pa n : Nat) : Bool :=
  s.headMsg core == some m && decide (m.len ≤ 256 ∧ (s.core (sliceLcn pa)).health.badBanks = [] ∧ (s.core (sliceLcn pa)).inOverflow (sliceOff pa) n = false) && m.body == b && m.vc == vc && m.spanel == s.panelId &&
  spaceOf pa == 1 && sliceLcn pa == core && (s.core core).owns (sliceOff pa) n m.ctx m.level &&
  (wordsIn pa n).all fun w => !s.mem.poisoned w && !s.mem.single.contains w && !s.mem.double.contains w

theorem Test.served_of {s : State} {core : Nat} {m : Msg} {b : Body} {vc pa n : Nat} (h : Test.isServed s core m b vc pa n = true) :
    Claim.Served s core m b vc pa n := by
  simp only [Test.isServed, Bool.and_eq_true, List.all_eq_true, beq_iff_eq, decide_eq_true_eq, Bool.not_eq_true'] at h
  obtain ⟨⟨⟨⟨⟨⟨⟨⟨a, b⟩, c⟩, d⟩, e⟩, f⟩, g⟩, i⟩, k⟩ := h
  exact ⟨a, b.1, c, d, e, f, g, i, ⟨b.2.1, b.2.2, fun w hw => ⟨(k w hw).1.1, (k w hw).1.2, (k w hw).2⟩⟩⟩

def Test.serves (b : Body) (ws : List Word) (pa n : Nat) : Bool :=
  Test.isServed (Test.words b ws) 0 (Test.msg b) b 0 pa n && !(Test.words b ws).gathered 0 pa n

/-- A re-fire from core 1, a posted write, with the words of a record. -/
def Test.refiring (b : Body) (ws : List Word) : State :=
  { Test.words b ws with nis := [(0, { inq := [{ Test.msg b with vc := 2 }] })] }

theorem witness_HomeTasks : Claim.Served (Test.words (.joinDec 0x100000000100) [2]) 0 (Test.msg (.joinDec 0x100000000100)) (.joinDec 0x100000000100) 0 0x100000000100 8 :=
  Test.served_of (by decide +kernel)

theorem witness_HomeTasks_joins : Test.serves (.awaitReg 0x100000000100 0x40) [] 0x100000000100 8 = true ∧
    (Test.words (.awaitReg 0x100000000100 0x40) []).mem.full 0x100000000100 = false ∧
    Test.serves (.joinArm 0x100000000100 0x40) [5] 0x100000000100 8 = true ∧
    (Test.words (.joinArm 0x100000000100 0x40) [5]).mem.read64 0x100000000100 = BitVec.ofNat 64 5 ∧
    (Test.words (.joinArm 0x100000000100 0x40) [5]).mem.wf = true ∧
    2 ≤ ((Test.words (.joinDec 0x100000000100) [2]).mem.read64 0x100000000100).toNat % 2 ^ 22 ∧
    (Test.words (.joinDec 0x100000000100) [0x400001]).mem.read64 0x100000000100 = BitVec.ofNat 64 ((64 : Word).toNat / 64 * 2 ^ 22 + 1) := by
  decide +kernel

theorem witness_HomeTasks_records : Test.serves (.ctl 0x100000000100 0x40 (.load 1 2)) Test.record 0x100000000100 64 = true ∧
    (Test.words (.ctl 0x100000000100 0x40 (.load 1 2)) Test.record).mem.read 0x100000000100 64 = bytesOf Test.record ∧ recordOk 0 Test.record = true ∧
    Test.isServed (Test.refiring (.ctl 0x100000000100 0x40 (.refire 5 false 1)) [0x10000, 0, 0, 0, 0, 0, 0, 0x83]) 0
      { Test.msg (.ctl 0x100000000100 0x40 (.refire 5 false 1)) with vc := 2 } (.ctl 0x100000000100 0x40 (.refire 5 false 1)) 2 0x100000000138 8 = true ∧
    (Test.refiring (.ctl 0x100000000100 0x40 (.refire 5 false 1)) [0x10000, 0, 0, 0, 0, 0, 0, 0x83]).gathered 0 0x100000000138 8 = false ∧
    ((Test.refiring (.ctl 0x100000000100 0x40 (.refire 5 false 1)) [0x10000, 0, 0, 0, 0, 0, 0, 0x83]).mem.read64 0x100000000138).toNat % 8 = 3 ∧
    ((Test.refiring (.ctl 0x100000000100 0x40 (.refire 5 false 1)) [0x10000, 0, 0, 0, 0, 0, 0, 0x83]).core 0).dq.hw.length < 64 := by
  decide +kernel

theorem witness_HomeTasks_events : (Test.home (.armEnd 0x100000000100 0x40)).headMsg 0 = some (Test.msg (.armEnd 0x100000000100 0x40)) ∧
    (Test.home (.sigev 0 5)).headMsg 0 = some (Test.msg (.sigev 0 5)) ∧
    ((Test.home (.sigev 0 5)).slot 0 0).state ≠ .idle ∧ ((Test.home (.sigev 0 5)).slot 0 0).record ≠ none ∧
    (Test.home (.refired 0 0x1000)).headMsg 0 = some (Test.msg (.refired 0 0x1000)) ∧ ((Test.home (.refired 0 0x1000)).slot 0 0).record = some 0x1000 :=
  ⟨rfl, rfl, by decide, by decide, rfl, by decide⟩

/-- A message of system software (level 2) at the head of core 0's buffer. -/
def Test.sysMsg (b : Body) : Msg := { dest := 0, src := 1, vc := 0, kind := 0, wtag := 2, body := b }
def Test.homeSys (b : Body) : State := { Test.mapped [] with nis := [(0, { inq := [Test.sysMsg b] })] }

/-- A handle with pace, two subscribers of which the first has acknowledged, and one of it without pace. -/
def Test.paced : Handle := { v := true, offa := 0x1000, offb := 0x2000, size := 64, version := 3, subs := [5, 6], pace := true, ack := 1 }
def Test.free : Handle := { Test.paced with pace := false }

/-- Handle 2 of core 0 with the entry `e`, and a message for it. -/
def Test.handle (e : Handle) (op : HandleOp) : State := (Test.home (.handle 2 op)).modHandle 0 2 fun _ => e

theorem Test.onHandle (e : Handle) (op : HandleOp) (v : e.v = true) (c : e.ctx = 0) : Claim.OnHandle (Test.handle e op) 0 2 (Test.msg (.handle 2 op)) op :=
  { head := rfl, len := Nat.zero_le _, body := rfl, waits := rfl, valid := v, ctx := c }

theorem Test.toHandle (e : Handle) (op : HandleOp) : Claim.ToHandle (Test.handle e op) 0 2 (Test.msg (.handle 2 op)) op :=
  ⟨rfl, Nat.zero_le _, rfl, rfl⟩

/-- Each clause of HandlesAtHome: the message's hypotheses by `Test.onHandle`, and what the clause asks of the entry. -/
theorem witness_HandlesPublish_publish : (∀ e op, ((Test.handle e op).core 0).handle 2 = e) ∧
    Claim.OnHandle (Test.handle Test.free (.publish true)) 0 2 (Test.msg (.handle 2 (.publish true))) (.publish true) ∧
    (Test.free.final = false ∧ Test.free.stopat = 0 ∧ Test.free.version ≠ BitVec.allOnes 32 ∧ Test.free.pace = false) ∧
    ({ Test.free with final := true } : Handle).final = true ∧ ({ Test.free with version := BitVec.allOnes 32 } : Handle).version = BitVec.allOnes 32 ∧
    Test.paced.pace = true ∧ 1 < Test.paced.subs.length ∧ Test.paced.ack.getLsbD 1 = false ∧
    ((Test.handle Test.paced (.publish false)).core 0).waits.length < 4224 :=
  ⟨fun e op => rfl, Test.onHandle _ _ rfl rfl, by decide, rfl, rfl, rfl, by decide, by decide, by decide⟩

theorem witness_HandlesPublish_subscribers : Claim.OnHandle (Test.handle Test.free (.hsub 0x40)) 0 2 (Test.msg (.handle 2 (.hsub 0x40))) (.hsub 0x40) ∧
    (0x40 : Word).extractLsb' 6 42 ∉ Test.free.subs ∧ Test.free.subs.length < 8 ∧
    ((0x40 : Word).extractLsb' 6 42 ∉ List.replicate 8 (5 : BitVec 42) ∧ (List.replicate 8 (5 : BitVec 42)).length = 8) ∧
    Claim.OnHandle (Test.handle Test.free (.hunsub 0x180)) 0 2 (Test.msg (.handle 2 (.hunsub 0x180))) (.hunsub 0x180) ∧
    Test.free.subs = [5] ++ (0x180 : Word).extractLsb' 6 42 :: [] ∧ (0x180 : Word).extractLsb' 6 42 ∉ [(5 : BitVec 42)] ∧
    Claim.OnHandle (Test.handle Test.free (.hver 0)) 0 2 (Test.msg (.handle 2 (.hver 0))) (.hver 0) :=
  ⟨Test.onHandle _ _ rfl rfl, by decide, by decide, by decide, Test.onHandle _ _ rfl rfl, by decide, by decide, Test.onHandle _ _ rfl rfl⟩

theorem witness_HandlesPublish_stopref : (∀ v, Claim.OnHandle (Test.handle Test.free (.stopref v 0)) 0 2 (Test.msg (.handle 2 (.stopref v 0))) (.stopref v 0)) ∧
    (∀ v, Claim.OnHandle (Test.handle Test.paced (.stopref v 0)) 0 2 (Test.msg (.handle 2 (.stopref v 0))) (.stopref v 0)) ∧
    Test.paced.version ≤ 3 ∧ (2 : BitVec 32) < Test.paced.version ∧ (0 : Word).extractLsb' 6 42 ∉ Test.paced.subs ∧
    Claim.OnHandle (Test.handle Test.free .refchk) 0 2 (Test.msg (.handle 2 .refchk)) .refchk :=
  ⟨fun _ => Test.onHandle _ _ rfl rfl, fun _ => Test.onHandle _ _ rfl rfl, by decide, by decide, by decide, Test.onHandle _ _ rfl rfl⟩

theorem witness_HandlesPublish_hcfg : (∀ r0 r1, Claim.ToHandle (Test.handle {} (.hcfg r0 r1)) 0 2 (Test.msg (.handle 2 (.hcfg r0 r1))) (.hcfg r0 r1)) ∧
    (∀ r0 r1, ((Test.handle {} (.hcfg r0 r1)).core 0).handle 2 = {}) ∧
    (Test.handle {} (.hcfg 0x200001000 0x40)).windowNamed 0 2 = false ∧ (Test.handle {} (.hcfg 0x200001000 0x40)).handleOk 0 0 0x200001000 0x40 = true ∧
    (Test.handle {} (.hcfg 0x200001000 0x20040)).windowNamed 0 2 = false ∧ (Test.handle {} (.hcfg 0x200001000 0x20040)).handleOk 0 0 0x200001000 0x20040 = false ∧
    (Test.handle {} (.hcfg 0 0)).windowNamed 0 2 = false :=
  ⟨fun _ _ => Test.toHandle _ _, fun _ _ => rfl, by decide +kernel, by decide +kernel, by decide +kernel, by decide +kernel, by decide +kernel⟩

/-! Rings: a descriptor at offset 0x100 of core 0's slice, of 64 words at offset 0x1000, one word in it and two reserved. -/

def Test.ringOf (s : State) (tail resv : Nat) : State :=
  s.modMem fun m => m.write 0x100000000100 (bytesOf [0x1000, 64, 7, word (7 + tail), word resv, 0, 0, 0])

def Test.ring (b : Body) (tail resv : Nat) : State := Test.ringOf (Test.home b) tail resv

/-- The hypotheses of `Claim.OnRing` at that descriptor, computed. -/
def Test.isRing (s : State) (b : Body) : Bool :=
  s.headMsg 0 == some (Test.msg b) && s.panelId == 0 && (s.core 0).owns (sliceOff 0x100000000100) 64 0 0 &&
  decide ((s.core 0).health.badBanks = [] ∧ (s.core 0).inOverflow (sliceOff 0x100000000100) 64 = false ∧ s.gathered 0 0x100000000100 64 = false) &&
  ((wordsIn 0x100000000100 64).all fun w => !s.mem.poisoned w && !s.mem.single.contains w && !s.mem.double.contains w) &&
  s.ringValid 0x100000000100

theorem Test.ring_of {s : State} {b : Body} (h : Test.isRing s b = true) : Claim.OnRing s 0 (Test.msg b) b 0x100000000100 := by
  simp only [Test.isRing, Bool.and_eq_true, List.all_eq_true, beq_iff_eq, decide_eq_true_eq, Bool.not_eq_true'] at h
  obtain ⟨⟨⟨⟨⟨a, b⟩, c⟩, d⟩, e⟩, f⟩ := h
  exact { head := a, len := Nat.zero_le _, body := rfl, panel := b.symm, src := (by decide : (1 : Nat) ≠ 0), space := by decide, home := by decide,
          line := by decide, owner := c, sound := ⟨d.1, d.2.1, fun w hw => ⟨(e w hw).1.1, (e w hw).1.2, (e w hw).2⟩⟩, free := d.2.2, valid := f }

/-- The hypotheses of `Claim.RingWord`, computed. -/
def Test.ringWord (s : State) (a : Nat) : Bool :=
  (s.core 0).owns (sliceOff a) 8 0 0 && !(s.core 0).inOverflow (sliceOff a) 8 && !s.gathered 0 a 8

/-- The same with the producers of its words noted. -/
def Test.produced (s : State) : State := s.modMe fun c => { c with links := { c.links with rings := [(0x100000000100, [(0, 16, 0)])] } }

theorem witness_RingsLinksPages_rings : (∀ b ∈ ([.ringReserve 0x100000000100 2 0 3, .ringReserve 0x100000000100 2 1 3,
      .ringPush 0x100000000100 [5] 0 0 [] 3 24 0, .stagePut 0x100000000100 5, .stageGet 0x100000000100] : List Body), Test.isRing (Test.ring b 1 2) b = true) ∧
    (Test.ring (.ringReserve 0x100000000100 2 0 3) 1 2).mem.read64 (0x100000000100 + 0x28) = (0 : Tag).zeroExtend 64 ∧
    (Test.ring (.ringReserve 0x100000000100 2 1 3) 1 2).mem.read64 (0x100000000100 + 0x28) ≠ (1 : Tag).zeroExtend 64 ∧
    0 < (Test.ring (.ringPush 0x100000000100 [5] 0 0 [] 3 24 0) 1 2).ringResv 0x100000000100 ∧
    (∀ b ∈ ([.ringPush 0x100000000100 [5] 0 0 [] 3 24 0, .stagePut 0x100000000100 5] : List Body),
      Test.ringWord (Test.ring b 1 2) ((Test.ring b 1 2).ringAt 0x100000000100 ((Test.ring b 1 2).ringTail 0x100000000100)) = true) ∧
    (Test.msg (.ringPush 0x100000000100 [5] 0 0 [] 3 24 0)).late = false ∧
    (Test.ring (.stagePut 0x100000000100 5) 1 2).mem.wf = true := by
  decide +kernel

theorem witness_RingsLinksPages_apart : Claim.Apart (Test.ring (.stagePut 0x100000000100 5) 1 2) 0x100000000100 ∧
    Claim.Apart (Test.ring (.ringPush 0x100000000100 [5] 0 0 [] 3 24 0) 1 2) 0x100000000100 :=
  ⟨.inr (by decide +kernel), .inr (by decide +kernel)⟩

theorem witness_RingsLinksPages_stages :
    1 + (Test.ring (.stagePut 0x100000000100 5) 1 2).ringResv 0x100000000100 + (Test.ring (.stagePut 0x100000000100 5) 1 2).ringCount 0x100000000100 ≤
      (Test.ring (.stagePut 0x100000000100 5) 1 2).ringSize 0x100000000100 ∧
    Test.isRing (Test.ring (.stagePut 0x100000000100 5) 60 4) (.stagePut 0x100000000100 5) = true ∧
    (Test.ring (.stagePut 0x100000000100 5) 60 4).ringSize 0x100000000100 <
      1 + (Test.ring (.stagePut 0x100000000100 5) 60 4).ringResv 0x100000000100 + (Test.ring (.stagePut 0x100000000100 5) 60 4).ringCount 0x100000000100 ∧
    Test.isRing (Test.produced (Test.ring (.stageGet 0x100000000100) 1 2)) (.stageGet 0x100000000100) = true ∧
    (Test.produced (Test.ring (.stageGet 0x100000000100) 1 2)).ringCount 0x100000000100 ≠ 0 ∧
    (let s := Test.produced (Test.ring (.stageGet 0x100000000100) 1 2)
     Test.ringWord s (s.ringAt 0x100000000100 (s.ringHead 0x100000000100)) = true ∧
      (wordsIn (s.ringAt 0x100000000100 (s.ringHead 0x100000000100)) 8).all fun w => !s.mem.poisoned w && !s.mem.single.contains w && !s.mem.double.contains w) ∧
    Test.ringWord (Test.ring (.stagePut 0x100000000100 5) 60 4)
      ((Test.ring (.stagePut 0x100000000100 5) 60 4).ringAt 0x100000000100 ((Test.ring (.stagePut 0x100000000100 5) 60 4).ringTail 0x100000000100)) = true ∧
    Fmap.get [] ((Test.produced (Test.ring (.stageGet 0x100000000100) 1 2)).core 0).links.rings 0x100000000100 = (0, 16, 0) :: [] ∧
    Test.isRing (Test.ring (.stageGet 0x100000000100) 0 2) (.stageGet 0x100000000100) = true ∧
    (Test.ring (.stageGet 0x100000000100) 0 2).ringCount 0x100000000100 = 0 := by
  decide +kernel

/-- A producer's binding of x24 in slot 3 of core 0, and a credit for it. -/
def Test.boundRing : State := (Test.home (.ringCredit 0x100000000100 3 24 2)).modSlot 0 3 fun t => { t with binds := t.binds.set 0 (some ⟨.ringP 0x100000000100, true, false, 0, 1⟩) }

/-- A word, or a credit, on a neighbour link to core 0. -/
def Test.linked (b : Body) : State := { Test.mapped [] with net := [{ dest := 0, src := 1, vc := 5, kind := 0, body := b }] }

theorem witness_RingsLinksPages_links : Claim.Head Test.boundRing 0 (Test.msg (.ringCredit 0x100000000100 3 24 2)) (.ringCredit 0x100000000100 (3 : Fin 16).val (24 + (0 : Fin 8).val) 2) ∧
    (Test.boundRing.slot 0 3).binds[(0 : Fin 8)] = some ⟨.ringP 0x100000000100, true, false, 0, 1⟩ ∧ (∀ j : Fin 16, (Test.boundRing.slot 0 j).late = []) ∧
    (Test.linked (.linkWord 1 9)).net = [] ++ { dest := 0, src := 1, vc := 5, kind := 0, body := .linkWord 1 9 } :: [] ∧
    (Test.linked (.linkCredit 1)).net = [] ++ { dest := 0, src := 1, vc := 5, kind := 0, body := .linkCredit 1 } :: [] ∧
    ∀ j : Fin 16, ((Test.linked (.linkCredit 1)).slot 0 j).late = [] :=
  ⟨⟨rfl, Nat.zero_le _, rfl⟩, by decide +kernel, by decide +kernel, rfl, rfl, by decide +kernel⟩

theorem witness_RingsLinksPages_pages : Claim.Head (Test.homeSys (.pageOwner 2 0x1003)) 0 (Test.sysMsg (.pageOwner 2 0x1003)) (.pageOwner (2 : Fin 16).val 0x1003) ∧
    (Test.sysMsg (.pageOwner 2 0x1003)).level = 2 ∧ ((Test.homeSys (.pageOwner 2 0x1003)).core 0).sysOk 0 (0x20 + (2 : Fin 16).val) 0x1003 = true ∧
    (Test.msg (.pageOwner 2 0x1003)).level ≠ 2 ∧
    Claim.Head (Test.home (.pageOwner 2 0x1003)) 0 (Test.msg (.pageOwner 2 0x1003)) (.pageOwner (2 : Fin 16).val 0x1003) :=
  ⟨⟨rfl, Nat.zero_le _, rfl⟩, by decide, by decide +kernel, by decide, ⟨rfl, Nat.zero_le _, rfl⟩⟩

/-! The debug window of core 0. -/

def Test.windowBody (o : Nat) (op : MemOp) : Body := .mem (15 * 2 ^ 44 + 0 * 0x10000 + o) op 0 0
def Test.viewed (o : Nat) (op : MemOp) : State := Test.homeSys (Test.windowBody o op)
def Test.frozen (s : State) (k : Fin 16) : State :=
  (s.modMe fun c => { c with flt := { c.flt with frozen := true } }).modSlot 0 k fun t => { t with state := .frozen }

theorem Test.window (s : State) (o : Nat) (op : MemOp) (h : s.headMsg 0 = some (Test.sysMsg (Test.windowBody o op))) (b : o < 0x10000 ∧ o % 8 = 0) :
    Claim.Window s 0 (Test.sysMsg (Test.windowBody o op)) o op := ⟨h, Nat.zero_le _, by decide, b, ⟨0, 0, rfl⟩, rfl⟩

theorem witness_ControlSpace_reads : Claim.Window (Test.viewed 0x18 (.load 8)) 0 (Test.sysMsg (Test.windowBody 0x18 (.load 8))) 0x18 (.load 8) ∧
    Claim.Window (Test.frozen (Test.viewed 0x18 (Claim.store8 7)) 0) 0 (Test.sysMsg (Test.windowBody ((0 : Fin 16).val * 0x800 + 8 * (3 : Fin 32).val) (Claim.store8 7)))
      0x18 (Claim.store8 7) ∧ ((Test.frozen (Test.viewed 0x18 (Claim.store8 7)) 0).core 0).flt.frozen = true ∧
    ((Test.viewed 0x18 (Claim.store8 7)).core 0).flt.frozen = false ∧ ((Test.viewed 0x18 (Claim.store8 7)).slot 0 0).state ≠ .parked ∧
    (Test.home (Test.windowBody 0x18 (.load 8))).headMsg 0 = some (Test.msg (Test.windowBody 0x18 (.load 8))) ∧ (Test.msg (Test.windowBody 0x18 (.load 8))).level = 0 :=
  ⟨Test.window _ _ _ rfl (by decide), Test.window _ _ _ rfl (by decide), rfl, rfl, by decide, rfl, by decide⟩

theorem witness_ControlSpace_resume : Claim.Window (Test.frozen (Test.viewed 0xE000 (Claim.store8 0x10)) 0) 0
      (Test.sysMsg (Test.windowBody 0xE000 (Claim.store8 0x10))) 0xE000 (Claim.store8 0x10) ∧
    (0x10 : Word).extractLsb' 4 4 = 1#4 ∧ (0x20 : Word).extractLsb' 4 4 = 2#4 ∧ (0x20 : Word).extractLsb' 0 4 = BitVec.ofNat 4 (0 : Fin 16).val ∧
    ((Test.frozen (Test.viewed 0xE000 (Claim.store8 0x10)) 0).core 0).veng.q = [] ∧ ((Test.frozen (Test.viewed 0xE000 (Claim.store8 0x10)) 0).core 0).cq = [] ∧
    (∀ j : Fin 16, ((Test.frozen (Test.viewed 0xE000 (Claim.store8 0x10)) 0).slot 0 j).path = [] ∧
      ((Test.frozen (Test.viewed 0xE000 (Claim.store8 0x10)) 0).slot 0 j).park ≠ .marker) ∧
    ((Test.frozen (Test.viewed 0xE000 (Claim.store8 0x10)) 0).slot 0 0).state = .frozen ∧
    ((Test.frozen (Test.viewed 0xE000 (Claim.store8 0x20)) 0).slot 0 0).load = none ∧
    ((Test.frozen (Test.viewed 0xE000 (Claim.store8 0x10)) 0).slot 0 0).refused = [] :=
  ⟨Test.window _ _ _ rfl (by decide), by decide, by decide, by decide, rfl, rfl, by decide +kernel, rfl, rfl, rfl⟩

/-- Slot 0 parked at a supervisor call. -/
def Test.called (w : Word) : State := (Test.viewed 0xE000 (Claim.store8 w)).modSlot 0 0 fun t => { t with state := .parked, park := .supcall }

theorem witness_ControlSpace_retire : (0x30 : Word).extractLsb' 4 4 = 3#4 ∧ (0x40 : Word).extractLsb' 4 4 = 4#4 ∧ 5 ≤ ((0x50 : Word).extractLsb' 4 4).toNat ∧
    ((Test.called 0x30).slot 0 0).state = .parked ∧ ((Test.called 0x40).slot 0 0).park = .supcall ∧ Claim.Plain ((Test.called 0x40).slot 0 0) ∧
    ((Test.called 0x40).core 0).flt.frozen = false ∧
    Claim.Window (Test.called 0x40) 0 (Test.sysMsg (Test.windowBody 0xE000 (Claim.store8 0x40))) 0xE000 (Claim.store8 0x40) :=
  ⟨by decide, by decide, by decide, rfl, rfl, ⟨by decide +kernel, by decide +kernel, by decide +kernel, by decide +kernel, by decide +kernel, by decide +kernel⟩,
    rfl, Test.window _ _ _ rfl (by decide)⟩

theorem witness_ControlSpace_registers : Claim.Window (Test.viewed (0x8000 + 8 * 0x20) (Claim.store8 0x1003)) 0
      (Test.sysMsg (Test.windowBody (0x8000 + 8 * 0x20) (Claim.store8 0x1003))) (0x8000 + 8 * 0x20) (Claim.store8 0x1003) ∧
    (∃ need, sysWriteLevel 0x20 = some need ∧ need ≤ (Test.sysMsg (Test.windowBody (0x8000 + 8 * 0x20) (Claim.store8 0x1003))).level) ∧
    ((Test.viewed (0x8000 + 8 * 0x20) (Claim.store8 0x1003)).core 0).sysOk 0 0x20 0x1003 = true :=
  ⟨Test.window _ _ _ rfl (by decide), ⟨_, rfl, by decide⟩, by decide +kernel⟩

/-- A load command of the vector engine for opcode 5, its graph resident or not. -/
def Test.rlcmd (load resident : Bool) : State := (Test.home .credit).modMe fun c =>
  { c with sysr := c.sysr.set 2 0x10000, veng := { c.veng with rlcmd := some (5, load), gs := if resident then c.veng.gs.set 1 { c.veng.gs[1] with proj := some 5 } else c.veng.gs } }

theorem witness_ControlSpace_rlcmd : ((Test.rlcmd true true).core 0).veng.rlcmd = some (5, true) ∧ ((Test.rlcmd true true).core 0).cxAt 5 = some 1 ∧
    ((Test.rlcmd true false).core 0).cxAt 5 = none ∧ ((Test.rlcmd true false).core 0).veng.victimNow = some 0 ∧ ((Test.rlcmd true false).cxHead 0 5).2 = none ∧
    (((Test.rlcmd true false).cxTake 0 0 5).cxInstall 0 0 5).2.1 = 0x1D ∧ ((Test.rlcmd false true).core 0).veng.rlcmd = some (5, false) :=
  ⟨by decide +kernel, by decide +kernel, by decide +kernel, by decide +kernel, by decide +kernel, by decide +kernel, by decide +kernel⟩

/-! The control blocks of the die of core 0, the handlers of the message thread, and the receivers of fault packets. -/

def Test.toDie (lvl : Tag) (src : Nat) (b : Body) : Msg := { dest := 8192, src := src, vc := 0, kind := 0, wtag := lvl, body := b }
def Test.dieHas (m : Msg) : State := { Test.mapped [] with nis := [(8192, { inq := [m] })] }

theorem Test.first8 (m : Msg) (b : Body) (hb : m.body = b) (hl : m.len = 0) : Claim.First8 (Test.dieHas m) 8192 m b :=
  ⟨by decide, fun _ => rfl, rfl, by omega, hb⟩

theorem witness_ControlSpace_blocks : (∀ w, Claim.First8 (Test.dieHas (Test.toDie 2 0xFFFF (.mem (15 * 2 ^ 44 + 0x10_0000_0000 + 0 * 0x100) (Claim.store8 w) 0 0))) (8192 + 0 / 4)
      (Test.toDie 2 0xFFFF (.mem (15 * 2 ^ 44 + 0x10_0000_0000 + 0 * 0x100) (Claim.store8 w) 0 0)) (.mem (15 * 2 ^ 44 + 0x10_0000_0000 + 0 * 0x100) (Claim.store8 w) 0 0)) ∧
    (0x12 : Word).toNat < 2 ^ 32 ∧ (∀ j : Nat, j < 8 → (0x12 : Word).getLsbD (4 * j + 3) = false) ∧
    (∀ op lvl, Claim.First8 (Test.dieHas (Test.toDie lvl 0xFFFF (.mem (15 * 2 ^ 44 + 0x20_0000_0000 + 0 * 0x1000) op 0 0))) (8192 + 0)
      (Test.toDie lvl 0xFFFF (.mem (15 * 2 ^ 44 + 0x20_0000_0000 + 0 * 0x1000) op 0 0)) (.mem (15 * 2 ^ 44 + 0x20_0000_0000 + 0 * 0x1000) op 0 0)) ∧
    (∀ op, Claim.First8 (Test.dieHas (Test.toDie 2 5 (.mem (15 * 2 ^ 44 + 0x20_0000_0000 + 0 * 0x1000) op 0 0))) (8192 + 0)
      (Test.toDie 2 5 (.mem (15 * 2 ^ 44 + 0x20_0000_0000 + 0 * 0x1000) op 0 0)) (.mem (15 * 2 ^ 44 + 0x20_0000_0000 + 0 * 0x1000) op 0 0)) ∧
    (∀ b, (Test.toDie 2 0xFFFF b).level = 2 ∧ (Test.toDie 1 0xFFFF b).level ≠ 2 ∧ (Test.toDie 2 0xFFFF b).src = Config.srcPctl ∧
      (Test.toDie 1 0xFFFF b).src = Config.srcPctl ∧ (Test.toDie 2 5 b).src ≠ Config.srcPctl) ∧
    Claim.First8 (Test.dieHas (Test.toDie 0 1 .rdhmap)) (8192 + 0) (Test.toDie 0 1 .rdhmap) .rdhmap :=
  ⟨fun _ => Test.first8 _ _ rfl rfl, by decide, by decide, fun _ _ => Test.first8 _ _ rfl rfl, fun _ => Test.first8 _ _ rfl rfl,
    fun _ => ⟨rfl, (by decide : (1 : Nat) ≠ 2), rfl, rfl, (by decide : (5 : Nat) ≠ 0xFFFF)⟩, Test.first8 _ _ rfl rfl⟩

/-- A program message of kind 0x41 for core 0, whose vector table stands at 0x10000. -/
def Test.prog (kind : Nat) (b : Body) (len : Nat) : Msg := { dest := 0, src := 1, vc := 0, kind := kind, len := len, body := b }
def Test.handlers (m : Msg) (entry : Word) : State := (({ Test.mapped [] with nis := [(0, { inq := [m] })] } : State).modMe fun c =>
    { c with sysr := (((c.sysr.set 6 0x10000).set 7 0x40000).set 0x20 0x1000).set 0x24 0x1000 }).modMem fun x =>
  (x.write 0x100000000008 (toBytes 8 entry.toNat)).write (0x100000000000 + 8 * 0xBF) (toBytes 8 entry.toNat)

/-- Words of a slice page of core 0 can be written. -/
theorem Test.soundOf {s : State} {pa n : Nat} (h : ((s.core (sliceLcn pa)).health.badBanks == [] && (s.core (sliceLcn pa)).inOverflow (sliceOff pa) n == false &&
    s.mem.psn == [] && s.mem.single == [] && s.mem.double == []) = true) : s.Sound pa n := by
  simp only [Bool.and_eq_true, beq_iff_eq] at h
  obtain ⟨⟨⟨⟨a, b⟩, c⟩, d⟩, e⟩ := h
  exact ⟨a, b, fun _ _ => ⟨by simp [Mem.poisoned, c], by simp [d], by simp [e]⟩⟩

theorem witness_ControlSpace_handlers :
    Claim.Head (Test.handlers (Test.prog 0x41 (.program [1, 2]) 2) 0x8000000000012345) 0 (Test.prog 0x41 (.program [1, 2]) 2) (.program [1, 2]) ∧
    (∃ u, ((Test.handlers (Test.prog 0x41 (.program [1, 2]) 2) 0x8000000000012345).takeMsg 0 (Test.prog 0x41 (.program [1, 2]) 2)).handlerEntry 0 0x41 =
      (u, .inl 0x12345) ∧ (u.core 0).sys 7 = ((Test.handlers (Test.prog 0x41 (.program [1, 2]) 2) 0x8000000000012345).core 0).sys 7 ∧
      Claim.Buffer (Test.handlers (Test.prog 0x41 (.program [1, 2]) 2) 0x8000000000012345) u 0) ∧
    (∃ u, ((Test.handlers (Test.prog 0x41 (.program [1, 2]) 2) 0x12345).takeMsg 0 (Test.prog 0x41 (.program [1, 2]) 2)).handlerEntry 0 0x41 = (u, .inr 0) ∧
      u.panelId = 0 ∧ (Test.handlers (Test.prog 0x41 (.program [1, 2]) 2) 0x12345).gathered 0
        ((Test.handlers (Test.prog 0x41 (.program [1, 2]) 2) 0x12345).msgBuf 0) 256 = false ∧ (0x41 : Nat) ≠ 0xFF) :=
  ⟨⟨rfl, by decide, rfl⟩, ⟨(((Test.handlers (Test.prog 0x41 (.program [1, 2]) 2) 0x8000000000012345).takeMsg 0 (Test.prog 0x41 (.program [1, 2]) 2)).handlerEntry 0 0x41).1,
      Prod.ext rfl (by decide +kernel), by decide +kernel, by decide, by decide +kernel, by decide +kernel, Test.soundOf (by decide +kernel)⟩,
    ⟨(((Test.handlers (Test.prog 0x41 (.program [1, 2]) 2) 0x12345).takeMsg 0 (Test.prog 0x41 (.program [1, 2]) 2)).handlerEntry 0 0x41).1,
      Prod.ext rfl (by decide +kernel), by decide +kernel, by decide +kernel, by decide⟩⟩

def Test.packet : Packet := ⟨0, 0, 5, 0, false, true, 0, 0x01, 0x10000, 0x10000, 0, 0, 0, 0, 0, 0x1000⟩
def Test.reported (dest : Nat) : Msg := { dest := dest, src := 5, vc := 0, kind := 0xFF, body := .packet Test.packet }

theorem witness_ControlSpace_packets :
    Claim.First8 { Test.mapped [] with nis := [(0xFFFF, { inq := [Test.reported 0xFFFF] })] } Config.srcPctl (Test.reported 0xFFFF) (.packet Test.packet) ∧
    Test.packet.cause ≠ 0x3A ∧ Test.packet.cause ≠ 0x3B ∧
    Claim.Head (Test.handlers (Test.reported 0) 0x8000000000012345) 0 (Test.reported 0) (.packet Test.packet) ∧
    ∃ u, ((Test.handlers (Test.reported 0) 0x8000000000012345).takeMsg 0 (Test.reported 0)).handlerEntry 0 0xFF = (u, .inl 0x12345) ∧
      Claim.Buffer (Test.handlers (Test.reported 0) 0x8000000000012345) u 0 :=
  ⟨⟨by decide, fun h => absurd h (by decide), rfl, by decide, rfl⟩, by decide, by decide, ⟨rfl, by decide, rfl⟩,
    ⟨(((Test.handlers (Test.reported 0) 0x8000000000012345).takeMsg 0 (Test.reported 0)).handlerEntry 0 0xFF).1, Prod.ext rfl (by decide +kernel), by decide,
      by decide +kernel, by decide +kernel, Test.soundOf (by decide +kernel)⟩⟩

/-! ## Witnesses for the engines -/

/-- The vector queue holds `i` of slot 0 and an older-numbered command behind it. -/
def Test.vcmd (i : Instr) (known : Bool) (xs : List (Option Word)) : VCmd := ⟨0, 0, 0, .known known, i, xs, 0, 0, false, [], [], false, none, false, false, none⟩
def Test.vq (c : VCmd) : State := (Test.mapped []).modMe fun k => { k with veng := { k.veng with q := [c] } }

theorem Test.vecHead (c : VCmd) (h : c.flt = false) (b : c.bad = none) : Claim.VecHead (Test.vq c) 0 c [] := ⟨rfl, h, rfl, rfl, fun _ => b⟩

theorem witness_VectorEngine_starts : (∀ i known xs, Claim.VecHead (Test.vq (Test.vcmd i known xs)) 0 (Test.vcmd i known xs) [] ∧
      (Test.vcmd i known xs).started = false ∧ (Test.vcmd i known xs).gd = .known known ∧ (Test.vcmd i known xs).op = i ∧ (Test.vcmd i known xs).xs = xs) ∧
    (∀ c, ((Test.vq c).slot 0 (Fin.ofNat 16 0)).regs.vtag[(1 : Fin 16)] = 0 ∧ ((Test.vq c).slot 0 (Fin.ofNat 16 0)).regs.vtag[(2 : Fin 16)] = 0 ∧
      ((Test.vq c).core 0).bs = Vector.replicate 16 {} ∧ ((Test.vq c).core 0).meng.q = []) ∧
    tagReason (Vector.replicate 16 {}) 0 false = none ∧ Tag.bs 0 = 0 ∧
    ({ v := true, mode := 1, lo := (0x5_0000_0002 : Word).extractLsb' 0 32, hi := (0x5_0000_0002 : Word).extractLsb' 32 32 } : Bound).ok = true :=
  ⟨fun _ _ _ => ⟨Test.vecHead _ rfl rfl, rfl, rfl, rfl, rfl⟩, fun _ => ⟨rfl, rfl, rfl, rfl⟩, by decide, by decide, by decide⟩

/-- A command with its result, of the vector engine or of the Reed array. -/
def Test.vdone (i : Instr) : VCmd := { Test.vcmd i true [] with started := true, res := some { vds := [(4, 9, 1)] } }

theorem witness_VectorEngine_results : ∀ i : Instr, ((Test.vq (Test.vdone i)).core 0).veng.q = Test.vdone i :: [] ∧ (Test.vdone i).slot < 16 ∧
    (Test.vdone i).res = some { vds := [(4, 9, 1)] } ∧ ((Test.vq (Test.vdone i)).slot 0 (Fin.ofNat 16 (Test.vdone i).slot)).park ≠ .marker ∧
    ((Test.vq (Test.vdone i)).core 0).thresholds = false :=
  fun _ => ⟨rfl, (by decide : 0 < 16), rfl, (by decide : (Test.mapped []).thr.park ≠ .marker), rfl⟩

theorem witness_VectorEngine_both : (Test.vdone (.vgettag Test.g 1 2)).eng = 1 ∧ (Test.vdone (.cxop Test.g .rne 1 2 3 4 9 0)).eng = 2 := by decide

/-- The image of a graph for opcode 5: one cell that adds its FP32 input to itself, with its table entry; and a load of it. -/
def Test.image : List Word :=
  [0x105000147444552, 1, 0x20001, 0xb1a5f2cd00000180, 0, 0, 0, 0, 0x10000001] ++ List.replicate 15 0 ++ [0x34D3400034820001] ++
    List.replicate 15 0x34D3400034D34000 ++ List.replicate 8 0
def Test.loadGraph (good : Bool) : State := (Test.vq { Test.vcmd (.cxload Test.g 3) true [some 5] with started := true }).modMe
    (fun c => { c with sysr := (c.sysr.set 2 0x10000).set 0x20 0x1000 }) |>.modMem fun m =>
  if good then ({ m with bytes := ((bytesOf Test.image).zipIdx.filter fun p => p.1 != 0).map fun p => (0x100000000200 + p.2, p.1) } : Mem).write 0x100000001028
    (toBytes 8 0x8180000000010200) else m

/-- The installation of the graph that the head of the vector queue loads. -/
def Test.installed (good : Bool) : State × Nat × Nat := (Test.loadGraph good).cxInstall 0 (Fin.ofNat 4 0) (5 : Word).toNat

theorem witness_VectorEngine_graphs : (Test.installed true).2 = (0, 0) ∧ (Test.installed false).2 = (0x1D, 1) ∧
    ∀ good : Bool, ((Test.loadGraph good).core 0).veng.reload = [] ∧ ((Test.loadGraph good).cxHead 0 (5 : Word).toNat).2 = none := by decide +kernel

/-- A command in the matrix queue of core 0, member 0 of cluster 0. -/
def Test.mcmd (i : Instr) : MCmd := { slot := 0, apc := 0, gd := .known true, op := i }
def Test.mq (c : MCmd) : State := (Test.mat.modMe fun k => { k with meng := { k.meng with q := [c] } })

/-- A dense product whose grants are several: 128 rows. -/
def Test.long : MCmd := { Test.mcmd (.mma Test.g 0 0 3 Test.o) with started := true, sa := Test.shape 0x10000 2 2 16 8 128, sb := Test.shape 0x10400 2 2 16 128 8 }
def Test.granted (c : MCmd) : State := (Test.mq c).modCluster 0 fun k => { k with grant := some 0 }

theorem witness_MatrixEngine_grants : ((Test.mq Test.long).cluster 0).mabs = false ∧ ((Test.mq Test.long).cluster 0).grant = none ∧
    (∀ j : Nat, j < 8 → (Test.mq Test.long).mReady 0 j = decide (j = (0 : Fin 8).val)) ∧ ((Test.mq Test.long).cluster 0).c[(0 : Fin 8)] ≠ 0 ∧
    ((Test.granted Test.long).cluster 0).grant = some (0 : Fin 8).val ∧ memberLcn 0 (0 : Fin 8).val = 0 ∧
    mmaOf Test.long.op = some ⟨0, 0, 3, Test.o, none, none⟩ ∧ Test.long.k + 1 < Test.long.grants ((Test.granted Test.long).core (memberLcn 0 (0 : Fin 8).val)).meng ∧
    Test.long.done = false ∧ (Test.mcmd (.mzero Test.g 2 1)).done = false ∧ mmaOf (Test.mcmd (.mzero Test.g 2 1)).op = none ∧
    ∀ j : Nat, j < 8 → ((Test.granted (Test.mcmd (.mzero Test.g 2 1))).core (memberLcn 0 j)).meng.holds = [] ∧
      ((Test.granted (Test.mcmd (.mzero Test.g 2 1))).core (memberLcn 0 j)).waits = [] ∧
      ∀ k : Fin 16, ((Test.granted (Test.mcmd (.mzero Test.g 2 1))).slot (memberLcn 0 j) k).late = [] :=
  ⟨by decide +kernel, by decide +kernel, by decide +kernel, by decide +kernel, by decide +kernel, by decide, rfl, by decide +kernel, rfl, rfl, rfl,
    by decide +kernel⟩

theorem witness_MatrixEngine_heads : (∀ c, ((Test.mq c).core 0).meng.q = c :: [] ∧ ((Test.mq c).core 0).flt.frozen = false ∧ ((Test.mq c).core 0).stopping = none ∧
      ((Test.mq c).core 0).bndAhead c.no = false ∧ ∀ k : Fin 16, ((Test.mq c).slot 0 k).path = []) ∧
    ({ Test.mcmd (.mshld Test.g 2 3 0) with data := some 7 } : MCmd).data = some 7 ∧ ({ Test.mcmd (.mzero Test.g 2 1) with done := true } : MCmd).done = true ∧
    (Test.mcmd (.mcnt Test.g false 2 1)).slot < 16 ∧ ({ Test.mcmd (.mzero Test.g 2 1) with gd := .known false } : MCmd).gd = .known false ∧
    (∀ j : Nat, j < 8 → (Test.mat.core (memberLcn 0 j)).meng.q = [] ∧ (Test.mat.core (memberLcn 0 j)).meng.holds = []) :=
  ⟨fun _ => ⟨rfl, rfl, rfl, rfl, (by decide : ∀ k : Fin 16, (Test.mat.slot 0 k).path = [])⟩, rfl, rfl, by decide, rfl, by decide +kernel⟩

/-- A copy of four FP16 elements from 0x10000 to 0x10800, with and without COMB (bit 56) and CWA; the mapped page belongs to context 0. -/
def Test.ccmd (w2 : Word) (started : Bool) (prog : Nat) : CCmd :=
  { slot := 0, apc := 0, multi := false, ra := 0x10400, words := [0x2000000010000, 0x2000000010800, w2, 0, 0xC00001, 0, 0, 0], prog, started }
def Test.cq (c : CCmd) : State := (Test.mapped []).modMe fun k => { k.setSys 0x20 0x1000 with cq := [c] }

theorem Test.copyHead (c : CCmd) (h : c.flt = false) : Claim.CopyHead (Test.cq c) 0 c [] := ⟨rfl, h, rfl, rfl⟩

theorem witness_Copies_start : Claim.CopyHead (Test.cq (Test.ccmd 0 false 0)) 0 (Test.ccmd 0 false 0) [] ∧ (Test.ccmd 0 false 0).rcd.comb = false ∧
    (Test.ccmd 0 false 0).comb = 0 ∧ (Test.ccmd 0 false 0).rcd.cwa = 0 ∧ (Test.ccmd 0 false 0).after = [] ∧
    (Test.ccmd 0 false 0).restored = false ∧ (Test.ccmd 0 false 0).multi = false :=
  ⟨Test.copyHead _ rfl, by decide, rfl, by decide, rfl, rfl, rfl⟩

/-- The segment of the started copy of core 0, moved. -/
def Test.segment : CopyStep :=
  ((Test.cq (Test.ccmd 0 true 0)).copyOrder 0 (Test.ccmd 0 true 0)).foldl (CopyStep.one 0 (Test.ccmd 0 true 0))
    { s := Test.cq (Test.ccmd 0 true 0), got := (Test.ccmd 0 true 0).got, room := postedMax - ((Test.cq (Test.ccmd 0 true 0)).ni 0).posted.length }

theorem witness_Copies_segment : Claim.CopyHead (Test.cq (Test.ccmd 0 true 0)) 0 (Test.ccmd 0 true 0) [] ∧ (Test.ccmd 0 true 0).prog < (Test.ccmd 0 true 0).rcd.total ∧
    (Test.ccmd 0 true 0).busy = false ∧ (Test.cq (Test.ccmd 0 true 0)).copyAway 0 (Test.ccmd 0 true 0) (Test.ccmd 0 true 0).segment = [] ∧
    (Test.cq (Test.ccmd 0 true 0)).copyLanding 0 (Test.ccmd 0 true 0) (Test.ccmd 0 true 0).segment = false ∧
    Test.segment.flt = none ∧ Test.segment.full = false ∧ (Test.segment.s.core 0).cq = [Test.ccmd 0 true 0] ∧
    (Test.segment.s.core 0).thresholds = false :=
  ⟨Test.copyHead _ rfl, by decide +kernel, rfl, by decide +kernel, by decide +kernel, by decide +kernel, by decide +kernel, by decide +kernel, by decide +kernel⟩

theorem witness_Copies_complete : (Test.ccmd 0 true 8).rcd.total ≤ (Test.ccmd 0 true 8).prog ∧ (Test.ccmd 0x10010 true 8).rcd.total ≤ (Test.ccmd 0x10010 true 8).prog ∧
    (∀ c, ∀ p ∈ ((Test.cq c).ni 0).posted, p.slot ≠ 18) ∧ (Test.ccmd 0 true 8).rcd.pub = false ∧ (Test.ccmd 0x10010 true 8).rcd.pub = false ∧
    (Test.ccmd 0x10010 true 8).multi = false ∧
    ∃ u, (Test.cq (Test.ccmd 0x10010 true 8)).copyStartCheck 0 { Test.ccmd 0x10010 true 8 with prog := (Test.ccmd 0x10010 true 8).rcd.total } = (u, .ok (some 0x100000000010)) ∧
      homeOf 0x100000000010 = 0 ∧ (u.fillAt 0x100000000010 8 (u.core 0).ctxid (u.core 0).level).2 = 0 :=
  ⟨by decide +kernel, by decide +kernel, fun _ _ h => (List.not_mem_nil h).elim, by decide, by decide, rfl,
    ((Test.cq (Test.ccmd 0x10010 true 8)).copyStartCheck 0 { Test.ccmd 0x10010 true 8 with prog := (Test.ccmd 0x10010 true 8).rcd.total }).1,
    Prod.ext rfl (by rfl), by decide, by decide +kernel⟩

/-- The same with COMB; and with its window open since long ago. -/
def Test.win : Window := { at_ := 0, ctx := 0, key := [], mem := [0] }
def Test.comb (k : Nat) : CCmd := { Test.ccmd (2 ^ 56) false 0 with comb := k }
def Test.window1 : State := { (Test.cq (Test.comb 1)).modCluster 0 fun n => { n with wins := [Test.win] } with time := 100 }

theorem witness_Copies_combine : Claim.CopyHead (Test.cq (Test.comb 0)) 0 (Test.comb 0) [] ∧ (Test.comb 0).rcd.comb = true ∧
    ((Test.cq (Test.comb 0)).cluster (clusterOf 0)).mabs = false ∧ ((Test.cq (Test.comb 0)).cluster (clusterOf 0)).cmboff = false ∧
    ((Test.cq (Test.comb 0)).cluster (clusterOf 0)).wins = [] ∧
    (((Test.cq (Test.comb 0)).combKey 0 (Test.comb 0)).1.cluster (clusterOf 0)).wins = [] ∧ ((Test.cq (Test.comb 0)).combKey 0 (Test.comb 0)).1.time = (Test.cq (Test.comb 0)).time ∧
    (Test.comb 0).after = [] ∧ (Test.comb 0).restored = false ∧ (Test.comb 0).prog = 0 ∧
    (Test.window1.cluster 0).wins = [Test.win] ∧ Test.win.closed = false ∧ Test.win.busy = false ∧ 0 + 64 ≤ Test.window1.time ∧
    Claim.CopyHead Test.window1 0 (Test.comb 1) [] ∧
    ((Test.window1.setWindow 0 0 { Test.win with closed := true, words := (Test.comb 1).words }).combFetch 0 (Test.comb 1).rcd []).ask = none ∧
    (((Test.window1.setWindow 0 0 { Test.win with closed := true, words := (Test.comb 1).words }).combFetch 0 (Test.comb 1).rcd []).s.core 0).cq =
      Test.comb 1 :: [] :=
  ⟨Test.copyHead _ rfl, by decide, by decide +kernel, by decide +kernel, by decide +kernel, by decide +kernel, by decide +kernel, rfl, rfl, rfl,
    by decide +kernel, rfl, rfl, by decide +kernel, ⟨rfl, rfl, rfl, rfl⟩, by decide +kernel, by decide +kernel⟩

/-! ## Witnesses for memory, sweeps, dealers and governors -/

/-- Tables of context 0 in HBM that map page 5 to the page of HBM at 0x200001000000 and page 4 to core 0's first slice page. -/
def Test.table (s : State) : State :=
  { s with pctl := { ctxs := [(0, { place := [⟨1, 2, 0, 0, 0, 0⟩], st := .running, root := 0x200000000000 })] } }.modMem fun m =>
    ((m.write 0x200000000000 (toBytes 8 0x8001200000004000)).write 0x200000004000 (toBytes 8 0x8001200000008000)).write 0x200000008020
      (toBytes 16 (0xF201200001000000 * 2 ^ 64 + 0xF200100000000000))

/-- Core 0 with eight uncorrectable sectors of its bank 1. -/
def Test.bank : State := (Test.mapped []).modMe fun c =>
  { c with health := { c.health with uncorr := (List.range 8).map fun i => (1024 + i, 10) } }

theorem witness_MemoryTranslation_bank : Test.bank.present 0 = true ∧ 1 ∉ (Test.bank.core 0).health.badBanks ∧ (Test.bank.core 0).bankFails 1 = true ∧
    Test.bank.mem.wf = true := by decide +kernel

/-- An access at the head of bridge 0's buffer. -/
def Test.toBridge (op : MemOp) : Msg := { dest := 8448, src := 1, vc := 0, kind := 0, body := .mem 0x200000000040 op 3 0 }
def Test.bridged (op : MemOp) : State := { Test.mapped [] with nis := [(8448, { inq := [Test.toBridge op] })] }

theorem witness_MemoryTranslation_hbm : (∀ op, Claim.First8 (Test.bridged op) (Config.srcMem 0) (Test.toBridge op) (.mem 0x200000000040 op 3 0) ∧
      (Test.bridged op).Inv ∧ (Test.toBridge op).vc = 0) ∧
    Claim.SoundHbm (Test.bridged (.load 8)) 0x200000000040 8 false ∧ Claim.SoundHbm (Test.bridged (.store [1, 2])) 0x200000000040 2 true :=
  ⟨fun _ => ⟨⟨by decide, fun h => absurd h (by decide), rfl, Nat.zero_le _, rfl⟩, rfl, rfl⟩,
    ⟨by decide, by decide +kernel, fun _ h => (List.not_mem_nil h).elim, fun _ _ => ⟨rfl, rfl⟩⟩,
    ⟨by decide, by decide +kernel, fun _ h => (List.not_mem_nil h).elim, fun _ _ => ⟨rfl, rfl⟩⟩⟩

/-- Slot 0 of core 0 has an access to page 5 in its path; the L2 TLB may hold the page. -/
def Test.acc (st : PathSt) : Acc := { va := 0x50008, bytes := 8, perm := .r, op := .mem (.load 8), apc := 0, st, cont := .load 5 8 false false }
def Test.page5 : TlbEnt := ⟨0, 5, false, 0xF201200001000000, 0x200000008000⟩
def Test.path (st : PathSt) (s : State) : State := s.modThr fun t => { t with path := [Test.acc st] }

theorem witness_MemoryTranslation_l2 : ((Test.path .l2 (Test.mapped [])).slot 0 0).path = Test.acc .l2 :: [] ∧
    (Test.path .l2 (Test.mapped [])).l2 (dieOf 0) ((Test.path .l2 (Test.mapped [])).core 0).ctxid (Test.acc .l2).va.toNat = none ∧
    ((Test.path .l2 ((Test.mapped []).modDie 0 fun d => { d with l2 := [Test.page5] })).slot 0 0).path = Test.acc .l2 :: [] ∧
    (Test.path .l2 ((Test.mapped []).modDie 0 fun d => { d with l2 := [Test.page5] })).l2 (dieOf 0) 0 (Test.acc .l2).va.toNat = some Test.page5 := by
  decide +kernel

/-- A walk that finds page 5, and one that finds no table. -/
def Test.walking (good : Bool) : State := Test.path .walk (if good then Test.table (Test.mapped []) else Test.mapped [])

theorem witness_MemoryTranslation_walks : (∀ good, ((Test.walking good).slot 0 0).path = Test.acc .walk :: [] ∧ (Test.walking good).walkers (dieOf 0) ((Test.walking good).core 0).ctxid ((Test.acc .walk).va.toNat / 65536) = [(0, 0)]) ∧
    ((Test.walking true).walk (dieOf 0) 0 (Test.acc .walk).va.toNat).2 = .inl Test.page5 ∧
    (((Test.walking true).walk (dieOf 0) 0 (Test.acc .walk).va.toNat).1.slot 0 0).path = Test.acc .walk :: [] ∧
    ((Test.walking false).walk (dieOf 0) 0 (Test.acc .walk).va.toNat).2 = .inr (0x09, 2) ∧
    (((Test.walking false).walk (dieOf 0) 0 (Test.acc .walk).va.toNat).1.slot 0 0).path = Test.acc .walk :: [] := by
  decide +kernel

/-- An invalidation of page 5 of context 0 under way. -/
def Test.inval (left : List Nat) (pend : Fmap (List Nat × Nat)) : Inv := ⟨0x50000, 0, 0, 0, ⟨0, 0, 1, 0, 0, none⟩, left, pend⟩
def Test.invalid (v : Inv) : State := (Test.mapped []).modPctl fun p => { p with invs := [v] }

theorem witness_MemoryTranslation_invalidations : (∀ v, (Test.invalid v).pctl.invs = v :: []) ∧ 8192 + 0 ∈ (Test.inval [8192, 8193] []).left ∧
    (∀ e ∈ (Test.inval [8192, 8193] []).pend, e.1 ≠ 8192 + 0) ∧ (Test.inval [8192, 8193] []).scope ≤ 2 ∧
    (Test.inval [8192] [(8192, ([], 0))]).left = [8192 + 0] ∧ (Test.inval [8192] [(8192, ([], 0))]).pend = [(8192, ([], 0))] :=
  ⟨fun _ => rfl, by decide, by decide, by decide, rfl, rfl⟩

theorem witness_SweepsSettleSets_sweep : State.reset.gtb.toNat % 3000 = 0 ∧ State.reset.pctl.sweep = none ∧ (State.reset.ni Config.srcPctl).inq = [] ∧
    (∀ c, (State.reset.core c).health.missed = 0 ∧ State.reset.answersSweep c = true) ∧ ({ State.reset with time := 1 } : State).gtb.toNat % 3000 ≠ 0 :=
  ⟨by decide, rfl, rfl, fun _ => ⟨rfl, rfl⟩, by decide⟩

/-- A sweep under way with these sums of context 0, which has this set 3, these quiet sums and these requests. -/
def Test.sums (c n f : Nat) : List Nat := [7, 7, 9, 9, 0, c, n, 0, 0, 0, f, 0, 0, 0, 0, 0, 0, 0, 0, 0, 0, 0, 0]
def Test.swept (l : List Nat) (k : Ctx) : State :=
  (Test.mapped []).modPctl fun p => { p with ctxs := [(0, k)], sweep := some { at_ := 3000, sums := [(0, l)], dealt := [] } }
def Test.asked : Ctx := { st := .running, quiet := some [7, 7, 9, 9, 0], quiesce := [⟨⟨0, 1, 4, 0, 0, none⟩, 100⟩] }
def Test.armedSet : Ctx := { st := .running, sets := (Vector.replicate 16 {}).set 3 { arm := true, nh := 2, swa := 0x10010, prev := some [7, 7, 9, 9, 0] } }

theorem witness_SweepsSettleSets_quiet : (∀ l k, (Test.swept l k).pctl.sweep = some { at_ := 3000, sums := [(0, l)], dealt := [] } ∧ (Test.swept l k).ctx 0 = k) ∧
    Test.asked.st = .running ∧ nth 0 (Test.sums 1 1 0) 0 = nth 0 (Test.sums 1 1 0) 1 ∧ nth 0 (Test.sums 1 1 0) 2 = nth 0 (Test.sums 1 1 0) 3 ∧
    nth 0 (Test.sums 1 1 0) 4 = 0 ∧ nth 0 (Test.sums 1 1 0) 5 = 1 ∧ Test.asked.quiet = some ((Test.sums 1 1 0).take 5) ∧ Test.asked.launches = [] ∧
    Test.asked.quiesce = [⟨⟨0, 1, 4, 0, 0, none⟩, 100⟩] ∧ (∀ i : Fin 16, (Test.asked.sets[i]).arm = false) ∧ nth 0 (Test.sums 0 0 0) 5 ≠ 1 :=
  ⟨fun _ _ => ⟨rfl, rfl⟩, by decide, by decide, by decide, by decide, by decide, by decide, rfl, rfl, by decide, by decide⟩

theorem witness_SweepsSettleSets_settled : Test.armedSet.st = .running ∧ nth 0 (Test.sums 0 1 1) 5 = 0 ∧ nth 0 (Test.sums 0 1 1) 6 = 1 ∧
    nth 0 (Test.sums 0 1 1) (7 + (3 : Fin 16).val) = 1 ∧ Test.armedSet.sets[(3 : Fin 16)] = { arm := true, nh := 2, swa := 0x10010, prev := some ((Test.sums 0 1 1).take 5) } ∧
    Test.armedSet.launches = [] ∧ ∀ i : Fin 16, i ≠ 3 → (Test.armedSet.sets[i]).arm = false := by decide

/-- An arming of set 3 with the settle word at 0x40010, in the PCTL's buffer. -/
def Test.toPctl (b : Body) : Msg := { dest := 0xFFFF, src := 1, vc := 0, kind := 0, body := b }
def Test.arming : State := { (Test.table ((Test.mapped []).modMe fun c => c.setSys 0x20 0x1000)) with
  nis := [(0xFFFF, { inq := [Test.toPctl (.settleArm 3 2 0x40010)] })] }

theorem witness_SweepsSettleSets_arm : Claim.Next Test.arming Config.srcPctl (Test.toPctl (.settleArm 3 2 0x40010)) (.settleArm (3 : Fin 16).val 2 0x40010) ∧
    ((Test.arming.ctx 0).sets[(3 : Fin 16)]).arm = false ∧
    ((Test.arming.takeMsg Config.srcPctl (Test.toPctl (.settleArm 3 2 0x40010))).walk 0 0 0x40010).2 = .inl ⟨0, 4, false, 0xF200100000000000, 0x200000008000⟩ ∧
    TlbEnt.check ⟨0, 4, false, 0xF200100000000000, 0x200000008000⟩ .rw .sync 0x40010 0 = .ok 0 0x100000000010 ∧
    (((Test.arming.takeMsg Config.srcPctl (Test.toPctl (.settleArm 3 2 0x40010))).walk 0 0 0x40010).1.writeOwned 0x100000000010 (toBytes 8 0) 0 0 none).2 = 0 ∧
    ((((Test.arming.takeMsg Config.srcPctl (Test.toPctl (.settleArm 3 2 0x40010))).walk 0 0 0x40010).1.writeOwned 0x100000000010 (toBytes 8 0) 0 0 none).1.core 0).waits = [] ∧
    ((Test.swept [] Test.armedSet).ctx 0).sets[(3 : Fin 16)].arm = true :=
  ⟨⟨⟨[], rfl⟩, rfl⟩, by decide +kernel, by decide +kernel, by decide +kernel, by decide +kernel, by decide +kernel, by decide⟩

/-! Cards: 8 records of context 0 over the cores of die 0, chunks of at least two, record slots from 0x40000. -/

def Test.cardWords : List Word := [0x10000, 0x30000, 0x8_0008_0002, 0x20000, 0, 0x40000, 0x400000, 0]
def Test.card : Card := { va := 0x10040, words := Test.cardWords, ctx := 0, pos := 0, lo := 0, hi := 8, nd := 2, launch := 3 }
def Test.toDie0 (b : Body) : Msg := { dest := 8192, src := 1, vc := 0, kind := 0, body := b }

/-- Die 0 with these cards and this card waiting, and a message in its buffer. -/
def Test.deals (b : Body) (cs ws : List Card) : State :=
  ({ Test.table ((Test.mapped []).modMe fun c => c.setSys 0x20 0x1000) with nis := [(8192, { inq := [Test.toDie0 b] })], time := 200000 } : State).modDie 0 fun d =>
    { d with cards := cs, waitq := ws }

theorem Test.next0 (b : Body) (cs ws : List Card) : Claim.Next (Test.deals b cs ws) (8192 + 0) (Test.toDie0 b) b := ⟨⟨[], rfl⟩, rfl⟩

theorem witness_DealersGovernor_acceptance : (∀ b cs ws, ((Test.deals b cs ws).die 0).failed = false ∧ ((Test.deals b cs ws).ctx 0).st = .running) ∧
    Claim.Next (Test.deals (.launch 0x10040 Test.cardWords) [] []) (8192 + 0) (Test.toDie0 (.launch 0x10040 Test.cardWords)) (.launch 0x10040 Test.cardWords) ∧
    ((Test.deals (.launch 0x10040 Test.cardWords) [] []).takeMsg (8192 + 0) (Test.toDie0 (.launch 0x10040 Test.cardWords))).participants 0 1 (cardDom Test.cardWords) = [(0, 6)] ∧
    (Claim.Next (Test.deals (.range Test.card) [] []) (8192 + 0) (Test.toDie0 (.range Test.card)) (.range Test.card) ∧ Test.card.lo < Test.card.hi) ∧
    ((((Test.deals (.range Test.card) [] []).modCtx 0 fun k => { k with launches := [⟨3, Test.cardWords, 0x10040, 0, [0], [0], some ⟨0, 1, 4, 0, 0, none⟩, 0⟩] }).ctx 0).launches.map
      fun y => (y.id, y.left, y.reply)) = [(3, [0], some ⟨0, 1, 4, 0, 0, none⟩)] :=
  ⟨fun _ _ _ => ⟨rfl, rfl⟩, Test.next0 _ _ _, by decide +kernel, ⟨Test.next0 _ _ _, by decide⟩, by decide +kernel⟩

/-- The card with a deal to core 1 under way; and the state after the record slot was read. -/
def Test.dealt : Card := { Test.card with target := some 1 }
def Test.dealing : State := Test.deals .credit [Test.dealt] []
def Test.slotRead : State := (Test.dealing.slotState 0 Test.dealt).1

theorem witness_DealersGovernor_deal : (Test.dealing.die 0).nextDeal (fun x => decide ((Test.dealing.ctx x).st = .running)) = some (Test.dealt, 1) ∧
    (Test.dealing.die 0).failed = false ∧ Test.dealt.target = some 1 ∧ Test.dealt.asked = none ∧ (Test.dealing.slotState 0 Test.dealt).2 = .inl (0, 0x100000000000) ∧
    (Test.slotRead.writeOwned 0x100000000000 Test.dealt.record Test.dealt.ctx 0 none).2 = 0 ∧
    ((Test.slotRead.writeOwned 0x100000000000 Test.dealt.record Test.dealt.ctx 0 none).1.ni (8192 + 0)).fenced = [] ∧
    ((Test.slotRead.writeOwned 0x100000000000 Test.dealt.record Test.dealt.ctx 0 none).1.ni (8192 + 0)).held = [] ∧
    ((Test.slotRead.writeOwned 0x100000000000 Test.dealt.record Test.dealt.ctx 0 none).1.die 0).cards = (Test.dealing.die 0).cards ∧
    ((Test.slotRead.writeOwned 0x100000000000 Test.dealt.record Test.dealt.ctx 0 none).1.die 0).waitq = [] ∧
    (Test.dealing.die 0).cards = [Test.dealt] ∧ Test.dealt.lo + Test.dealt.chunk < Test.dealt.hi ∧
    ((Test.deals .credit [] []).die 0).nextDeal (fun x => decide (((Test.deals .credit [] []).ctx x).st = .running)) = none := by
  decide +kernel

/-- The same with the record slot taken: its control word says ready. -/
def Test.taken : State := Test.dealing.modMem fun m => m.write 0x100000000038 (toBytes 8 1)

theorem witness_DealersGovernor_waits : (Test.taken.die 0).nextDeal (fun x => decide ((Test.taken.ctx x).st = .running)) = some (Test.dealt, 1) ∧
    (Test.taken.slotState 0 Test.dealt).2 = .inl (1, 0x100000000000) := by decide +kernel

theorem witness_DealersGovernor_requests : Claim.Next (Test.deals .dealReq [] []) (8192 + 0) (Test.toDie0 .dealReq) .dealReq ∧
    ((Test.deals .dealReq [] []).die 0).bestCard 0 = none ∧ ((Test.deals .dealReq [] []).die 0).dealBusy 0 = false ∧
    Claim.Next (Test.deals .dealReq [Test.card] []) (8192 + 0) (Test.toDie0 .dealReq) .dealReq ∧
    ((Test.deals .dealReq [Test.card] []).die 0).bestCard 0 = some Test.card ∧
    Claim.Next (Test.deals (.deal 0x10040) [Test.card] []) (8192 + 0) (Test.toDie0 (.deal 0x10040)) (.deal 0x10040) ∧ Test.card.va = 0x10040 ∧
    Test.card.lo + Test.card.chunk < Test.card.hi ∧ Test.card.wave = [] ∧ Test.card.target = none ∧ Test.card.lo < Test.card.hi ∧
    (∀ b cs ws, ((Test.deals b cs ws).die 0).cards = cs ∧ ((Test.deals b cs ws).die 0).waitq = ws ∧
      ((Test.deals b cs ws).ni (8192 + 0)).inq = [Test.toDie0 b]) ∧
    ((Test.deals .dealReq [Test.dealt] []).die 0).bestCard 0 = none ∧ ((Test.deals .dealReq [Test.dealt] []).die 0).dealBusy 0 = true ∧
    Test.dealt.lo < Test.dealt.hi ∧ Test.dealt.target ≠ none ∧ Test.dealt.va = 0x10040 :=
  ⟨Test.next0 _ _ _, by decide +kernel, by decide +kernel, Test.next0 _ _ _, by decide +kernel, Test.next0 _ _ _, rfl, by decide, rfl, rfl, by decide,
    fun _ _ _ => ⟨rfl, rfl, rfl⟩, by decide +kernel, by decide +kernel, by decide, by decide, rfl⟩

/-- The card waiting for its record slot since long ago, and one that rotates. -/
theorem witness_DealersGovernor_slots : { Test.card with reread := some 5 }.reread = some 5 ∧ 5 ≤ (Test.deals .credit [] []).time ∧
    ((Test.deals .credit [{ Test.card with reread := some 5 }] []).slotState 0 { Test.card with reread := some 5 }).2 = .inl (0, 0x100000000000) ∧
    Test.card.target = none ∧ Test.card.since + 150000 ≤ (Test.deals .credit [Test.card] [{ Test.card with order := 1 }]).time := by
  decide +kernel

/-! The governor of die 0: a stage's ring stands at offset 0x100 of core 0's slice, 64 words of which 7 are read. -/

def Test.stage (lo hi : Nat) (cores : BitVec 32) : Stage :=
  { en := true, ring := 0x10100, ringPa := 0x100000000100, entry := 0x10000, lo, hi, cores, unit_ := false, min := 1 }
def Test.govWords : List Word := [0x40100, 0x10000, 0x5_0014_00000003, 1]
def Test.governed (b : Body) (ss : Vector Stage 8) (g : Option Nat) : State := (Test.ringOf (Test.deals b [] []) 10 0).modDie 0 fun d =>
  { d with stages := ss, gctx := g, govAt := 2048 }
def Test.twoStages : Vector Stage 8 := ((Vector.replicate 8 {}).set 2 (Test.stage 1 5 1)).set 4 (Test.stage 12 20 6)

theorem witness_DealersGovernor_govset : (∀ b ss g, Claim.Next (Test.governed b ss g) (8192 + 0) (Test.toDie0 b) b ∧ ((Test.governed b ss g).die 0).stages = ss ∧
      ((Test.governed b ss g).die 0).gctx = g ∧ ((Test.governed b ss g).die 0).failed = false ∧ ((Test.governed b ss g).die 0).govAt ≠ 0) ∧
    (∃ j : Fin 8, j ≠ 2 ∧ (Test.twoStages[j]).en = true) ∧ (∀ j : Fin 8, j ≠ 4 → ((Test.twoStages.set 2 {})[j]).en = false) ∧
    (∀ j : Fin 8, ((Vector.replicate 8 ({} : Stage))[j]).en = false) ∧
    (((Test.governed (.govset 2 true Test.govWords) (Vector.replicate 8 {}) none).takeMsg (8192 + 0) (Test.toDie0 (.govset 2 true Test.govWords))).trDie 0 0
      (nth 0 Test.govWords 0).toNat .rw .sync).2 = .ok 0 0x100000000100 ∧
    (((Test.governed (.govset 2 true Test.govWords) (Vector.replicate 8 {}) none).takeMsg (8192 + 0) (Test.toDie0 (.govset 2 true Test.govWords))).trDie 0 0
      (nth 0 Test.govWords 0).toNat .rw .sync).1.stageOk 0 2 0 Test.govWords (stageOf Test.govWords 0x100000000100) = true :=
  ⟨fun _ _ _ => ⟨⟨⟨[], rfl⟩, rfl⟩, rfl, rfl, rfl, (by decide : (2048 : Nat) ≠ 0)⟩, by decide, by decide, by decide, by decide +kernel, by decide +kernel⟩

theorem witness_DealersGovernor_tick : ((Test.governed .credit Test.twoStages (some 0)).die 0).govAt ≤ (Test.governed .credit Test.twoStages (some 0)).time ∧
    (∀ k : Fin 8, (Test.twoStages[k]).en = decide (k = 2 ∨ k = 4)) ∧ Test.twoStages[(2 : Fin 8)] = Test.stage 1 5 1 ∧ Test.twoStages[(4 : Fin 8)] = Test.stage 12 20 6 ∧
    (((Test.governed .credit Test.twoStages (some 0)).modDie 0 fun x => { x with govAt := 201024 }).occupancy 0 (Test.stage 1 5 1)).2 = some 10 ∧
    (((Test.governed .credit Test.twoStages (some 0)).modDie 0 fun x => { x with govAt := 201024 }).occupancy 0 (Test.stage 12 20 6)).2 = some 10 ∧
    (5 ≤ 10 ∧ 10 < 20 ∧ 10 ≤ 12) ∧ (Test.stage 12 20 6).min < maskCount (Test.stage 12 20 6).cores ∧ (Test.stage 12 20 6).cores.getLsbD 2 = true ∧
    (Test.stage 12 20 6).cores = 6 := by
  decide +kernel

/-! ## Witnesses for links, fences, acceptance, pre-emption, barriers' wires, checkpoints, containment, power -/

/-- North link 13 of die 0 (to the die south of it) with this record. -/
def Test.link (x : Link) : State := (Test.mapped []).modLink 0 13 fun _ => x

theorem witness_LinksRemapFences_links : ((Test.link {}).linkOf 0 13).down = false ∧ ((Test.link {}).linkOf 0 13).training = none ∧
    ((Test.link { training := some 5 }).linkOf 0 13).training = some 5 ∧ ((Test.link { training := some 5 }).linkOf 0 13).down = false ∧
    linkHop 0 13 = some ((3, 0), (4, 0)) ∧ 3 ≤ ((Test.link { row := 3 }).linkOf 0 13).row ∧ ((Test.link { row := 3 }).linkOf 0 13).down = false := by
  decide +kernel

/-- A request alone in the PCTL's buffer; core 5 isolated. -/
def Test.asks (b : Body) : State := ({ Test.mapped [] with nis := [(0xFFFF, { inq := [Test.toPctl b] })] } : State).modHealth 5 fun h => { h with iso := true }

theorem Test.sole (b : Body) : Claim.Sole (Test.asks b) Config.srcPctl (Test.toPctl b) b := ⟨rfl, rfl⟩

theorem witness_LinksRemapFences_requests : (∀ b, (Test.asks b).pctl.fences = [] ∧ Claim.Sole (Test.asks b) Config.srcPctl (Test.toPctl b) b) ∧
    (Test.asks (.rmapset 0 5 8)).remapOk (bits (5 : Word) 12 0) (bits (8 : Word) 7 0) = true ∧
    (Test.asks (.rmapset 0 6 8)).remapOk (bits (6 : Word) 12 0) (bits (8 : Word) 7 0) = false ∧
    (Test.asks (.rmapset 1 9216 0)).mayDie (bits (9216 : Word) 13 0) = false :=
  ⟨fun b => ⟨rfl, Test.sole b⟩, by decide +kernel, by decide +kernel, by decide +kernel⟩

/-- A fence over core 5 that these agents have not acknowledged; core 0 may have a request to core 5 out. -/
def Test.fence (op : FenceOp) (left : List Nat) : Fence := ⟨op, [5], left, some ⟨0, 1, 4, 0, 0, none⟩⟩
def Test.fenced (f : Fence) (busy : Bool) : State := (((Test.mapped []).modPctl fun p => { p with fences := [f] })).modMe fun c =>
  { c with reqs := if busy then [⟨7, 0, 0, 0, { dest := 5, src := 0, vc := 0, kind := 0x10, seq := 5, body := .credit }, .done, none⟩] else [] }

theorem witness_LinksRemapFences_fences : (∀ f b, (Test.fenced f b).pctl.fences = f :: []) ∧ (Test.fence (.remap 5 8) [0]).op.isFabric = false ∧
    (Test.fence (.remap 5 8) [0]).left.contains 0 = true ∧ (Test.fenced (Test.fence (.remap 5 8) [0]) false).drained 0 [5] = true ∧
    (Test.fenced (Test.fence (.remap 5 8) [0]) true).drained 0 [5] = false ∧ (∀ op, (Test.fence op []).left = [] ∧ (Test.fence op []).op = op ∧
      (Test.fence op []).reply = some ⟨0, 1, 4, 0, 0, none⟩) ∧ (∀ f b, (Test.fenced f b).panelId = 0) :=
  ⟨fun _ _ => rfl, by decide, by decide, by decide +kernel, by decide +kernel, fun _ => ⟨rfl, rfl, rfl⟩, fun _ _ => rfl⟩

/-- A message of core 1 on its way to core 0, alone. -/
def Test.coming (vc seq : Nat) (b : Body) : Msg := { dest := 0, src := 1, vc, kind := 0, seq, body := b }
def Test.comes (m : Msg) : State := { Test.mapped [] with net := [m] }

/-- The hypotheses of `Claim.Arrives`, computed. -/
def Test.arrives (s : State) (a k : Nat) (m : Msg) : Bool :=
  (s.heads a)[k]? == some m && s.reachable m && (s.core a).health.iso == false && decide ((s.core a).ckpt.chk = none) && s.diverts a m == false

theorem Test.arrives_of {s : State} {a k : Nat} {m : Msg} (h : Test.arrives s a k m = true) : Claim.Arrives s a k m := by
  simp only [Test.arrives, Bool.and_eq_true, beq_iff_eq, decide_eq_true_eq] at h
  obtain ⟨⟨⟨⟨a, b⟩, c⟩, d⟩, e⟩ := h
  exact ⟨a, b, c, d, e⟩

theorem witness_MessagesAccepted : Claim.Arrives (Test.comes (Test.coming 0 0 (.joinDec 0x100000000100))) 0 0 (Test.coming 0 0 (.joinDec 0x100000000100)) :=
  Test.arrives_of (by decide +kernel)

theorem witness_MessagesAccepted_forms : (∀ m ∈ [Test.coming 0 0 (.joinDec 0x100000000100), Test.coming 2 0 (.push 0x40 0 4), Test.coming 2 0 (.joinDec 0x100000000100), Test.coming 0 9 (.joinDec 0x100000000100),
      Test.coming 0 9 (.steal 1), Test.coming 0 (2 ^ 22 + 5) (.mem 0x100000000100 .fetch 0 0), Test.coming 3 0 .credit], Test.arrives (Test.comes m) 0 0 m = true ∧ ((Test.comes m).ni 0).inq = [] ∧ Claim.peer (Test.comes m) 0 m = {}) ∧
    (Test.coming 0 0 (.joinDec 0x100000000100)).search = false ∧ (Test.coming 2 0 (.push 0x40 0 4)).search = false ∧
    (Test.comes (Test.coming 2 0 (.push 0x40 0 4))).creditsLate 0 (Test.coming 2 0 (.push 0x40 0 4)) = true ∧
    (Test.comes (Test.coming 2 0 (.joinDec 0x100000000100))).creditsLate 0 (Test.coming 2 0 (.joinDec 0x100000000100)) = false ∧
    (Test.coming 2 0 (.joinDec 0x100000000100)).spanel = (Test.comes (Test.coming 2 0 (.joinDec 0x100000000100))).panelId ∧
    (Test.coming 0 9 (.steal 1)).seeks = true ∧ seqGap 9 0 ≠ 0 ∧ seqGap 9 0 < 2 ^ 20 ∧ (Test.coming 0 9 (.joinDec 0x100000000100)).apart = false ∧
    (Test.coming 0 0 (.joinDec 0x100000000100)).isLine = false ∧ (Test.coming 2 0 (.push 0x40 0 4)).isLine = false ∧
    (Test.coming 0 (2 ^ 22 + 5) (.mem 0x100000000100 .fetch 0 0)).isLine = true := by decide +kernel

/-- Core 0 diverting what comes for its context. -/
def Test.diverting : State := (Test.comes (Test.coming 0 0 (.joinDec 0x100000000100))).modMe fun c => { c with diverted := true }

theorem witness_MessagesAccepted_diverted : Test.diverting.net = [Test.coming 0 0 (.joinDec 0x100000000100)] ∧ (Test.diverting.core 0).diverted = true ∧
    (Test.diverting.core 0).ctxid = 0 ∧ Test.diverting.reachable (Test.coming 0 0 (.joinDec 0x100000000100)) = true ∧ (Test.diverting.core 0).health.iso = false ∧
    (Test.diverting.core 0).ckpt.chk = none ∧ Test.diverting.saveOf 0 0 = some 0 ∧ (Fmap.get {} Test.diverting.pctl.saves 0).bad = false ∧
    ringBytes ((Fmap.get {} Test.diverting.pctl.saves 0).ring ++ [Test.coming 0 0 (.joinDec 0x100000000100)]) ≤ 262144 := by decide +kernel

/-- Context 0 in state `st`, with a waiter, and a message for the PCTL. -/
def Test.inState (st : CtxSt) (b : Body) : State := ({ Test.mapped [] with nis := [(0xFFFF, { inq := [Test.toPctl b] })] } : State).modCtx 0 fun k =>
  { k with st, place := [⟨0, 0, 0, 0, 0, 0⟩], waiter := if st = .stopping then some ⟨0, 1, 4, 0, 0, none⟩ else none }
def Test.stopped : State := (Test.inState .stopping .credit).modMe fun c => { c with stopping := some 0, diverted := true, acked := true }

theorem witness_PreemptionRestore : (∀ st b, Claim.Sole (Test.inState st b) Config.srcPctl (Test.toPctl b) b) ∧ ((Test.inState .running (.preempt 0)).ctx 0).st = .running ∧
    (((Test.inState .saved (.preempt 0)).ctx 0).st ≠ .running ∧ (Test.inState .saved (.preempt 0)).stoppingCtxs = []) ∧
    ((Test.inState .stopping .credit).stoppingCtxs = [0] ∧ (Test.inState .stopping .credit).ctxStopped 0 = false) ∧
    (Test.stopped.stoppingCtxs = [0] ∧ Test.stopped.ctxStopped 0 = true ∧ (Test.stopped.ctx 0).waiter = some ⟨0, 1, 4, 0, 0, none⟩) ∧
    (Test.inState .running (.resume 0)).canRestore 0 = false ∧ (Test.inState .saved (.resume 0)).canRestore 0 = true :=
  ⟨fun _ _ => ⟨rfl, rfl⟩, by decide +kernel, by decide +kernel, by decide +kernel, by decide +kernel, by decide +kernel, by decide +kernel⟩

/-- Barrier 1 over two rows of two cores of context 0; the signals that have come to core `l`, and its local signal. -/
def Test.wires (l : Nat) (f : Bar → Bar) : State :=
  let b : Bar := { v := true, memb := true, brect := 0x1010000 }
  (((((Test.mapped []).modBar 0 1 fun _ => b).modBar 1 1 fun _ => b).modBar 128 1 fun _ => b).modBar 129 1 fun _ => b).modBar l 1 f
def Test.brk : Option (Bool × BitVec 32) := some (false, 0x1010000)

theorem witness_BarriersCauseway_wires : (Test.wires 0 id).barReady 0 1 = false ∧
    ((Test.wires 1 fun b => { b with ls := true }).barReady 1 1 = true ∧ ((Test.wires 1 fun b => { b with ls := true }).barPlace 1 1).west = some 0) ∧
    ((Test.wires 128 fun b => { b with ls := true, east := Test.brk }).barReady 128 1 = true ∧
      ((Test.wires 128 fun b => { b with ls := true, east := Test.brk }).barPlace 128 1).west = none ∧
      ((Test.wires 128 fun b => { b with ls := true, east := Test.brk }).barPlace 128 1).above = some 0) ∧
    ((Test.wires 0 fun b => { b with ls := true, east := Test.brk, south := Test.brk }).barReady 0 1 = true ∧
      ((Test.wires 0 fun b => { b with ls := true, east := Test.brk, south := Test.brk }).barPlace 0 1).west = none ∧
      ((Test.wires 0 fun b => { b with ls := true, east := Test.brk, south := Test.brk }).barPlace 0 1).above = none) ∧
    ((Test.wires 1 fun b => { b with rel := some true }).bar 1 1).rel = some true ∧ ((Test.wires 1 id).bar 1 1).rel = none := by
  decide +kernel

/-- Slot 0 of core 0 in a BARWAIT of channel 1 whose time is over. -/
def Test.late (d : Option (Fin 16)) : State := { (Test.wires 0 fun b => { b with ls := true }) with time := 1000 }.modThr fun t =>
  { t with barw := some (1, d), state := .parked, barAt := some 900 }

theorem witness_BarriersCauseway_late : ∀ d, ((Test.late d).slot 0 0).barw = some (1, d) ∧ ((Test.late d).slot 0 0).state = .parked ∧ (∃ at_, ((Test.late d).slot 0 0).barAt = some at_ ∧ at_ ≤ (Test.late d).time) ∧
    ((Test.late d).bar 0 1).ls ≠ ((Test.late d).bar 0 1).g ∧
    ((Test.late d).core 0).flt.frozen = false :=
  fun _ => ⟨rfl, rfl, ⟨900, rfl, (by decide : 900 ≤ 1000)⟩, (by decide : true ≠ false), rfl⟩

/-- A message of core 2's alone in core 1's buffer: core 1 is the partner of core 0, which is at its CHKPT. -/
def Test.toCore (l : Nat) (b : Body) : Msg := { dest := l, src := 2, vc := 0, kind := 0, body := b }
def Test.peat (l : Nat) (b : Body) : State := ({ Test.mapped [] with nis := [(l, { inq := [Test.toCore l b] })] } : State).modMe fun c =>
  { c with ckpt := { c.ckpt with chk := some ⟨0, 5, [0x4000000000, 0, 0, 0]⟩ } }

theorem witness_CheckpointsContainment_transfers : (∀ b, Claim.Heads (Test.peat 1 b) 1 (Test.toCore 1 b) b) ∧
    (∀ b, Claim.Heads (Test.home b) 0 (Test.msg b) b) ∧ (∀ b, (Test.peat 1 b).peatWorks 0 = true) ∧
    ((Test.peat 1 (.transfer 1 0)).core 0).ckpt.chk = some ⟨0, 5, [0x4000000000, 0, 0, 0]⟩ ∧
    (((Test.peat 1 (.transfer 2 0)).modHealth 1 fun h => { h with badBanks := [0] }).peatWorks 0 = false) ∧
    ((Test.home .checkpoint).core 0).ctxid = (Test.msg .checkpoint).ctx ∧
    ((Test.home .checkpoint).modMe fun c => c.setSys 0 7).headOf 0 = some (Test.msg .checkpoint) ∧
    (((Test.home .checkpoint).modMe fun c => c.setSys 0 7).core 0).ctxid ≠ (Test.msg .checkpoint).ctx :=
  ⟨fun _ => ⟨rfl, Nat.zero_le _, rfl⟩, fun _ => ⟨rfl, Nat.zero_le _, rfl⟩, fun _ => rfl, by decide +kernel, by decide +kernel,
    by decide +kernel, by decide +kernel, by decide +kernel⟩

/-- Core 0 of a context with checkpoints, a full log whose oldest entry is for core 3, and a thread that waits for it. -/
def Test.fullLog (ask : Option Nat) (waits : Bool) : State := { ((Test.mapped []).modMe fun c => { c.setSys 0xF 1 with
    ckpt := { c.ckpt with slog := [{ dest := 3, src := 0, vc := 0, kind := 0, len := 24576, body := .credit }], ask } }).modCtx 0 fun k => { k with ckpt := true } with
  time := 5000 }.modThr fun t => { t with path := if waits then [Test.acc (.ready 0 0x200000000000)] else [] }

theorem witness_CheckpointsContainment_asks : ((Test.fullLog none true).ni 0).inq = [] ∧ ((Test.fullLog none true).core 0).ckpt.ask = none ∧
    (Test.fullLog none true).logParked 0 = true ∧
    ((Test.fullLog none true).core 0).ckpt.slog = { dest := 3, src := 0, vc := 0, kind := 0, len := 24576, body := .credit } :: [] ∧
    ((Test.fullLog (some 400) true).core 0).ckpt.ask = some 400 ∧ 400 ≤ (Test.fullLog (some 400) true).time ∧ (Test.fullLog (some 400) true).logParked 0 = true ∧
    (Test.fullLog (some 400) false).logParked 0 = false ∧ (Test.fullLog (some 9000) true).time < 9000 := by decide +kernel

/-- Core 0 in a state of containment, its context with or without checkpoints, its image good, its die with or without a spare in its row. -/
def Test.contained (c : Contain) (ckpt spare : Bool) : State :=
  ({ Test.mapped [] with peats := [(0, { vld := true, e := 4 })] }.modCtx 0 (fun k => { k with ckpt })).modHealth 0 (fun h => { h with contain := c, iso := true })
    |>.modDie 0 (fun d => { d with hmap := if spare then d.hmap else 0xFFFFFFEFF }) |>.modMem fun m => m.write 0x100000100000 (toBytes 8 0x8000000000000004)

theorem witness_CheckpointsContainment_contained :
    (Test.mapped []).present 0 = true ∧ ((Test.mapped []).core 0).health.contain = .live ∧
    ((Test.contained .isolated false true).core 0).health.contain = .isolated ∧ (Test.contained .isolated false true).usable 0 = none ∧
    ((Test.contained .isolated true false).core 0).health.contain = .isolated ∧ ((Test.contained .isolated true false).usable 0).isSome = true ∧
    (Test.contained .isolated true false).spareOf 0 = none ∧
    ((Test.contained .isolated true true).usable 0).isSome = true ∧ (Test.contained .isolated true true).spareOf 0 = some 8 := by decide +kernel

theorem witness_CheckpointsContainment_restores : ((Test.contained .substituting true true).core 0).health.contain = .substituting ∧
    (Test.contained .substituting true true).substituted 0 = true ∧ (Test.contained .substituting true true).spareFails 0 = false ∧
    ((Test.contained .substituting true true).image 0).isSome = true ∧ ((Test.contained .restoring true true).core 0).health.contain = .restoring ∧
    (Test.contained .restoring true true).spareFails 0 = false ∧ (Test.contained .replaying true true).replayed 0 = true ∧
    (Test.contained .replaying true true).spareFails 0 = false ∧ ((Test.contained .replaying true true).core 0).health.contain = .replaying ∧
    ((Test.mapped []).die 0).failed = false ∧ ((Test.mapped []).core 0).health.iso = false := by decide +kernel

/-- The PCTL with these times of the environment, context 0 saved or running. -/
def Test.heat (hold : Bool) (bad good : Option Nat) (st : CtxSt) : State := { (Test.inState st .credit).modPctl fun p =>
  { p with hold, badAt := bad, goodAt := good, held := if hold then [0] else [] } with time := 20000000000 }

theorem witness_ResetsPowerCooling : (Test.heat false (some 5) none .running).pctl.hold = false ∧ (Test.heat false (some 5) none .running).pctl.badAt = some 5 ∧
    5 + 150000000 ≤ (Test.heat false (some 5) none .running).time ∧ (Test.heat false (some 19999999999) none .running).time < 19999999999 + 150000000 ∧
    (Test.heat true none (some 5) .saved).pctl.goodAt = some 5 ∧ 5 + 15000000000 ≤ (Test.heat true none (some 5) .saved).time ∧
    (Test.heat true none (some 5) .saved).pctl.held = [0] ∧ (Test.heat true none (some 5) .saved).canRestore 0 = true ∧
    (Test.heat true none (some 19999999999) .saved).time < 19999999999 + 15000000000 := by decide +kernel

/-! ## Witnesses for the fabric, the hosts, the groups' agents, and the statements over the whole machine -/

/-- Port 3 with this state; a held message of core 0; the clock off its reference. -/
def Test.port (p : Port) : State := { (Test.mapped []).modPort 3 fun _ => p with time := 20000000 }
def Test.far : Msg := { dpanel := 9, dest := 5, src := 0, vc := 0, kind := 0, body := .credit }
def Test.holdsFar (at_ vc : Nat) : State := (Test.port {}).modFab fun f => { f with held := [⟨0, { Test.far with vc }, at_⟩] }
def Test.slews (off : Int) : State := (Test.port {}).modFab fun f => { f with refPort := some 3, offset := off }

theorem witness_FabricSide_ports : ((Test.port {}).port? 3).down = false ∧ ((Test.port {}).port? 3).training = none ∧
    ((Test.port { training := some 4 }).port? 3).training = some 4 ∧ ((Test.port { training := some 4 }).port? 3).down = false ∧
    3 ≤ ((Test.port { row := 3, q := [Test.far] }).port? 3).row ∧ ((Test.port { row := 3, q := [Test.far] }).port? 3).down = false ∧
    ((Test.holdsFar 5000000 0).fab.held.filter fun x => x.src == 0)[0]? = some ⟨0, Test.far, 5000000⟩ ∧
    (Test.holdsFar 5000000 0).time < 5000000 + 2 ^ 24 ∧
    ((Test.holdsFar 50 0).fab.held.filter fun x => x.src == 0)[0]? = some ⟨0, Test.far, 50⟩ ∧ 50 + 2 ^ 24 ≤ (Test.holdsFar 50 0).time ∧
    ((Test.holdsFar 50 2).fab.held.filter fun x => x.src == 0)[0]? = some ⟨0, { Test.far with vc := 2 }, 50⟩ ∧
    (∀ o ∈ [3, -3, 0], (Test.slews o).fab.refPort = some 3 ∧ (Test.slews o).fab.slewAt ≤ (Test.slews o).time ∧ (Test.slews o).fab.offset = o) := by
  decide +kernel

/-- A message of context 7 of panel 9 at optical bridge 0, its channel open, frozen or absent. -/
def Test.inward : Msg := { dest := 5, spanel := 9, src := 3, vc := 0, kind := 0, ctx := 7, body := .credit }
def Test.ingress (cs : Fmap ChanEnt) : State := ({ Test.mapped [] with nis := [(Config.srcOpt 0, { inq := [Test.inward] })] } : State).modFab fun f => { f with chans := cs }

theorem witness_FabricSide_ingress : (∀ cs, ((Test.ingress cs).ni (Config.srcOpt 0)).inq = [Test.inward]) ∧
    (Test.ingress [(4, ⟨true, false, 9, 7, 0⟩)]).channelOf Test.inward = some ⟨true, false, 9, 7, 0⟩ ∧
    (Test.ingress [(4, ⟨true, true, 9, 7, 0⟩)]).channelOf Test.inward = some ⟨true, true, 9, 7, 0⟩ ∧ (Test.ingress []).channelOf Test.inward = none :=
  ⟨fun _ => rfl, by decide, by decide, by decide⟩

/-- A fence over panel 9 under way; core 0 may have a request to it out. -/
def Test.fabFence (left : List Nat) : Fence := ⟨.fabric 9 6, [9], left, some ⟨0, 1, 4, 0, 0, none⟩⟩
def Test.fabFenced (left : List Nat) (busy : Bool) : State := ((Test.mapped []).modPctl fun p => { p with fences := [Test.fabFence left] }).modMe fun c =>
  { c with reqs := if busy then [⟨7, 0, 0, 0, Test.far, .done, none⟩] else [] }

theorem witness_FabricSide_fences : Claim.Sole (Test.asks (.fremap 9 6)) Config.srcPctl (Test.toPctl (.fremap 9 6)) (.fremap 9 6) ∧ (Test.asks (.fremap 9 6)).pctl.fences = [] ∧
    (∀ l b, (Test.fabFenced l b).pctl.fences = Test.fabFence l :: [] ∧ (Test.fabFence l).op = .fabric 9 6 ∧ (Test.fabFence l).left = l) ∧
    (Test.fabFenced [0] false).drainedFar 0 9 = true ∧ (Test.fabFenced [0] true).drainedFar 0 9 = false ∧ Config.srcOpt 0 ≤ Config.srcOpt 3 ∧ 0 < Config.srcOpt 0 :=
  ⟨⟨rfl, rfl⟩, rfl, fun _ _ => ⟨rfl, rfl, rfl⟩, by decide, by decide, by decide, by decide⟩

/-- Queue pair 16 of context 0 with the key of index 2 over page 5, and a ring at 0x40100. -/
def Test.qp (frz : Bool) : Qp := { v := true, frz, ring := 0x40100 }
def Test.key (v : Bool) : Key := { v, r := true, w := true, ctx := 0, ktag := 1, base := 0x50000, len := 64 }
def Test.hosted (frz : Bool) (v : Bool) (resv : Nat) : State :=
  (Test.ringOf (Test.table ((Test.mapped []).modMe fun c => c.setSys 0x20 0x1000)) 1 resv).modFab fun f =>
    { f with qps := [(0, Test.qp frz)], keys := [(2, Test.key v)] }
def Test.rkey : BitVec 32 := 8194

theorem Test.opens (w : Bool) (n : Nat) (h : n = 8) : Claim.Opens (Test.hosted false true 2) 16 (Test.qp false) Test.rkey 0x50000 n w := by
  subst h
  refine ⟨by decide +kernel, rfl, by decide +kernel, by decide +kernel, by decide +kernel, by decide, by cases w <;> decide +kernel, by decide +kernel, ?_⟩
  intro x hx panel pa ht
  have e : hostParts 0x50000 8 = [(0x50000, 8)] := by decide +kernel
  rw [e, List.mem_singleton] at hx
  subst hx
  have k : ((Test.hosted false true 2).hostTr (Test.qp false).bridge (Test.qp false).ctx 0x50000 (if w then .w else .r)).2 = .ok 0 0x200001000000 := by
    cases w <;> decide +kernel
  have z := k.symm.trans ht
  injection z with z1 z2
  rw [← z1, ← z2]
  cases w <;> decide +kernel

theorem witness_HostSide_transfers : (Claim.transfer (Test.hosted false true 2) (Test.qp false) 0x50000 8 (some [1, 2, 3, 4, 5, 6, 7, 8])).bad = none ∧
    (Claim.transfer (Test.hosted false true 2) (Test.qp false) 0x50000 8 (some [1, 2, 3, 4, 5, 6, 7, 8])).wait = [] ∧
    (Claim.transfer (Test.hosted false true 2) (Test.qp false) 0x50000 8 none).bad = none ∧
    (Claim.transfer (Test.hosted false true 2) (Test.qp false) 0x50000 8 none).wait = [] ∧
    (Claim.transfer ((Test.hosted false true 2).modMem fun m => m.write 0x200000008028 (toBytes 8 0)) (Test.qp false) 0x50000 8 none).bad.isSome = true ∧
    ((Test.hosted false true 2).hostTr 0 0 0x50000 .w).2 = .ok 0 0x200001000000 ∧
    (((Test.hosted false true 2).hostTr 0 0 0x50000 .w).1.hostAccess 0x200001000000 (.store [1, 2, 3, 4, 5, 6, 7, 8]) 0).2 = {} ∧
    (((Test.hosted false true 2).hostTr 0 0 0x50000 .r).1.hostAccess 0x200001000000 (.load 8) 0).2.cause = 0 ∧
    (Test.hosted false false 2).hostQp 16 = some (Test.qp false) ∧ (Fmap.get {} (Test.hosted false false 2).fab.keys (Test.rkey.toNat % 8192)).v = false ∧
    (Test.hosted true true 2).hostQp 16 = some (Test.qp true) := by decide +kernel

/-- The same with its reservation of 32 slots made, of which nothing or all is used. -/
def Test.reserved32 (used : Nat) : State := ((Test.hosted false true 32).modQp 16 fun q => { q with rsv := 32 }).modMe fun c =>
  { c with links := { c.links with rings := [(0x100000000100, List.replicate used (0, 16, 16))] } }
def Test.qp32 : Qp := { Test.qp false with rsv := 32 }

theorem witness_HostSide_sends : (Test.reserved32 0).hostQp 16 = some Test.qp32 ∧ ((Test.reserved32 0).qpRing Test.qp32).2 = .inl 0x100000000100 ∧
    (((Test.reserved32 0).qpRing Test.qp32).1.core 0).health.iso = false ∧ (((Test.reserved32 0).qpRing Test.qp32).1.core 0).stoppedFor Test.qp32.ctx = false ∧
    ((Test.reserved32 0).ctx Test.qp32.ctx).st = .running ∧
    (((Test.reserved32 0).qpRing Test.qp32).1.reserveQp 16).ringGathered 0x100000000100 ((((Test.reserved32 0).qpRing Test.qp32).1.reserveQp 16).ringWords
      0x100000000100 ((((Test.reserved32 0).qpRing Test.qp32).1.reserveQp 16).ringTail 0x100000000100) 2) = false ∧
    ((((Test.reserved32 0).qpRing Test.qp32).1.reserveQp 16).ringCheck 0x100000000100 Test.qp32.ctx 0 true ((((Test.reserved32 0).qpRing Test.qp32).1.reserveQp
      16).ringWords 0x100000000100 ((((Test.reserved32 0).qpRing Test.qp32).1.reserveQp 16).ringTail 0x100000000100) 2)).2 = 0 ∧
    (((Test.reserved32 0).qpRing Test.qp32).1.reserveQp 16).hostHeld 16 0x100000000100 + 1 + 8 / 8 ≤
      ((((Test.reserved32 0).qpRing Test.qp32).1.reserveQp 16).qp 16).rsv ∧
    ((((Test.reserved32 31).qpRing Test.qp32).1.reserveQp 16).qp 16).rsv <
      (((Test.reserved32 31).qpRing Test.qp32).1.reserveQp 16).hostHeld 16 0x100000000100 + 1 + 8 / 8 ∧
    ((Test.hosted false true 2).qpRing { Test.qp false with ring := 0x60000 }).2 = .inr 3 ∧ (Test.hosted false true 2).ethLive 3 = true ∧
    ((Test.hosted false true 2).modFab fun f => { f with eth := f.eth.set 3 false }).ethLive 3 = false ∧ (Test.hosted false true 2).fab.hostBad[0]? = some false := by
  decide +kernel

/-- A group at offset 0x4000 of core 0's slice: one member, CCN 1 of context 0; and a message to its anchor. -/
def Test.group : GroupRec := { gen := 2, nm := 1, coll := 5, nst := 0, mems := 0x8000000000000001 :: List.replicate 255 0 }
def Test.anchor (b : Body) : State := (Test.home b).modMem fun m =>
  { m with bytes := [(0x100000004000, 2), (0x100000004004, 1), (0x10000000400C, 5), (0x100000004040, 1), (0x100000004047, 0x80)] }
def Test.anchored (b : Body) : State × (GroupRec ⊕ Resp) := ((Test.anchor b).takeMsg 0 (Test.msg b)).readGroup 0x100000004000 0 0

theorem witness_GroupsCollectives_record : (Test.anchored (.group 0x100000004000 (.coll 1))).2 = .inl Test.group ∧ ∀ b, (Test.anchor b).headMsg 0 = some (Test.msg b) :=
  ⟨by decide +kernel, fun _ => rfl⟩

theorem witness_GroupsCollectives_requests : Test.group.join (0 * 2 ^ 28 + 1) 0x5000 = .inr 1 ∧ (∃ x, Test.group.join (0 * 2 ^ 28 + 2) 0x5000 = .inl x) ∧
    Test.group.leave (0 * 2 ^ 28 + 2) = .inr 3 ∧ (∃ x i, Test.group.leave (0 * 2 ^ 28 + 1) = .inl (x, i)) ∧ (∃ x, Test.group.admission (0 * 2 ^ 28 + 1) = some x) ∧
    { Test.group with mems := [0x8000000000000001, 0xC000000000000002] }.admission (0 * 2 ^ 28 + 2) = none :=
  ⟨by decide +kernel, ⟨_, rfl⟩, by decide +kernel, ⟨_, _, rfl⟩, ⟨_, rfl⟩, by decide +kernel⟩

/-- A partial result of the group's collective for core 0, and core 0's own collective whose result has been sent up. -/
def Test.part : GPart := ⟨0x100000004000, [0x8000000000000001], 0, 0, .bar, true, false, 0, []⟩
def Test.coll : Coll := { key := 0x100000004000, slot := 3, op := .bar, d := none, tag := 0, vals := [], tab := [0x8000000000000001], idx := some 0, sent := true }
def Test.member (b : Body) : State := (Test.home b).modMe fun c => { c with colls := [Test.coll] }

theorem witness_GroupsCollectives_tree : Claim.Head (Test.home (.groupPart Test.part)) 0 (Test.msg (.groupPart Test.part)) (.groupPart Test.part) ∧
    (∀ k ∈ ((Test.home (.groupPart Test.part)).core 0).colls, k.key ≠ Test.part.key) ∧
    (Test.anchored (.groupReport 0x100000004000 Test.part)).2 = .inl Test.group ∧
    Claim.Head (Test.member (.groupDown Test.part)) 0 (Test.msg (.groupDown Test.part)) (.groupDown Test.part) ∧
    (((Test.member (.groupDown Test.part)).core 0).colls.find? fun x => x.key == Test.part.key && x.sent) = some Test.coll ∧
    childrenOf Test.part.to_ Test.coll.tab.length = [] ∧ Test.coll.slot < 16 ∧ Test.part.ok = true ∧ ({ Test.part with ok := false } : GPart).ok = false :=
  ⟨⟨rfl, Nat.zero_le _, rfl⟩, fun _ h => (List.not_mem_nil h).elim, by decide +kernel, ⟨rfl, Nat.zero_le _, rfl⟩, by decide, by decide, by decide, rfl, rfl⟩

theorem witness_ScalarFrame : Claim.scalar (.add Test.a3) = true ∧ (∀ r ∈ (Instr.add Test.a3).uses.rx ++ (Instr.add Test.a3).uses.wx, (Test.st []).thr.bind r = none) ∧
    Test.after (.add Test.a3) (Test.st []) (fun t => t.thr.ctl == .seq) = true := by decide

theorem witness_HomeFrame : Test.accesses (Test.access (.load 8)) 8 (.load 8) = true ∧ (MemOp.load 8).bytes.1 = 8 ∧ 0x100000000100 % 8 = 0 ∧
    Test.after (.loadHandler 0) (Test.access (.load 8)) (fun _ => true) = true := by decide +kernel

/-- x2 bound to private queue 1, as a consumer or a producer, with these words in it. -/
def Test.queued (push : Bool) (ws : List QWord) : State := ((Test.st []).modThr fun t => t.setBind 25 (some ⟨.pqF 1, push, false, 0, 0⟩)).modMe fun c =>
  { c with links := { c.links with pqF := c.links.pqF.set 1 ws } }

theorem witness_BoundRegisters : (∀ r : Fin 32, (Test.queued false [⟨9, false⟩]).thr.regs.xp[r].n = 0) ∧ (∀ r : Fin 32, (Test.queued true []).thr.regs.xp[r].n = 0) ∧
    (∀ k : Fin 16, ((Test.queued false [⟨9, false⟩]).slot 0 k).late = []) ∧ (Test.queued false []).thr.bind 25 = some ⟨.pqF 1, false, false, 0, 0⟩ ∧
    (Test.queued true []).thr.bind 25 = some ⟨.pqF 1, true, false, 0, 0⟩ ∧ (Test.queued true []).thr.bind 5 = none ∧
    (Test.queued false [⟨9, false⟩]).me.links.pqF[(1 : Fin 4)] = ⟨9, false⟩ :: [] ∧ (Test.queued false []).me.links.pqF[(1 : Fin 4)] = [] ∧
    (Test.queued true []).me.vecMemQueued 0 = false ∧ (Test.queued false []).me.vecMemQueued 0 = false ∧
    32 ≤ (Test.queued true (List.replicate 32 ⟨0, false⟩)).me.links.pqF[(1 : Fin 4)].length ∧ (Test.queued true []).me.links.pqF[(1 : Fin 4)].length < 32 := by
  decide +kernel

/-- Slot 0 of core 0 at the head of a line, its turn next on the agenda. -/
def Test.runs (v : Vec) : State := { (Test.st []).modMe fun c => { c with lines := [{ va := 0, data := v }] } with agenda := [.issue 0 false] }

/-- A line of two paired NOPs. -/
def Test.pair : Vec := BitVec.ofNat 512 (0x010000000000000000000000 + 0x010000000000000000000000 * 2 ^ 96 + 0x30420 * 2 ^ 480)

/-- The hypotheses of an issue of slot 0 of core 0, computed. -/
def Test.issues (s : State) (v : Vec) : Bool :=
  decide ((s.core 0).portAt ≠ some s.time) && s.workerTurn 0 == some 0 && (s.core 0).line? (s.slot 0 0).pc == some { va := 0, data := v } &&
  decide (lineIllegal v = none) && sparOk v (slotIdx (s.slot 0 0).pc) && (s.slot 0 0).fresh == false

theorem Test.issue_of {s : State} {v : Vec} (h : Test.issues s v = true) : Claim.Turn s 0 false 0 ∧ (s.core 0).line? (s.slot 0 0).pc = some { va := 0, data := v } ∧
    Claim.Legal s 0 0 { va := 0, data := v } := by
  simp only [Test.issues, Bool.and_eq_true, beq_iff_eq, decide_eq_true_eq] at h
  obtain ⟨⟨⟨⟨⟨p, a⟩, b⟩, d⟩, e⟩, f⟩ := h
  exact ⟨.inl ⟨rfl, p, a⟩, b, ⟨by simp [Line.badAt], e, d, fun x => by rw [f] at x; cases x⟩⟩

/-- The state in which the worker port of core 0 finds the slots. -/
def Test.turned (v : Vec) : State := State.recheckCore { Test.runs v with agenda := [] } 0

theorem witness_StepRunsDecoded : Claim.Turn (Test.turned Test.nopLine) 0 false 0 ∧
    ((Test.turned Test.nopLine).core 0).line? ((Test.turned Test.nopLine).slot 0 0).pc = some { va := 0, data := Test.nopLine } ∧
    Claim.Legal (Test.turned Test.nopLine) 0 0 { va := 0, data := Test.nopLine } := Test.issue_of (by decide +kernel)

theorem witness_StepRunsDecoded_forms : (Test.runs Test.nopLine).stopped = false ∧ (Test.runs Test.nopLine).agenda = .issue 0 false :: [] ∧
    pairFirst (linePair Test.nopLine) 0 = false ∧ decode (lineSlot Test.nopLine 0) = .ok (.nop Test.g) ∧
    Test.issues (Test.turned Test.pair) Test.pair = true ∧ pairFirst (linePair Test.pair) 0 = true ∧ sparOk Test.pair (0 + 1) = true ∧
    decode (lineSlot Test.pair (0 + 1)) = .ok (.nop Test.g) ∧ (Test.runs Test.pair).me.pairOk 0 (.nop Test.g) (.nop Test.g) = true ∧
    Test.issues (Test.turned (oneLine 0)) (oneLine 0) = true ∧ decode (lineSlot (oneLine 0) 0) = .error .reservedOp ∧
    (State.reset.recheckCore 0).workerTurn 0 = none :=
  ⟨rfl, rfl, by decide +kernel, rfl, by decide +kernel, by decide +kernel, by decide +kernel, rfl, by decide +kernel, by decide +kernel, rfl, by decide +kernel⟩

theorem witness_DecodeEncode : (Instr.mmaSpga ⟨3, true⟩ 0 2 3 ⟨true, false, true⟩ 2 32 1 64).wf = true := by decide

theorem witness_StepKeepsInv : State.reset.Inv ∧ ∃ t, step (Test.runs Test.nopLine) = .next t := ⟨rfl, _, rfl⟩

theorem witness_NopHasNoEffect : (Test.st []).thr.gate Test.g = some true := by decide

/-- SLL x5, x7, 64 in a line: a shift amount that is out of range. -/
theorem witness_ShiftAmounts : Test.issues (Test.turned (oneLine 0x150714700000000000000040)) (oneLine 0x150714700000000000000040) = true ∧
    lineSlot (oneLine 0x150714700000000000000040) 0 = Claim.word 0x15 7 Test.g 5 7 64 ∧ Test.ready (Test.st []) (Instr.sra ⟨Test.g, true, 1, 2, .imm 31⟩).uses = true ∧
    Test.ready (Test.st []) (Instr.sll ⟨Test.g, false, 1, 2, .imm 63⟩).uses = true ∧ Test.ready (Test.st []) (Instr.srl ⟨Test.g, false, 1, 2, .reg 3⟩).uses = true := by
  decide +kernel

theorem witness_LoadsItsImmediate : (Test.st []).Ready (Instr.li Test.g 7 5).uses := Test.ready_of (by decide)

theorem witness_TestWritesGuard : (Test.st []).Ready (Instr.tst Test.g false 1 2 (.reg 3)).uses ∧ (Test.st []).Ready (Instr.tst Test.g true 1 2 (.imm 3)).uses :=
  ⟨Test.ready_of (by decide), Test.ready_of (by decide)⟩

end Sys2Proof
end

section
/-! PROOF. The faults that come before an instruction's own (R4, R52): an instruction of no engine queue passes the tests of
`State.gate` before its effect, so each fault is the answer of one test, and what the effect is does not matter. -/

namespace Sys2Proof.Machine

/-! ## The tests of the executing thread at the start of its instruction -/

@[simp] theorem State.begin_thr_gate (s : State) (gd : Guard) : s.begin.thr.gate gd = s.thr.gate gd := by
  simp [Slot.gate, Slot.guard]

@[simp] theorem State.begin_thr_unsync (s : State) (u : Uses) : s.begin.thr.unsync u = s.thr.unsync u := by
  simp [Slot.unsync]

theorem State.gate_of_below {s : State} {u : Uses} (h : s.me.level < u.lvl) :
    s.gate u = .stop (.fault ⟨0x04, 0, 0⟩) := by
  rw [State.gate, if_pos h]

theorem State.gateEng_of_below {s : State} {u : Uses} (h : s.me.level < u.lvl) :
    s.gateEng u = .stop (.fault ⟨0x04, 0, 0⟩) := by
  rw [State.gateEng, if_pos h]

theorem State.gate_of_unsync {s : State} {u : Uses} {info : Word} (hl : u.lvl ≤ s.me.level)
    (hg : s.thr.gate u.gd = some true) (hu : s.thr.unsync u = some info) :
    s.gate u = .stop (.fault ⟨0x05, info, 0⟩) := by
  simp only [State.gate, if_neg (Nat.not_lt.2 hl), hg, hu]

/-- An instruction of no engine queue may touch no register with a result on its way, whichever producer will deliver it: the
search for such registers stops at one of them. -/
theorem Slot.unsync_of_pending {t : Slot} {u : Uses} {r : Fin 32} (he : u.eng = none) (hr : r ∈ u.rx ++ u.wx)
    (h0 : r ≠ 0) (hn : t.regs.xp[r].n ≠ 0) :
    ∃ q : Fin 32, q ∈ u.rx ++ u.wx ∧ t.regs.xp[q].n ≠ 0 ∧ t.unsync u = some (unsyncInfo 0 q.val) := by
  have hfound : ((u.rx ++ u.wx).find? fun (x : Fin 32) => x != 0 && t.regs.xp[x].foreign u.eng).isSome := by
    rw [List.find?_isSome]
    exact ⟨r, hr, by simpa [Pend.foreign, he, h0] using hn⟩
  obtain ⟨q, hq⟩ := Option.isSome_iff_exists.1 hfound
  have hforeign := List.find?_some hq
  refine ⟨q, List.mem_of_find?_eq_some hq, ?_, by rw [Slot.unsync, hq]⟩
  simp only [Pend.foreign, Bool.and_eq_true, bne_iff_ne] at hforeign
  exact hforeign.2.1

/-! ## What a fault of the tests comes to -/

/-- Causes that a bound ring alone gives at issue: its home decides them, and one of them poisons its word (R119, R191). -/
def ringCause (cause : Nat) : Bool := cause == 0x0D || cause == 0x30 || cause == 0x31

theorem State.stopAt_fault {s : State} {u : Uses} {c : Cause} (h : ringCause c.cause = false) :
    s.stopAt u (.fault c) = s.takeFault c := by
  have hne : c.cause ≠ 0x30 := by
    intro he
    simp [ringCause, he] at h
  have hhome : (c.cause == 0x0D || c.cause == 0x30 || c.cause == 0x31) = false := h
  simp only [State.stopAt, State.checked, if_neg hne, State.stopWith, State.stopFault, hhome, State.takeFault]

theorem State.run_of_fault {s : State} {i : Instr} {c : Cause} (k : State → State)
    (hg : s.begin.gate i.uses = .stop (.fault c)) (hc : ringCause c.cause = false) :
    s.run i k = .next (s.begin.takeFault c) := by
  simp only [State.run, State.issue, hg, State.stopAt_fault hc]

theorem State.vecIssue_of_fault {s : State} {i : Instr} {c : Cause} (k : State → CmdGuard → State)
    (hg : s.begin.gateEng (s.begin.usesOf i) = .stop (.fault c)) (hc : ringCause c.cause = false) :
    s.vecIssue i k = .next (s.begin.takeFault c) := by
  simp only [State.vecIssue, hg, State.stopAt_fault hc]

theorem State.run_of_below {s : State} {i : Instr} (k : State → State) (h : s.me.level < i.uses.lvl) :
    s.run i k = .next (s.begin.takeFault ⟨0x04, 0, 0⟩) :=
  State.run_of_fault k (State.gate_of_below (by rwa [State.begin_level])) rfl

theorem State.vecIssue_of_below {s : State} {i : Instr} (k : State → CmdGuard → State)
    (h : s.me.level < (s.begin.usesOf i).lvl) : s.vecIssue i k = .next (s.begin.takeFault ⟨0x04, 0, 0⟩) :=
  State.vecIssue_of_fault k (State.gateEng_of_below (by rwa [State.begin_level])) rfl

/-! ## Which instructions are issued so -/

/-- An instruction of no engine queue: no queue delivers its results, and its meaning is the tests of `State.gate`, then one effect. -/
structure Runs (i : Instr) : Prop where
  noQueue : i.uses.eng = none
  effect  : ∃ k : State → State, ∀ s, exec i s = s.run i k

theorem runs_of_scalar {i : Instr} (h : Claim.scalar i = true) : Runs i := by
  cases i with
  | nop | add | sub | and | or | xor | sll | srl | sra | slt | sltu | mul | mulh | mulhm | mulhu | div | divu | rem | remu
  | min | max | minu | maxu | clz | ctz | cpop | li | addpc | cmp | tst | glog | grd | gwr | rdtime | getid | stealdom | rdsys =>
    exact ⟨rfl, _, fun _ => rfl⟩
  | _ => cases h

theorem runs_of_pathOrControl {i : Instr} (h : Claim.pathOrControl i = true) : Runs i := by
  cases i with
  | j | jal | jr | jalr | br | brF | loop | loopi | loopx | trap | brk | supcall | wrsys | sleepuntil | fork | spawn | joindec
  | suspend | suspendJ | await | yield | exit | waitev | sigev | ld | ldu | st | ldAcq | stRel | ldw | ldt | stf | stw | lrq
  | scq | relq | amo | fence | fenceEng | fenceI =>
    exact ⟨rfl, _, fun _ => rfl⟩
  | _ => cases h

/-- Of the privileged instructions BNDSET alone is a command of the vector queue. -/
theorem runs_or_bndset_of_privileged {i : Instr} (h : Claim.privileged i = true) :
    Runs i ∨ ∃ gd k clr mode s1, i = .bndset gd k clr mode s1 := by
  cases i with
  | wrsys | rdsys | cxtbl | cntclr | govset | preempt | resume | rdhmap | rdlpt | quiesce | tlbinv | rmapsetRemap
  | rmapsetMarkDead | rmapsetClearDead | fremap => exact .inl ⟨rfl, _, fun _ => rfl⟩
  | bndset gd k clr mode s1 => exact .inr ⟨gd, k, clr, mode, s1, rfl⟩
  | _ => cases h

theorem exec_bndset (s : State) (gd : Guard) (k : Fin 16) (clr : Bool) (mode : BitVec 2) (s1 : Fin 32) :
    exec (.bndset gd k clr mode s1) s =
      s.vecIssue (.bndset gd k clr mode s1) fun s g => s.pushVec (.bndset gd k clr mode s1) g 0 0 := rfl

theorem State.usesOf_bndset (s : State) (gd : Guard) (k : Fin 16) (clr : Bool) (mode : BitVec 2) (s1 : Fin 32) :
    s.usesOf (.bndset gd k clr mode s1) = (Instr.bndset gd k clr mode s1).uses := rfl

theorem privilegeFaults : Part.PrivilegeFaults := by
  intro i s hp hl
  obtain ⟨-, k, hk⟩ | ⟨gd, n, clr, mode, s1, rfl⟩ := runs_or_bndset_of_privileged hp
  · rw [hk, State.run_of_below k hl]
  · rw [exec_bndset, State.vecIssue_of_below _ (by rwa [State.usesOf_bndset])]

theorem unsynchronisedFaults : Part.UnsynchronisedFaults := by
  intro i s r hi hl hg hr h0 hn
  obtain ⟨hq, k, hk⟩ : Runs i := hi.elim runs_of_scalar runs_of_pathOrControl
  obtain ⟨q, hmem, hqn, hu⟩ := Slot.unsync_of_pending hq hr h0 hn
  have hgate : s.begin.gate i.uses = .stop (.fault ⟨0x05, unsyncInfo 0 q.val, 0⟩) :=
    State.gate_of_unsync (by rwa [State.begin_level]) (by rwa [State.begin_thr_gate]) (by rwa [State.begin_thr_unsync])
  refine ⟨q, hmem, hqn, ?_⟩
  rw [hk, State.run_of_fault k hgate rfl, unsyncInfo, Nat.zero_add, word]

/-- Settles O6: each fault is the answer of the tests at issue, by their order in `State.gate` and `State.gateEng`. -/
theorem issueFaults : Obligations.IssueFaults := ⟨privilegeFaults, unsynchronisedFaults⟩

end Sys2Proof.Machine
end

section
/-! PROOF. The round trip of the encoding (R53-R60), and words of the spec's own encodings. -/

namespace Sys2Proof

/-- Settles O52: the round trip of each constructor is its own law; the steps of other agents are not well formed. -/
theorem decodeEncode : Obligations.DecodeEncode := by
  intro i h
  cases i with
  | nop => exact Laws.RoundTrip.nop _ h
  | j => exact Laws.RoundTrip.j _ _ h
  | jal => exact Laws.RoundTrip.jal _ _ _ h
  | jr => exact Laws.RoundTrip.jr _ _ h
  | jalr => exact Laws.RoundTrip.jalr _ _ _ h
  | br => exact Laws.RoundTrip.br _ _ _ h
  | brF => exact Laws.RoundTrip.brF _ _ _ h
  | loop => exact Laws.RoundTrip.loop _ _ _ _ h
  | loopi => exact Laws.RoundTrip.loopi _ _ _ _ h
  | loopx => exact Laws.RoundTrip.loopx _ _ _ _ _ _ h
  | trap => exact Laws.RoundTrip.trap _ _ h
  | brk => exact Laws.RoundTrip.brk _ _ h
  | supcall => exact Laws.RoundTrip.supcall _ _ h
  | rdsys => exact Laws.RoundTrip.rdsys _ _ _ h
  | wrsys => exact Laws.RoundTrip.wrsys _ _ _ h
  | rdtime => exact Laws.RoundTrip.rdtime _ _ h
  | sleepuntil => exact Laws.RoundTrip.sleepuntil _ _ _ h
  | add => exact Laws.RoundTrip.add _ h
  | sub => exact Laws.RoundTrip.sub _ h
  | and => exact Laws.RoundTrip.and _ h
  | or => exact Laws.RoundTrip.or _ h
  | xor => exact Laws.RoundTrip.xor _ h
  | sll => exact Laws.RoundTrip.sll _ h
  | srl => exact Laws.RoundTrip.srl _ h
  | sra => exact Laws.RoundTrip.sra _ h
  | slt => exact Laws.RoundTrip.slt _ h
  | sltu => exact Laws.RoundTrip.sltu _ h
  | mul => exact Laws.RoundTrip.mul _ h
  | mulh => exact Laws.RoundTrip.mulh _ h
  | mulhm => exact Laws.RoundTrip.mulhm _ h
  | mulhu => exact Laws.RoundTrip.mulhu _ h
  | div => exact Laws.RoundTrip.div _ h
  | divu => exact Laws.RoundTrip.divu _ h
  | rem => exact Laws.RoundTrip.rem _ h
  | remu => exact Laws.RoundTrip.remu _ h
  | min => exact Laws.RoundTrip.min _ h
  | max => exact Laws.RoundTrip.max _ h
  | minu => exact Laws.RoundTrip.minu _ h
  | maxu => exact Laws.RoundTrip.maxu _ h
  | clz => exact Laws.RoundTrip.clz _ h
  | ctz => exact Laws.RoundTrip.ctz _ h
  | cpop => exact Laws.RoundTrip.cpop _ h
  | li => exact Laws.RoundTrip.li _ _ _ h
  | addpc => exact Laws.RoundTrip.addpc _ _ _ h
  | cmp => exact Laws.RoundTrip.cmp _ _ _ _ _ _ h
  | tst => exact Laws.RoundTrip.tst _ _ _ _ _ h
  | glog => exact Laws.RoundTrip.glog _ _ _ _ _ h
  | grd => exact Laws.RoundTrip.grd _ _ h
  | gwr => exact Laws.RoundTrip.gwr _ _ _ h
  | fork => exact Laws.RoundTrip.fork _ _ _ _ _ _ h
  | spawn => exact Laws.RoundTrip.spawn _ _ _ _ _ _ _ h
  | joindec => exact Laws.RoundTrip.joindec _ _ h
  | suspend => exact Laws.RoundTrip.suspend _ h
  | suspendJ => exact Laws.RoundTrip.suspendJ _ _ h
  | await => exact Laws.RoundTrip.await _ _ h
  | yield => exact Laws.RoundTrip.yield _ h
  | exit => exact Laws.RoundTrip.exit _ h
  | stealdom => exact Laws.RoundTrip.stealdom _ _ h
  | getid => exact Laws.RoundTrip.getid _ _ _ h
  | waitev => exact Laws.RoundTrip.waitev _ _ _ _ h
  | sigev => exact Laws.RoundTrip.sigev _ _ _ h
  | ld => exact Laws.RoundTrip.ld _ h
  | ldu => exact Laws.RoundTrip.ldu _ h
  | st => exact Laws.RoundTrip.st _ h
  | ldAcq => exact Laws.RoundTrip.ldAcq _ h
  | stRel => exact Laws.RoundTrip.stRel _ h
  | ldw => exact Laws.RoundTrip.ldw _ h
  | ldt => exact Laws.RoundTrip.ldt _ h
  | stf => exact Laws.RoundTrip.stf _ h
  | stw => exact Laws.RoundTrip.stw _ h
  | lrq => exact Laws.RoundTrip.lrq _ h
  | scq => exact Laws.RoundTrip.scq _ h
  | relq => exact Laws.RoundTrip.relq _ h
  | amo => exact Laws.RoundTrip.amo _ _ _ _ _ _ _ _ _ h
  | fence => exact Laws.RoundTrip.fence _ h
  | fenceEng => exact Laws.RoundTrip.fenceEng _ h
  | fenceI => exact Laws.RoundTrip.fenceI _ h
  | vadd => exact Laws.RoundTrip.vadd _ h
  | vsub => exact Laws.RoundTrip.vsub _ h
  | vmul => exact Laws.RoundTrip.vmul _ h
  | vfma => exact Laws.RoundTrip.vfma _ _ h
  | vmin => exact Laws.RoundTrip.vmin _ h
  | vmax => exact Laws.RoundTrip.vmax _ h
  | vabs => exact Laws.RoundTrip.vabs _ h
  | vneg => exact Laws.RoundTrip.vneg _ h
  | vand => exact Laws.RoundTrip.vand _ _ _ _ h
  | vor => exact Laws.RoundTrip.vor _ _ _ _ h
  | vxor => exact Laws.RoundTrip.vxor _ _ _ _ h
  | vshl => exact Laws.RoundTrip.vshl _ _ _ _ h
  | vshr => exact Laws.RoundTrip.vshr _ _ _ _ _ h
  | vcmp => exact Laws.RoundTrip.vcmp _ _ _ _ _ h
  | vsel => exact Laws.RoundTrip.vsel _ _ _ _ _ h
  | vperm => exact Laws.RoundTrip.vperm _ _ _ _ h
  | vslide => exact Laws.RoundTrip.vslide _ _ _ _ h
  | vbcast => exact Laws.RoundTrip.vbcast _ _ _ _ h
  | vmovx => exact Laws.RoundTrip.vmovx _ _ _ _ h
  | vins => exact Laws.RoundTrip.vins _ _ _ _ _ h
  | vred => exact Laws.RoundTrip.vred _ _ _ _ _ _ h
  | vsettag => exact Laws.RoundTrip.vsettag _ _ _ _ h
  | vgettag => exact Laws.RoundTrip.vgettag _ _ _ h
  | vcvt => exact Laws.RoundTrip.vcvt _ _ _ _ _ _ h
  | vqnt => exact Laws.RoundTrip.vqnt _ _ _ _ _ _ h
  | vdqnt => exact Laws.RoundTrip.vdqnt _ _ _ _ _ _ h
  | vld => exact Laws.RoundTrip.vld _ _ _ _ _ h
  | vst => exact Laws.RoundTrip.vst _ _ _ _ h
  | vlds => exact Laws.RoundTrip.vlds _ _ _ _ _ h
  | vsts => exact Laws.RoundTrip.vsts _ _ _ _ h
  | vldx => exact Laws.RoundTrip.vldx _ _ _ _ _ h
  | vstx => exact Laws.RoundTrip.vstx _ _ _ _ h
  | qbind => exact Laws.RoundTrip.qbind _ _ _ _ h
  | qfree => exact Laws.RoundTrip.qfree _ _ h
  | qstat => exact Laws.RoundTrip.qstat _ _ _ h
  | vqpop => exact Laws.RoundTrip.vqpop _ _ _ h
  | vqpush => exact Laws.RoundTrip.vqpush _ _ _ h
  | vsend => exact Laws.RoundTrip.vsend _ _ _ _ _ h
  | amcall => exact Laws.RoundTrip.amcall _ _ _ _ _ h
  | cxop => exact Laws.RoundTrip.cxop _ _ _ _ _ _ _ _ h
  | cxload => exact Laws.RoundTrip.cxload _ _ h
  | cxdrop => exact Laws.RoundTrip.cxdrop _ _ h
  | cxqry => exact Laws.RoundTrip.cxqry _ _ _ h
  | cxtbl => exact Laws.RoundTrip.cxtbl _ _ _ h
  | bndset => exact Laws.RoundTrip.bndset _ _ _ _ _ h
  | bndget => exact Laws.RoundTrip.bndget _ _ _ _ h
  | cntrd => exact Laws.RoundTrip.cntrd _ _ _ _ _ h
  | cntclr => exact Laws.RoundTrip.cntclr _ _ _ _ h
  | mshld => exact Laws.RoundTrip.mshld _ _ _ _ h
  | mma => exact Laws.RoundTrip.mma _ _ _ _ _ h
  | mmaSp => exact Laws.RoundTrip.mmaSp _ _ _ _ _ _ _ h
  | mmaGa => exact Laws.RoundTrip.mmaGa _ _ _ _ _ _ _ h
  | mmaSpga => exact Laws.RoundTrip.mmaSpga _ _ _ _ _ _ _ _ _ h
  | mzero => exact Laws.RoundTrip.mzero _ _ _ h
  | mld => exact Laws.RoundTrip.mld _ _ _ _ h
  | mst => exact Laws.RoundTrip.mst _ _ _ _ h
  | mrowred => exact Laws.RoundTrip.mrowred _ _ _ _ _ _ _ h
  | mcnt => exact Laws.RoundTrip.mcnt _ _ _ _ h
  | copy => exact Laws.RoundTrip.copy _ _ _ h
  | copym => exact Laws.RoundTrip.copym _ _ _ h
  | cprom => exact Laws.RoundTrip.cprom _ _ _ h
  | hcfg => exact Laws.RoundTrip.hcfg _ _ _ h
  | publish => exact Laws.RoundTrip.publish _ _ h
  | publishF => exact Laws.RoundTrip.publishF _ _ h
  | hsub => exact Laws.RoundTrip.hsub _ _ _ h
  | hunsub => exact Laws.RoundTrip.hunsub _ _ _ h
  | hver => exact Laws.RoundTrip.hver _ _ _ h
  | stopref => exact Laws.RoundTrip.stopref _ _ h
  | stoprefAt => exact Laws.RoundTrip.stoprefAt _ _ _ h
  | refchk => exact Laws.RoundTrip.refchk _ _ _ h
  | settle => exact Laws.RoundTrip.settle _ _ _ _ h
  | settlew => exact Laws.RoundTrip.settlew _ _ _ _ _ h
  | launch => exact Laws.RoundTrip.launch _ _ _ h
  | deal => exact Laws.RoundTrip.deal _ _ _ h
  | ringget => exact Laws.RoundTrip.ringget _ _ _ _ h
  | ringput => exact Laws.RoundTrip.ringput _ _ _ h
  | govset => exact Laws.RoundTrip.govset _ _ _ _ h
  | preempt => exact Laws.RoundTrip.preempt _ _ _ h
  | resume => exact Laws.RoundTrip.resume _ _ _ h
  | rdhmap => exact Laws.RoundTrip.rdhmap _ _ _ h
  | rdlpt => exact Laws.RoundTrip.rdlpt _ _ _ _ h
  | quiesce => exact Laws.RoundTrip.quiesce _ _ h
  | barset => exact Laws.RoundTrip.barset _ _ _ h
  | bararr => exact Laws.RoundTrip.bararr _ _ h
  | barwait => exact Laws.RoundTrip.barwait _ _ _ _ h
  | barwaitF => exact Laws.RoundTrip.barwaitF _ _ _ h
  | barwd => exact Laws.RoundTrip.barwd _ _ h
  | chkpt => exact Laws.RoundTrip.chkpt _ _ _ h
  | tlbinv => exact Laws.RoundTrip.tlbinv _ _ _ _ h
  | rmapsetRemap => exact Laws.RoundTrip.rmapsetRemap _ _ _ _ h
  | rmapsetMarkDead => exact Laws.RoundTrip.rmapsetMarkDead _ _ _ _ h
  | rmapsetClearDead => exact Laws.RoundTrip.rmapsetClearDead _ _ _ _ h
  | grpjoin => exact Laws.RoundTrip.grpjoin _ _ _ _ h
  | grpleave => exact Laws.RoundTrip.grpleave _ _ h
  | grpred => exact Laws.RoundTrip.grpred _ _ _ _ _ h
  | grpbc => exact Laws.RoundTrip.grpbc _ _ _ _ _ h
  | grpbar => exact Laws.RoundTrip.grpbar _ _ h
  | fremap => exact Laws.RoundTrip.fremap _ _ _ _ h
  | _ => cases h

/-- Settles O59: the decoder computes on each of the words. -/
theorem decodedWords : Obligations.DecodedWords :=
  ⟨rfl, rfl, rfl, rfl, rfl, rfl, rfl, rfl, rfl, rfl, rfl, rfl, rfl, rfl, rfl, rfl, rfl, rfl, .reservedOp, rfl⟩

end Sys2Proof
end

section
/-! PROOF. What the header guard decides (R52, R54): an instruction of no engine queue is skipped or parked by the tests of
`State.gate`, before its effect. -/

namespace Sys2Proof.Machine

theorem State.gate_of_pending {s : State} {u : Uses} (hl : u.lvl ≤ s.me.level) (hg : s.thr.gate u.gd = none) :
    s.gate u = .stop (.retry .guard) := by
  simp only [State.gate, if_neg (Nat.not_lt.2 hl), hg]

theorem State.stopAt_retry (s : State) (u : Uses) (p : Park) :
    s.stopAt u (.retry p) = s.modThr fun t => t.parkRetry p := rfl

/-- An instruction whose guard is pending parks, and its effect is not applied. -/
theorem State.run_of_pending {s : State} {i : Instr} (k : State → State) (hl : i.uses.lvl ≤ s.me.level)
    (hg : s.thr.gate i.uses.gd = none) : s.run i k = .next (s.begin.modThr fun t => t.parkRetry .guard) := by
  have hgate : s.begin.gate i.uses = .stop (.retry .guard) :=
    State.gate_of_pending (by rwa [State.begin_level]) (by rwa [State.begin_thr_gate])
  simp only [State.run, State.issue, hgate, State.stopAt_retry]

theorem runs_of_scalarOrControl {i : Instr} (h : Claim.scalar i = true ∨ Claim.pathOrControl i = true) : Runs i :=
  h.elim runs_of_scalar runs_of_pathOrControl

/-- Settles O5: the guard is tested before the effect, so what the effect is does not matter. -/
theorem guardDecides : Obligations.GuardDecides := by
  refine ⟨fun i s hi hl hg => ?_, fun i s hi hl hg => ?_⟩
  · obtain ⟨-, k, hk⟩ := runs_of_scalarOrControl hi
    rw [hk, State.run_skip hl hg]
  · obtain ⟨-, k, hk⟩ := runs_of_scalarOrControl hi
    rw [hk, State.run_of_pending k hl hg]

end Sys2Proof.Machine
end

section
/-! PROOF. A step and an issue (R41-R45, R53, R61): the next move of the agenda is a port's turn, the turn is a slot's, and the slot's line
passes the checks of R61 before its instruction or pair is executed. -/

namespace Sys2Proof.Machine

/-! ## What a step and an issue come to -/

theorem step_of_running {s : State} {m : Move} {rest : List Move} (hs : s.stopped = false) (ha : s.agenda = m :: rest) :
    step s = State.move { s with agenda := rest } m := by
  rw [step, ha]
  simp only [hs, Bool.false_and, Bool.false_eq_true, if_false]

theorem step_of_issue {s : State} {l : Nat} {mt : Bool} {rest : List Move} (hs : s.stopped = false) (ha : s.agenda = .issue l mt :: rest) :
    step s = State.port { s with agenda := rest } l mt := step_of_running hs ha

theorem step_of_ev {s : State} {i : Instr} {rest : List Move} (hs : s.stopped = false) (ha : s.agenda = .ev i :: rest) :
    step s = exec i { s with agenda := rest } := step_of_running hs ha

theorem step_of_stopped {s : State} {m : Move} {rest : List Move} (hs : s.stopped = true) (ha : s.agenda = m :: rest)
    (hm : m.powersOn = false) : step s = .fault .emergencyStopped := by
  rw [step, ha]
  simp only [hs, hm, Bool.not_false, Bool.and_self, if_true]

theorem State.port_of_issueSlot {s u t : State} {l : Nat} {mt : Bool} {k : Fin 16} (hu : u = s.recheckCore l)
    (h : Claim.Turn u l mt k) (ht : u.issueSlot l k = .next t) : s.port l mt = .next (t.issued l k) := by
  obtain ⟨rfl, hp, hw⟩ | ⟨rfl, hm, hr, rfl⟩ := h
  · simp only [State.port, ← hu, Bool.false_eq_true, if_false, if_neg hp, hw, ht]
  · simp only [State.port, ← hu, hm, hr, Bool.and_self, if_true, ht]

theorem State.port_of_idle {s u : State} {l : Nat} (hu : u = s.recheckCore l)
    (h : (u.core l).portAt = some u.time ∨ u.workerTurn l = none) : s.port l false = .next u := by
  have hk : (if (u.core l).portAt = some u.time then none else u.workerTurn l) = none := by
    obtain h | h := h
    · rw [if_pos h]
    · rw [h, ite_self]
  simp only [State.port, ← hu, Bool.false_eq_true, if_false, hk]

theorem State.issueSlot_of_line {s : State} {l : Nat} {k : Fin 16} {x : Line} (h : (s.core l).line? (s.slot l k).pc = some x) :
    s.issueSlot l k = (s.onSlot l k).issueLine x := by
  simp only [State.issueSlot, State.onSlot_me, State.onSlot_thr, h]

theorem State.issueOne_of_goes {v t : State} {i : Instr} (h : exec i v = .next t) (hg : t.thr.ctl.goes = true) :
    v.issueOne i = .next (v.finish t t.thr.ctl.taken) := by
  simp only [State.issueOne, h, hg, if_true]

theorem State.issueOne_of_stays {v t : State} {i : Instr} (h : exec i v = .next t) (hg : t.thr.ctl.goes = false) :
    v.issueOne i = .next t := by
  simp only [State.issueOne, h, hg, Bool.false_eq_true, if_false]

theorem Ctl.not_stopped_of_goes {c : Ctl} (h : c.goes = true) : c.stopped = false := by
  cases c with
  | seq | jump => rfl
  | _ => cases h

theorem State.checkPair_of_pairOk {v : State} {i j : Instr} (hp : v.me.pairOk v.cur.slot i j = true) (hi : v.early i = none)
    (hj : v.early j = none) : v.checkPair i j = v.issuePair i j := by
  simp only [State.checkPair, hp, hi, hj, isPriv, Option.any_none, Option.isSome_none, Bool.not_true, Bool.false_eq_true, if_false]

/-- Both instructions of a pair go on: the issue ends as the second does (R49). -/
theorem State.issuePair_of_goes {v t w : State} {i j : Instr} {q : Addr} (hq : v.thr.iss.last = q) (hi : exec i v = .next t)
    (hti : t.thr.ctl.goes = true) (hj : exec j (t.atSlot q) = .next w) (hwj : w.thr.ctl.goes = true) :
    v.issuePair i j = .next (v.finish w w.thr.ctl.taken) := by
  subst hq
  simp only [State.issuePair, hi, Ctl.not_stopped_of_goes hti, hj, hti, Bool.false_eq_true, if_false]
  generalize w.thr.ctl = c at hwj
  cases c with
  | seq | jump => simp only [Ctl.goes, if_true]
  | _ => cases hwj

@[simp] theorem State.issuing_last (s : State) (l : Nat) (k : Fin 16) (p q : Addr) (swm : Bool) :
    (Claim.issuing s l k p q swm).thr.iss.last = q := by simp [Claim.issuing, Claim.issue]

/-! ## The checks of a line that may issue (R61) -/

section
variable {s : State} {l : Nat} {k : Fin 16} {x : Line} {pc : Addr} (hpc : (s.slot l k).pc = pc) (h : Claim.Legal s l k x)
include hpc h

theorem State.issue_enters (p q : Addr) (swm : Bool) :
    ((Claim.issue s l k p q swm).thr.fresh && !lineBtm x.data (slotIdx pc)) = false := by
  have hf : (Claim.issue s l k p q swm).thr.fresh = (s.slot l k).fresh := by simp [Claim.issue]
  subst hpc
  rw [hf]
  cases he : (s.slot l k).fresh
  · rfl
  · rw [h.entry he]; rfl

theorem State.issueLine_of_single {i : Instr} (hp : pairFirst (linePair x.data) (slotIdx pc) = false)
    (hd : decode (lineSlot x.data (slotIdx pc)) = .ok i) :
    (s.onSlot l k).issueLine x = (Claim.issuing s l k pc pc (lineSwm x.data (slotIdx pc))).issueOne i := by
  have hf := State.issue_enters hpc h pc pc (lineSwm x.data (slotIdx pc))
  obtain ⟨hm, hs, hl, -⟩ := h
  rw [hpc] at hm hs
  rw [Claim.issue] at hf
  simp only [State.issueLine, State.onSlot_thr, hpc, hp, hm, hs, hl, hd, hf, Claim.issuing, Claim.issue,
    Option.map_none, Option.orElse_none, Bool.not_true, Bool.not_false, Bool.false_and, Bool.or_false, Bool.false_eq_true, if_false, if_true]

theorem State.issueLine_of_undecoded {r : Reject} (hp : pairFirst (linePair x.data) (slotIdx pc) = false)
    (hd : decode (lineSlot x.data (slotIdx pc)) = .error r) :
    (s.onSlot l k).issueLine x = .next ((Claim.issue s l k pc pc (lineSwm x.data (slotIdx pc))).takeFault
      (mkCause 0x01 (decodeInfo (lineSlot x.data (slotIdx pc)) r) 0)) := by
  have hf := State.issue_enters hpc h pc pc (lineSwm x.data (slotIdx pc))
  obtain ⟨hm, hs, hl, -⟩ := h
  rw [hpc] at hm hs
  rw [Claim.issue] at hf
  simp only [State.issueLine, State.onSlot_thr, hpc, hp, hm, hs, hl, hd, hf, Claim.issue,
    Option.map_none, Option.orElse_none, Bool.not_true, Bool.false_and, Bool.or_false, Bool.false_eq_true, if_false]

theorem State.issueLine_of_pair {i j : Instr} (hp : pairFirst (linePair x.data) (slotIdx pc) = true)
    (hs2 : sparOk x.data (slotIdx pc + 1) = true) (hm2 : x.badAt (slotIdx pc + 1) = none)
    (hd : decode (lineSlot x.data (slotIdx pc)) = .ok i) (hd2 : decode (lineSlot x.data (slotIdx pc + 1)) = .ok j) :
    (s.onSlot l k).issueLine x = (Claim.issuing s l k pc (nextSlot pc)
      (lineSwm x.data (slotIdx pc) || lineSwm x.data (slotIdx pc + 1))).checkPair i j := by
  have hf := State.issue_enters hpc h pc (nextSlot pc) (lineSwm x.data (slotIdx pc) || lineSwm x.data (slotIdx pc + 1))
  obtain ⟨hm, hs, hl, -⟩ := h
  rw [hpc] at hm hs
  rw [Claim.issue] at hf
  simp only [State.issueLine, State.onSlot_thr, hpc, hp, hm, hs, hl, hd, hf, hs2, hm2, hd2, Claim.issuing, Claim.issue,
    Option.map_none, Option.orElse_none, Bool.not_true, Bool.true_and, Bool.false_eq_true, if_false, if_true]
end

/-! ## The obligation -/

/-- Settles O51: each clause is one path through `State.port` and `State.issueLine`, or one move of the agenda. -/
theorem stepRunsDecoded : Obligations.StepRunsDecoded := by
  intro l mt k x i j rest s u hs hu
  refine ⟨fun ha hturn hline hl hp hd v t hv ht => ?_, fun ha hturn hline hl hp hs2 hm2 hd hd2 v t w hv hpair hi hj ht hg hw hgw => ?_,
    fun r ha hturn hline hl hp hd => ?_, fun ha hidle => ?_, fun ha => ?_, fun z hz ha => step_of_stopped hz ha rfl⟩
  · have hissue := (State.issueSlot_of_line hline).trans (State.issueLine_of_single rfl hl hp hd)
    rw [← hv] at hissue
    rw [step_of_issue hs ha]
    exact ⟨fun hg => State.port_of_issueSlot hu hturn (hissue.trans (State.issueOne_of_goes ht hg)),
      fun hg => State.port_of_issueSlot hu hturn (hissue.trans (State.issueOne_of_stays ht hg))⟩
  · have hissue := (State.issueSlot_of_line hline).trans (State.issueLine_of_pair rfl hl hp hs2 hm2 hd hd2)
    rw [← hv, State.checkPair_of_pairOk hpair hi hj,
      State.issuePair_of_goes (by rw [hv, State.issuing_last]) ht hg hw hgw] at hissue
    rw [step_of_issue hs ha]
    exact State.port_of_issueSlot hu hturn hissue
  · rw [step_of_issue hs ha]
    exact State.port_of_issueSlot hu hturn ((State.issueSlot_of_line hline).trans (State.issueLine_of_undecoded rfl hl hp hd))
  · rw [step_of_issue hs ha]
    exact State.port_of_idle hu hidle
  · exact step_of_ev hs ha

end Sys2Proof.Machine
end

section
/-! PROOF. Vector commands at issue (R52, R55, R170): the marks of their destinations, what they capture, and the queue that they enter. -/

namespace Sys2Proof.Machine

/-! ## Results on their way -/

/-- Between two slots nothing differs but marks of results on their way, of which none has been taken away. -/
structure Slot.Marked (t t' : Slot) : Prop where
  rest : t' = { t with regs := { t.regs with xp := t'.regs.xp, vp := t'.regs.vp, gp := t'.regs.gp } }
  xp : ∀ r : Fin 32, t.regs.xp[r].n ≤ t'.regs.xp[r].n
  vp : ∀ r : Fin 16, t.regs.vp[r].n ≤ t'.regs.vp[r].n
  gp : ∀ r : Fin 16, t.regs.gp[r].n ≤ t'.regs.gp[r].n

theorem Slot.Marked.refl (t : Slot) : t.Marked t := ⟨rfl, fun _ => Nat.le_refl _, fun _ => Nat.le_refl _, fun _ => Nat.le_refl _⟩

theorem Slot.Marked.trans {t u w : Slot} (h : t.Marked u) (k : u.Marked w) : t.Marked w :=
  ⟨by rw [k.rest, h.rest], fun r => Nat.le_trans (h.xp r) (k.xp r), fun r => Nat.le_trans (h.vp r) (k.vp r), fun r => Nat.le_trans (h.gp r) (k.gp r)⟩

theorem Pend.le_set_more {n : Nat} (v : Vector Pend n) (q : Producer) (d r : Fin n) : v[r].n ≤ (v.set d (v[d].more q))[r].n := by
  by_cases h : d.val = r.val
  · obtain rfl := Fin.ext h
    simp [Pend.more]
  · simp [h]

theorem Pend.set_more_ne_zero {n : Nat} (v : Vector Pend n) (q : Producer) (d : Fin n) : (v.set d (v[d].more q))[d].n ≠ 0 := by
  simp [Pend.more]

theorem Slot.marked_markX (t : Slot) (q : Producer) (d : Fin 32) : t.Marked (t.markX q d) := by
  unfold Slot.markX
  split
  · exact .refl t
  · exact ⟨rfl, Pend.le_set_more _ q d, fun _ => Nat.le_refl _, fun _ => Nat.le_refl _⟩

theorem Slot.marked_markV (t : Slot) (q : Producer) (d : Fin 16) : t.Marked (t.markV q d) :=
  ⟨rfl, fun _ => Nat.le_refl _, Pend.le_set_more _ q d, fun _ => Nat.le_refl _⟩

theorem Slot.marked_markG (t : Slot) (q : Producer) (d : Fin 16) : t.Marked (t.markG q d) := by
  unfold Slot.markG
  split
  · exact .refl t
  · exact ⟨rfl, fun _ => Nat.le_refl _, fun _ => Nat.le_refl _, Pend.le_set_more _ q d⟩

/-- Marks put one after another: each only adds, so each of them stands at the end. -/
theorem Slot.marked_foldl {α : Type} {f : Slot → α → Slot} (hf : ∀ (t : Slot) (a : α), t.Marked (f t a)) (l : List α) :
    ∀ t : Slot, Slot.Marked t (l.foldl f t) ∧ ∀ a ∈ l, ∃ u, Slot.Marked (f u a) (l.foldl f t) := by
  induction l with
  | nil => exact fun t => ⟨.refl t, fun _ h => nomatch h⟩
  | cons b l ih =>
    intro t
    obtain ⟨hall, heach⟩ := ih (f t b)
    refine ⟨(hf t b).trans hall, fun a ha => ?_⟩
    obtain rfl | ha := List.mem_cons.1 ha
    · exact ⟨t, hall⟩
    · exact heach a ha

theorem Slot.marked_foldX (q : Producer) (l : List (Fin 32)) (t : Slot) : t.Marked (l.foldl (Slot.markX · q) t) :=
  (Slot.marked_foldl (fun t d => t.marked_markX q d) l t).1
theorem Slot.marked_foldV (q : Producer) (l : List (Fin 16)) (t : Slot) : t.Marked (l.foldl (Slot.markV · q) t) :=
  (Slot.marked_foldl (fun t d => t.marked_markV q d) l t).1
theorem Slot.marked_foldG (q : Producer) (l : List (Fin 16)) (t : Slot) : t.Marked (l.foldl (Slot.markG · q) t) :=
  (Slot.marked_foldl (fun t d => t.marked_markG q d) l t).1

theorem Slot.marked_markAll (t : Slot) (q : Producer) (u : Uses) : t.Marked (t.markAll q u) :=
  ((Slot.marked_foldX q u.wx t).trans (Slot.marked_foldV q u.wv _)).trans (Slot.marked_foldG q u.wg _)

theorem Slot.markAll_xp (t : Slot) (q : Producer) {u : Uses} {d : Fin 32} (hd : d ∈ u.wx) (h0 : d ≠ 0) :
    (t.markAll q u).regs.xp[d].n ≠ 0 := by
  obtain ⟨w, hw⟩ := (Slot.marked_foldl (fun t d => t.marked_markX q d) u.wx t).2 d hd
  have hle := ((hw.trans (Slot.marked_foldV q u.wv _)).trans (Slot.marked_foldG q u.wg _)).xp d
  have hne : (w.markX q d).regs.xp[d].n ≠ 0 := by
    rw [Slot.markX, if_neg h0]
    exact Pend.set_more_ne_zero w.regs.xp q d
  exact fun h => hne (Nat.le_zero.1 (h ▸ hle))

theorem Slot.markAll_vp (t : Slot) (q : Producer) {u : Uses} {d : Fin 16} (hd : d ∈ u.wv) : (t.markAll q u).regs.vp[d].n ≠ 0 := by
  obtain ⟨w, hw⟩ := (Slot.marked_foldl (fun t d => t.marked_markV q d) u.wv (u.wx.foldl (Slot.markX · q) t)).2 d hd
  have hle := (hw.trans (Slot.marked_foldG q u.wg _)).vp d
  exact fun h => Pend.set_more_ne_zero w.regs.vp q d (Nat.le_zero.1 (h ▸ hle))

theorem Slot.markAll_gp (t : Slot) (q : Producer) {u : Uses} {d : Fin 16} (hd : d ∈ u.wg) (h0 : d ≠ 0) :
    (t.markAll q u).regs.gp[d].n ≠ 0 := by
  obtain ⟨w, hw⟩ := (Slot.marked_foldl (fun t d => t.marked_markG q d) u.wg
    (u.wv.foldl (Slot.markV · q) (u.wx.foldl (Slot.markX · q) t))).2 d hd
  have hle := hw.gp d
  have hne : (w.markG q d).regs.gp[d].n ≠ 0 := by
    rw [Slot.markG, if_neg h0]
    exact Pend.set_more_ne_zero w.regs.gp q d
  exact fun h => hne (Nat.le_zero.1 (h ▸ hle))

/-! ## A command that enters the vector queue -/

@[simp] theorem State.cmdIssued_cur (s : State) : s.cmdIssued.cur = s.cur := by simp [State.cmdIssued]
@[simp] theorem State.cmdIssued_mem (s : State) : s.cmdIssued.mem = s.mem := by simp [State.cmdIssued]
@[simp] theorem State.cmdIssued_thr (s : State) : s.cmdIssued.thr = { s.thr with engOut := s.thr.engOut + 1 } := by
  have h : s.cmdIssued.thr = (s.modThr fun t => { t with engOut := t.engOut + 1 }).thr := by simp [State.cmdIssued, State.thr]
  rw [h, State.thr_modThr]
@[simp] theorem State.cmdIssued_veng (s : State) : s.cmdIssued.me.veng = s.me.veng := by
  have h : s.cmdIssued.me.veng = (s.modThr fun t => { t with engOut := t.engOut + 1 }).me.veng := by simp [State.cmdIssued, State.me]
  rw [h, State.me_modThr, Core.modSlot_veng]
@[simp] theorem State.cmdIssued_cmdNo (s : State) : s.cmdIssued.me.cmdNo = s.me.cmdNo := by
  have h : s.cmdIssued.me.cmdNo = (s.modThr fun t => { t with engOut := t.engOut + 1 }).me.cmdNo := by simp [State.cmdIssued, State.me]
  rw [h, State.me_modThr, Core.modSlot_cmdNo]

/-! The generator's step touches nothing of the thread but its generator (R153). -/

section
variable (s : State) (i : Instr) (n : Nat)

@[simp] theorem State.stepLfsr_cur : (s.stepLfsr i n).cur = s.cur := by unfold State.stepLfsr; split <;> rfl
@[simp] theorem State.stepLfsr_mem : (s.stepLfsr i n).mem = s.mem := by unfold State.stepLfsr; split <;> rfl
@[simp] theorem State.stepLfsr_regs : (s.stepLfsr i n).thr.regs = s.thr.regs := by unfold State.stepLfsr; split <;> simp
@[simp] theorem State.stepLfsr_engOut : (s.stepLfsr i n).thr.engOut = s.thr.engOut := by unfold State.stepLfsr; split <;> simp
@[simp] theorem State.stepLfsr_veng : (s.stepLfsr i n).me.veng = s.me.veng := by unfold State.stepLfsr; split <;> simp [State.me_modThr]
@[simp] theorem State.stepLfsr_cmdNo : (s.stepLfsr i n).me.cmdNo = s.me.cmdNo := by unfold State.stepLfsr; split <;> simp [State.me_modThr]
end

theorem State.thr_modMe_of_slots {s : State} {f : Core → Core} (h : (f s.me).slots = s.me.slots) : (s.modMe f).thr = s.thr := by
  rw [State.thr_modMe, Core.slot, h]
  rfl

/-- The command that `pushVec` puts at the end of the queue. -/
def State.vecCmd (s : State) (i : Instr) (g : CmdGuard) (cx : Nat) : VCmd :=
  { slot := s.cur.slot.val, no := s.me.cmdNo, apc := s.here, gd := g, op := i, xs := s.capture (s.usesOf i), lfsr := s.thr.lfsr
    cxslot := cx, bad := s.laterStop (s.usesOf i) }

section
variable (s : State) (i : Instr) (g : CmdGuard) (n cx : Nat)

theorem State.pushVec_eq : s.pushVec i g n cx =
    (((s.stepLfsr i n).modThr fun t => t.markAll .vector i.uses).modMe fun c =>
      { c with veng := { c.veng with q := c.veng.q ++ [s.vecCmd i g cx] }, cmdNo := c.cmdNo + 1 }).cmdIssued := rfl

@[simp] theorem State.pushVec_mem : (s.pushVec i g n cx).mem = s.mem := by simp [State.pushVec_eq, State.modMe]

theorem State.pushVec_q : (s.pushVec i g n cx).me.veng.q = s.me.veng.q ++ [s.vecCmd i g cx] := by
  simp [State.pushVec_eq, State.me_modThr]

theorem State.pushVec_cmdNo : (s.pushVec i g n cx).me.cmdNo = s.me.cmdNo + 1 := by
  simp [State.pushVec_eq, State.me_modThr]

theorem State.pushVec_thr : (s.pushVec i g n cx).thr =
    { (s.stepLfsr i n).thr.markAll .vector i.uses with engOut := ((s.stepLfsr i n).thr.markAll .vector i.uses).engOut + 1 } := by
  rw [State.pushVec_eq, State.cmdIssued_thr, State.thr_modMe_of_slots, State.thr_modThr]
  rfl
end

/-! What an instruction names does not depend on how the last one ended. -/

theorem State.begin_slot (s : State) (k : Fin 16) : ∃ c, s.begin.me.slot k = { s.me.slot k with ctl := c } := by
  rw [State.begin, State.me_modThr]
  by_cases h : k = s.cur.slot
  · subst h
    exact ⟨.seq, Core.slot_modSlot _ _ _⟩
  · exact ⟨_, Core.slot_modSlot_of_ne _ _ h⟩

@[simp] theorem State.begin_slot_bind (s : State) (k : Fin 16) (r : Fin 32) : (s.begin.me.slot k).bind r = (s.me.slot k).bind r := by
  obtain ⟨c, h⟩ := s.begin_slot k
  rw [h]
  rfl

@[simp] theorem State.begin_slot_regs (s : State) (k : Fin 16) : (s.begin.me.slot k).regs = (s.me.slot k).regs := by
  obtain ⟨c, h⟩ := s.begin_slot k
  rw [h]

@[simp] theorem State.begin_slot_popTag (s : State) (k : Fin 16) (i : Instr) :
    (s.begin.me.slot k).popTag i = (s.me.slot k).popTag i := by
  simp only [Slot.popTag, State.begin_slot_bind]

@[simp] theorem State.begin_veng (s : State) : s.begin.me.veng = s.me.veng := by simp [State.begin, State.me_modThr]
@[simp] theorem State.begin_cmdNo (s : State) : s.begin.me.cmdNo = s.me.cmdNo := by simp [State.begin, State.me_modThr]

@[simp] theorem State.begin_tagsAhead (s : State) (k : Nat) : s.begin.me.tagsAhead k = s.me.tagsAhead k := by
  simp only [Core.tagsAhead, State.begin_veng, State.begin_slot_popTag, State.begin_slot_regs]

@[simp] theorem State.usesOf_begin (s : State) (i : Instr) : s.begin.usesOf i = s.usesOf i := by
  simp only [State.usesOf, Core.usesOf, Core.names, Core.cxAt, State.begin_cur, State.begin_veng, State.begin_tagsAhead,
    State.begin_slot_bind]

/-! ## A ready command of the vector queue -/

theorem State.capture_of_ready {s : State} {u : Uses} (h : s.Ready u) : s.begin.capture u = (u.rx.map (Claim.x s)).map some := by
  rw [State.capture, List.map_map]
  refine List.map_congr_left fun r hr => ?_
  have hu : s.begin.thr.bind r = none := h.begin.unbound r (List.mem_append_left _ hr)
  have hv : s.begin.rx r = Claim.x s r := by rw [State.rx_of_unbound hu, State.begin_thr_rx]; rfl
  have hp : (decide (r ≠ 0) && decide (s.begin.thr.regs.xp[r].n ≠ 0)) = false := by
    by_cases h0 : r = 0
    · simp [h0]
    · simp only [h.begin.x r (List.mem_append_left _ hr) h0, ne_eq, not_true, decide_false, Bool.and_false]
  simp only [hp, Bool.false_eq_true, if_false, Function.comp_apply, hv]

theorem State.vecIssue_of_ready {s : State} {i : Instr} (k : State → CmdGuard → State) (h : s.Ready (s.usesOf i))
    (hq : s.me.veng.q.length < 2) (ha : i.vecMem = true → s.thr.acq = 0) : s.vecIssue i k = .next (k s.begin (.known true)) := by
  have hgd : s.begin.cmdGuard (s.usesOf i).gd = .known true := by simp only [State.cmdGuard, h.begin.guard]
  have hmem : (i.vecMem && decide (s.begin.thr.acq ≠ 0)) = false := by
    cases hv : i.vecMem
    · rfl
    · simp [ha hv]
  simp only [State.vecIssue, State.usesOf_begin, h.begin.gateEng, State.begin_veng, if_neg (Nat.not_le.2 hq), hmem, hgd, ge_iff_le,
    Bool.false_eq_true, if_false, if_true, State.pops_of_unbound _ fun r m => h.begin.unbound r (List.mem_append_left _ m)]

theorem State.vecIssue_of_full {s : State} {i : Instr} (k : State → CmdGuard → State) (h : s.Ready (s.usesOf i))
    (hq : 2 ≤ s.me.veng.q.length) : s.vecIssue i k = .next (s.begin.modThr fun t => t.parkRetry .engQueue) := by
  simp only [State.vecIssue, State.usesOf_begin, h.begin.gateEng, State.begin_veng, if_pos hq, ge_iff_le, State.stopWith]

/-- A ready command at the end of the queue, with its scalars and its marks (R52, R55, R170). -/
theorem State.vecQueued_pushVec {s : State} {i : Instr} (n cx : Nat) (h : s.Ready (s.usesOf i)) (hx : (s.usesOf i).rx = i.uses.rx) :
    Claim.VecQueued s (s.begin.pushVec i (.known true) n cx) i (i.uses.rx.map (Claim.x s)) := by
  have hthr := State.pushVec_thr s.begin i (.known true) n cx
  obtain ⟨hrest, -, -, -⟩ := Slot.marked_markAll (s.begin.stepLfsr i n).thr .vector i.uses
  have hregs := congrArg Slot.regs hthr
  have hcap : s.begin.capture (s.begin.usesOf i) = (i.uses.rx.map (Claim.x s)).map some := by
    rw [State.usesOf_begin, State.capture_of_ready h, hx]
  constructor
  case queue =>
    refine ⟨s.begin.vecCmd i (.known true) cx, ?_, rfl, rfl, rfl, hcap, ?_, ?_, ?_⟩
    · rw [State.pushVec_q, State.begin_veng]
    · simp [State.vecCmd, State.here]
    · simp [State.vecCmd]
    · simp [State.vecCmd]
  case number => rw [State.pushVec_cmdNo, State.begin_cmdNo]
  case count => rw [hthr, hrest]; simp
  case x => rw [hregs, hrest]; simp
  case v => rw [hregs, hrest]; simp
  case g => rw [hregs, hrest]; simp
  case xp => intro d hd h0; rw [hregs]; exact Slot.markAll_xp _ _ hd h0
  case vp => intro d hd; rw [hregs]; exact Slot.markAll_vp _ _ hd
  case gp => intro d hd h0; rw [hregs]; exact Slot.markAll_gp _ _ hd h0
  case memory => rw [State.pushVec_mem, State.begin_mem]

/-- A vector command has no test of its own: its meaning is to enter the queue, with the steps of the generator that its rounding takes. -/
theorem exec_of_vec {i : Instr} (h : Claim.vec i = true) :
    ∃ n : State → Nat, ∀ s, exec i s = s.vecIssue i fun t g => t.pushVec i g (n t) 0 := by
  cases i with
  | bndset gd k clr mode s1 => exact ⟨fun _ => 0, fun _ => rfl⟩
  | vadd | vsub | vmul | vfma | vmin | vmax | vabs | vneg | vand | vor | vxor | vshl | vshr | vcmp | vsel | vperm | vslide | vbcast
  | vmovx | vins | vred | vsettag | vgettag | vcvt | vqnt | vdqnt | vld | vst | vlds | vsts | vldx | vstx =>
    exact ⟨fun s => Instr.rounds (s.me.tagsAhead s.cur.slot.val) _, fun _ => rfl⟩
  | _ => cases h

/-- The scalars that a vector command reads are those that it names: the tag of a VQNT (R185) adds to its vector registers alone. -/
theorem usesOf_rx_of_vec {i : Instr} (h : Claim.vec i = true) (s : State) : (s.usesOf i).rx = i.uses.rx := by
  cases i with
  | vadd | vsub | vmul | vfma | vmin | vmax | vabs | vneg | vand | vor | vxor | vshl | vshr | vcmp | vsel | vperm | vslide | vbcast
  | vmovx | vins | vred | vsettag | vgettag | vcvt | vqnt | vdqnt | vld | vst | vlds | vsts | vldx | vstx | bndset =>
    rfl
  | _ => cases h

/-- Settles O19: all vector commands take one way into the queue, and its length decides before anything is captured. -/
theorem vectorCommandsQueue : Obligations.VectorCommandsQueue := by
  refine ⟨fun i s hi hr hq ha => ?_, fun i s hi hr hq => ?_⟩
  · obtain ⟨n, hn⟩ := exec_of_vec hi
    exact ⟨_, (hn s).trans (State.vecIssue_of_ready _ hr hq ha), State.vecQueued_pushVec _ _ hr (usesOf_rx_of_vec hi s)⟩
  · obtain ⟨n, hn⟩ := exec_of_vec hi
    exact (hn s).trans (State.vecIssue_of_full _ hr hq)

end Sys2Proof.Machine
end

section
/-! PROOF. The frame of the scalar instructions (R52, R60, R78): a stop shows in how an instruction ended, so one that ended in sequence was
skipped or had its effect, and each effect writes destinations only. -/

namespace Sys2Proof.Machine

/-! ## A stop shows in how the instruction ended -/

theorem Slot.stop_ctl (t : Slot) : t.stop.ctl = t.ctl := by unfold Slot.stop; split <;> rfl

theorem Core.freeze_slot_ctl (c : Core) (k : Fin 16) : (c.freeze.slot k).ctl = (c.slot k).ctl := by
  have h : c.freeze.slot k = if k.val < 15 then (c.slot k).stop else c.slot k := by
    simp only [Core.freeze, Core.slot, Fin.getElem_fin, Vector.getElem_ofFn]
  rw [h]
  split
  · exact Slot.stop_ctl _
  · rfl

theorem State.slot_modCore_of_slots {s : State} {l : Nat} {f : Core → Core} (h : (f (s.core l)).slots = (s.core l).slots) (k : Fin 16) :
    (s.modCore l f).slot l k = s.slot l k := by
  simp only [State.slot, Core.slot, State.core_modCore, h]

theorem State.takeFaultAt_ctl (s : State) (l : Nat) (k : Fin 16) (c : Cause) (home : Bool) :
    ((s.takeFaultAt l k c home).slot l k).ctl = .fault c := by
  unfold State.takeFaultAt
  dsimp only
  rw [State.sendPacket, State.post_slot, State.slot_modCore_of_slots rfl, State.slot_modCore_of_slots rfl]
  split
  · rw [State.slot_modSlot]
  · rw [State.slot, State.core_modCore, Core.freeze_slot_ctl]
    exact congrArg Slot.ctl (State.slot_modSlot s l k _)

@[simp] theorem State.takeFaultAt_cur (s : State) (l : Nat) (k : Fin 16) (c : Cause) (home : Bool) :
    (s.takeFaultAt l k c home).cur = s.cur := by
  unfold State.takeFaultAt
  dsimp only
  rw [State.sendPacket, State.post_cur, State.modCore_cur, State.modCore_cur]
  split <;> rfl

theorem State.takeFault_ctl (s : State) (c : Cause) : (s.takeFault c).thr.ctl = .fault c := by
  rw [State.thr, State.takeFault, State.takeFaultAt_cur, State.takeFaultAt_ctl]

/-! ## An instruction that ends in sequence was not stopped -/

theorem State.bindStop_of_unbound {s : State} {u : Uses} (h : ∀ r ∈ u.rx ++ u.wx, s.thr.bind r = none) : s.bindStop u = none := by
  unfold State.bindStop
  dsimp only
  rw [List.findSome?_eq_none_iff.2 fun r m => by simp [h r (List.mem_append_left _ m)],
    List.findSome?_eq_none_iff.2 fun r m => by simp [h r (List.mem_append_right _ m)]]
  rfl

/-- Without bound registers the tests stop an instruction by a fault that no ring gives, or by a park. -/
theorem State.gate_of_unbound {s : State} {u : Uses} {c : Ctl} (h : ∀ r ∈ u.rx ++ u.wx, s.thr.bind r = none)
    (hc : s.gate u = .stop c) : c = .retry .guard ∨ ∃ f, c = .fault f ∧ ringCause f.cause = false := by
  rw [State.gate, State.bindStop_of_unbound h] at hc
  split at hc
  · cases hc
    exact .inr ⟨_, rfl, rfl⟩
  · split at hc
    · cases hc
      exact .inl rfl
    · cases hc
    · split at hc
      · cases hc
        exact .inr ⟨_, rfl, rfl⟩
      · split at hc
        · cases hc
          exact .inl rfl
        · cases hc

/-- An instruction without bound registers that ends in sequence was skipped, or had its effect. -/
theorem State.run_cases {s t : State} {i : Instr} {k : State → State} (h : ∀ r ∈ i.uses.rx ++ i.uses.wx, s.thr.bind r = none)
    (ht : s.run i k = .next t) (hc : t.thr.ctl = .seq) : t = s.begin ∨ t = k s.begin := by
  have hb : ∀ r ∈ i.uses.rx ++ i.uses.wx, s.begin.thr.bind r = none := fun r m => (State.begin_bind s r).trans (h r m)
  rw [State.run, State.issue] at ht
  injection ht with ht
  split at ht
  · exact .inl ht.symm
  · rename_i c hg
    exfalso
    obtain rfl | ⟨f, rfl, hf⟩ := State.gate_of_unbound hb hg
    · rw [← ht, State.stopAt_retry, State.thr_modThr] at hc
      cases hc
    · rw [← ht, State.stopAt_fault hf, State.takeFault_ctl] at hc
      cases hc
  · rw [State.pops_of_unbound _ fun r m => hb r (List.mem_append_left _ m)] at ht
    exact .inr ht.symm

/-! ## What the scalar instructions do -/

/-- What a scalar instruction does once its tests let it: it writes one x register or one guard, nothing, or the guards of a mask; it
faults; or it writes the steal limit. -/
inductive ScalarEffect (i : Instr) : Prop where
  | x (d : Fin 32) (v : State → Word) (hd : d ∈ i.uses.wx) (h : ∀ s, exec i s = s.run i fun t => t.wx d (v t))
  | g (d : Fin 16) (v : State → Bool) (hd : d ∈ i.uses.wg) (h : ∀ s, exec i s = s.run i fun t => t.wg d (v t))
  | nothing (h : ∀ s, exec i s = s.run i id)
  | mask (v : State → Word) (h : ∀ s, exec i s = s.run i fun t => t.modThr fun k => i.uses.wg.foldl (fun k g => k.setG g ((v t).getLsbD g.val)) k)
  | fault (c : Cause) (h : ∀ s, exec i s = s.run i fun t => t.takeFault c)
  | stealdom (gd : Guard) (src : Src) (h : i = .stealdom gd src)

theorem scalarEffect_rdsys (gd : Guard) (d : Fin 32) (n : BitVec 12) : ScalarEffect (.rdsys gd d n) := by
  cases hn : sysReadLevel n.toNat with
  | none => exact .fault (mkCause 0x1B n.toNat 0) fun s => by simp only [exec, execRdsys, hn]
  | some lvl =>
    exact .x d (fun s => s.sysRead s.cur.lcn n.toNat) (List.mem_singleton_self _) fun s => by simp only [exec, execRdsys, hn]

theorem scalarEffect_of_scalar {i : Instr} (h : Claim.scalar i = true) : ScalarEffect i := by
  cases i with
  | nop => exact .nothing fun _ => rfl
  | add | sub | and | or | xor | sll | srl | sra | slt | sltu | mul | mulh | mulhm | mulhu | div | divu | rem | remu | min | max | minu | maxu
  | clz | ctz | cpop | li | addpc | grd | rdtime | getid => exact .x _ _ (List.mem_singleton_self _) fun _ => rfl
  | cmp | tst | glog => exact .g _ _ (List.mem_singleton_self _) fun _ => rfl
  | gwr gd s1 mask => exact .mask (fun s => s.rx s1) fun _ => rfl
  | stealdom gd src => exact .stealdom gd src rfl
  | rdsys gd d n => exact scalarEffect_rdsys gd d n
  | _ => cases h

/-! ## What stays -/

/-- Between two slots nothing differs but x registers and guards that an instruction writes. -/
structure Slot.WritesOnly (u : Uses) (t t' : Slot) : Prop where
  rest : t' = { t with regs := { t.regs with x := t'.regs.x, g := t'.regs.g } }
  x : ∀ r : Fin 32, r ∉ u.wx → t'.regs.x[r] = t.regs.x[r]
  g : ∀ r : Fin 16, r ∉ u.wg → t'.regs.g[r] = t.regs.g[r]

theorem Slot.WritesOnly.refl (u : Uses) (t : Slot) : t.WritesOnly u t := ⟨rfl, fun _ _ => rfl, fun _ _ => rfl⟩

theorem Slot.WritesOnly.trans {u : Uses} {t t' w : Slot} (h : t.WritesOnly u t') (k : t'.WritesOnly u w) : t.WritesOnly u w :=
  ⟨by rw [k.rest, h.rest], fun r m => (k.x r m).trans (h.x r m), fun r m => (k.g r m).trans (h.g r m)⟩

theorem Slot.writesOnly_setX {u : Uses} (t : Slot) {d : Fin 32} (w : Word) (hd : d ∈ u.wx) : t.WritesOnly u (t.setX d w) := by
  unfold Slot.setX
  split
  · exact .refl u t
  · refine ⟨rfl, fun r m => ?_, fun _ _ => rfl⟩
    have hne : d.val ≠ r.val := fun e => m (Fin.ext e ▸ hd)
    exact Vector.getElem_set_ne d.isLt r.isLt hne

theorem Slot.writesOnly_setG {u : Uses} (t : Slot) {d : Fin 16} (b : Bool) (hd : d ∈ u.wg) : t.WritesOnly u (t.setG d b) := by
  unfold Slot.setG
  split
  · exact .refl u t
  · refine ⟨rfl, fun _ _ => rfl, fun r m => ?_⟩
    have hne : d.val ≠ r.val := fun e => m (Fin.ext e ▸ hd)
    exact Vector.getElem_set_ne d.isLt r.isLt hne

theorem Slot.writesOnly_foldl_setG {u : Uses} (v : Fin 16 → Bool) (l : List (Fin 16)) (hl : ∀ g ∈ l, g ∈ u.wg) :
    ∀ t : Slot, t.WritesOnly u (l.foldl (fun k g => k.setG g (v g)) t) := by
  induction l with
  | nil => exact .refl u
  | cons g l ih =>
    exact fun t => (t.writesOnly_setG (v g) (hl g (List.mem_cons_self ..))).trans (ih (fun a m => hl a (List.mem_cons_of_mem g m)) _)

/-- Between two states nothing differs but the executing thread and the system registers of its core. -/
structure State.ThrFrame (s t : State) : Prop where
  outside : t = { s with cores := t.cores }
  others : ∀ l, l ≠ s.cur.lcn → t.core l = s.core l
  me : t.me = { s.me with slots := t.me.slots, sysr := t.me.sysr }
  slots : ∀ k : Fin 16, k ≠ s.cur.slot → t.slot s.cur.lcn k = s.slot s.cur.lcn k

theorem State.ThrFrame.trans {s t u : State} (h : s.ThrFrame t) (k : t.ThrFrame u) : s.ThrFrame u := by
  have hc : t.cur = s.cur := by rw [h.outside]
  refine ⟨by rw [k.outside, h.outside], fun l hl => ?_, by rw [k.me, h.me], fun j hj => ?_⟩
  · rw [k.others l (hc ▸ hl), h.others l hl]
  · have hu := k.slots j (hc ▸ hj)
    rw [hc] at hu
    exact hu.trans (h.slots j hj)

theorem State.thrFrame_modThr (s : State) (f : Slot → Slot) : s.ThrFrame (s.modThr f) :=
  ⟨rfl, fun _ hl => State.core_modCore_of_ne s _ hl, by rw [State.me_modThr]; rfl, fun _ hk => State.slot_modSlot_of_ne s _ f hk⟩

theorem State.thrFrame_setSys (s : State) (n : Nat) (w : Word) : s.ThrFrame (s.modMe fun c => c.setSys n w) :=
  ⟨rfl, fun _ hl => State.core_modCore_of_ne s _ hl, by rw [State.me_modMe]; rfl, fun _ _ => State.slot_modCore_of_slots rfl _⟩

theorem Core.sys_setSys_of_ne (c : Core) {n m : Nat} (w : Word) (h : m ≠ n) : (c.setSys n w).sys m = c.sys m := by
  simp [Core.sys, Core.setSys, Ne.symm h]

/-- What a scalar instruction that ended in sequence has left as it was (R78). -/
structure ScalarFramed (i : Instr) (s t : State) : Prop where
  frame : s.ThrFrame t
  thr : s.begin.thr.WritesOnly i.uses t.thr
  sys : ∀ n, n ≠ 3 → t.me.sys n = s.me.sys n
  sysr : (∀ gd x, i ≠ .stealdom gd x) → t.me.sysr = s.me.sysr

theorem scalarFramed_begin (i : Instr) (s : State) : ScalarFramed i s s.begin :=
  ⟨s.thrFrame_modThr _, .refl _ _, fun n _ => s.begin_sys n, fun _ => by rw [State.begin, State.me_modThr, Core.modSlot_sysr]⟩

theorem scalarFramed_modThr {i : Instr} {s : State} {f : Slot → Slot} (h : s.begin.thr.WritesOnly i.uses (f s.begin.thr)) :
    ScalarFramed i s (s.begin.modThr f) := by
  obtain ⟨hframe, -, hsys, hsysr⟩ := scalarFramed_begin i s
  refine ⟨hframe.trans (s.begin.thrFrame_modThr f), by rwa [State.thr_modThr], fun n hn => ?_, fun hi => ?_⟩
  · rw [State.sys_modThr, hsys n hn]
  · rw [State.me_modThr, Core.modSlot_sysr, hsysr hi]

theorem scalarFramed_stealdom (gd : Guard) (src : Src) (s : State) (w : Word) :
    ScalarFramed (.stealdom gd src) s (s.begin.modMe fun c => c.setSys 3 w) := by
  obtain ⟨hframe, hthr, hsys, -⟩ := scalarFramed_begin (.stealdom gd src) s
  refine ⟨hframe.trans (s.begin.thrFrame_setSys 3 w), ?_, fun n hn => ?_, fun hi => absurd rfl (hi gd src)⟩
  · rw [State.thr_modMe]
    exact hthr
  · rw [State.me_modMe, Core.sys_setSys_of_ne _ _ hn, hsys n hn]

theorem scalarFramed {i : Instr} {s t : State} (hi : Claim.scalar i = true) (hb : ∀ r ∈ i.uses.rx ++ i.uses.wx, s.thr.bind r = none)
    (ht : exec i s = .next t) (hc : t.thr.ctl = .seq) : ScalarFramed i s t := by
  cases scalarEffect_of_scalar hi with
  | x d v hd h =>
    obtain rfl | rfl := State.run_cases hb ((h s).symm.trans ht) hc
    · exact scalarFramed_begin i s
    · have hd' : s.begin.thr.bind d = none := (State.begin_bind s d).trans (hb d (List.mem_append_right _ hd))
      rw [State.wx_of_unbound _ hd']
      exact scalarFramed_modThr (Slot.writesOnly_setX _ _ hd)
  | g d v hd h =>
    obtain rfl | rfl := State.run_cases hb ((h s).symm.trans ht) hc
    · exact scalarFramed_begin i s
    · exact scalarFramed_modThr (Slot.writesOnly_setG _ _ hd)
  | nothing h =>
    obtain rfl | rfl := State.run_cases hb ((h s).symm.trans ht) hc <;> exact scalarFramed_begin i s
  | mask v h =>
    obtain rfl | rfl := State.run_cases hb ((h s).symm.trans ht) hc
    · exact scalarFramed_begin i s
    · exact scalarFramed_modThr (Slot.writesOnly_foldl_setG _ _ (fun _ m => m) _)
  | fault c h =>
    obtain rfl | rfl := State.run_cases hb ((h s).symm.trans ht) hc
    · exact scalarFramed_begin i s
    · rw [State.takeFault_ctl] at hc
      cases hc
  | stealdom gd src h =>
    subst h
    obtain rfl | rfl := State.run_cases (k := fun s => s.modMe fun c => c.setSys 3 (s.src src)) hb ht hc
    · exact scalarFramed_begin _ s
    · exact scalarFramed_stealdom gd src s _

/-- Settles O48: a scalar instruction that ends in sequence was skipped or had one of six effects, and each has the frame. -/
theorem scalarFrame : Obligations.ScalarFrame := by
  intro i s t hi hb ht hc
  obtain ⟨⟨houtside, hothers, hme, hslots⟩, ⟨hrest, hx, hg⟩, hsys, hsysr⟩ := scalarFramed hi hb ht hc
  rw [State.begin_thr] at hrest hx hg
  exact ⟨houtside, hothers, hme, hslots, hrest, hx, hg, hsys, hsysr⟩

end Sys2Proof.Machine
end

section
/-! PROOF. Transfers (R45): the fault of an illegal target presupposes that the target's line word was read. -/

namespace Sys2Proof.Machine

/-- A line whose line word has right parity and no BTM bit, but could not be read: its bank answered with cause 0x0D. A core keeps such a line
(`State.gotLine`). -/
def unreadLine : Line := { va := 64, data := 0, bad := 0x0D * 2 ^ 56 }

theorem ones_of_zero (n : Nat) : ones n 0 = 0 := by
  induction n with
  | zero => rfl
  | succ n ih => simp [ones, ih]

@[simp] theorem unreadLine_word : lineWord unreadLine.data = 0 := by
  simp only [lineWord, unreadLine, BitVec.ofNat_eq_ofNat, BitVec.toNat_ofNat, Nat.zero_mod, Nat.zero_div]

theorem unreadLine_parity : lparOk unreadLine.data = true := by simp [lparOk, ones_of_zero]
theorem unreadLine_legal : lineIllegal unreadLine.data = none := by simp [lineIllegal, linePair]
theorem unreadLine_btm (k : Nat) : lineBtm unreadLine.data k = false := by simp [lineBtm]

/-- Slot 0 of core 0 runs, its core holds that line, and x2 names the line's slot 1. -/
def towardsUnreadLine : State :=
  (State.reset.modThr fun t => { t with state := .running, regs := { t.regs with x := t.regs.x.set 2 76 } }).modMe fun c =>
    { c with lines := [unreadLine] }

theorem towardsUnreadLine_ready : towardsUnreadLine.Ready (Instr.jr ⟨0, false⟩ 2).uses := by
  constructor <;> decide

/-- How the executing thread's instruction has ended. -/
def endedBy : Result → Option Ctl
  | .next t => some t.thr.ctl
  | _ => none

theorem endedBy_takeFault (s : State) (c : Cause) : endedBy (.next (s.takeFault c)) = some (.fault c) :=
  congrArg some (State.takeFault_ctl s c)

/-- The transfer commits: its target's line cannot be read, so the thread faults at the target instead (R45). -/
theorem jr_goes_to_unreadLine : endedBy (exec (.jr ⟨0, false⟩ 2) towardsUnreadLine) = some (.jump 76) := by decide

/-- Refutes O3: its clause of fault 0x03 asks for a legal line word of right parity without the BTM bit, but not that the line word could be
read. JR to a slot of such a line goes there, and the fault is the target's (R45). -/
theorem not_transfers : ¬ Obligations.Transfers := by
  rintro ⟨-, -, -, -, -, hfault⟩
  have hline : ∃ x, towardsUnreadLine.me.line? ((Claim.x towardsUnreadLine 2).setWidth 48) = some x ∧ lparOk x.data = true ∧
      lineIllegal x.data = none ∧ lineBtm x.data (slotIdx ((Claim.x towardsUnreadLine 2).setWidth 48)) = false :=
    ⟨unreadLine, rfl, unreadLine_parity, unreadLine_legal, unreadLine_btm _⟩
  have hexec := (hfault ⟨0, false⟩ 0 2 towardsUnreadLine (by decide) (.inr hline)).1 towardsUnreadLine_ready
  have hended := jr_goes_to_unreadLine
  rw [hexec, endedBy_takeFault] at hended
  cases hended

end Sys2Proof.Machine
end

section
/-! PROOF. The vector engine (R175, R185): a bitwise command refuses scaled operands. -/

namespace Sys2Proof.Machine

/-- The tag of signed binary8 with P = 4 and an E-scale: valid, and scaled (R145, R147). -/
def scaledTag : Tag := 0x0248

/-- VAND v0, v1, v2 of slot 0, its guard true, not yet started. -/
def vandCmd : VCmd :=
  ⟨0, 0, 0, .known true, .vand ⟨0, false⟩ 0 1 (.v 2), [], 0, 0, false, [], [], false, none, false, false, none⟩

/-- The command at the head of core 0's vector queue; v1 and v2 of its slot hold scaled elements. -/
def vandOfScaled : State :=
  (State.reset.modSlot 0 0 fun t => { t with regs := { t.regs with vtag := (t.regs.vtag.set 1 scaledTag).set 2 scaledTag } }).modCore 0 fun c =>
    { c with veng := { c.veng with q := [vandCmd] } }

theorem vandOfScaled_head : Claim.VecHead vandOfScaled 0 vandCmd [] := ⟨rfl, rfl, rfl, rfl, fun _ => rfl⟩

/-- Whether the command at the head of core 0's vector queue has faulted, in the state that a step leads to. -/
def headFaulted : Result → Bool
  | .next t => (t.core 0).veng.q.any VCmd.flt
  | _ => false

theorem vandOfScaled_faults : headFaulted (exec (.vectorCommandStart 0) vandOfScaled) = true := by decide

/-- Refutes O33: the clause of VAND, VOR and VXOR asks that the tag be valid and name no bound set, but not that it be unscaled. A VAND
that meets scaled binary8 operands faults with 0x23, reason 3 (R185, Table 7.2), and has no result. -/
theorem not_vectorEngine : ¬ Obligations.VectorEngine := by
  intro h
  obtain ⟨-, -, -, hlogic, -⟩ := h 0 vandCmd [] vandOfScaled
  have hexec := (hlogic ⟨0, false⟩ 0 1 2 scaledTag vandOfScaled_head rfl rfl (by decide) (by decide) (by decide) (by decide)).1 rfl
  have hresult : headFaulted (exec (.vectorCommandStart 0) vandOfScaled) = false := by
    rw [hexec]
    rfl
  exact Bool.false_ne_true (hresult.symm.trans vandOfScaled_faults)

end Sys2Proof.Machine
end
